-- ==== Sys2Proof/Word.lean ====
section
/-! DEFINITION. The words of the Sulor S4: registers and instruction words are 32 bits (R231, R239), bytes are 8 bits (R8), a
register field of an instruction is 7 bits (R240) and a program counter is a 52-bit address (R149). -/

namespace Sys2Proof

/-- A 32-bit register or instruction word. -/
abbrev Word := BitVec 32

/-- A byte of memory (R8). -/
abbrev Byte := BitVec 8

/-- A 7-bit register field, v0 to v127 (R240). -/
abbrev RegNo := BitVec 7

/-- A 52-bit virtual address (R149). -/
abbrev VAddr := BitVec 52

end Sys2Proof
end

