-- ==== Sys2Proof/Config.lean ====
section
/-! DEFINITION. The free values of the model: what the spec leaves open. Each is an opaque constant, so no statement can rest on its
value. -/

namespace Sys2Proof.Config

/-- The k-th free word of a run: a value the spec does not fix, drawn in the order the counter State.freeCount gives. -/
opaque freeWord : Nat → Word

/-- The k-th free byte of a run. -/
opaque freeByte : Nat → Byte

/-- The S4's own approximation function of R315: for form `k` (0 FRCP, 1 FRSQ, 3 FEXP2, 4 FLOG2, 5 FSIN, 6 FCOS) and a source
code. The model uses a value of it only within the bound of R313. -/
opaque approx : Nat → Word → Word

/-- What a read of host or peer memory returns in a cycle: the outside agent's byte at a bus address. -/
opaque outside : Nat → Nat → Byte

/-- The CODE with which a peer device answers an access to an address in a cycle, where it faults there (R434). -/
opaque peerError : Nat → Nat → Option Nat

/-- The count, operation and type with which a member device issued the k-th collective of a group, by group, k and device (R356, R428). -/
opaque collMember : Nat → Nat → Nat → Nat × Nat × Nat

/-- A sensor reading in a cycle: 0 module input power, 1 the coolant word (R389, R406). -/
opaque sensor : Nat → Nat → Word

/-- The base controller's choice among the healthy sites not yet taken, for a logical column, at a reset with these worn sites (R17). -/
opaque site : List Nat → Nat → Nat

/-- The configuration word of a device with too few healthy parts for any legal configuration (R472): sites, slices and stacks not worn. -/
opaque belowConfig : Nat → Nat → Nat → Word

/-- The spare that takes a worn part's place (R470): kind, and the parts of the kind that are worn. -/
opaque spare : Nat → List Nat → Nat

/-- The fuses (R382, R386, R403 to R405): bytes 0 to 56 the public key, 64 to 75 the serial number, 128 to 191 the hash of the firmware-signing
key, 320 to 415 the words PWGT_0 to PWGT_23, 416 to 419 GBAND of the regulators. The spec gives none of these values. -/
opaque fuse : Nat → Byte

/-- The device's attestation signature over a report (R404): Ed448, which the spec names and does not define. -/
opaque ed448 : List Byte → List Byte

/-- What stands in the image of a macro loaded by one MLDB `.rc` after its tile: the bits of its recombined operands, which are functions of the tiles, and
whose layout the spec does not give (R128). -/
opaque recombined : List (Nat × Byte) → Nat → Byte

/-- The three firmware images that a reset finds (R403): body, signature, and the public key they are signed with. The spec gives none of them. -/
opaque firmware : Nat → List Byte
opaque firmwareSig : Nat → List Byte
opaque firmwareKey : List Byte

/-- Whether a signature of a body verifies against a public key: Ed448 (R403), which the spec names and does not define. -/
opaque ed448Verify : List Byte → List Byte → List Byte → Bool

/-- The leakage energy of a site over an estimator period, in 2^−8 pJ: physical column site, layer, temperature (R381). The spec gives no value. -/
opaque leakage : Nat → Nat → Nat → Nat

/-- How many Page Requests beyond 32 the host allocates to a function (R396, R443). -/
opaque pageAllocation : Nat → Nat

/-- SHAKE256 (R404), which the spec names and does not define. -/
opaque shake256 : List Byte → Nat → List Byte

end Sys2Proof.Config
end

