-- ==== Sys2Proof/Syntax.lean ====
section
/-! DEFINITION. The syntax of the Sulor S4: one constructor of Instr for each row of the opcode table: the lane, uniform and
control words (R247 to R251), the M-words of the matrix stream (R254), and the steps of the machine's other agents, which have
no encoding. -/

namespace Sys2Proof

/-- The prefix fields of an instruction word (R241, R242). A word without a prefix carries the default of every field. -/
structure Mods where
  /-- third source register, or the second type in `c<4:0>` -/
  c : RegNo
  /-- operand type code (R243) -/
  ty : BitVec 5
  /-- instruction-specific modifier bits -/
  xm : BitVec 4
  /-- `.sat` -/
  sat : Bool
  /-- rounding mode (R209) -/
  rm : BitVec 2
  /-- guard register, 127 when unguarded (R244) -/
  g : RegNo
  /-- guard negate -/
  gn : Bool
  deriving DecidableEq, Repr

/-- What an inbound peer request asks for (R398, R399). -/
inductive InboundKind where
  | read (size : Nat)
  | write
  | atomic (aop : Nat) (ty : Nat)
  | prm
  deriving DecidableEq, Repr

/-- An inbound peer request (R398, R399): what it asks for, how many devices have forwarded it (R166), the device it is for, where it only passes this one on
its path, and the scope of its access (R166). -/
structure InboundReq where
  kind : InboundKind
  hops : Nat
  dest : Option Nat := none
  scope : Nat := 3
  deriving DecidableEq, Repr

/-- An inbound access of the host (R395): whether it writes, whether it carries Relaxed Ordering (R199), and whether it is an AtomicOp. -/
structure HostAccess where
  write : Bool
  relaxed : Bool
  atomic : Bool := false
  deriving DecidableEq, Repr

/-- What the answer to a Translation Request says (R165): its status, the size of the range it grants, as a power of two, the translated address of the range,
and the cache whose request it answers: a column's, 64 and the SRC code of an engine of the base die, or 127 of the other agents there. -/
structure AtsResult where
  status : Nat
  log2size : Nat
  addr : Nat := 0
  cache : Nat := 127
  deriving DecidableEq, Repr

/-- The device a peer move is offered to, and whether it takes the page: its own PMEN is set and its free ring holds a page (R172). -/
structure PeerOffer where
  dev : Nat
  ready : Bool
  deriving DecidableEq, Repr

/-- A line of a page that moves between devices (R173): the other device, the number of the line in the page, and what the owner sends with it: the words w0
and w3 of the new leaf, and whether the line is poisoned (R446). -/
structure PeerLeaf where
  dev : Nat
  w0 : Word
  w3 : Word
  line : Nat := 0
  poison : Bool := false
  deriving DecidableEq, Repr

/-- A unit that an uncorrectable error poisons (R448, R458). -/
inductive PoisonUnit where
  /-- a line, the code PBKH of the page it belongs to, which with its place gives its bank (R158), and whether the error lies in HBM4E and not in the base
  cache -/
  | line (line bkh : Nat) (hbm : Bool)
  | granule (col slot granule : Nat)
  | tile (col slot ts : Nat)
  | register (col slot thread reg : Nat)
  | accumulator (col slot acc : Nat)
  | macro_ (col slot index : Nat)
  deriving DecidableEq, Repr

/-- A row of a bank, and the activations it has had since the controller last told of it (R147). -/
structure RowActs where
  row : Nat
  acts : Nat
  deriving DecidableEq, Repr

/-- One row of the opcode table each (spec/opcode_table.json). -/
inductive Instr where
  /-- IADD (R287): Adds two registers, wrapping or saturating in the named type. -/
  | iadd (m : Mods) (u : Bool) (d : RegNo) (a : RegNo) (b : RegNo)
  /-- IADDC (R288): Adds with carry in and writes the sum and carry out to a pair. -/
  | iaddc (m : Mods) (u : Bool) (d : RegNo) (a : RegNo) (b : RegNo)
  /-- ISUB (R287): Subtracts two registers in the named type. -/
  | isub (m : Mods) (u : Bool) (d : RegNo) (a : RegNo) (b : RegNo)
  /-- IMUL (R289): Multiplies two registers and fits the low result. -/
  | imul (m : Mods) (u : Bool) (d : RegNo) (a : RegNo) (b : RegNo)
  /-- IMULH (R289): Writes the high 32 bits of the 64-bit product. -/
  | imulh (m : Mods) (u : Bool) (d : RegNo) (a : RegNo) (b : RegNo)
  /-- IMAD (R289): Multiplies and adds a third source with one fit. -/
  | imad (m : Mods) (u : Bool) (d : RegNo) (a : RegNo) (b : RegNo)
  /-- IMADW (R289): Multiplies and adds into a 64-bit pair. -/
  | imadw (m : Mods) (u : Bool) (d : RegNo) (a : RegNo) (b : RegNo)
  /-- ISAD (R290): Adds an absolute difference to a third source. -/
  | isad (m : Mods) (u : Bool) (d : RegNo) (a : RegNo) (b : RegNo)
  /-- IMIN (R290): Writes the smaller of two integers. -/
  | imin (m : Mods) (u : Bool) (d : RegNo) (a : RegNo) (b : RegNo)
  /-- IMAX (R290): Writes the larger of two integers. -/
  | imax (m : Mods) (u : Bool) (d : RegNo) (a : RegNo) (b : RegNo)
  /-- IABS (R290): Writes the absolute value of an S32. -/
  | iabs (m : Mods) (u : Bool) (d : RegNo) (a : RegNo)
  /-- INEG (R290): Writes the negation of an S32. -/
  | ineg (m : Mods) (u : Bool) (d : RegNo) (a : RegNo)
  /-- SHL (R291): Shifts left by a clamped register count. -/
  | shl (m : Mods) (u : Bool) (d : RegNo) (a : RegNo) (b : RegNo)
  /-- SHR (R291): Shifts right logically by a clamped register count. -/
  | shr (m : Mods) (u : Bool) (d : RegNo) (a : RegNo) (b : RegNo)
  /-- SAR (R291): Shifts right arithmetically by a clamped register count. -/
  | sar (m : Mods) (u : Bool) (d : RegNo) (a : RegNo) (b : RegNo)
  /-- FSL (R292): Funnel-shifts the pair a:b left by a count from c. -/
  | fsl (m : Mods) (u : Bool) (d : RegNo) (a : RegNo) (b : RegNo)
  /-- FSR (R292): Funnel-shifts the pair a:b right by a count from c. -/
  | fsr (m : Mods) (u : Bool) (d : RegNo) (a : RegNo) (b : RegNo)
  /-- BFN3 (R294): Computes a bitwise function of three sources from an 8-bit table. -/
  | bfn3 (m : Mods) (u : Bool) (d : RegNo) (a : RegNo) (b : RegNo)
  /-- AND (R293): Bitwise and of two registers. -/
  | and (m : Mods) (u : Bool) (d : RegNo) (a : RegNo) (b : RegNo)
  /-- OR (R293): Bitwise or of two registers. -/
  | or (m : Mods) (u : Bool) (d : RegNo) (a : RegNo) (b : RegNo)
  /-- XOR (R293): Bitwise exclusive or of two registers. -/
  | xor (m : Mods) (u : Bool) (d : RegNo) (a : RegNo) (b : RegNo)
  /-- BFX (R296): Extracts a bit field, sign- or zero-extended. -/
  | bfx (m : Mods) (u : Bool) (d : RegNo) (a : RegNo) (b : RegNo)
  /-- BFI (R296): Inserts a bit field into a third source. -/
  | bfi (m : Mods) (u : Bool) (d : RegNo) (a : RegNo) (b : RegNo)
  /-- BYSEL (R297): Assembles bytes of two registers under a control word. -/
  | bysel (m : Mods) (u : Bool) (d : RegNo) (a : RegNo) (b : RegNo)
  /-- ISET (R298): Writes 1 when an integer condition holds, else 0. -/
  | iset (m : Mods) (u : Bool) (d : RegNo) (a : RegNo) (b : RegNo)
  /-- ISEL (R298): Selects a or b by a third source. -/
  | isel (m : Mods) (u : Bool) (d : RegNo) (a : RegNo) (b : RegNo)
  /-- MOV (R299): Copies a register, pair or quad. -/
  | mov (m : Mods) (u : Bool) (d : RegNo) (a : RegNo)
  /-- LEA (R300): Adds a scaled 32-bit offset to a 64-bit pair. -/
  | lea (m : Mods) (u : Bool) (d : RegNo) (a : RegNo) (b : RegNo)
  /-- LEAW (R300): Adds a scaled 64-bit pair to a 64-bit pair. -/
  | leaw (m : Mods) (u : Bool) (d : RegNo) (a : RegNo) (b : RegNo)
  /-- IDOT4 (R301): Adds a four-byte dot product to a third source. -/
  | idot4 (m : Mods) (u : Bool) (d : RegNo) (a : RegNo) (b : RegNo)
  /-- IDOT2 (R301): Adds a halfword-by-byte dot product to a third source. -/
  | idot2 (m : Mods) (u : Bool) (d : RegNo) (a : RegNo) (b : RegNo)
  /-- LXCH (R326): Exchanges values between lanes of a group segment. -/
  | lxch (m : Mods) (d : RegNo) (a : RegNo) (b : RegNo)
  /-- FADD (R306): Adds two F32 values with one rounding. -/
  | fadd (m : Mods) (u : Bool) (d : RegNo) (a : RegNo) (b : RegNo)
  /-- FSUB (R306): Subtracts two F32 values with one rounding. -/
  | fsub (m : Mods) (u : Bool) (d : RegNo) (a : RegNo) (b : RegNo)
  /-- FMUL (R306): Multiplies two F32 values with one rounding. -/
  | fmul (m : Mods) (u : Bool) (d : RegNo) (a : RegNo) (b : RegNo)
  /-- FFMA (R306): Fused multiply-add in F32 with one rounding. -/
  | ffma (m : Mods) (u : Bool) (d : RegNo) (a : RegNo) (b : RegNo)
  /-- FMIN (R307): Writes the minimumNumber of two F32 values. -/
  | fmin (m : Mods) (u : Bool) (d : RegNo) (a : RegNo) (b : RegNo)
  /-- FMAX (R307): Writes the maximumNumber of two F32 values. -/
  | fmax (m : Mods) (u : Bool) (d : RegNo) (a : RegNo) (b : RegNo)
  /-- FSET (R309): Writes 1 when an F32 comparison holds, else 0. -/
  | fset (m : Mods) (u : Bool) (d : RegNo) (a : RegNo) (b : RegNo)
  /-- FSEL (R309): Selects a or b by comparing c with +0. -/
  | fsel (m : Mods) (u : Bool) (d : RegNo) (a : RegNo) (b : RegNo)
  /-- FRND (R310): Rounds an F32 to an integral value. -/
  | frnd (m : Mods) (u : Bool) (d : RegNo) (a : RegNo)
  /-- FFRC (R310): Writes the fractional part of an F32. -/
  | ffrc (m : Mods) (u : Bool) (d : RegNo) (a : RegNo)
  /-- FSCL (R310): Scales an F32 by a power of two with one rounding. -/
  | fscl (m : Mods) (u : Bool) (d : RegNo) (a : RegNo) (b : RegNo)
  /-- FEXT (R311): Extracts exponent or mantissa, or sets the sign of an F32. -/
  | fext (m : Mods) (u : Bool) (d : RegNo) (a : RegNo) (b : RegNo)
  /-- FRCP (R313): Approximates the reciprocal of an F32. -/
  | frcp (m : Mods) (u : Bool) (d : RegNo) (a : RegNo)
  /-- FRSQ (R313): Approximates the reciprocal square root of an F32. -/
  | frsq (m : Mods) (u : Bool) (d : RegNo) (a : RegNo)
  /-- FSQT (R313): Computes the correctly rounded square root of an F32. -/
  | fsqt (m : Mods) (u : Bool) (d : RegNo) (a : RegNo)
  /-- FEXP2 (R313): Approximates 2 to the power of an F32. -/
  | fexp2 (m : Mods) (u : Bool) (d : RegNo) (a : RegNo)
  /-- FLOG2 (R313): Approximates the base-2 logarithm of an F32. -/
  | flog2 (m : Mods) (u : Bool) (d : RegNo) (a : RegNo)
  /-- FSIN (R313): Approximates the sine of an F32. -/
  | fsin (m : Mods) (u : Bool) (d : RegNo) (a : RegNo)
  /-- FCOS (R313): Approximates the cosine of an F32. -/
  | fcos (m : Mods) (u : Bool) (d : RegNo) (a : RegNo)
  /-- PKADD (R316): Adds packed F16 or BF16 halves. -/
  | pkadd (m : Mods) (u : Bool) (d : RegNo) (a : RegNo) (b : RegNo)
  /-- PKSUB (R316): Subtracts packed F16 or BF16 halves. -/
  | pksub (m : Mods) (u : Bool) (d : RegNo) (a : RegNo) (b : RegNo)
  /-- PKMUL (R316): Multiplies packed F16 or BF16 halves. -/
  | pkmul (m : Mods) (u : Bool) (d : RegNo) (a : RegNo) (b : RegNo)
  /-- PKFMA (R316): Fused multiply-add on packed halves. -/
  | pkfma (m : Mods) (u : Bool) (d : RegNo) (a : RegNo) (b : RegNo)
  /-- PKMIN (R316): Minimum of packed halves. -/
  | pkmin (m : Mods) (u : Bool) (d : RegNo) (a : RegNo) (b : RegNo)
  /-- PKMAX (R316): Maximum of packed halves. -/
  | pkmax (m : Mods) (u : Bool) (d : RegNo) (a : RegNo) (b : RegNo)
  /-- PKCMP (R316): Compares packed halves into 16-bit masks. -/
  | pkcmp (m : Mods) (u : Bool) (d : RegNo) (a : RegNo) (b : RegNo)
  /-- CVT (R317): Converts one scalar between numeric types. -/
  | cvt (m : Mods) (u : Bool) (d : RegNo) (a : RegNo)
  /-- CVPK (R319): Packs or unpacks narrow elements to or from F32 registers. -/
  | cvpk (m : Mods) (u : Bool) (d : RegNo) (a : RegNo)
  /-- CVSC (R321): Extracts or applies an X8 block scale. -/
  | cvsc (m : Mods) (u : Bool) (d : RegNo) (a : RegNo) (b : RegNo)
  /-- IADDI (R287): Adds a sign-extended 9-bit immediate. -/
  | iaddi (m : Mods) (u : Bool) (d : RegNo) (a : RegNo) (imm : BitVec 9)
  /-- SHLI (R291): Shifts left by an immediate count. -/
  | shli (m : Mods) (u : Bool) (d : RegNo) (a : RegNo) (imm : BitVec 5)
  /-- SHRI (R291): Shifts right logically by an immediate count. -/
  | shri (m : Mods) (u : Bool) (d : RegNo) (a : RegNo) (imm : BitVec 5)
  /-- SARI (R291): Shifts right arithmetically by an immediate count. -/
  | sari (m : Mods) (u : Bool) (d : RegNo) (a : RegNo) (imm : BitVec 5)
  /-- ANDI (R293): Bitwise and with a sign-extended immediate. -/
  | andi (m : Mods) (u : Bool) (d : RegNo) (a : RegNo) (imm : BitVec 9)
  /-- ORI (R293): Bitwise or with a sign-extended immediate. -/
  | ori (m : Mods) (u : Bool) (d : RegNo) (a : RegNo) (imm : BitVec 9)
  /-- XORI (R293): Bitwise exclusive or with a sign-extended immediate. -/
  | xori (m : Mods) (u : Bool) (d : RegNo) (a : RegNo) (imm : BitVec 9)
  /-- POPC (R295): Counts the one bits of a register. -/
  | popc (m : Mods) (u : Bool) (d : RegNo) (a : RegNo)
  /-- CLZ (R295): Counts leading zero bits. -/
  | clz (m : Mods) (u : Bool) (d : RegNo) (a : RegNo)
  /-- CTZ (R295): Counts trailing zero bits. -/
  | ctz (m : Mods) (u : Bool) (d : RegNo) (a : RegNo)
  /-- BREV (R295): Reverses the bits of a register. -/
  | brev (m : Mods) (u : Bool) (d : RegNo) (a : RegNo)
  /-- FCLS (R312): Classifies an F32 as a one-hot word or a mask test. -/
  | fcls (m : Mods) (u : Bool) (d : RegNo) (a : RegNo) (imm : BitVec 9)
  /-- VOTE (R327): Group vote over the active lanes. -/
  | vote (m : Mods) (d : RegNo) (a : RegNo) (mode : BitVec 2)
  /-- BALL (R327): Group ballot mask over the active lanes. -/
  | ball (m : Mods) (d : RegNo) (a : RegNo) (mode : BitVec 2)
  /-- GRED (R328): Group reduction over the active lanes in lane order. -/
  | gred (m : Mods) (d : RegNo) (a : RegNo) (excl : Bool) (op : BitVec 3)
  /-- GSCN (R328): Group inclusive or exclusive scan in lane order. -/
  | gscn (m : Mods) (d : RegNo) (a : RegNo) (excl : Bool) (op : BitVec 3)
  /-- MOVI (R299): Loads a 16-bit immediate, zero- or sign-extended. -/
  | movi (m : Mods) (u : Bool) (d : RegNo) (imm : BitVec 16)
  /-- MOVH (R299): Writes a 16-bit immediate into the high half. -/
  | movh (m : Mods) (u : Bool) (d : RegNo) (imm : BitVec 16)
  /-- LD (R330): Loads from global memory, delivering through the pending-write list. -/
  | ld (m : Mods) (u : Bool) (fs : Bool) (d : RegNo) (a : RegNo) (off : BitVec 7)
  /-- ST (R330): Stores to global memory. -/
  | st (m : Mods) (d : RegNo) (a : RegNo) (off : BitVec 7)
  /-- LDS (R331): Loads from the team's scratchpad. -/
  | lds (m : Mods) (u : Bool) (d : RegNo) (a : RegNo) (off : BitVec 7)
  /-- STS (R331): Stores to the team's scratchpad. -/
  | sts (m : Mods) (d : RegNo) (a : RegNo) (off : BitVec 7)
  /-- LDC (R332): Reads a cluster member's scratchpad through the window. -/
  | ldc (m : Mods) (u : Bool) (fs : Bool) (d : RegNo) (a : RegNo) (off : BitVec 7)
  /-- PRF (R330): Prefetches a line into the column cache. -/
  | prf (m : Mods) (a : RegNo) (off : BitVec 7)
  /-- FENCE (R336): Performs an acquire, release or full fence at a scope. -/
  | fence (m : Mods) (kind : BitVec 2) (scope : BitVec 2)
  /-- PRM (R337): Promotes a team-scope release of a variable's owner to device scope. -/
  | prm (m : Mods) (a : RegNo) (off : BitVec 7)
  /-- ATOM (R338): Global atomic with return, aggregated per bundle. -/
  | atom (m : Mods) (fs : Bool) (d : RegNo) (a : RegNo) (b : RegNo)
  /-- RED (R338): Global reduction without return. -/
  | red (m : Mods) (a : RegNo) (b : RegNo)
  /-- ATOMS (R338): Scratchpad atomic with fixed-latency return. -/
  | atoms (m : Mods) (d : RegNo) (a : RegNo) (b : RegNo)
  /-- CPY (R346): Starts a column copy engine byte copy between spaces. -/
  | cpy (m : Mods) (fs : Bool) (d : RegNo) (a : RegNo) (b : RegNo)
  /-- CPYT (R352): Starts a tensor-tile copy to or from tile slots with conversion. -/
  | cpyt (m : Mods) (fs : Bool) (d : RegNo) (a : RegNo) (b : RegNo)
  /-- GATH (R348): Starts an indexed gather from global memory. -/
  | gath (m : Mods) (fs : Bool) (d : RegNo) (a : RegNo) (b : RegNo)
  /-- SCAT (R348): Starts an indexed scatter to global memory. -/
  | scat (m : Mods) (fs : Bool) (d : RegNo) (a : RegNo) (b : RegNo)
  /-- TDSET (R351): Starts writing a tensor id entry from a record. -/
  | tdset (m : Mods) (fs : Bool) (a : RegNo) (b : RegNo)
  /-- TDRD (R351): Starts reading a tensor id entry to memory, optionally clearing counts. -/
  | tdrd (m : Mods) (fs : Bool) (a : RegNo) (b : RegNo)
  /-- TTAG (R354): Queues a tag setting for a tile slot. -/
  | ttag (m : Mods) (a : RegNo) (b : RegNo)
  /-- JNEXT (R355): Makes one dealing request per bundle. -/
  | jnext (m : Mods) (fs : Bool) (a : RegNo)
  /-- COLL (R356): Contributes a buffer to a collective reduction across devices. -/
  | coll (m : Mods) (fs : Bool) (a : RegNo) (b : RegNo)
  /-- PLMV (R357): Asks a bulk engine to re-stripe a mapped page. -/
  | plmv (m : Mods) (fs : Bool) (a : RegNo) (b : RegNo)
  /-- MXACQ (R358): Tries to acquire the core's matrix engine. -/
  | mxacq (m : Mods) (d : RegNo)
  /-- MXREL (R359): Releases the matrix engine, optionally as a baton. -/
  | mxrel (m : Mods) (a : RegNo)
  /-- MXGO (R360): Starts the matrix stream or reads its status. -/
  | mxgo (m : Mods) (d : RegNo) (a : RegNo) (b : RegNo)
  /-- BRL (R267): Per-thread conditional branch. -/
  | brl (m : Mods) (a : RegNo) (disp : BitVec 16)
  /-- JMP (R267): Jumps to the address in a pair. -/
  | jmp (m : Mods) (a : RegNo)
  /-- CALL_DIRECT (R267): Calls a relative target and writes the link pair. -/
  | callDirect (m : Mods) (a : RegNo) (disp : BitVec 16)
  /-- CALL_REGISTER (R267): Calls the address in a pair and writes the link pair. -/
  | callRegister (m : Mods) (a : RegNo)
  /-- RET (R267): Returns to the address in a pair. -/
  | ret (m : Mods) (a : RegNo)
  /-- UADD (R284): Once-per-bundle 32-bit add. -/
  | uadd (m : Mods) (d : RegNo) (a : RegNo) (b : RegNo)
  /-- USUB (R284): Once-per-bundle 32-bit subtract. -/
  | usub (m : Mods) (d : RegNo) (a : RegNo) (b : RegNo)
  /-- UMOV (R284): Once-per-bundle move. -/
  | umov (m : Mods) (d : RegNo) (a : RegNo)
  /-- UAND (R284): Once-per-bundle bitwise and. -/
  | uand (m : Mods) (d : RegNo) (a : RegNo) (b : RegNo)
  /-- UOR (R284): Once-per-bundle bitwise or. -/
  | uor (m : Mods) (d : RegNo) (a : RegNo) (b : RegNo)
  /-- UXOR (R284): Once-per-bundle exclusive or. -/
  | uxor (m : Mods) (d : RegNo) (a : RegNo) (b : RegNo)
  /-- USHL (R284): Once-per-bundle shift left modulo 32. -/
  | ushl (m : Mods) (d : RegNo) (a : RegNo) (b : RegNo)
  /-- USHR (R284): Once-per-bundle logical shift right modulo 32. -/
  | ushr (m : Mods) (d : RegNo) (a : RegNo) (b : RegNo)
  /-- UCMP (R284): Once-per-bundle integer comparison. -/
  | ucmp (m : Mods) (d : RegNo) (a : RegNo) (b : RegNo)
  /-- USEL (R284): Once-per-bundle select. -/
  | usel (m : Mods) (d : RegNo) (a : RegNo) (b : RegNo)
  /-- UMUL (R284): Once-per-bundle multiply modulo 2^32. -/
  | umul (m : Mods) (d : RegNo) (a : RegNo) (b : RegNo)
  /-- ULEA (R284): Once-per-bundle scaled 64-bit address add. -/
  | ulea (m : Mods) (d : RegNo) (a : RegNo) (b : RegNo)
  /-- UMOVI (R284): Once-per-bundle 16-bit immediate load. -/
  | umovi (m : Mods) (d : RegNo) (imm : BitVec 16)
  /-- NOP (R272): Takes an issue slot with no effect. -/
  | nop (m : Mods)
  /-- YIELD (R272): Gives the current clause the effect of a yield header. -/
  | yield (m : Mods)
  /-- EXIT (R269): Ends the thread at the end of its clause. -/
  | exit (m : Mods)
  /-- RETS (R270): Waits to hand the team's slot to a successor card. -/
  | rets (m : Mods) (a : RegNo) (b : RegNo)
  /-- LAUNCH (R271): Releases, then copies a job card into a queue intake. -/
  | launch (m : Mods) (d : RegNo) (a : RegNo) (b : RegNo)
  /-- GBAR (R276): Releases and arrives at the grid barrier, then waits. -/
  | gbar (m : Mods)
  /-- TRAP (R281): Raises a software trap carrying a code. -/
  | trap (m : Mods) (a : RegNo)
  /-- EVPOST (R282): Posts a software event record to the privileged event queue. -/
  | evpost (m : Mods) (d : RegNo) (a : RegNo)
  /-- FRZ (R283): Requests that a named master be frozen. -/
  | frz (m : Mods) (d : RegNo) (a : RegNo)
  /-- SLEEP (R273): Waits a count of DT ticks. -/
  | sleep (m : Mods) (a : RegNo)
  /-- RZINIT (R274): Sets the expected arrivals of an uninitialised rendezvous point. -/
  | rzinit (m : Mods) (a : RegNo) (pt : BitVec 5)
  /-- RZARV (R275): Arrives at a rendezvous point and returns the phase token. -/
  | rzarv (m : Mods) (d : RegNo) (pt : BitVec 5)
  /-- RZWAIT (R275): Waits until a rendezvous phase differs from a token. -/
  | rzwait (m : Mods) (a : RegNo) (pt : BitVec 5)
  /-- RZARW (R275): Arrives and waits for the phase to complete. -/
  | rzarw (m : Mods) (d : RegNo) (pt : BitVec 5)
  /-- RZCARV (R275): Arrives at a point of a cluster member. -/
  | rzcarv (m : Mods) (a : RegNo) (pt : BitVec 5)
  /-- RZTEST (R275): Reads a point's phase and whether it differs from a token. -/
  | rztest (m : Mods) (d : RegNo) (a : RegNo) (pt : BitVec 5)
  /-- VGROW (R277): Joins the group's register growth request and waits. -/
  | vgrow (m : Mods) (d : RegNo) (cnt : BitVec 9)
  /-- VSHRK (R278): Shrinks the group's register count at once. -/
  | vshrk (m : Mods) (d : RegNo) (cnt : BitVec 9)
  /-- SRD (R279): Reads a special value. -/
  | srd (m : Mods) (d : RegNo) (sel : BitVec 9)
  /-- SWR (R279): Writes a writable special value. -/
  | swr (m : Mods) (a : RegNo) (sel : BitVec 9)
  /-- CSRRD (R280): Reads a device register of the function, then acquires. -/
  | csrrd (m : Mods) (d : RegNo) (a : RegNo) (k : BitVec 9)
  /-- CSRWR (R280): Releases, then writes a device register of the function. -/
  | csrwr (m : Mods) (d : RegNo) (a : RegNo) (k : BitVec 9)
  /-- BRA (R267): Unconditional relative branch. -/
  | bra (m : Mods) (disp : BitVec 16)
  /-- BRC (R267): Once-per-bundle conditional branch. -/
  | brc (m : Mods) (a : RegNo) (disp : BitVec 16)
  /-- MNOP (R366): Matrix-stream word with no effect. -/
  | mnop
  /-- MEND (R366): Ends the matrix stream. -/
  | mend
  /-- MLDA (R363): Reads a tile slot into the row buffer. -/
  | mlda (ts : BitVec 8) (cl : Bool) (ty : BitVec 4) (xi : Bool) (mx : BitVec 4)
  /-- MLDB (R363): Loads a tile slot into B macros, optionally recombined. -/
  | mldb (ts : BitVec 8) (sub : BitVec 4) (cl : Bool) (rc : Bool) (ty : BitVec 4) (xi : Bool) (mx : BitVec 4)
  /-- MMA (R364): Multiply-accumulates into accumulators in classical or recombined order. -/
  | mma (acc : BitVec 6) (ts : BitVec 8) (fus : BitVec 2) (ord : BitVec 2) (ty : BitVec 4) (sat : Bool) (xi : Bool)
  /-- MZRO (R365): Zeroes a run of accumulators. -/
  | mzro (acc : BitVec 6) (cnt : BitVec 6)
  /-- MSTC (R365): Stores an accumulator to a tile slot with conversion, counting for audit. -/
  | mstc (acc : BitVec 6) (ts : BitVec 8) (ty : BitVec 4) (sc : Bool) (xi : Bool) (mx : BitVec 4)
  /-- MADC (R365): Adds one accumulator into another. -/
  | madc (acc : BitVec 6) (src : BitVec 6) (sat : Bool)
  /-- MRZA (R366): Stream arrival at a rendezvous point. -/
  | mrza (z : BitVec 5)
  /-- MRZW (R366): Stream arrival that then waits for the phase. -/
  | mrzw (z : BitVec 5)
  /-- MWTG (R366): Stream waits for a tile tag value. -/
  | mwtg (ts : BitVec 8) (tag : BitVec 2) (xi : Bool) (mx : BitVec 4)
  /-- MSET (R366): Sets a stream register to an immediate. -/
  | mset (mk : BitVec 4) (imm : BitVec 22)
  /-- MADD (R366): Adds an immediate to a stream register. -/
  | madd (mk : BitVec 4) (ms : BitVec 4) (imm : BitVec 18)
  /-- MLOP (R366): Decrements a stream register and loops while non-zero. -/
  | mlop (mk : BitVec 4) (disp : BitVec 22)
  /-- MAUD (R367): Assigns outputs to a tensor id and selects the next tile for audit. -/
  | maud (td : BitVec 8)
  /-- SLEEP_EXPIRY (R273): A sleeping thread's DT count expires and it resumes. -/
  | sleepExpiry (col slot thread : Nat)
  /-- LAYER_EVACUATION_COMPLETE (R388): When every column has evacuated, the layer is gated and an event posted. -/
  | layerEvacuationComplete (layer : Nat)
  /-- COUNTED_ACQUIRE_GRANT (R476): A counted acquire is granted when no inbound write is pending. -/
  | countedAcquireGrant (col slot thread : Nat)
  /-- LAYER_WAKE_COMPLETE (R388): After the rail ramp the layer reopens to placement. -/
  | layerWakeComplete (layer : Nat)
  /-- PARKING_PLACING_COMPLETE (R47): A parking or placing transfer of a team's state over the stake bus ends, freeing the core or letting the placed team
  issue. -/
  | parkingPlacingComplete (col slot : Nat)
  /-- FREQUENCY_CHANGE_COMPLETE (R386): The voltage and clock change completes and BUSY clears. -/
  | frequencyChangeComplete (k : Nat)
  /-- BATON_EXPIRY (R359): An engine baton unused for 4096 cycles ends. -/
  | batonExpiry (col layer : Nat)
  /-- MRA_OPERATION_COMPLETE (R148): A mode-register operation ends within 10 µs and clears BUSY. -/
  | mraOperationComplete (stack : Nat)
  /-- INVALIDATION_COMPLETE (R162): When all caches dropped the range and accesses drained, IBUSY clears. -/
  | invalidationComplete (fn c : Nat)
  /-- PLMV_LINE_MOVE (R169): With ownership at both homes, a line is written at its new home and becomes MOVED. -/
  | plmvLineMove (req line : Nat)
  /-- PLMV_SWAP (R168): When every line is MOVED the leaf is rewritten and a shoot-down starts. -/
  | plmvSwap (req : Nat)
  /-- PLMV_RETIRE (R168): When the shoot-down completes, forwarding marks drop and the flag falls. -/
  | plmvRetire (req : Nat)
  /-- HOME_READ (R179): A missing load is served at its home with a new lease. -/
  | homeRead (col slot entry : Nat)
  /-- HORIZON_WAIT_END (R183): A horizon wait ends when DT reaches horizon + 2. -/
  | horizonWaitEnd (col slot thread : Nat)
  /-- WRITE_BACK_BUFFER_RELEASE (R184): An evicted line leaves the write-back buffer when DT passes T + 2. -/
  | writeBackBufferRelease (col line : Nat)
  /-- ENGINE_OWNERSHIP_REQUEST (R193): An engine's ownership request at a home recalls other copies and records ownership. -/
  | engineOwnershipRequest (req : Nat)
  /-- COPY_COMPLETE (R347): When every destination byte is written and claims released, the copy's flag falls. -/
  | copyComplete (req : Nat)
  /-- CPYT_COMPLETE (R353): A tensor-tile copy completes with conversions and its flag falls. -/
  | cpytComplete (req : Nat)
  /-- GATHER_COMPLETE (R348): Every gathered element is written and the flag falls. -/
  | gatherComplete (req : Nat)
  /-- SCATTER_COMPLETE (R348): Every scattered element is applied and the flag falls. -/
  | scatterComplete (req : Nat)
  /-- TENSOR_ID_WRITE_COMPLETE (R351): A TDSET record is written to the entry and the flag falls. -/
  | tensorIdWriteComplete (req : Nat)
  /-- TENSOR_ID_READ_COMPLETE (R351): A TDRD copies the entry out, optionally subtracts counts, and the flag falls. -/
  | tensorIdReadComplete (req : Nat)
  /-- ENGINE_FAULT (R428): An engine finds a bad TDSET record or mismatched collective and freezes the team. -/
  | engineFault (req : Nat)
  /-- TTAG_APPLY (R354): A queued tag request reaches the front and sets the tag. -/
  | ttagApply (req : Nat)
  /-- MXREL_COMPLETE (R359): After issued work completes, the engine is scrubbed and released. -/
  | mxrelComplete (col slot : Nat)
  /-- CLAUSE_START (R233): A thread at a clause header starts the clause once its WAIT flags read zero. -/
  | clauseStart (col slot bundle : Nat)
  /-- FORMATION_POINT (R32): Every 16 cycles a slice rebuilds bundles from its PC table. -/
  | formationPoint (col layer slice : Nat)
  /-- GROUP_COLLECTIVE_CONVERGENCE (R38): When every non-exited thread of a group waits at the collective, it executes for the group. -/
  | groupCollectiveConvergence (col slot group : Nat)
  /-- VGROW_GRANT (R42): A pending register request is met and granted in age order. -/
  | vgrowGrant (col slot group : Nat)
  /-- VGROW_DENIAL_ALL_WAITING (R44): When every group on a core is finished or stuck, the youngest team's requests are denied. -/
  | vgrowDenialAllWaiting (col layer : Nat)
  /-- VGROW_DENIAL_TOO_LONG (R44): A request pending 65 536 cycles is denied. -/
  | vgrowDenialTooLong (col slot group : Nat)
  /-- PARKED_TEAM_PLACE (R48): A ready parked team is placed on the coolest core with room. -/
  | parkedTeamPlace (col slot : Nat)
  /-- GOVERNOR_EVALUATION (R65): Every 1000 DT ticks a column governor evaluates triggers and may start one migration. -/
  | governorEvaluation (col : Nat)
  /-- MIGRATION_ABANDON (R72): A migration whose bundles have not halted in 2048 cycles is abandoned. -/
  | migrationAbandon (col : Nat)
  /-- MIGRATION_TRANSFER (R73): Once all bundles are halted, team state is sent over the stake bus. -/
  | migrationTransfer (col : Nat)
  /-- MIGRATION_RESUME (R72): When the last flit arrives, forwarded returns are applied and bundles resume on the target. -/
  | migrationResume (col : Nat)
  /-- RETURN_FORWARD (R75): A result reaching the source after the transfer began is forwarded to the target. -/
  | returnForward (col slot entry : Nat)
  /-- DIRECTED_MOVE_ARM (R390): Writing GO arms a directed move for a team slot. -/
  | directedMoveArm (col : Nat) (w2 : Word)
  /-- DIRECTED_MOVE_TRIGGER (R71): A directed move triggers when the named team reaches the clause header or evaluation. -/
  | directedMoveTrigger (col : Nat)
  /-- REALIGNMENT_DUE (R81): A lane group falls due for realignment and holds new transfers. -/
  | realignmentDue (col boundary direction group : Nat)
  /-- REALIGNMENT_START (R81): Realignment starts when no transfer is in flight in that direction. -/
  | realignmentStart (col boundary direction : Nat)
  /-- REALIGNMENT_FORCED (R81): At 40 µs after due time transfers pause and realignment starts. -/
  | realignmentForced (col boundary direction : Nat)
  /-- REALIGNMENT_END (R81): After 2 µs realignment ends and paused and held transfers go on. -/
  | realignmentEnd (col boundary direction : Nat) (locked : Bool)
  /-- BACKGROUND_TEST_START (R83): The tester quiesces one lane group and drives margin patterns. -/
  | backgroundTestStart (col boundary direction group : Nat)
  /-- BACKGROUND_TEST_RELINQUISH (R84): Traffic needing a quiesced lane group makes the tester relinquish it. -/
  | backgroundTestRelinquish
  /-- BACKGROUND_TEST_COMPLETE (R83): A lane-group test ends after 4096 cycles and restores alignment. -/
  | backgroundTestComplete (openBond : Bool)
  /-- QUEUE_CONTROL_WRITE (R90): A write to QB_CTL sets EN, PRICAP and conditionally LOGSZ. -/
  | queueControlWrite (fn c q : Nat) (v : Word)
  /-- DOORBELL (R91): A write of TAIL rings the doorbell and is checked. -/
  | doorbell (fn c q : Nat) (tail : Word)
  /-- CARD_INTAKE (R91): The S4 copies a ring card into the intake as room allows and advances HEAD. -/
  | cardIntake (fn c q : Nat)
  /-- STOP_CLEAR (R413): Clearing STOP resumes intake from HEAD. -/
  | stopClear (fn c q : Nat)
  /-- DEPENDENCE_COUNTER_READ (R94): An unmet wait counter is re-read at least every 2 µs. -/
  | dependenceCounterRead (fn c q : Nat)
  /-- TEAM_PLACEMENT (R95): The stack scheduler places teams of eligible cards where room exists. -/
  | teamPlacement (grid col : Nat)
  /-- COOPERATIVE_GUARD (R95): A cooperative card unplaced for 1 ms blocks equal or lower priority placement. -/
  | cooperativeGuard (grid : Nat)
  /-- GRID_SIGNAL (R97): After a completed grid's release drains, SINC is added to the signal counter. -/
  | gridSignal (grid : Nat)
  /-- JNEXT_SERVE (R99): The work distributor serves a dealing request and writes first and count. -/
  | jnextServe (req : Nat)
  /-- HANDOVER_DRAIN_COMPLETE (R103): Once flags, pending writes and scoreboard are empty, the stream stops, release is made and the predecessor retires. -/
  | handoverDrainComplete (col slot : Nat)
  /-- SUCCESSOR_START (R104): A successor starts in the slot once its reservations fit. -/
  | successorStart (col slot : Nat)
  /-- GBAR_ADMISSION_WINDOW (R114): Each 32-cycle window admits eight columns of released teams. -/
  | gbarAdmissionWindow (grid : Nat)
  /-- HALT_QUEUE (R117): OP 1 halts the teams and cards of one queue. -/
  | haltQueue (fn c q : Nat)
  /-- HALT_CONTEXT (R117): OP 2 halts every grid of a context in place. -/
  | haltContext (fn c : Nat)
  /-- SAVE_CONTEXT (R121): OP 3 halts a context and saves it to its save area. -/
  | saveContext (fn c : Nat)
  /-- RESUME_QUEUE (R123): OP 4 releases a halted queue in place. -/
  | resumeQueue (fn c q : Nat)
  /-- RESUME_CONTEXT (R122): OP 5 resumes a halted or saved context. -/
  | resumeContext (fn c : Nat)
  /-- HALT_COMPLETE (R117): When all affected bundles have halted, teams are parked and the command ends. -/
  | haltComplete (fn c : Nat)
  /-- SAVE_COMPLETE (R121): After drains, COMPLETE is written, resources freed and CSTATE set to 2. -/
  | saveComplete (fn c : Nat)
  /-- PENDING_WRITE_DELIVERY (R235): A long-latency result is written to its register and its flag falls. -/
  | pendingWriteDelivery (col slot entry : Nat)
  /-- CSPLAN_WRITE (R133): A column layout template is written unless its sum exceeds 120. -/
  | csplanWrite (part : Nat) (v : Word)
  /-- L2PART_CHANGE (R143): A write of L2PART w0 starts a base-scratchpad window change or is ignored. -/
  | l2partChange (fn c : Nat) (fromPf : Bool) (v : Word)
  /-- L2PART_WIN_HI_STAGE (R143): A write of L2PART w1 stages WIN_HI. -/
  | l2partWinHiStage (fn c : Nat) (v : Word)
  /-- L2PART_CHANGE_COMPLETE (R143): After ways drain, the new window is zeroed, ranges recorded and BUSY cleared. -/
  | l2partChangeComplete (fn c : Nat)
  /-- HBM_SCRUB (R146): A controller reads and corrects rows within refresh intervals. -/
  | hbmScrub (stack chan bank : Nat) (corrected : Bool)
  /-- HBM_ROW_SWAP (R147): A row reaching RSTHR activations is swapped to a spare row. -/
  | hbmRowSwap (stack chan bank : Nat) (row : RowActs)
  /-- HBM_REFRESH_WINDOW (R147): Each 32 ms refresh window restarts the activation counts. -/
  | hbmRefreshWindow (stack : Nat)
  /-- MRA_READ_BANK_COUNTS (R148): OP 1 reads a bank's error and swap counts. -/
  | mraReadBankCounts (stack : Nat) (v : Word)
  /-- MRA_READ_MODE_REGISTER (R148): OP 2 reads an HBM mode register. -/
  | mraReadModeRegister (stack : Nat) (v : Word)
  /-- MRA_CLEAR_BANK_COUNTS (R148): OP 3 clears a bank's CE and UE counts. -/
  | mraClearBankCounts (stack : Nat) (v : Word)
  /-- PAGE_TABLE_WALK (R151): A walker translates a missing address through four table levels. -/
  | pageTableWalk (col fn c va : Nat)
  /-- TRANSLATION_CONTROL_WRITE (R150): A write to the translation block sets EN, root or TPLAIT. -/
  | translationControlWrite (fn c off : Nat) (v : Word)
  /-- INVALIDATION (R162): Writing IGO starts an invalidation of the named range. -/
  | invalidation (fn c : Nat) (v : Word)
  /-- ATS_TRANSLATION_COMPLETION (R165): An ATS completion for a HOST page arrives and is cached or starts a page request. -/
  | atsTranslationCompletion (fn c va : Nat) (result : AtsResult) (rd wr : Bool)
  /-- PAGE_REQUEST_GROUP_RESPONSE (R443): A PRI response arrives, raising a notice or a 0x100D record. -/
  | pageRequestGroupResponse (fn c va : Nat) (response : Nat)
  /-- ATS_INVALIDATE_REQUEST (R165): An ATS Invalidate Request drops entries and completes after a drain. -/
  | atsInvalidateRequest (fn c va log2size : Nat)
  /-- PEER_MOVE_ATTEMPT (R174): A remote write count reaching PMTHR tries a peer move under the policy word. -/
  | peerMoveAttempt (fn c va : Nat) (peer : PeerOffer)
  /-- PEER_MOVE_COMPLETE (R173): After lines move, both leaves are rewritten and the old frame is vacated. -/
  | peerMoveComplete (fn c va : Nat) (leaf : PeerLeaf)
  /-- PEER_MOVE_CONTROL_WRITE (R175): A write to the peer-move control word sets PMEN, PMTHR and conditionally LOGSZ. -/
  | peerMoveControlWrite (fn c : Nat) (v : Word)
  /-- HOME_WRITE_APPLY (R182): A write or atomic is applied at its home when DT reaches its completion time. -/
  | homeWriteApply (line : Nat)
  /-- COLUMN_CACHE_WRITE_BACK (R184): An evicted dirty line is written back to its home. -/
  | columnCacheWriteBack (col line : Nat)
  /-- LEASECFG_WRITE (R180): A write sets LMAX unless outside 5 to 9. -/
  | leasecfgWrite (v : Word)
  /-- COLLECTIVE_COMPLETE (R356): A collective's combined result is written to the local buffer and the flag falls. -/
  | collectiveComplete (req : Nat) (contributions : List (List Word))
  /-- ESTIMATOR_PERIOD (R381): Every 128 cycles each column's power estimate is formed. -/
  | estimatorPeriod (col : Nat) (counts temps : List Nat)
  /-- HOOP_BASE_STOP (R383): At the base die the hoop recomputes FREE. -/
  | hoopBaseStop
  /-- HOOP_LAYER_STOP (R383): At each layer the hoop gives or takes raise units per column. -/
  | hoopLayerStop (layer : Nat)
  /-- HOOPCFG_WRITE (R385): A write sets RCAP and MARGIN within their limits. -/
  | hoopcfgWrite (v : Word)
  /-- FREQUENCY_CHANGE (R386): A FREQ write starts a regulator frequency change. -/
  | frequencyChange (k : Nat) (v : Word)
  /-- REGULATOR_SELECT_WRITE (R386): A REGSEL write reassigns columns that are not bound. -/
  | regulatorSelectWrite (j : Nat) (v : Word)
  /-- AGEING_MONITOR_READ (R387): Every 10 minutes ageing monitors are read and guard bands raised. -/
  | ageingMonitorRead (site steps : Nat)
  /-- LAYER_GATE_REQUEST (R388): Setting a REQ bit starts evacuation of a layer. -/
  | layerGateRequest (layer : Nat)
  /-- LAYER_GATE_RELEASE (R388): Clearing a REQ bit reopens or starts waking the layer. -/
  | layerGateRelease (layer : Nat)
  /-- GOVERNOR_POLICY_WRITE (R389): A write of GOVPOL or GOVRES is taken or ignored with ERR. -/
  | governorPolicyWrite (off : Nat) (v : Word)
  /-- PEER_LINK_CONTROL_WRITE (R397): A write to the peer-link block sets DOMEN, LINKEN and, while disabled, routes. -/
  | peerLinkControlWrite (off : Nat) (v : Word)
  /-- LINK_FLIT_REPLAY (R398): A link flit with a CRC error is replayed in order. -/
  | linkFlitReplay (peer : Bool) (link : Nat)
  /-- LINK_LOSS (R399): A link leaving LINKUP has its flits replayed on another route link. -/
  | linkLoss (peer : Bool) (link : Nat)
  /-- LINK_RETRAINED (R473): A retrained link posts LINK_RETRAINED. -/
  | linkRetrained (peer : Bool) (link : Nat)
  /-- PEER_ROUTE_LOST (R473): After 10 ms without a route, requests are held with a 0x2070 record. -/
  | peerRouteLost (dev : Nat)
  /-- PEER_INBOUND_REQUEST (R399): A peer request is translated and performed at its home as a system-scope access. -/
  | peerInboundRequest (dev dctx va : Nat) (req : InboundReq) (data : List Byte)
  /-- PEER_ACKNOWLEDGEMENT (R189): A peer acknowledgement arrives and joins the requester's horizon. -/
  | peerAcknowledgement (col slot thread : Nat)
  /-- PEER_UNFREEZE (R418): Clearing a PFRZ bit releases a frozen peer device. -/
  | peerUnfreeze (hi : Bool) (v : Word)
  /-- HOST_INBOUND_ACCESS (R395): A host access to region 2 is translated and performed at system scope. -/
  | hostInboundAccess (fn c off : Nat) (access : HostAccess) (data : List Byte)
  /-- CHECKPOINT_START (R402): Writing GO starts a checkpoint of the HBM image. -/
  | checkpointStart (v : Word)
  /-- CHECKPOINT_COMPLETE (R401): The last target acknowledges and the checkpoint ends. -/
  | checkpointComplete
  /-- ATTESTATION_REPORT (R405): Writing GO starts a signed attestation report. -/
  | attestationReport (v : Word)
  /-- ATTESTATION_REPORT_COMPLETE (R405): The report is written to RADDR and BUSY clears. -/
  | attestationReportComplete
  /-- DEVICE_RESET (R406): A power-on, host, sideband, trip or watchdog reset restarts the device. -/
  | deviceReset (cause : Nat)
  /-- FAULT_BLOCK_CONFIG_WRITE (R410): A write to FBEN or FBLOG is taken only under its condition. -/
  | faultBlockConfigWrite (fn c off : Nat) (v : Word)
  /-- FAULT_BUFFER_CONSUME (R411): A write of FB_RD frees room in the fault buffer. -/
  | faultBufferConsume (fn c : Nat) (v : Word)
  /-- FAULT_FLUSH (R411): FLT_ACK equal to GEN discards parked records and advances GEN. -/
  | faultFlush (fn c : Nat) (v : Word)
  /-- EVENT_QUEUE_CONTROL_WRITE (R414): A write to the event block enables or configures the event queue. -/
  | eventQueueControlWrite (fn off : Nat) (v : Word)
  /-- CORRECTED_ERROR (R408): A corrected error is counted and may post a CORRECTED event. -/
  | correctedError (k : Nat)
  /-- UNCORRECTED_ERROR (R448): An uncorrectable memory error poisons its unit. -/
  | uncorrectedError (where_ : PoisonUnit)
  /-- FATAL_ERROR (R408): A fatal error halts every core and stops links and queues. -/
  | fatalError (code : Nat)
  /-- STAKE_PARITY_REPLAY (R453): A stake flit failing parity is replayed by its boundary. -/
  | stakeParityReplay (col boundary direction group signal : Nat)
  /-- DIE_RESET (R459): A checker error resets a logic layer and ends its executing teams. -/
  | dieReset (layer : Nat)
  /-- CORE_HALT_TIMEOUT (R459): A core not halted 10 µs after a halt request triggers a die reset. -/
  | coreHaltTimeout (col layer : Nat)
  /-- TRIP_THRESHOLD_WRITE (R463): A write of trip thresholds is taken or ignored with ERR. -/
  | tripThresholdWrite (off : Nat) (v : Word)
  /-- THERMAL_SOFT_TRIP (R464): A reading at TSOFT closes and evacuates a core and throttles the column. -/
  | thermalSoftTrip (col layer reading : Nat)
  /-- SOFT_TRIP_END (R464): When all readings fall below TLO the throttle ends and the core reopens. -/
  | softTripEnd (col : Nat)
  /-- SUPPLY_EXCURSION (R465): A coolant or supply reading outside limits makes MARGIN act as 0. -/
  | supplyExcursion (cool : Word)
  /-- SUPPLY_EXCURSION_END (R465): After 1 s within limits MARGIN applies again. -/
  | supplyExcursionEnd (cool : Word)
  /-- HARD_TRIP (R466): A reading beyond its limit; a hard trip stops intake, writes the trip notice and saves contexts. -/
  | hardTrip (cause col layer reading : Nat)
  /-- HARD_TRIP_POWER_OFF (R466): At 2 000 000 DT ticks or when saves complete, the rails are removed. -/
  | hardTripPowerOff
  /-- PART_WORN (R470): A part meeting a wear condition is marked worn and NXCFG updated. -/
  | partWorn (kind index : Nat)
  /-- CAPTURE_CONTROL_WRITE (R474): A write to the capture control word starts or stops capture or replay. -/
  | captureControlWrite (off : Nat) (v : Word)
  /-- REPLAY_GATE_WRITE (R477): A write of REPGATE releases counted acquires up to its value. -/
  | replayGateWrite (v : Word)
  /-- REGISTER_WRITE (R10): A write to a register that has no row of its own. -/
  | registerWrite (fn region off : Nat) (v : Word)
  /-- HOST_LINK_DOWN (R473): The host link loses training: inbound host traffic stops and outbound host traffic waits while the device runs on. -/
  | hostLinkDown
  deriving DecidableEq, Repr

end Sys2Proof
end

