-- ==== Sys2Proof/Decode.lean ====
section
/-! DEFINITION. The decoder and encoder of the Sulor S4's instruction words: the clause header (R232), the lane, uniform and control
words with their prefix (R238 to R252), the M-words (R253 to R255), and the decode faults of R425 and the word faults 0x0060 and
0x0061 of R429. -/

namespace Sys2Proof

/-- The decode faults (R425) and the M-word faults judged from the word alone (R429), each by name. -/
inductive DErr where
  | headerLen | headerReserved | headerFlag | fmt6 | reservedCell | badPrefix | transferNotLast | holdNotLast | unusedField
  | prefixField | badType | reservedCode | guardField | registerAlign | flagInvalid | badPoint | badCount | badSelector
  | mwordReserved | mwordCode
  deriving DecidableEq, Repr

/-- The CODE of a decode fault (R425, R429). -/
def DErr.code : DErr → Nat
  | .headerLen => 0x0001 | .headerReserved => 0x0002 | .headerFlag => 0x0003 | .fmt6 => 0x0004 | .reservedCell => 0x0005
  | .badPrefix => 0x0006 | .transferNotLast => 0x0007 | .holdNotLast => 0x0008 | .unusedField => 0x0009
  | .prefixField => 0x000A | .badType => 0x000B | .reservedCode => 0x000C | .guardField => 0x000D
  | .registerAlign => 0x000E | .flagInvalid => 0x000F | .badPoint => 0x0010 | .badCount => 0x0011
  | .badSelector => 0x0012 | .mwordReserved => 0x0060 | .mwordCode => 0x0061

/-! ### Formats (R239) -/

/-- Format R3. -/
def encR3 (p u : Bool) (op : BitVec 6) (d a b : RegNo) : Word :=
  BitVec.ofBool p ++ BitVec.ofBool u ++ 0#3 ++ op ++ d ++ a ++ b

/-- Format R2I. -/
def encR2I (p u : Bool) (op : BitVec 4) (d a : RegNo) (imm : BitVec 9) : Word :=
  BitVec.ofBool p ++ BitVec.ofBool u ++ 1#3 ++ op ++ d ++ a ++ imm

/-- Format RI16. -/
def encRI16 (p u : Bool) (op : BitVec 4) (d : RegNo) (imm : BitVec 16) : Word :=
  BitVec.ofBool p ++ BitVec.ofBool u ++ 2#3 ++ op ++ d ++ imm

/-- Format MEM. -/
def encMem (p u : Bool) (op : BitVec 5) (fs : Bool) (d a : RegNo) (off : BitVec 7) : Word :=
  BitVec.ofBool p ++ BitVec.ofBool u ++ 3#3 ++ op ++ BitVec.ofBool fs ++ d ++ a ++ off

/-- Format ENG. -/
def encEng (p u : Bool) (op : BitVec 5) (fs : Bool) (d a b : RegNo) : Word :=
  BitVec.ofBool p ++ BitVec.ofBool u ++ 4#3 ++ op ++ BitVec.ofBool fs ++ d ++ a ++ b

/-- Format BR. -/
def encBr (p u : Bool) (op : BitVec 4) (a : RegNo) (disp : BitVec 16) : Word :=
  BitVec.ofBool p ++ BitVec.ofBool u ++ 5#3 ++ op ++ a ++ disp

/-- The prefix word (R241). -/
def encPfx (m : Mods) : Word :=
  0#2 ++ 7#3 ++ m.c ++ m.ty ++ m.xm ++ BitVec.ofBool m.sat ++ m.rm ++ m.g ++ BitVec.ofBool m.gn

/-- Whether a word is a prefix word (R241). -/
def isPfx (w : Word) : Bool := w.extractLsb' 27 5 == 7#5

/-- The fields of a prefix word (R241, R242). -/
def decPfx (w : Word) : Mods where
  c := w.extractLsb' 20 7
  ty := w.extractLsb' 15 5
  xm := w.extractLsb' 11 4
  sat := w.getLsbD 10
  rm := w.extractLsb' 8 2
  g := w.extractLsb' 1 7
  gn := w.getLsbD 0

/-- The default of prefix field c for a word (R242): the d field, or 0 for CVT, whose c is a second type, and for the branch
forms, which have no d field. -/
def defaultC (w : Word) : RegNo :=
  match (w.extractLsb' 27 3).toNat with
  | 0 => if w.extractLsb' 21 11 == 58#11 || w.extractLsb' 21 11 == 570#11 then 0 else w.extractLsb' 14 7
  | 1 | 2 => w.extractLsb' 16 7
  | 3 | 4 => w.extractLsb' 14 7
  | _ => 0

/-- The prefix fields of a word that has no prefix (R242). -/
def defaultMods (w : Word) : Mods := { c := defaultC w, ty := 0, xm := 0, sat := false, rm := 0, g := 127, gn := false }

/-! ### Opcode maps (R247 to R251, R254) -/

/-- The 32-bit word of an instruction without its prefix (R247 to R251, R254). An event has no encoding: 0. -/
def encWord : Instr → Word
  | .iadd _ u d a b => encR3 false u 0 d a b
  | .iaddc _ u d a b => encR3 false u 1 d a b
  | .isub _ u d a b => encR3 false u 2 d a b
  | .imul _ u d a b => encR3 false u 3 d a b
  | .imulh _ u d a b => encR3 false u 4 d a b
  | .imad _ u d a b => encR3 false u 5 d a b
  | .imadw _ u d a b => encR3 false u 6 d a b
  | .isad _ u d a b => encR3 false u 7 d a b
  | .imin _ u d a b => encR3 false u 8 d a b
  | .imax _ u d a b => encR3 false u 9 d a b
  | .iabs _ u d a => encR3 false u 10 d a 0
  | .ineg _ u d a => encR3 false u 11 d a 0
  | .shl _ u d a b => encR3 false u 12 d a b
  | .shr _ u d a b => encR3 false u 13 d a b
  | .sar _ u d a b => encR3 false u 14 d a b
  | .fsl _ u d a b => encR3 false u 15 d a b
  | .fsr _ u d a b => encR3 false u 16 d a b
  | .bfn3 _ u d a b => encR3 false u 17 d a b
  | .and _ u d a b => encR3 false u 18 d a b
  | .or _ u d a b => encR3 false u 19 d a b
  | .xor _ u d a b => encR3 false u 20 d a b
  | .bfx _ u d a b => encR3 false u 21 d a b
  | .bfi _ u d a b => encR3 false u 22 d a b
  | .bysel _ u d a b => encR3 false u 23 d a b
  | .iset _ u d a b => encR3 false u 24 d a b
  | .isel _ u d a b => encR3 false u 25 d a b
  | .mov _ u d a => encR3 false u 26 d a 0
  | .lea _ u d a b => encR3 false u 27 d a b
  | .leaw _ u d a b => encR3 false u 28 d a b
  | .idot4 _ u d a b => encR3 false u 29 d a b
  | .idot2 _ u d a b => encR3 false u 30 d a b
  | .lxch _ d a b => encR3 false false 31 d a b
  | .fadd _ u d a b => encR3 false u 32 d a b
  | .fsub _ u d a b => encR3 false u 33 d a b
  | .fmul _ u d a b => encR3 false u 34 d a b
  | .ffma _ u d a b => encR3 false u 35 d a b
  | .fmin _ u d a b => encR3 false u 36 d a b
  | .fmax _ u d a b => encR3 false u 37 d a b
  | .fset _ u d a b => encR3 false u 38 d a b
  | .fsel _ u d a b => encR3 false u 39 d a b
  | .frnd _ u d a => encR3 false u 40 d a 0
  | .ffrc _ u d a => encR3 false u 41 d a 0
  | .fscl _ u d a b => encR3 false u 42 d a b
  | .fext _ u d a b => encR3 false u 43 d a b
  | .frcp _ u d a => encR3 false u 44 d a 0
  | .frsq _ u d a => encR3 false u 45 d a 0
  | .fsqt _ u d a => encR3 false u 46 d a 0
  | .fexp2 _ u d a => encR3 false u 47 d a 0
  | .flog2 _ u d a => encR3 false u 48 d a 0
  | .fsin _ u d a => encR3 false u 49 d a 0
  | .fcos _ u d a => encR3 false u 50 d a 0
  | .pkadd _ u d a b => encR3 false u 51 d a b
  | .pksub _ u d a b => encR3 false u 52 d a b
  | .pkmul _ u d a b => encR3 false u 53 d a b
  | .pkfma _ u d a b => encR3 false u 54 d a b
  | .pkmin _ u d a b => encR3 false u 55 d a b
  | .pkmax _ u d a b => encR3 false u 56 d a b
  | .pkcmp _ u d a b => encR3 false u 57 d a b
  | .cvt _ u d a => encR3 false u 58 d a 0
  | .cvpk _ u d a => encR3 false u 59 d a 0
  | .cvsc _ u d a b => encR3 false u 60 d a b
  | .iaddi _ u d a imm => encR2I false u 0 d a imm
  | .shli _ u d a imm => encR2I false u 1 d a (0#4 ++ imm)
  | .shri _ u d a imm => encR2I false u 2 d a (0#4 ++ imm)
  | .sari _ u d a imm => encR2I false u 3 d a (0#4 ++ imm)
  | .andi _ u d a imm => encR2I false u 4 d a imm
  | .ori _ u d a imm => encR2I false u 5 d a imm
  | .xori _ u d a imm => encR2I false u 6 d a imm
  | .popc _ u d a => encR2I false u 7 d a 0
  | .clz _ u d a => encR2I false u 8 d a 0
  | .ctz _ u d a => encR2I false u 9 d a 0
  | .brev _ u d a => encR2I false u 10 d a 0
  | .fcls _ u d a imm => encR2I false u 11 d a imm
  | .vote _ d a mode => encR2I false false 12 d a (0#7 ++ mode)
  | .ball _ d a mode => encR2I false false 13 d a (0#7 ++ mode)
  | .gred _ d a excl op => encR2I false false 14 d a (0#5 ++ BitVec.ofBool excl ++ op)
  | .gscn _ d a excl op => encR2I false false 15 d a (0#5 ++ BitVec.ofBool excl ++ op)
  | .movi _ u d imm => encRI16 false u 0 d imm
  | .movh _ u d imm => encRI16 false u 1 d imm
  | .ld _ u fs d a off => encMem false u 0 fs d a off
  | .st _ d a off => encMem false false 1 false d a off
  | .lds _ u d a off => encMem false u 2 false d a off
  | .sts _ d a off => encMem false false 3 false d a off
  | .ldc _ u fs d a off => encMem false u 4 fs d a off
  | .prf _ a off => encMem false false 5 false 0 a off
  | .fence _ kind scope => encMem false false 6 false (0#3 ++ kind ++ scope) 0 0
  | .prm _ a off => encMem false false 7 false 0 a off
  | .atom _ fs d a b => encEng false false 0 fs d a b
  | .red _ a b => encEng false false 1 false 0 a b
  | .atoms _ d a b => encEng false false 2 false d a b
  | .cpy _ fs d a b => encEng false false 3 fs d a b
  | .cpyt _ fs d a b => encEng false false 4 fs d a b
  | .gath _ fs d a b => encEng false false 5 fs d a b
  | .scat _ fs d a b => encEng false false 6 fs d a b
  | .tdset _ fs a b => encEng false false 7 fs 0 a b
  | .tdrd _ fs a b => encEng false false 8 fs 0 a b
  | .ttag _ a b => encEng false false 9 false 0 a b
  | .jnext _ fs a => encEng false false 10 fs 0 a 0
  | .coll _ fs a b => encEng false false 11 fs 0 a b
  | .plmv _ fs a b => encEng false false 12 fs 0 a b
  | .mxacq _ d => encEng false false 13 false d 0 0
  | .mxrel _ a => encEng false false 14 false 0 a 0
  | .mxgo _ d a b => encEng false false 15 false d a b
  | .brl _ a disp => encBr false false 0 a disp
  | .jmp _ a => encBr false false 1 a 0
  | .callDirect _ a disp => encBr false false 2 a disp
  | .callRegister _ a => encBr false false 3 a 0
  | .ret _ a => encBr false false 4 a 0
  | .uadd _ d a b => encR3 true false 0 d a b
  | .usub _ d a b => encR3 true false 1 d a b
  | .umov _ d a => encR3 true false 2 d a 0
  | .uand _ d a b => encR3 true false 3 d a b
  | .uor _ d a b => encR3 true false 4 d a b
  | .uxor _ d a b => encR3 true false 5 d a b
  | .ushl _ d a b => encR3 true false 6 d a b
  | .ushr _ d a b => encR3 true false 7 d a b
  | .ucmp _ d a b => encR3 true false 8 d a b
  | .usel _ d a b => encR3 true false 9 d a b
  | .umul _ d a b => encR3 true false 10 d a b
  | .ulea _ d a b => encR3 true false 11 d a b
  | .umovi _ d imm => encRI16 true false 0 d imm
  | .nop _ => encR3 true true 0 0 0 0
  | .yield _ => encR3 true true 1 0 0 0
  | .exit _ => encR3 true true 2 0 0 0
  | .rets _ a b => encR3 true true 3 0 a b
  | .launch _ d a b => encR3 true true 4 d a b
  | .gbar _ => encR3 true true 5 0 0 0
  | .trap _ a => encR3 true true 6 0 a 0
  | .evpost _ d a => encR3 true true 7 d a 0
  | .frz _ d a => encR3 true true 8 d a 0
  | .sleep _ a => encR3 true true 9 0 a 0
  | .rzinit _ a pt => encR2I true true 0 0 a (0#4 ++ pt)
  | .rzarv _ d pt => encR2I true true 1 d 0 (0#4 ++ pt)
  | .rzwait _ a pt => encR2I true true 2 0 a (0#4 ++ pt)
  | .rzarw _ d pt => encR2I true true 3 d 0 (0#4 ++ pt)
  | .rzcarv _ a pt => encR2I true true 4 0 a (0#4 ++ pt)
  | .rztest _ d a pt => encR2I true true 5 d a (0#4 ++ pt)
  | .vgrow _ d cnt => encR2I true true 6 d 0 cnt
  | .vshrk _ d cnt => encR2I true true 7 d 0 cnt
  | .srd _ d sel => encR2I true true 8 d 0 sel
  | .swr _ a sel => encR2I true true 9 0 a sel
  | .csrrd _ d a k => encR2I true true 10 d a k
  | .csrwr _ d a k => encR2I true true 11 d a k
  | .bra _ disp => encBr true true 0 0 disp
  | .brc _ a disp => encBr true true 1 a disp
  | .mnop => 0#6 ++ 0#26
  | .mend => 1#6 ++ 0#26
  | .mlda ts cl ty xi mx => 2#6 ++ ts ++ 0#4 ++ BitVec.ofBool cl ++ 0#1 ++ ty ++ BitVec.ofBool xi ++ mx ++ 0#3
  | .mldb ts sub cl rc ty xi mx => 3#6 ++ ts ++ sub ++ BitVec.ofBool cl ++ BitVec.ofBool rc ++ ty ++ BitVec.ofBool xi ++ mx ++ 0#3
  | .mma acc ts fus ord ty sat xi => 4#6 ++ acc ++ ts ++ fus ++ ord ++ ty ++ BitVec.ofBool sat ++ BitVec.ofBool xi ++ 0#2
  | .mzro acc cnt => 5#6 ++ acc ++ cnt ++ 0#14
  | .mstc acc ts ty sc xi mx => 6#6 ++ acc ++ ts ++ ty ++ BitVec.ofBool sc ++ BitVec.ofBool xi ++ mx ++ 0#2
  | .madc acc src sat => 7#6 ++ acc ++ src ++ BitVec.ofBool sat ++ 0#13
  | .mrza z => 8#6 ++ z ++ 0#21
  | .mrzw z => 9#6 ++ z ++ 0#21
  | .mwtg ts tag xi mx => 10#6 ++ ts ++ tag ++ BitVec.ofBool xi ++ mx ++ 0#11
  | .mset mk imm => 11#6 ++ mk ++ imm
  | .madd mk ms imm => 12#6 ++ mk ++ ms ++ imm
  | .mlop mk disp => 13#6 ++ mk ++ disp
  | .maud td => 14#6 ++ td ++ 0#18
  | _ => 0

/-- Lane pipe, format R3 (R247); none names a reserved cell. -/
def decLaneR3 (op : Nat) (m : Mods) (u : Bool) (d : RegNo) (a : RegNo) (b : RegNo) : Option Instr :=
  match op with
  | 0 => some (.iadd m u d a b)
  | 1 => some (.iaddc m u d a b)
  | 2 => some (.isub m u d a b)
  | 3 => some (.imul m u d a b)
  | 4 => some (.imulh m u d a b)
  | 5 => some (.imad m u d a b)
  | 6 => some (.imadw m u d a b)
  | 7 => some (.isad m u d a b)
  | 8 => some (.imin m u d a b)
  | 9 => some (.imax m u d a b)
  | 10 => some (.iabs m u d a)
  | 11 => some (.ineg m u d a)
  | 12 => some (.shl m u d a b)
  | 13 => some (.shr m u d a b)
  | 14 => some (.sar m u d a b)
  | 15 => some (.fsl m u d a b)
  | 16 => some (.fsr m u d a b)
  | 17 => some (.bfn3 m u d a b)
  | 18 => some (.and m u d a b)
  | 19 => some (.or m u d a b)
  | 20 => some (.xor m u d a b)
  | 21 => some (.bfx m u d a b)
  | 22 => some (.bfi m u d a b)
  | 23 => some (.bysel m u d a b)
  | 24 => some (.iset m u d a b)
  | 25 => some (.isel m u d a b)
  | 26 => some (.mov m u d a)
  | 27 => some (.lea m u d a b)
  | 28 => some (.leaw m u d a b)
  | 29 => some (.idot4 m u d a b)
  | 30 => some (.idot2 m u d a b)
  | 31 => some (.lxch m d a b)
  | 32 => some (.fadd m u d a b)
  | 33 => some (.fsub m u d a b)
  | 34 => some (.fmul m u d a b)
  | 35 => some (.ffma m u d a b)
  | 36 => some (.fmin m u d a b)
  | 37 => some (.fmax m u d a b)
  | 38 => some (.fset m u d a b)
  | 39 => some (.fsel m u d a b)
  | 40 => some (.frnd m u d a)
  | 41 => some (.ffrc m u d a)
  | 42 => some (.fscl m u d a b)
  | 43 => some (.fext m u d a b)
  | 44 => some (.frcp m u d a)
  | 45 => some (.frsq m u d a)
  | 46 => some (.fsqt m u d a)
  | 47 => some (.fexp2 m u d a)
  | 48 => some (.flog2 m u d a)
  | 49 => some (.fsin m u d a)
  | 50 => some (.fcos m u d a)
  | 51 => some (.pkadd m u d a b)
  | 52 => some (.pksub m u d a b)
  | 53 => some (.pkmul m u d a b)
  | 54 => some (.pkfma m u d a b)
  | 55 => some (.pkmin m u d a b)
  | 56 => some (.pkmax m u d a b)
  | 57 => some (.pkcmp m u d a b)
  | 58 => some (.cvt m u d a)
  | 59 => some (.cvpk m u d a)
  | 60 => some (.cvsc m u d a b)
  | _ => none

/-- Lane pipe, format R2I (R248); none names a reserved cell. -/
def decLaneR2I (op : Nat) (m : Mods) (u : Bool) (d : RegNo) (a : RegNo) (imm : BitVec 9) : Option Instr :=
  match op with
  | 0 => some (.iaddi m u d a imm)
  | 1 => some (.shli m u d a (imm.extractLsb' 0 5))
  | 2 => some (.shri m u d a (imm.extractLsb' 0 5))
  | 3 => some (.sari m u d a (imm.extractLsb' 0 5))
  | 4 => some (.andi m u d a imm)
  | 5 => some (.ori m u d a imm)
  | 6 => some (.xori m u d a imm)
  | 7 => some (.popc m u d a)
  | 8 => some (.clz m u d a)
  | 9 => some (.ctz m u d a)
  | 10 => some (.brev m u d a)
  | 11 => some (.fcls m u d a imm)
  | 12 => some (.vote m d a (imm.extractLsb' 0 2))
  | 13 => some (.ball m d a (imm.extractLsb' 0 2))
  | 14 => some (.gred m d a (imm.getLsbD 3) (imm.extractLsb' 0 3))
  | 15 => some (.gscn m d a (imm.getLsbD 3) (imm.extractLsb' 0 3))
  | _ => none

/-- Lane pipe, format RI16 (R249); none names a reserved cell. -/
def decLaneRI16 (op : Nat) (m : Mods) (u : Bool) (d : RegNo) (imm : BitVec 16) : Option Instr :=
  match op with
  | 0 => some (.movi m u d imm)
  | 1 => some (.movh m u d imm)
  | _ => none

/-- Lane pipe, format Mem (R249); none names a reserved cell. -/
def decLaneMem (op : Nat) (m : Mods) (u : Bool) (fs : Bool) (d : RegNo) (a : RegNo) (off : BitVec 7) : Option Instr :=
  match op with
  | 0 => some (.ld m u fs d a off)
  | 1 => some (.st m d a off)
  | 2 => some (.lds m u d a off)
  | 3 => some (.sts m d a off)
  | 4 => some (.ldc m u fs d a off)
  | 5 => some (.prf m a off)
  | 6 => some (.fence m (d.extractLsb' 2 2) (d.extractLsb' 0 2))
  | 7 => some (.prm m a off)
  | _ => none

/-- Lane pipe, format Eng (R249); none names a reserved cell. -/
def decLaneEng (op : Nat) (m : Mods) (fs : Bool) (d : RegNo) (a : RegNo) (b : RegNo) : Option Instr :=
  match op with
  | 0 => some (.atom m fs d a b)
  | 1 => some (.red m a b)
  | 2 => some (.atoms m d a b)
  | 3 => some (.cpy m fs d a b)
  | 4 => some (.cpyt m fs d a b)
  | 5 => some (.gath m fs d a b)
  | 6 => some (.scat m fs d a b)
  | 7 => some (.tdset m fs a b)
  | 8 => some (.tdrd m fs a b)
  | 9 => some (.ttag m a b)
  | 10 => some (.jnext m fs a)
  | 11 => some (.coll m fs a b)
  | 12 => some (.plmv m fs a b)
  | 13 => some (.mxacq m d)
  | 14 => some (.mxrel m a)
  | 15 => some (.mxgo m d a b)
  | _ => none

/-- Lane pipe, format Br (R249); none names a reserved cell. -/
def decLaneBr (op : Nat) (m : Mods) (a : RegNo) (disp : BitVec 16) : Option Instr :=
  match op with
  | 0 => some (.brl m a disp)
  | 1 => some (.jmp m a)
  | 2 => some (.callDirect m a disp)
  | 3 => some (.callRegister m a)
  | 4 => some (.ret m a)
  | _ => none

/-- Uniform ALU space, format R3 (R250); none names a reserved cell. -/
def decUniR3 (op : Nat) (m : Mods) (d : RegNo) (a : RegNo) (b : RegNo) : Option Instr :=
  match op with
  | 0 => some (.uadd m d a b)
  | 1 => some (.usub m d a b)
  | 2 => some (.umov m d a)
  | 3 => some (.uand m d a b)
  | 4 => some (.uor m d a b)
  | 5 => some (.uxor m d a b)
  | 6 => some (.ushl m d a b)
  | 7 => some (.ushr m d a b)
  | 8 => some (.ucmp m d a b)
  | 9 => some (.usel m d a b)
  | 10 => some (.umul m d a b)
  | 11 => some (.ulea m d a b)
  | _ => none

/-- Uniform ALU space, format RI16 (R250); none names a reserved cell. -/
def decUniRI16 (op : Nat) (m : Mods) (d : RegNo) (imm : BitVec 16) : Option Instr :=
  match op with
  | 0 => some (.umovi m d imm)
  | _ => none

/-- Control and system space, format R3 (R251); none names a reserved cell. -/
def decSysR3 (op : Nat) (m : Mods) (d : RegNo) (a : RegNo) (b : RegNo) : Option Instr :=
  match op with
  | 0 => some (.nop m)
  | 1 => some (.yield m)
  | 2 => some (.exit m)
  | 3 => some (.rets m a b)
  | 4 => some (.launch m d a b)
  | 5 => some (.gbar m)
  | 6 => some (.trap m a)
  | 7 => some (.evpost m d a)
  | 8 => some (.frz m d a)
  | 9 => some (.sleep m a)
  | _ => none

/-- Control and system space, format R2I (R251); none names a reserved cell. -/
def decSysR2I (op : Nat) (m : Mods) (d : RegNo) (a : RegNo) (imm : BitVec 9) : Option Instr :=
  match op with
  | 0 => some (.rzinit m a (imm.extractLsb' 0 5))
  | 1 => some (.rzarv m d (imm.extractLsb' 0 5))
  | 2 => some (.rzwait m a (imm.extractLsb' 0 5))
  | 3 => some (.rzarw m d (imm.extractLsb' 0 5))
  | 4 => some (.rzcarv m a (imm.extractLsb' 0 5))
  | 5 => some (.rztest m d a (imm.extractLsb' 0 5))
  | 6 => some (.vgrow m d imm)
  | 7 => some (.vshrk m d imm)
  | 8 => some (.srd m d imm)
  | 9 => some (.swr m a imm)
  | 10 => some (.csrrd m d a imm)
  | 11 => some (.csrwr m d a imm)
  | _ => none

/-- Control and system space, format Br (R251); none names a reserved cell. -/
def decSysBr (op : Nat) (m : Mods) (a : RegNo) (disp : BitVec 16) : Option Instr :=
  match op with
  | 0 => some (.bra m disp)
  | 1 => some (.brc m a disp)
  | _ => none

/-- The instruction that a lane, uniform or control word names, given the prefix fields that apply to it; none where its space,
format and op name a reserved cell (R252). Fields the form leaves unused are judged by `decodeWord`. -/
def decCell (m : Mods) (w : Word) : Option Instr :=
  let u := w.getLsbD 30
  match w.getLsbD 31, (w.extractLsb' 27 3).toNat with
  | false, 0 => decLaneR3 (w.extractLsb' 21 6).toNat m u (w.extractLsb' 14 7) (w.extractLsb' 7 7) (w.extractLsb' 0 7)
  | false, 1 => decLaneR2I (w.extractLsb' 23 4).toNat m u (w.extractLsb' 16 7) (w.extractLsb' 9 7) (w.extractLsb' 0 9)
  | false, 2 => decLaneRI16 (w.extractLsb' 23 4).toNat m u (w.extractLsb' 16 7) (w.extractLsb' 0 16)
  | false, 3 => decLaneMem (w.extractLsb' 22 5).toNat m u (w.getLsbD 21) (w.extractLsb' 14 7) (w.extractLsb' 7 7) (w.extractLsb' 0 7)
  | false, 4 => decLaneEng (w.extractLsb' 22 5).toNat m (w.getLsbD 21) (w.extractLsb' 14 7) (w.extractLsb' 7 7) (w.extractLsb' 0 7)
  | false, 5 => decLaneBr (w.extractLsb' 23 4).toNat m (w.extractLsb' 16 7) (w.extractLsb' 0 16)
  | true, 0 => if u then decSysR3 (w.extractLsb' 21 6).toNat m (w.extractLsb' 14 7) (w.extractLsb' 7 7) (w.extractLsb' 0 7) else decUniR3 (w.extractLsb' 21 6).toNat m (w.extractLsb' 14 7) (w.extractLsb' 7 7) (w.extractLsb' 0 7)
  | true, 2 => if u then none else decUniRI16 (w.extractLsb' 23 4).toNat m (w.extractLsb' 16 7) (w.extractLsb' 0 16)
  | true, 1 => if u then decSysR2I (w.extractLsb' 23 4).toNat m (w.extractLsb' 16 7) (w.extractLsb' 9 7) (w.extractLsb' 0 9) else none
  | true, 5 => if u then decSysBr (w.extractLsb' 23 4).toNat m (w.extractLsb' 16 7) (w.extractLsb' 0 16) else none
  | _, _ => none

/-- The M-word a word names, with its fields; none for a reserved op (R254). -/
def decMCell (w : Word) : Option Instr :=
  match (w.extractLsb' 26 6).toNat with
  | 0 => some (.mnop)
  | 1 => some (.mend)
  | 2 => some (.mlda (w.extractLsb' 18 8) (w.getLsbD 13) (w.extractLsb' 8 4) (w.getLsbD 7) (w.extractLsb' 3 4))
  | 3 => some (.mldb (w.extractLsb' 18 8) (w.extractLsb' 14 4) (w.getLsbD 13) (w.getLsbD 12) (w.extractLsb' 8 4) (w.getLsbD 7) (w.extractLsb' 3 4))
  | 4 => some (.mma (w.extractLsb' 20 6) (w.extractLsb' 12 8) (w.extractLsb' 10 2) (w.extractLsb' 8 2) (w.extractLsb' 4 4) (w.getLsbD 3) (w.getLsbD 2))
  | 5 => some (.mzro (w.extractLsb' 20 6) (w.extractLsb' 14 6))
  | 6 => some (.mstc (w.extractLsb' 20 6) (w.extractLsb' 12 8) (w.extractLsb' 8 4) (w.getLsbD 7) (w.getLsbD 6) (w.extractLsb' 2 4))
  | 7 => some (.madc (w.extractLsb' 20 6) (w.extractLsb' 14 6) (w.getLsbD 13))
  | 8 => some (.mrza (w.extractLsb' 21 5))
  | 9 => some (.mrzw (w.extractLsb' 21 5))
  | 10 => some (.mwtg (w.extractLsb' 18 8) (w.extractLsb' 16 2) (w.getLsbD 15) (w.extractLsb' 11 4))
  | 11 => some (.mset (w.extractLsb' 22 4) (w.extractLsb' 0 22))
  | 12 => some (.madd (w.extractLsb' 22 4) (w.extractLsb' 18 4) (w.extractLsb' 0 18))
  | 13 => some (.mlop (w.extractLsb' 22 4) (w.extractLsb' 0 22))
  | 14 => some (.maud (w.extractLsb' 18 8))
  | _ => none

/-! ### What each form accepts (R265, R285, R303, R323, R343 and the form's own rule) -/

/-- A register operand of an instruction: its first register, how many registers it names, the alignment of its field (R240), and
whether the instruction writes it without reading it. -/
structure Opnd where
  reg : RegNo
  cnt : Nat
  al : Nat
  wr : Bool
  deriving DecidableEq, Repr

/-- How a form uses prefix field c (R242). -/
inductive CUse where
  | none
  /-- a third source of `cnt` registers, aligned to `al` -/
  | src (cnt al : Nat)
  /-- a second type -/
  | ty2
  deriving DecidableEq, Repr

/-- What a form reads, writes and accepts. `bad` holds the form's own conditions, each with the decode fault it raises. -/
structure Form where
  m : Mods
  /-- register operands in the order of the fields d, a, b -/
  ops : List Opnd
  cuse : CUse := .none
  /-- type codes accepted in TY besides 0 -/
  tys : List Nat := []
  /-- XM bits that are fields of the form, or that R425 gives to 0x000C -/
  xm : BitVec 4 := 0
  sat : Bool := false
  rm : Bool := false
  /-- TY, XM, SAT and RM are one immediate (R294) -/
  modImm : Bool := false
  /-- the flag select bit of a flagged form (R235) -/
  flag : Option Bool := .none
  /-- executes once per bundle (R35, R265) -/
  once : Bool := false
  /-- a control transfer (R234) -/
  transfer : Bool := false
  /-- an acquire word, FENCE or PRM (R335) -/
  hold : Bool := false
  bad : List (Bool × DErr) := []
  deriving DecidableEq, Repr

/-- A register written. -/
def wOp (r : RegNo) (n : Nat := 1) : Opnd := ⟨r, n, n, true⟩
/-- A register read. -/
def rOp (r : RegNo) (n : Nat := 1) : Opnd := ⟨r, n, n, false⟩

/-- How many registers a value of a type takes (R8, R243): a pair for 64 bits, a quad for b128. -/
def tyRegs (ty : Nat) : Nat := if ty = 10 ∨ ty = 11 ∨ ty = 12 then 2 else if ty = 13 then 4 else 1

/-- The size in bytes of a load or store type; TY 0 is b32 (R329). -/
def memSize (ty : Nat) : Nat :=
  if ty = 1 ∨ ty = 2 ∨ ty = 3 then 1 else if ty = 4 ∨ ty = 5 ∨ ty = 6 then 2
  else if ty = 10 ∨ ty = 11 ∨ ty = 12 then 8 else if ty = 13 then 16 else 4

/-- The types of a load or store (R329). -/
def memTys : List Nat := [1, 2, 3, 4, 5, 6, 7, 8, 9, 10, 11, 12, 13]

/-- The floating types of CVT (R317). -/
def cvtFloats : List Nat := [14, 15, 16, 17, 18]
/-- The integer types of CVT (R317). -/
def cvtInts : List Nat := [1, 2, 4, 5, 7, 8, 10, 11]
/-- The destination type of CVT: TY, 0 meaning f32 (R317). -/
def cvtDst (m : Mods) : Nat := if m.ty = 0 then 14 else m.ty.toNat
/-- The source type of CVT: c<4:0>, 0 meaning s32 (R317). -/
def cvtSrc (m : Mods) : Nat := if m.c.extractLsb' 0 5 = 0 then 7 else (m.c.extractLsb' 0 5).toNat

/-- The AOP of an atomic: mod<2:0> (R338). -/
def aop (m : Mods) : Nat := (if m.sat then 4 else 0) + m.rm.toNat

/-- The types an AOP accepts besides 0 (R338). -/
def aopTys (op : Nat) (shared : Bool) : List Nat :=
  if op = 0 then (if shared then [7, 8, 9, 14] else [7, 8, 9, 10, 11, 12, 14])
  else if op = 1 ∨ op = 2 then (if shared then [7, 8, 14] else [7, 8, 10, 11, 14])
  else if shared then [9] else [9, 12]

/-- The selectors of SRD that are 64 bits wide (R279). -/
def srdWide (sel : Nat) : Bool := sel == 1 || sel == 7 || (13 ≤ sel && sel ≤ 22)

/-- The number of elements of a CVPK type (R319); TY 0 is f16. -/
def cvpkCount (ty : Nat) : Nat := if ty = 0 ∨ ty = 15 ∨ ty = 16 then 2 else 4

/-- The highest position p of a CVPK type (R319). -/
def cvpkMaxPos (ty : Nat) : Nat := if ty = 20 then 1 else if ty = 22 then 3 else 0

/-- A rendezvous form's point beyond z23 (R251). -/
def ptBad (pt : BitVec 5) : List (Bool × DErr) := [(decide (23 < pt.toNat), .badPoint)]

/-- The order of a memory form is one the form accepts (R246, R334). -/
def orderBad (m : Mods) (acc : List Nat) : List (Bool × DErr) :=
  [(!(acc.contains (m.xm.extractLsb' 2 2).toNat), .reservedCode)]

/-- Whether the order of an atomic acquires (R246, R335). -/
def ordAcq (m : Mods) : Bool := (m.xm.extractLsb' 2 2).toNat == 1 || (m.xm.extractLsb' 2 2).toNat == 3

/-- The three-register form of an arithmetic instruction. -/
def f3 (m : Mods) (u : Bool) (d a b : RegNo) : Form := { m, once := u, ops := [wOp d, rOp a, rOp b] }
/-- The two-register form. -/
def f2 (m : Mods) (u : Bool) (d a : RegNo) : Form := { m, once := u, ops := [wOp d, rOp a] }

/-- The form of a lane, uniform or control word; none for M-words and events. -/
def form : Instr → Option Form
  | .iadd m u d a b | .isub m u d a b =>
    let k := tyRegs m.ty.toNat
    some { m, once := u, ops := [wOp d k, rOp a k, rOp b k], tys := [7, 8, 9, 10, 11], sat := m.ty != 9 }
  | .iaddc m u d a b =>
    some { m, once := u, ops := [wOp d 2, rOp a, rOp b], tys := [8, 9], xm := 1,
           cuse := if m.xm.getLsbD 0 then .src 1 1 else .none }
  | .imul m u d a b => some { f3 m u d a b with tys := [7, 8, 9], sat := m.ty != 9 }
  | .imulh m u d a b | .imin m u d a b | .imax m u d a b | .bfx m u d a b => some { f3 m u d a b with tys := [7, 8] }
  | .imad m u d a b => some { f3 m u d a b with tys := [7, 8, 9], sat := m.ty != 9, cuse := .src 1 1 }
  | .imadw m u d a b =>
    some { m, once := u, ops := [wOp d 2, rOp a, rOp b], tys := [7, 8], sat := true, cuse := .src 2 2 }
  | .isad m u d a b => some { f3 m u d a b with tys := [7, 8], sat := true, cuse := .src 1 1 }
  | .iabs m u d a | .ineg m u d a => some { f2 m u d a with tys := [7], sat := true }
  | .shl m u d a b | .shr m u d a b | .sar m u d a b | .and m u d a b | .or m u d a b | .xor m u d a b => some (f3 m u d a b)
  | .fsl m u d a b | .fsr m u d a b => some { f3 m u d a b with cuse := .src 1 1 }
  | .bfn3 m u d a b =>
    some { f3 m u d a b with cuse := .src 1 1, modImm := true, bad := [(m.ty.extractLsb' 1 4 != 0, .prefixField)] }
  | .bfi m u d a b | .bysel m u d a b | .isel m u d a b => some { f3 m u d a b with tys := [9], cuse := .src 1 1 }
  | .iset m u d a b => some { f3 m u d a b with xm := 15, bad := [(decide (10 ≤ m.xm.toNat), .reservedCode)] }
  | .mov m u d a =>
    let k := tyRegs m.ty.toNat
    some { m, once := u, ops := [wOp d k, rOp a k], tys := [9, 12, 13] }
  | .lea m u d a b => some { m, once := u, ops := [wOp d 2, rOp a 2, rOp b], xm := 15 }
  | .leaw m u d a b =>
    some { m, once := u, ops := [wOp d 2, rOp a 2, rOp b 2], xm := 15, bad := [(m.xm.getLsbD 3, .reservedCode)] }
  | .idot4 m u d a b =>
    some { f3 m u d a b with xm := 15, sat := true, cuse := .src 1 1, bad := [(m.xm.extractLsb' 2 2 != 0, .reservedCode)] }
  | .idot2 m u d a b =>
    some { f3 m u d a b with xm := 15, sat := true, cuse := .src 1 1, bad := [(m.xm.extractLsb' 2 2 == 3, .reservedCode)] }
  | .lxch m d a b =>
    let k := tyRegs m.ty.toNat
    let first := m.xm.extractLsb' 0 2 == 3
    some { m, ops := [wOp d k, rOp a k] ++ (if first then [] else [rOp b]), tys := [9, 12], xm := 15,
           bad := [(first && b != 0, .unusedField)] }
  | .fadd m u d a b | .fsub m u d a b | .fmul m u d a b => some { f3 m u d a b with tys := [14], xm := 15, rm := true }
  | .ffma m u d a b => some { f3 m u d a b with tys := [14], xm := 3, rm := true, cuse := .src 1 1 }
  | .fmin m u d a b | .fmax m u d a b => some { f3 m u d a b with tys := [14] }
  | .fset m u d a b =>
    some { f3 m u d a b with tys := [14], xm := 15, bad := [(decide (12 ≤ m.xm.toNat), .reservedCode)] }
  | .fsel m u d a b =>
    some { f3 m u d a b with tys := [14], xm := 15, cuse := .src 1 1, bad := [(decide (12 ≤ m.xm.toNat), .reservedCode)] }
  | .frnd m u d a => some { f2 m u d a with tys := [14], xm := 1, rm := true }
  | .ffrc m u d a | .frcp m u d a | .frsq m u d a | .fexp2 m u d a | .flog2 m u d a | .fsin m u d a | .fcos m u d a =>
    some { f2 m u d a with tys := [14] }
  | .fsqt m u d a => some { f2 m u d a with tys := [14], rm := true }
  | .fscl m u d a b => some { f3 m u d a b with tys := [14], rm := true }
  | .fext m u d a b =>
    some { m, once := u, ops := [wOp d, rOp a] ++ (if m.xm = 4 then [rOp b] else []), tys := [14], xm := 15,
           bad := [(m.xm != 4 && b != 0, .unusedField), (decide (5 ≤ m.xm.toNat), .reservedCode)] }
  | .pkadd m u d a b | .pksub m u d a b | .pkmul m u d a b => some { f3 m u d a b with tys := [15, 16], xm := 3, rm := true }
  | .pkfma m u d a b => some { f3 m u d a b with tys := [15, 16], xm := 3, rm := true, cuse := .src 1 1 }
  | .pkmin m u d a b | .pkmax m u d a b => some { f3 m u d a b with tys := [15, 16], xm := 3 }
  | .pkcmp m u d a b =>
    some { f3 m u d a b with tys := [15, 16], xm := 15, bad := [(decide (12 ≤ m.xm.toNat), .reservedCode)] }
  | .cvt m u d a =>
    let ii := cvtInts.contains (cvtDst m) && cvtInts.contains (cvtSrc m)
    some { m, once := u, ops := [wOp d (tyRegs (cvtDst m)), rOp a (tyRegs (cvtSrc m))],
           tys := cvtFloats ++ cvtInts, cuse := .ty2, sat := ii, rm := !ii,
           bad := [(!((cvtFloats ++ cvtInts).contains (cvtSrc m)), .badType)] }
  | .cvpk m u d a =>
    let k := cvpkCount m.ty.toNat
    some { m, once := u, ops := if m.xm.getLsbD 3 then [wOp d k, rOp a] else [rOp d, rOp a k],
           tys := [15, 16, 17, 18, 19, 20, 22], xm := 15, rm := true,
           cuse := if m.xm.getLsbD 2 then .src 1 1 else .none,
           bad := [(decide (cvpkMaxPos m.ty.toNat < (m.xm.extractLsb' 0 2).toNat), .reservedCode)] }
  | .cvsc m u d a b =>
    let app := m.xm.getLsbD 0
    some { m, once := u, ops := [wOp d, rOp a] ++ (if app then [rOp b] else []),
           tys := if app then [14] else [17, 18, 19, 20], xm := if app then 3 else 1, rm := app,
           bad := [(!app && b != 0, .unusedField)] }
  | .iaddi m u d a _ => some { f2 m u d a with tys := [7, 8, 9], sat := m.ty != 9 }
  | .shli m u d a _ | .shri m u d a _ | .sari m u d a _ => some (f2 m u d a)
  | .andi m u d a _ | .ori m u d a _ | .xori m u d a _ => some (f2 m u d a)
  | .popc m u d a | .clz m u d a | .ctz m u d a | .brev m u d a => some (f2 m u d a)
  | .fcls m u d a _ => some { f2 m u d a with tys := [14] }
  | .vote m d a _ => some (f2 m false d a)
  | .ball m d a mode =>
    some { m, ops := [wOp d] ++ (if mode = 2 then [] else [rOp a]),
           bad := [(mode == 2 && a != 0, .unusedField), (mode == 3, .reservedCode)] }
  | .gred m d a excl op =>
    some { f2 m false d a with tys := if op.toNat < 3 then [7, 8, 14] else [9], bad := [(excl || decide (6 ≤ op.toNat), .reservedCode)] }
  | .gscn m d a _ op =>
    some { f2 m false d a with tys := if op.toNat < 3 then [7, 8, 14] else [9], bad := [(decide (6 ≤ op.toNat), .reservedCode)] }
  | .movi m u d _ => some { m, once := u, ops := [wOp d], xm := 1 }
  | .movh m u d _ => some { m, once := u, ops := [rOp d] }
  | .ld m u fs d a _ =>
    some { m, once := u, ops := [wOp d (tyRegs m.ty.toNat), rOp a 2], tys := memTys, xm := 15, flag := some fs,
           hold := (m.xm.extractLsb' 2 2).toNat == 1, bad := orderBad m [0, 1] }
  | .st m d a _ =>
    some { m, ops := [rOp d (tyRegs m.ty.toNat), rOp a 2], tys := memTys, xm := 15, bad := orderBad m [0, 2] }
  | .lds m u d a _ => some { m, once := u, ops := [wOp d (tyRegs m.ty.toNat), rOp a], tys := memTys }
  | .sts m d a _ => some { m, ops := [rOp d (tyRegs m.ty.toNat), rOp a], tys := memTys }
  | .ldc m u fs d a _ =>
    some { m, once := u, ops := [wOp d (tyRegs m.ty.toNat), rOp a 2], tys := memTys, flag := some fs }
  | .prf m a _ => some { m, ops := [rOp a 2] }
  | .fence m kind _ => some { m, ops := [], hold := true, bad := [(kind == 0, .reservedCode)] }
  | .prm m a _ => some { m, ops := [rOp a 2], hold := true }
  | .atom m fs d a b =>
    let k := tyRegs m.ty.toNat
    some { m, ops := [wOp d k, rOp a 2, rOp b k], tys := aopTys (aop m) false, xm := 15, sat := true, rm := true,
           flag := some fs, hold := ordAcq m, cuse := if aop m = 7 then .src k k else .none }
  | .red m a b =>
    let k := tyRegs m.ty.toNat
    some { m, ops := [rOp a 2, rOp b k], tys := aopTys (aop m) false, xm := 15, sat := true, rm := true,
           bad := (decide (6 ≤ aop m), .reservedCode) :: orderBad m [0, 2] }
  | .atoms m d a b =>
    some { m, ops := [wOp d, rOp a, rOp b], tys := aopTys (aop m) true, xm := 15, sat := true, rm := true,
           hold := ordAcq m, cuse := if aop m = 7 then .src 1 1 else .none }
  | .cpy m fs d a b =>
    some { m, ops := [rOp d (if m.xm.extractLsb' 0 2 = 0 then 2 else 1), rOp a (if m.xm.extractLsb' 2 2 = 0 then 2 else 1), rOp b],
           xm := 15, sat := true, flag := some fs }
  | .cpyt m fs d a b =>
    some { m, ops := [rOp d, rOp a, rOp b 4], tys := [1, 7, 14, 15, 16, 17, 18, 22], xm := 1, sat := true, flag := some fs }
  | .gath m fs d a b =>
    some { m, ops := [⟨d, 1, 1, m.xm.getLsbD 0⟩, rOp a 2, rOp b], tys := [3, 6, 9, 12, 13], xm := 1, flag := some fs }
  | .scat m fs d a b => some { m, ops := [rOp d, rOp a 2, rOp b], tys := [3, 6, 9, 12, 13], xm := 1, flag := some fs }
  | .tdset m fs a b => some { m, ops := [rOp a, rOp b 2], flag := some fs }
  | .tdrd m fs a b => some { m, ops := [rOp a, rOp b 2], xm := 1, flag := some fs }
  | .ttag m a b => some { m, ops := [rOp a, rOp b] }
  | .jnext m fs a => some { m, ops := [rOp a], flag := some fs, once := true }
  | .coll m fs a b => some { m, ops := [rOp a 2, rOp b], tys := [7, 8, 14], xm := 3, flag := some fs, once := true }
  | .plmv m fs a b => some { m, ops := [rOp a 2, rOp b 4], flag := some fs }
  | .mxacq m d => some { m, ops := [wOp d], once := true }
  | .mxrel m a => some { m, ops := [rOp a], once := true }
  | .mxgo m d a b =>
    let st := m.xm.getLsbD 1
    some { m, ops := [wOp d] ++ (if st then [] else [rOp a 2, rOp b]), xm := 7, once := true,
           bad := [(st && (a != 0 || b != 0), .unusedField)] }
  | .brl m a _ => some { m, ops := [rOp a], xm := 1, transfer := true }
  | .jmp m a | .ret m a => some { m, ops := [rOp a 2], transfer := true }
  | .callDirect m a _ | .callRegister m a => some { m, ops := [wOp a 2], transfer := true }
  | .uadd m d a b | .usub m d a b | .uand m d a b | .uor m d a b | .uxor m d a b | .ushl m d a b | .ushr m d a b
  | .umul m d a b => some (f3 m true d a b)
  | .umov m d a => some (f2 m true d a)
  | .ucmp m d a b => some { f3 m true d a b with xm := 15, bad := [(decide (10 ≤ m.xm.toNat), .reservedCode)] }
  | .usel m d a b => some { f3 m true d a b with cuse := .src 1 1 }
  | .ulea m d a b => some { m, once := true, ops := [wOp d 2, rOp a 2, rOp b], xm := 15 }
  | .umovi m d _ => some { m, once := true, ops := [wOp d], xm := 1 }
  | .nop m | .yield m => some { m, ops := [], once := true }
  | .exit m => some { m, ops := [], transfer := true, once := true }
  | .rets m a b => some { m, ops := [rOp a 2, rOp b], transfer := true, once := true }
  | .launch m d a b => some { m, ops := [wOp d, rOp a 2, rOp b], once := true }
  | .gbar m => some { m, ops := [], once := true }
  | .trap m a => some { m, ops := [rOp a], once := true }
  | .evpost m d a | .frz m d a => some { m, ops := [wOp d, rOp a 2], once := true }
  | .sleep m a => some { m, ops := [rOp a], once := true }
  | .rzinit m a pt => some { m, ops := [rOp a], once := true, bad := ptBad pt }
  | .rzarv m d pt | .rzarw m d pt => some { m, ops := [wOp d], once := true, bad := ptBad pt }
  | .rzwait m a pt => some { m, ops := [rOp a], once := true, bad := ptBad pt }
  | .rzcarv m a pt => some { m, ops := [rOp a], once := true, bad := ptBad pt }
  | .rztest m d a pt => some { m, ops := [wOp d, rOp a], once := true, bad := ptBad pt }
  | .vgrow m d cnt | .vshrk m d cnt =>
    some { m, ops := [wOp d], once := true, bad := [(cnt.toNat % 8 != 0 || decide (cnt.toNat < 8) || decide (128 < cnt.toNat), .badCount)] }
  | .srd m d sel =>
    some { m, ops := [wOp d (if srdWide sel.toNat then 2 else 1)], once := true, bad := [(decide (23 ≤ sel.toNat), .badSelector)] }
  | .swr m a sel => some { m, ops := [rOp a], once := true, bad := [(sel != 0, .badSelector)] }
  | .csrrd m d a _ => some { m, ops := [wOp d, rOp a], once := true }
  | .csrwr m d a _ => some { m, ops := [rOp d, rOp a], once := true }
  | .bra m _ => some { m, ops := [], transfer := true, once := true }
  | .brc m a _ => some { m, ops := [rOp a], xm := 1, transfer := true, once := true }
  | _ => none

/-- The register operands of a word in the order d, a, b, c, guard (R426). -/
def Form.operands (f : Form) : List Opnd :=
  f.ops ++ (match f.cuse with | .src n al => [⟨f.m.c, n, al, false⟩] | _ => [])
    ++ (if f.m.g = 127 then [] else [rOp f.m.g])

/-- The conditions of R425 on an unprefixed or prefixed word, in ascending order of CODE. `w` is the word without its prefix;
`last` says that it ends its clause and `av`, `bv` are the header's valid bits. -/
def Form.checks (f : Form) (w : Word) (last av bv : Bool) : List (Bool × DErr) :=
  let m := f.m
  let own (e : DErr) : List (Bool × DErr) := f.bad.filter fun p => decide (p.2 = e)
  [(f.transfer && !last, .transferNotLast), (f.hold && !last, .holdNotLast)]
  ++ own .unusedField
  ++ (match f.cuse with
      | .none => [(m.c != defaultC w, .prefixField)]
      | .src _ _ => []
      | .ty2 => [(m.c.extractLsb' 5 2 != 0, .prefixField)])
  ++ own .prefixField
  ++ (if f.modImm then [] else
      [(m.xm &&& ~~~ f.xm != 0, .prefixField), (m.ty != 0 && !(f.tys.contains m.ty.toNat), .badType)]
      ++ own .badType
      ++ [(m.sat && !f.sat, .reservedCode), (m.rm != 0 && !f.rm, .reservedCode)])
  ++ own .reservedCode
  ++ [(m.g == 127 && m.gn, .guardField), (f.operands.any fun o => o.reg.toNat % o.al != 0, .registerAlign)]
  ++ (match f.flag with
      | some fs => [(if fs then !bv else !av, .flagInvalid)]
      | none => [])
  ++ own .badPoint ++ own .badCount ++ own .badSelector

/-- The first condition of a list that holds. -/
def firstBad : List (Bool × DErr) → Option DErr
  | [] => none
  | (b, e) :: t => if b then some e else firstBad t

/-- The prefix fields of a lane, uniform or control word. -/
def modsOf (i : Instr) : Option Mods := (form i).map Form.m

/-- The decode fault of a lane, uniform or control word that stands last in a clause whose header makes both flags valid, judged
from the instruction; for an M-word, the fault of its codes (R429). -/
def instrFault (i : Instr) (last av bv : Bool) : Option DErr :=
  match form i with
  | some f => firstBad (f.checks (encWord i) last av bv)
  | none => none

/-- Decodes one instruction word under the prefix fields `m` (R238 to R252, R425). -/
def decodeWordM (m : Mods) (w : Word) (last av bv : Bool) : Except DErr Instr :=
  if w.extractLsb' 27 3 = 6#3 then .error .fmt6
  else if w.extractLsb' 27 3 = 7#3 then .error .badPrefix
  else
    match decCell m w with
    | none => .error .reservedCell
    | some i =>
      match instrFault i last av bv with
      | some .transferNotLast => .error .transferNotLast
      | some .holdNotLast => .error .holdNotLast
      | e =>
        if encWord i = w then (match e with | some e => .error e | none => .ok i)
        else .error .unusedField

/-- Decodes an instruction of one word or of a prefix and a word. -/
def decodeInstr (pfx : Option Word) (w : Word) (last av bv : Bool) : Except DErr Instr :=
  match pfx with
  | none => decodeWordM (defaultMods w) w last av bv
  | some p => decodeWordM (decPfx p) w last av bv

/-- The reserved codes of an M-word's fields (R254, R255, R429). -/
def mwordFault : Instr → Bool
  | .mlda _ _ ty _ _ => decide (5 < ty.toNat)
  | .mldb _ sub _ _ ty _ _ => decide (5 < ty.toNat) || sub == 0
  | .mma _ _ _ ord ty _ _ => decide (7 < ty.toNat) || ord == 3
  | .mstc _ _ ty _ _ _ => decide (6 < ty.toNat)
  | .mwtg _ tag _ _ => tag == 3
  | _ => false

/-- Decodes an M-word (R254, R255, R429). -/
def decodeM (w : Word) : Except DErr Instr :=
  match decMCell w with
  | none => .error .mwordReserved
  | some i => if encWord i = w then (if mwordFault i then .error .mwordCode else .ok i) else .error .mwordReserved

/-! ### Clauses (R231 to R234) -/

/-- A clause header (R232). -/
structure Header where
  wait : BitVec 12
  len : Nat
  av : Bool
  af : BitVec 4
  bv : Bool
  bf : BitVec 4
  yld : Bool
  deriving DecidableEq, Repr

/-- The header of R232, or the fault of R425 it raises. -/
def decodeHeader (w : Word) : Except DErr Header :=
  let h : Header :=
    { wait := w.extractLsb' 20 12, len := (w.extractLsb' 16 4).toNat, av := w.getLsbD 15, af := w.extractLsb' 11 4,
      bv := w.getLsbD 10, bf := w.extractLsb' 6 4, yld := w.getLsbD 5 }
  if h.len = 0 then .error .headerLen
  else if w.extractLsb' 0 5 ≠ 0 then .error .headerReserved
  else if (h.av && decide (11 < h.af.toNat)) || (h.bv && decide (11 < h.bf.toNat)) then .error .headerFlag
  else .ok h

/-- The header word (R232). -/
def encHeader (h : Header) : Word :=
  h.wait ++ BitVec.ofNat 4 h.len ++ BitVec.ofBool h.av ++ h.af ++ BitVec.ofBool h.bv ++ h.bf ++ BitVec.ofBool h.yld ++ 0#5

/-- An instruction of a clause: the offset of its first word, 1 for the word after the header (R422), and the instruction. -/
structure Slot where
  off : Nat
  ins : Instr
  deriving DecidableEq, Repr

/-- A decode fault of a clause: its name, the offset of the offending word (0 for the header) and INFO, the offending word
(R422, R425). -/
structure ClauseErr where
  err : DErr
  off : Nat
  info : Word
  deriving DecidableEq, Repr

/-- The words of a clause, from offset `off` on, decoded in order (R425, R482). DESIGN CHOICE (safe): of a prefix and its word, INFO is the second word
whichever of the two holds the field that breaks the rule, where R425 says the offending word. DESIGN CHOICE (safe): an encoding that is no instruction and
follows a prefix is recorded, as R422 says of an instruction, at its prefix. -/
def decodeWords (av bv : Bool) : Nat → List Word → Except ClauseErr (List Slot)
  | _, [] => .ok []
  | off, [w] =>
    if isPfx w then .error ⟨.badPrefix, off, w⟩
    else
      match decodeInstr none w true av bv with
      | .error e => .error ⟨e, off, w⟩
      | .ok i => .ok [⟨off, i⟩]
  | off, w :: v :: rest =>
    if isPfx w then
      if isPfx v then .error ⟨.badPrefix, off, w⟩
      else
        match decodeInstr (some w) v rest.isEmpty av bv with
        | .error e => .error ⟨e, off, v⟩
        | .ok i =>
          match decodeWords av bv (off + 2) rest with
          | .error e => .error e
          | .ok l => .ok (⟨off, i⟩ :: l)
    else
      match decodeInstr none w false av bv with
      | .error e => .error ⟨e, off, w⟩
      | .ok i =>
        match decodeWords av bv (off + 1) (v :: rest) with
        | .error e => .error e
        | .ok l => .ok (⟨off, i⟩ :: l)

/-- A decoded clause. -/
structure Clause where
  hdr : Header
  slots : List Slot
  deriving DecidableEq, Repr

/-- Decodes a clause: the header first, then its words in order (R482). `ws` holds the words that follow the header. -/
def decodeClause (h : Word) (ws : List Word) : Except ClauseErr Clause :=
  match decodeHeader h with
  | .error e => .error ⟨e, 0, h⟩
  | .ok hd =>
    match decodeWords hd.av hd.bv 1 (ws.take hd.len) with
    | .error e => .error e
    | .ok l => .ok ⟨hd, l⟩

/-! ### Encoding (R260) -/

/-- Whether an instruction has an encoding as an M-word (R254). -/
def isMword : Instr → Bool
  | .mnop | .mend | .mlda .. | .mldb .. | .mma .. | .mzro .. | .mstc .. | .madc .. | .mrza .. | .mrzw .. | .mwtg .. | .mset ..
  | .madd .. | .mlop .. | .maud .. => true
  | _ => false

/-- The words of a lane, uniform or control instruction: a prefix is emitted exactly when a prefix field differs from its default
(R260). An M-word is one word; an event has none. -/
def encode (i : Instr) : List Word :=
  match modsOf i with
  | some m => if m = defaultMods (encWord i) then [encWord i] else [encPfx m, encWord i]
  | none => if isMword i then [encWord i] else []

/-- Decodes the words of one lane, uniform or control instruction that ends its clause, both flags valid. -/
def decodeLane (ws : List Word) : Except DErr Instr :=
  match ws with
  | [w] => if isPfx w then .error .badPrefix else decodeInstr none w true true true
  | [p, w] => if isPfx p then (if isPfx w then .error .badPrefix else decodeInstr (some p) w true true true) else .error .badPrefix
  | _ => .error .badPrefix

/-- An instruction that the decoder can produce: its fields raise no decode fault. -/
def decodable (i : Instr) : Bool :=
  match form i with
  | some _ => (instrFault i true true true).isNone
  | none => isMword i && !mwordFault i

/-- The instruction the decoder reads from a table word: 32 bits, one word, little-endian (R231, R238). A word that is a lane,
uniform or control instruction without a prefix is that instruction; any other is read as a word of the matrix stream (R253). -/
def decodeTableWord (nbits w : Nat) : Option Instr :=
  if nbits ≤ 32 ∧ w < 2 ^ 32 then
    match decodeLane [BitVec.ofNat 32 w] with
    | .ok i => some i
    | .error _ =>
      match decodeM (BitVec.ofNat 32 w) with
      | .ok i => some i
      | .error _ => none
  else none

end Sys2Proof
end

