-- ==== Sys2Proof/Machine/Sparse.lean ====
section
/-! DEFINITION. Sparse maps from natural numbers, as lists in one canonical form: keys strictly rising, and no entry equal to what an
unlisted key reads as. Memory, registers and device registers are held so. -/

namespace Sys2Proof.Machine

/-- The value at key `k`; an unlisted key reads as `d`. -/
def sget {α : Type} (d : α) : List (Nat × α) → Nat → α
  | [], _ => d
  | (j, v) :: t, k => if k = j then v else if k < j then d else sget d t k

/-- Whether key `k` is listed. -/
def shas {α : Type} : List (Nat × α) → Nat → Bool
  | [], _ => false
  | (j, _) :: t, k => if k = j then true else if k < j then false else shas t k

/-- The entry at key `k`, if listed. -/
def sfind {α : Type} : List (Nat × α) → Nat → Option α
  | [], _ => none
  | (j, v) :: t, k => if k = j then some v else if k < j then none else sfind t k

/-- The map without key `k`. -/
def sdel {α : Type} : List (Nat × α) → Nat → List (Nat × α)
  | [], _ => []
  | (j, v) :: t, k => if k = j then t else if k < j then (j, v) :: t else (j, v) :: sdel t k

/-- The map with `v` listed at key `k`. -/
def sins {α : Type} : List (Nat × α) → Nat → α → List (Nat × α)
  | [], k, v => [(k, v)]
  | (j, w) :: t, k, v => if k = j then (k, v) :: t else if k < j then (k, v) :: (j, w) :: t else (j, w) :: sins t k v

/-- Writes `v` at key `k`, where an unlisted key reads as `d`: writing `d` removes the entry. -/
def sput {α : Type} [DecidableEq α] (d : α) (l : List (Nat × α)) (k : Nat) (v : α) : List (Nat × α) :=
  if v = d then sdel l k else sins l k v

/-- Every key of the map is above `b`, keys rise strictly, and every entry satisfies `p`. -/
def sok {α : Type} (p : Nat → α → Bool) : Option Nat → List (Nat × α) → Bool
  | _, [] => true
  | b, (j, v) :: t => (match b with | some b => decide (b < j) | none => true) && p j v && sok p (some j) t

/-- Memory: bytes by address (Host.Cell). -/
abbrev Memory := List Host.Cell

/-- The canonical form of memory: addresses strictly rising, no byte equal to 0, what an unlisted address reads as. -/
def Memory.wf (m : Memory) : Bool := sok (fun _ b => b != 0) none m

/-- The byte at an address. -/
def Memory.get (m : Memory) (a : Nat) : Byte := sget 0 m a

/-- Writes one byte. -/
def Memory.put (m : Memory) (a : Nat) (b : Byte) : Memory := sput 0 m a b

/-- Writes a list of bytes from an address upward. -/
def Memory.putList (m : Memory) (a : Nat) : List Byte → Memory
  | [] => m
  | b :: t => Memory.putList (m.put a b) (a + 1) t

/-- The `n` bytes from an address upward. -/
def Memory.getList (m : Memory) (a : Nat) : Nat → List Byte
  | 0 => []
  | n + 1 => m.get a :: Memory.getList m (a + 1) n

/-- The little-endian number of a list of bytes (R8). -/
def leNat : List Byte → Nat
  | [] => 0
  | b :: t => b.toNat + 256 * leNat t

/-- The `n` little-endian bytes of a number (R8). -/
def leBytes (v : Nat) : Nat → List Byte
  | 0 => []
  | n + 1 => BitVec.ofNat 8 v :: leBytes (v / 256) n

/-- Little-endian bytes of a list of words (R9). -/
def wordsBytes (ws : List Word) : List Byte := (ws.map fun w => leBytes w.toNat 4).flatten

/-- The words of a list of bytes (R9). -/
def bytesWords : List Byte → List Word
  | a :: b :: c :: d :: t => BitVec.ofNat 32 (leNat [a, b, c, d]) :: bytesWords t
  | _ => []

/-- Word `k` of a record (R9). -/
def wd (ws : List Word) (k : Nat) : Word := ws.getD k 0

/-- Bits <hi:lo> of a word, as a number (R8). -/
def bits (w : Word) (hi lo : Nat) : Nat := w.toNat / 2 ^ lo % 2 ^ (hi + 1 - lo)

/-- A 52-bit address from a low word and the low 20 bits of a high word. -/
def addr52 (lo hi : Word) : Nat := lo.toNat + 2 ^ 32 * (hi.toNat % 2 ^ 20)

end Sys2Proof.Machine
end

