-- ==== Sys2Proof/Machine/State.lean ====
section
/-! DEFINITION. The state of the Sulor S4: what the spec gives a thread, group, team, column, grid, context, function and the device,
as plain data, and the state after reset. -/

namespace Sys2Proof.Machine

/-- Why a step stops the machine. -/
inductive Fault where
  /-- Raised by a lane, uniform or control word when no bundle holds the issue slot: step never runs such a word (safe: no instruction
  executes outside a bundle, R31). -/
  | noBundle
  /-- Raised by an M-word when no team's matrix stream holds the step: step never runs such a word (safe, R253). -/
  | noStream
  deriving DecidableEq, Repr

/-- Why an instruction has no meaning in this model. -/
inductive Refusal where
  /-- Raised by an instruction that is not modelled yet (safe). -/
  | notModelled (mnemonic : String)
  deriving DecidableEq, Repr

/-! ### Threads -/

/-- What a thread waits at (R60), by the codes of R129. -/
inductive WaitKind where
  | none | rendezvous | collective | vgrow | gbar | sleep | scoreboard | rets | memHeld | stopped | release | csr
  deriving DecidableEq, Repr

/-- The wait of a thread (R129): kind, word offset in the clause, rendezvous token and point, DT at which a SLEEP ends. Of a hold by a memory fault, `token` is
the address (R436). -/
structure Wait where
  kind : WaitKind := .none
  word : Nat := 0
  token : Nat := 0
  point : Nat := 0
  until_ : Nat := 0
  /-- the release the word performs first has started (R60); a 16-byte scratchpad word has performed its lower part (R177); a hold by a memory fault is a
  wait without a record, which the word itself ends (R443) -/
  started : Bool := false
  deriving DecidableEq, Repr

/-- The hold of an acquire word, FENCE or PRM (R335): its scope code and whether it acquires and releases. -/
structure Hold where
  acq : Bool
  rel : Bool
  scope : Nat
  /-- the access an acquire word waits on, by its number -/
  access : Option Nat := none
  /-- the write-backs of its release have been made -/
  started : Bool := false
  /-- what it acquires has returned: the hold of an ATOMS (R342) -/
  returned : Bool := false
  /-- the hold of a PRM, which waits out the horizon (R196) -/
  prm : Bool := false
  /-- the counted acquire has been granted (R476) -/
  granted : Bool := false
  deriving DecidableEq, Repr

/-- A thread (R30, R129). -/
structure Thread where
  pc : VAddr := 0
  regs : List (Nat × Word) := []
  status : Word := 0
  flags : BitVec 48 := 0
  horizon : Nat := 0
  floor : Nat := 0
  wait : Wait := {}
  /-- registers pending, each with the flag of the operation that names it (R236) -/
  pend : List (Nat × Nat) := []
  /-- poisoned registers (R458) -/
  poison : List Nat := []
  hold : Option Hold := none
  /-- accesses to PEER pages not yet acknowledged (R189), and whether a reduction may be among them (R187) -/
  peerOut : Nat := 0
  redOut : Bool := false
  /-- of the former, those that the return router forwards (R75) -/
  routedPeer : Nat := 0
  exited : Bool := false
  deriving DecidableEq, Repr

/-- A group (R28, R41, R42): its register count and its pending VGROW request. `waited` are the core cycles the request has waited up to
`mark`, the column clock from which they count on while the team executes or moves (R44). -/
structure Group where
  n : Nat
  req : Option Nat := none
  waited : Nat := 0
  mark : Option Nat := none
  deriving DecidableEq, Repr

/-- A bundle (R31, R108, R109). Inside a clause, `clause` holds its header and decoded words and `pos` the index of the next word. -/
structure Bundle where
  threads : List Nat
  slice : Nat
  stamp : Nat
  active : Bool
  clause : Option Clause := none
  pos : Nat := 0
  /-- YIELD or a header with YLD = 1 has been met in this clause (R237, R272) -/
  yielded : Bool := false
  /-- the word at `pos` has been issued once and its threads wait at it (R60, R108) -/
  issued : Bool := false
  deriving DecidableEq, Repr

/-! ### Outstanding accesses -/

/-- Where an outstanding access stands. -/
inductive AccState where
  /-- held in the load-store unit until the release that precedes it has completed (R335) -/
  | unreleased
  /-- on its way to its home, host, peer or column store -/
  | sent
  /-- held by a memory fault (R436) -/
  | held
  /-- waiting at its home for its completion time -/
  | atHome
  /-- data has arrived -/
  | ready
  deriving DecidableEq, Repr

/-- What an outstanding access does. -/
inductive AccKind where
  | load
  | window (member : Nat)
  | atomic (aop ty : Nat) (b c : Nat)
  | reduction (aop ty : Nat) (b : Nat)
  | store (data : Nat)
  | gather
  deriving DecidableEq, Repr

/-- A place an access delivers to: thread, first register, register count, flag. -/
structure Dest where
  thread : Nat
  reg : Nat
  cnt : Nat
  flag : Option Nat
  /-- the combined operands of the lanes before this one in an aggregated atomic (R340), or this lane's own operand in a reduction (R437) -/
  before : Option Nat := none
  deriving DecidableEq, Repr

/-- An outstanding access of a team, an entry of the pending-write list where it delivers to registers (R73). -/
structure Access where
  id : Nat
  kind : AccKind
  va : Nat
  size : Nat
  ty : Nat
  scope : Nat
  dests : List Dest
  state : AccState
  value : Nat := 0
  /-- completion time at the home, once known -/
  t : Nat := 0
  /-- address of the clause header and word offset of the issuing word -/
  pc : Nat := 0
  word : Nat := 0
  /-- the data read was poisoned (R448) -/
  poison : Bool := false
  /-- the release this access carries (R335), and whether its write-backs have been made -/
  rel : Bool := false
  started : Bool := false
  /-- the access acquires (R335) -/
  acq : Bool := false
  /-- it has come back out of the side log (R439) -/
  logged : Bool := false
  /-- the return router of the column has an entry for it (R75), and its result has been forwarded to the target -/
  routed : Bool := false
  forwarded : Bool := false
  /-- the lower 8 bytes of a 16-byte access have been performed (R177) -/
  half : Bool := false
  /-- the first number of the accesses of its word, which orders them by lane at one location (R330, R341); none of a replay -/
  batch : Option Nat := none
  deriving DecidableEq, Repr

/-! ### Team state in the column -/

/-- A rendezvous point (R50). `cluster` records whether an arrival of the current phase came through RZCARV, `marks` the completed phases of
which one did (R53). -/
structure RzPoint where
  e : Nat := 0
  a : Nat := 0
  p : Nat := 0
  cluster : Bool := false
  marks : List Nat := []
  deriving DecidableEq, Repr

/-- A range-scoreboard entry (R137): W or R, first and last granule, the request that holds it. -/
structure SbEntry where
  write : Bool
  lo : Nat
  hi : Nat
  req : Nat
  deriving DecidableEq, Repr

/-- A tag (R139). -/
inductive Tag where
  | empty | valid | held
  deriving DecidableEq, Repr

/-- A tile slot (R139): data, tag, the queue of requests in order of arrival, and poison (R448). A HELD slot is held by the front of its
queue. -/
structure Tile where
  data : List (Nat × Byte) := []
  tag : Tag := .empty
  queue : List Nat := []
  poison : Bool := false
  deriving DecidableEq, Repr

/-- The kind of an accumulator (R361). -/
inductive AccumKind where
  | none | f32 | s32
  deriving DecidableEq, Repr

/-- An accumulator: 32 × 32 words by row (R361). -/
structure Accum where
  kind : AccumKind := .none
  data : List (Nat × Word) := []
  poison : Bool := false
  deriving DecidableEq, Repr

/-- A loaded operand: a row-buffer entry or a macro (R361, R363). `rank` orders the row buffer by load, `rc` marks macros loaded by one
MLDB `.rc`. -/
structure Operand where
  slot : Nat
  ty : Nat
  data : List (Nat × Byte)
  rank : Nat := 0
  rc : Bool := false
  poison : Bool := false
  deriving DecidableEq, Repr

/-- A held matrix engine (R358, R361). -/
structure Engine where
  accs : List (Nat × Accum) := []
  rows : List (Option Operand) := [none, none, none, none]
  macros : List (Option Operand) := [none, none, none, none]
  rank : Nat := 0
  /-- the operand of the MXREL that is releasing it (R359) -/
  releasing : Option Nat := none
  deriving DecidableEq, Repr

/-- The recomputation of a watched accumulator (R227): F32 codes, or exact integers. -/
structure Watch where
  kind : AccumKind := .none
  data : List (Nat × Int) := []
  deriving DecidableEq, Repr

/-- The audit of a stream (R227, R228, R367): whether MAUD or a passed selection selects the next counted tile; the selections that wait for the audit unit,
oldest first; and the one that the unit watches, with the accumulators written since. A selection is a tensor id whose ACNT has come to P − 1, 256 for MAUD or
257 for a passed one. -/
structure Audit where
  force : Bool := false
  pass : Bool := false
  waits : List Nat := []
  watch : Option (Nat × List (Nat × Watch)) := none
  deriving DecidableEq, Repr

/-- The matrix stream of a team (R360, R361): position, status bits, order default, the M-word fetched, and the token an MRZW waits
on. -/
structure Stream where
  pos : Nat := 0
  flags : BitVec 6 := 0
  run : Bool := false
  end_ : Bool := false
  wt : Bool := false
  abt : Bool := false
  rcDefault : Bool := false
  ir : Option Word := none
  token : Option Nat := none
  /-- the place of the waiting M-word in the queue of its tile slot (R139) -/
  place : Option Nat := none
  /-- the slot and tag MWTG watches, and whether the slot has held the tag since (R139) -/
  watch : Option (Nat × Tag) := none
  seen : Bool := false
  /-- held by a memory fault at an address until a notice (R436, R481) -/
  held : Bool := false
  heldVa : Nat := 0
  audit : Audit := {}
  deriving DecidableEq, Repr

/-- Where a team is (R47, R72). -/
inductive Place where
  | core (layer : Nat)
  | parked
  /-- in transfer from one core to another -/
  | moving (src dst : Nat)
  deriving DecidableEq, Repr

/-- Performance counters (R79). -/
structure Counters where
  migCount : Nat := 0
  migCycles : Nat := 0
  res1 : Nat := 0
  res2 : Nat := 0
  res3 : Nat := 0
  res4 : Nat := 0
  stakeBytes : Nat := 0
  deriving DecidableEq, Repr

/-- The RETS hand-over of a team (R101, R103): the card address, mask, and the step reached: 1 to 3 as in R103, 6 once a cluster member has done steps 3
to 5 and waits for the others (R104). -/
structure Handover where
  card : Nat
  mask : Nat
  thread : Nat
  step : Nat
  words : List Word
  /-- it has failed, and is abandoned when the team is released (R431) -/
  failed : Bool := false
  deriving DecidableEq, Repr

/-- A team (R28, R30, R46, R59). -/
structure Team where
  grid : Nat
  index : Nat
  member : Nat := 0
  /-- team keys of the cluster's members, in member order -/
  cluster : List Nat := []
  place : Place
  age : Nat
  /-- DT of the last placement or migration (R67), and of the last placement (R48) -/
  since : Nat := 0
  placedAt : Nat := 0
  /-- DT from which its residence on its core counts (R79) -/
  resFrom : Nat := 0
  /-- column clock and DT at the halt request of its migration, and the clocks of the halt requests of its completed ones since which it has not issued
  (R79) -/
  migFrom : Option (Nat × Nat) := none
  migDone : List Nat := []
  /-- every bundle has halted for its migration: none issues, and no wait ends, until it resumes (R72) -/
  still : Bool := false
  groups : List Group
  threads : List Thread
  bundles : List Bundle := []
  accesses : List Access := []
  spadLen : Nat := 0
  spad : Memory := []
  spadPoison : List Nat := []
  tsl : Nat := 0
  tiles : List (Nat × Tile) := []
  rz : List (Nat × RzPoint) := []
  sb : List SbEntry := []
  engine : Option Engine := none
  mregs : List (Nat × Word) := []
  stream : Stream := {}
  counters : Counters := {}
  /-- store units of the backing extent, the scratchpad extent and the engine's backing extent (R135): base and length in bytes -/
  backing : Nat × Nat := (0, 0)
  extent : Nat × Nat := (0, 0)
  engBacking : Option (Nat × Nat) := none
  /-- the layer whose engine is kept for a successor that has inherited it, until its first clause (R377) -/
  engAt : Option Nat := none
  /-- CODE of the freeze, 0 for FRZ (R417) -/
  frozen : Option Nat := none
  /-- a freeze that waits for the clause boundaries or for a command to end -/
  freezing : Option Nat := none
  halting : Bool := false
  halted : Bool := false
  /-- chosen to leave its core so that another team of the column can be placed (R48) -/
  parking : Bool := false
  /-- cycle at which the halt was requested -/
  haltAt : Nat := 0
  handover : Option Handover := none
  /-- a successor that has not yet issued (R104, R107) -/
  successor : Bool := false
  /-- a successor that has not yet started its first clause (R107, R377) -/
  fresh : Bool := false
  /-- released by the grid barrier and not yet admitted (R114) -/
  admitting : Bool := false
  /-- readiness order for placement of a parked team (R48) -/
  readyAt : Nat := 0
  /-- the entries of its pending-write list at the halt of a SAVE (R127, R128) -/
  pw : List Dest := []
  /-- threads that wait for a scoreboard entry, in issue order (R137) -/
  sbWait : List Nat := []
  deriving DecidableEq, Repr

/-! ### Columns and homes -/

/-- A column-cache line (R140, R179, R184): the bytes present by offset, dirty offsets, team slots that wrote it, lease expiry and grant time. -/
structure CLine where
  data : List (Nat × Byte) := []
  dirty : List Nat := []
  slots : List Nat := []
  lease : Nat := 0
  grant : Nat := 0
  deriving DecidableEq, Repr

/-- What ATS has answered for a range of a HOST page (R165): whether it grants reading and writing, and the translated address of the range. -/
structure AtsGrant where
  rd : Bool
  wr : Bool
  addr : Nat
  /-- the failure that has been the answer, as in INFO<7:4> of 0x100D; 0 none (R443) -/
  fail : Nat := 0
  deriving DecidableEq, Repr

/-- A cached translation (R161): context, base and size of the page, or of the range that an ATS completion states in it, frame address, plait,
permission bits, and, of a HOST page, the ATS result. -/
structure Xlat where
  ctx : Nat
  base : Nat
  size : Nat
  frame : Nat
  plait : Word
  perm : Word
  ats : Option AtsGrant := none
  deriving DecidableEq, Repr

/-- A side-log entry (R437), with the number of its access in program order, and the team index of the team that made it. -/
structure SideEntry where
  id : Nat
  gen : Nat
  index : Nat
  /-- the grid of the team that made the access, for the grid's release (R97) -/
  grid : Nat
  red : Bool
  size : Nat
  aop : Nat
  ty : Nat
  ord : Nat
  scope : Nat
  ctx : Nat
  team : Nat
  thread : Nat
  va : Nat
  data : Nat
  /-- the accesses of its word, as in the access (R330) -/
  batch : Option Nat := none
  /-- clause header and word offset of the issuing word, which its records name (R435) -/
  pc : Nat := 0
  word : Nat := 0
  deriving DecidableEq, Repr

/-- A directed move of a column (R71, R390) and the migration in flight (R72). -/
structure Migration where
  slot : Nat
  dst : Nat
  directed : Bool
  /-- every bundle has halted in time (R72 step 3) -/
  halted : Bool := false
  flits : Nat := 0
  deriving DecidableEq, Repr

/-- An access of a retired team that has not been performed (R106, R269): the team slot it came from, its grid, team index and context, the
privilege of its task, and the horizon its release waits for. -/
structure Orphan where
  slot : Nat
  grid : Nat
  index : Nat
  ctx : Nat
  priv : Bool
  horizon : Nat
  acc : Access
  deriving DecidableEq, Repr

/-- A column (R15, R131, R134). -/
structure Column where
  bnd : Nat × Nat × Nat := (16, 64, 96)
  bound : Bool := false
  part : Nat := 0
  /-- layers whose core is closed to placement -/
  closed : List Nat := []
  lines : List (Nat × CLine) := []
  /-- lines evicted and still readable: line, bytes, completion time (R184) -/
  wbuf : List (Nat × List (Nat × Byte) × Nat) := []
  tlb : List Xlat := []
  sideLog : List SideEntry := []
  migration : Option Migration := none
  /-- contexts whose copy engine here is frozen (R417) -/
  frozenCopy : List Nat := []
  /-- the team whose engine each layer holds, and batons: layer, slot, core clock of expiry (R359) -/
  batons : List (Nat × Nat × Nat) := []
  /-- evaluations in a row at or above the high power threshold, by layer (R66) -/
  hotRun : List (Nat × Nat) := []
  /-- layers under evacuation -/
  evac : List Nat := []
  softTrip : Bool := false
  softTripAt : List (Nat × Nat) := []
  /-- the last 8 column estimates and the raise share of each layer (R383) -/
  estimates : List Nat := []
  /-- the share of each layer in the latest column estimate (R66, R381) -/
  power : List Nat := []
  shares : List (Nat × Int) := []
  throttle : Nat := 16
  /-- core clock at which the estimator period began, and the weights in force in it, PWGT_0 upward (R381, R382): none before the first period has ended -/
  estAt : Nat := 0
  weights : List Word := []
  /-- records written: context, CODE, access kind, region, GEN (R442) -/
  dups : List (Nat × Nat × Nat × Nat × Nat) := []
  orphans : List Orphan := []
  /-- layers whose core is closed by wear, until reset (R470) -/
  wornCores : List Nat := []
  /-- the audit unit works on a tile whose MSTC has executed -/
  audited : Bool := false
  /-- core clock of the column: the sum of FREQ × DT ticks up to the DT of the last change of its frequency (R7, R386) -/
  clkSum : Nat := 0
  clkAt : Nat := 0
  /-- DT of the last governor evaluation (R65) -/
  evalAt : Option Nat := none
  /-- transfers that realignment has held, in the order they were requested: a team slot, or 32 and the number of a copy engine request (R81) -/
  heldX : List Nat := []
  deriving DecidableEq, Repr

/-- An update of a count of a tensor id (R227, R350, R351): set or cleared, raised, raised up to 0xFFFF in the low half, lowered, lowered in the low
half. -/
inductive CountOp where
  | set (n : Nat) | add (n : Nat) | addSat (n : Nat) | sub (n : Nat) | subLow (n : Nat)
  deriving DecidableEq, Repr

/-- What a home does when a waiting write reaches its completion time. -/
inductive HomeOp where
  /-- bytes by line offset -/
  | write (bytes : List (Nat × Byte))
  /-- an atomic or reduction: offset, size, operation, type, operands -/
  | atomic (off size aop ty b c : Nat)
  /-- an update of a count: offset, operation -/
  | count (off : Nat) (op : CountOp)
  deriving DecidableEq, Repr

/-- A write that waits at a home for its completion time (R182): the team and access it answers. -/
structure HomeWrite where
  t : Nat
  op : HomeOp
  team : Option Nat := none
  access : Option Nat := none
  /-- a write of an engine request, by number, and whether the request's ownership of the line ends with it (R193) -/
  req : Option Nat := none
  last : Bool := false
  poison : Bool := false
  /-- the column that keeps the line it writes back, and takes a lease when the write is applied (R184) -/
  keep : Option Nat := none
  /-- the context an inbound write of the host or a peer belongs to (R476) -/
  inbound : Option Nat := none
  /-- a write of the host whose Relaxed Ordering attribute is clear (R199) -/
  ordered : Bool := false
  /-- the atomic of a grid's signal (R94) -/
  signal : Bool := false
  /-- the peer device and address an inbound request of a peer is answered to (R399) -/
  reply : Option (Nat × Nat) := none
  /-- a write of the S4's own (R155), by number -/
  put : Option Nat := none
  /-- the column whose written bytes it carries -/
  col : Option Nat := none
  deriving DecidableEq, Repr

/-- The state of a line under a page move (R169): moved to a line of this device, or to another device, where an address reaches it (R173). -/
inductive MoveState where
  | unmoved | moving | moved (to_ : Nat) | away (dev va : Nat)
  deriving DecidableEq, Repr

/-- A home directory record (R180, R182, R184, R193). -/
structure DirLine where
  ll : Nat := 512
  e : Nat := 0
  /-- a write has arrived since the last grant -/
  wrote : Bool := false
  writers : List Nat := []
  owner : Option Nat := none
  waiting : List HomeWrite := []
  move : MoveState := .unmoved
  deriving DecidableEq, Repr

/-! ### Grids, contexts and engines -/

/-- A grid (R57, R86, R93, R99, R126). -/
structure Grid where
  ctx : Nat
  card : List Word
  cardAddr : Nat
  queue : Option Nat
  age : Nat
  /-- effective priority (R95) -/
  pri : Nat
  next : Nat := 0
  /-- teams placed so far -/
  placed : Nat := 0
  retired : Nat := 0
  /-- the predecessor grid of a successor grid -/
  pred : Option Nat := none
  /-- teams started, of a successor grid -/
  started : Nat := 0
  failed : Bool := false
  priv : Bool := false
  /-- event-record number of a handler grid -/
  event : Option Nat := none
  barGen : Nat := 0
  /-- threads arrived at the barrier: team and thread -/
  barWait : List (Nat × Nat) := []
  /-- its signal atomic has been made (R97) -/
  signalled : Bool := false
  /-- the signal atomic is held by a fault -/
  signalHeld : Bool := false
  /-- the GEN in which a fault of the signal was recorded -/
  signalGen : Option Nat := none
  complete : Bool := false
  halted : Bool := false
  /-- largest horizon of its retired threads, and their unacknowledged peer accesses (R97) -/
  horizon : Nat := 0
  peerOut : Nat := 0
  /-- lines that were held at their homes when a team that had written them retired, with the time by which that write is due (R97) -/
  owed : List (Nat × Nat) := []
  /-- of a successor grid: the indices of the teams that have handed over (R104) -/
  came : List Nat := []
  deriving DecidableEq, Repr

/-- A command of the pre-emption block in progress (R116, R117, R121). -/
structure Command where
  op : Nat
  queue : Nat
  step : Nat
  start : Nat
  reason : Nat := 0
  /-- a write or read of the save area met a repairable fault at an address and waits for a notice (R460) -/
  held : Bool := false
  heldVa : Nat := 0
  deriving DecidableEq, Repr

/-- A PRI Page Request (R443): function, PASID and 4 KiB page, the contexts that wait for it, and whether it has been sent. -/
structure PageReq where
  fn : Nat
  pasid : Nat
  va : Nat
  write : Bool
  ctxs : List Nat
  sent : Bool
  deriving DecidableEq, Repr

/-- A card in an intake: its words, its address, and whether LAUNCH submitted it. -/
structure CardIn where
  words : List Word
  addr : Nat
  launch : Bool
  /-- event-record number of a handler card -/
  event : Option Nat := none
  /-- dependence waits that have been met (R93) -/
  met : List Nat := []
  /-- waits whose reads a memory fault holds until a notice, and the GEN in which one was recorded (R413) -/
  stuck : List Nat := []
  gen : Option Nat := none
  /-- a handler card that was rejected (R415) -/
  held : Bool := false
  deriving DecidableEq, Repr

/-- A context (R30, R89, R116, R411). -/
structure Ctx where
  intakes : List (Nat × List CardIn) := []
  cmd : Option Command := none
  parked : List (List Word) := []
  saveSeq : Nat := 0
  /-- what a save keeps beside its image: the grids by table index, and the teams by table index and team index, for what the image has no place for -/
  savedGrids : List (Nat × Grid) := []
  savedTeams : List (Nat × Nat × Team) := []
  /-- requests of saved frozen teams that their release discards: grid and team index, threads and flag (R428) -/
  heldReqs : List (Nat × Nat × List Nat × Option Nat) := []
  /-- the command that halted the context spares the grids of the event queue (R280) -/
  spared : Bool := false
  /-- descriptors of freezes held until the command in progress ends (R417) -/
  freezes : List Nat := []
  /-- queues that FRZ has frozen, until their STOP is cleared (R417) -/
  frozenQueues : List Nat := []
  /-- IVA_HI as written, and the invalidation in progress: address and ISZ (R150) -/
  ivaHi : Nat := 0
  inval : Option (Nat × Nat) := none
  /-- the write of its fault buffer has met a memory fault, and waits for a notice or a change of GEN (R411) -/
  recStuck : Bool := false
  /-- WIN_HI of the window setting in force; while a change runs, GRP and WPR of the setting before it (R143) -/
  winHi : Nat := 0
  l2Old : Nat × Nat := (0, 0)
  deriving DecidableEq, Repr

/-- A base-scratchpad window range (R143, R444): context, base, live or withdrawn. `size` is the bytes a live window serves, or the extent of a
withdrawn range. -/
structure Win where
  ctx : Nat
  base : Nat
  size : Nat
  live : Bool
  deriving DecidableEq, Repr

/-- What an engine request does. -/
inductive ReqKind where
  | copy | cpyt | gath | scat | tdset | tdrd | ttag | jnext | coll | plmv
  deriving DecidableEq, Repr

/-- An engine request (R343, R344): kind, issuing team and threads, flag, operands as read at issue, and progress. -/
structure Req where
  id : Nat
  kind : ReqKind
  ctx : Nat
  col : Nat
  team : Nat
  /-- age of the issuing team, which tells it from a later team of the slot -/
  age : Nat
  threads : List Nat
  flag : Option Nat
  /-- prefix field XM, SAT as `.c`, and the resolved type -/
  xm : Nat := 0
  c : Bool := false
  ty : Nat := 0
  /-- operands d, a and b as read at issue -/
  d : Nat := 0
  a : Nat := 0
  b : Nat := 0
  quad : List Word := []
  /-- the tensor id entry read at issue -/
  entry : List Word := []
  /-- lines owned: virtual line number and line key -/
  owned : List (Nat × Nat) := []
  /-- progress: the slots a tile copy has finished, or the lines a page move has moved -/
  lines : List Nat := []
  /-- bytes for lines of the destination that are not written yet, each with its source address where that is poisoned (R177, R193, R448) -/
  buf : List (Nat × Byte × Option Nat) := []
  /-- 0 while it takes its lines, 1 once it owns them, 3 once all is read, 2 once all is written; of a page move, the step of R168 -/
  step : Nat := 0
  /-- bytes or elements transferred so far -/
  done : Nat := 0
  /-- the largest completion time of its writes, and those that peers have not acknowledged (R195) -/
  t : Nat := 0
  peerOut : Nat := 0
  /-- its stream has begun (R64, R81) -/
  begun : Bool := false
  /-- the return router has an entry for its completion time (R75) -/
  routed : Bool := false
  /-- stopped by a memory fault at an address -/
  stopped : Bool := false
  stopVa : Nat := 0
  /-- discarded at the release of its team (R428, R445, R481) -/
  discard : Bool := false
  pc : Nat := 0
  word : Nat := 0
  priv : Bool := false
  deriving DecidableEq, Repr

/-- What a message that leaves the device asks or tells: an access, an answer to one of a peer, a promotion (R197), an ATS Translation Request or a PRI
Page Request with the context's PASID, or an ATS Invalidate Completion (R165, R443). -/
inductive MsgKind where
  | write
  | read (size : Nat)
  | reply
  | prm
  | atsRequest (pasid : Nat)
  | pageRequest (pasid : Nat) (write : Bool)
  | atsInvalidated
  deriving DecidableEq, Repr

/-- Traffic that leaves the device: to host memory, or to a peer. Accesses to a peer carry the domain context, the scope and how often they have been
forwarded (R166). `err` is the CODE of a request answered with an error; `image` names, for data of a checkpoint, the range of the image by offset and
length, and `cells` the bytes in it that are not zero. -/
structure OutMsg where
  /-- none for the host, some k for device k -/
  dev : Option Nat
  addr : Nat
  data : List Byte
  /-- operation and type of an atomic, whose operands are the data -/
  aop : Option (Nat × Nat) := none
  err : Option Nat := none
  image : Option (Nat × Nat) := none
  cells : List (Nat × Byte) := []
  kind : MsgKind := .write
  dctx : Nat := 0
  scope : Nat := 3
  hops : Nat := 0
  /-- the address is one that ATS has translated (R165), and the write leaves with Relaxed Ordering set (R396) -/
  translated : Bool := false
  relaxed : Bool := false
  /-- of a line of a page that moves: it is poisoned, and the words w0 and w3 of the page's leaf (R173, R446) -/
  poison : Bool := false
  leaf : List Word := []
  /-- the device whose request this device passes on along its path (R399) -/
  transit : Option Nat := none
  deriving DecidableEq, Repr

/-- The fields of a fault record (R412) but its GEN. -/
structure Rec where
  code : Nat
  cls : Nat := 2
  src : Nat
  col : Nat := 0x3F
  slot : Nat := 0
  thread : Nat := 0xFFFF
  team : Nat := 0
  pc : Nat := 0
  word : Nat := 0
  addr : Nat := 0
  info : Nat := 0
  deriving DecidableEq, Repr

/-- What follows a write that the S4 makes on its own account, once it is released (R368, R411, R415): FB_WR rises over a record, EV_WR over an event
record, TR_WR over an entry of the telemetry ring, or nothing. `r` is the record that a fault of the write leaves (R368, R481). -/
inductive PutEnd where
  | fault (ws : List Word)
  | event (fn : Nat) (ws : List Word)
  | telemetry (r : Rec)
  | count (r : Rec)
  | save
  deriving DecidableEq, Repr

/-- What such a write has yet to put on its way: bytes, or the update of a count. -/
inductive PutTodo where
  | bytes (va : Nat) (bs : List Byte)
  | count (va : Nat) (op : CountOp)
  deriving DecidableEq, Repr

/-- A write the S4 makes on its own account, under way (R155, R182): its number, the context it is made in, what follows it, what has yet to leave, the
largest completion time of its bytes, and the messages to peers that have not been acknowledged (R189). -/
structure Put where
  id : Nat
  ck : Nat
  end_ : PutEnd
  todo : Option PutTodo
  t : Nat := 0
  peerOut : Nat := 0
  /-- the engine request it is part of -/
  req : Option Nat := none
  deriving DecidableEq, Repr

/-- A posted write of the host that has not reached its homes (R199, R395): its context and address, and whether its Relaxed Ordering attribute is
clear. -/
structure HostWrite where
  ctx : Nat
  va : Nat
  data : List Byte
  ordered : Bool
  deriving DecidableEq, Repr

/-- A realignment or background test of a lane group (R80 to R85). -/
structure StakeOp where
  col : Nat
  boundary : Nat
  direction : Nat
  group : Nat
  /-- DT at which it fell due or started -/
  at_ : Nat
  running : Bool
  /-- a background test, and not a realignment -/
  test : Bool := false
  deriving DecidableEq, Repr

/-- A stake-bus lane group: spare signals left, the signals whose remap is pending (R454), disabled, realignment failures, the flits its signals have failed
on (signal and DT, R453), the DT at which its last realignment began (R80), the DT before which it is not quiesced again, and the times in a row its background
test was interrupted (R84). -/
structure LaneGroup where
  spares : Nat := 2
  remap : List Nat := []
  disabled : Bool := false
  fails : Nat := 0
  failed : List (Nat × Nat) := []
  aligned : Option Nat := none
  quietAt : Nat := 0
  tries : Nat := 0
  deriving DecidableEq, Repr

/-- A peer move in progress (R173). `id` names the agent as the owner of the line that holds the leaf (R446). -/
structure PeerMove where
  id : Nat := 0
  ctx : Nat
  va : Nat
  dev : Nat
  frame : Nat
  plait : Word
  /-- the lines that have moved: away from this device, or to it (R169) -/
  lines : List Nat := []
  /-- the key of the page's leaf (R446), and whether the page comes to this device -/
  pte : Nat := 0
  comes : Bool := false
  /-- 0 while its lines move, 1 once the leaf is being written, 2 once the vacated ring is (R173) -/
  step : Nat := 0
  deriving DecidableEq, Repr

/-- A peer-move candidate (R171). -/
structure Candidate where
  dctx : Nat
  page : Nat
  dev : Nat
  count : Nat
  localWrite : Bool
  deriving DecidableEq, Repr

/-- Worn parts, kept across reset (R469 to R471): physical sites, slices and stacks, by number. -/
structure Worn where
  wornSites : List Nat := []
  wornSlices : List Nat := []
  wornStacks : List Nat := []
  deriving DecidableEq, Repr

/-- Who holds the issue slot of the step: a bundle of a team, or a team's matrix stream. -/
inductive Cur where
  | bundle (team idx : Nat)
  | stream (team : Nat)
  deriving DecidableEq, Repr

/-- Which agent moves next. -/
inductive Turn where
  /-- the bundle issues its next word -/
  | issue (team idx : Nat)
  /-- the matrix stream of a team executes its next M-word -/
  | stream (team : Nat)
  /-- a step of another agent -/
  | event (i : Instr)
  /-- the base controller ends its boot (R403, R406) -/
  | boot
  /-- a checkpoint carries some MiB of the image on (R402) -/
  | carry (mib : Nat)
  /-- a cycle in which no agent moves -/
  | tick
  deriving DecidableEq, Repr

/-- The machine. -/
structure State where
  /-- cycles of the 2 GHz stack clock since reset; DT is half of it (R18, R19) -/
  cyc : Nat
  agenda : List Turn
  freeCount : Nat
  cur : Option Cur
  cfgw : Word
  powered : Bool
  fatal : Bool
  csr : List (Nat × Word)
  mem : Memory
  /-- poisoned HBM lines, by line key (R448) -/
  poison : List Nat
  dir : List (Nat × DirLine)
  win : Memory
  wins : List Win
  cols : List (Nat × Column)
  ctxs : List (Nat × Ctx)
  grids : List (Nat × Grid)
  gridNext : Nat
  teams : List (Nat × Team)
  reqs : List Req
  idNext : Nat
  /-- slew limiter: start pointer, and the cycle at which the window after the last admission begins (R114, R115) -/
  slewPtr : Nat
  slewFree : Nat
  /-- admissions: cycle, team (R114) -/
  admits : List (Nat × Nat)
  /-- grids for which a cooperative guard stands (R95) -/
  coopGuard : List Nat
  /-- hardware events held per function: function and record (R415) -/
  heldEvents : List (Nat × List Word)
  /-- event numbers whose task has retired and that EV_DONE has not counted yet, with their function (R414) -/
  evRetired : List (Nat × Nat)
  outbox : List OutMsg
  /-- MSI-X vectors raised: function and vector, latest first (R411, R415, R418) -/
  msix : List (Nat × Nat)
  peerMoves : List PeerMove
  candidates : List Candidate
  stakeOps : List StakeOp
  laneGroups : List (Nat × LaneGroup)
  /-- DT at which a lane group of a boundary direction last fell due (R80), and the cycle of the last traffic the tester met at a boundary
  (R84), by key -/
  dueAt : List (Nat × Nat)
  busyAt : List (Nat × Nat)
  /-- indirection entries: row key to spare number (R147) -/
  rowSwaps : List (Nat × Nat)
  /-- banks that have reported exhaustion (R449) -/
  exhausted : List Nat
  /-- CE and UE of a bank, by bank key (R148) -/
  bankCE : List (Nat × Nat)
  bankUE : List (Nat × Nat)
  /-- uncorrected errors since reset of the parts whose wear they show (R469): a bank of a column store, 4 × logical column + layer − 1; a physical slice, from
  2¹⁰; a channel of HBM4E, 32 × stack + channel, from 2¹¹ -/
  wearUE : List (Nat × Nat)
  /-- mode registers read: stack block operation in progress -/
  mraOps : List (Nat × Word)
  worn : Worn
  /-- activations of rows in the present refresh window, and the DT at which a stack's window began (R147) -/
  rowActs : List (Nat × Nat)
  refreshAt : List (Nat × Nat)
  /-- soft excursion active, and the DT since which its readings have been back within their limits (R465) -/
  excursion : Bool
  excursionBack : Option Nat
  /-- causes of a hard trip whose reading is beyond its limit, and the DT since which (R466) -/
  tripFrom : List (Nat × Nat)
  /-- DT of the hard trip, and the contexts it has yet to save, in order (R466) -/
  hardTrip : Option Nat
  tripQueue : List Nat
  /-- duplicate records of base-die agents: context, agent, CODE, access kind, region, GEN (R442) -/
  dups : List (Nat × Nat × Nat × Nat × Nat × Nat)
  /-- lost routes: device and DT at which the last link was lost (R473) -/
  lostRoutes : List (Nat × Nat)
  hostUp : Bool
  /-- nonce bytes and report state of the identity block (R404) -/
  nonce : List (Nat × Word)
  /-- targets of the checkpoint in progress: device or host, address, length (R402) -/
  ckpt : List (Option Nat × Nat × Nat)
  /-- links that have lost training and not retrained, a peer link as 256 + its number (R473) -/
  lostLinks : List Nat
  /-- the parts that were worn at the last reset, and so were left out (R472) -/
  bootWorn : Worn
  /-- unlent margin units the hoop carries, and the column a layer stop begins with (R383) -/
  hoopFree : Int
  /-- the hoop's next stop, 0 the base die, and the DT of its last (R383) -/
  hoopNext : Nat
  hoopAt : Nat
  /-- boot after reset is not complete (R406), and the measurements it takes of images 0, 1 and 2 (R403) -/
  booting : Bool
  measured : List Byte
  /-- Page Requests, in order (R443) -/
  pageReqs : List PageReq
  /-- ATS Translation Requests that wait for their completion: the cache that asked, context and 4 KiB page number (R165) -/
  atsAsked : List (Nat × Nat × Nat)
  /-- writes of the S4's own under way, in the order they were made (R411, R415) -/
  puts : List Put
  /-- translations the bulk engines and the collective engine hold, by the SRC code of the engine (R161, R412), and, under 63, what ATS has granted the
  agents of the base die that keep no translations -/
  engTlb : List (Nat × Xlat)
  /-- writes of the host that wait for a line, in the order of their arrival (R199) -/
  hostQueue : List HostWrite
  /-- GBAND of the regulators the ageing monitors have raised, by regulator (R386, R387) -/
  guard : List (Nat × Nat)
  /-- contexts in the order in which they became members of their load-store domain with their present DCTX (R394) -/
  members : List Nat
  /-- frozen peer masters: device and domain context (R417) -/
  frozenPeers : List (Nat × Nat)
  deriving DecidableEq, Repr

/-- The device after reset (R19, R407 and the Reset columns of every register map): a new S4-M, nothing running, every device register at its reset
value, memory with nothing listed. -/
def State.reset : State where
  cyc := 0
  agenda := []
  freeCount := 0
  cur := none
  cfgw := 0xA23FE030
  powered := true
  fatal := false
  csr := []
  mem := []
  poison := []
  dir := []
  win := []
  wins := []
  cols := []
  ctxs := []
  grids := []
  gridNext := 0
  teams := []
  reqs := []
  idNext := 0
  slewPtr := 0
  slewFree := 0
  admits := []
  coopGuard := []
  heldEvents := []
  evRetired := []
  outbox := []
  msix := []
  peerMoves := []
  candidates := []
  stakeOps := []
  laneGroups := []
  dueAt := []
  busyAt := []
  rowSwaps := []
  exhausted := []
  bankCE := []
  bankUE := []
  wearUE := []
  mraOps := []
  worn := {}
  rowActs := []
  refreshAt := []
  excursion := false
  excursionBack := none
  tripFrom := []
  hardTrip := none
  tripQueue := []
  dups := []
  lostRoutes := []
  hostUp := true
  nonce := []
  ckpt := []
  lostLinks := []
  bootWorn := {}
  hoopFree := 660
  hoopNext := 0
  hoopAt := 0
  booting := true
  measured := []
  pageReqs := []
  atsAsked := []
  puts := []
  engTlb := []
  hostQueue := []
  guard := []
  members := []
  frozenPeers := []

end Sys2Proof.Machine
end

