-- ==== Sys2Proof/Machine/Csr.lean ====
section
/-! DEFINITION. The device registers of base address regions 0 and 4 (R393, R409): keys, access masks and reset values from the
register maps, and their plain reads and writes. -/

namespace Sys2Proof.Machine

/-- The DT value (R18, R19): 1 GHz beside the 2 GHz cycles. DESIGN CHOICE: the model has one DT, with no skew, for the whole stack; R19 lets two
readings less than 2 ns apart come in either order, and here the later cycle never reads the smaller value. -/
def State.dt (s : State) : Nat := s.cyc / 2

/-- The configuration word's fields (R407). -/
def State.ncol (s : State) : Nat := bits s.cfgw 5 0
def State.nslc (s : State) : Nat := bits s.cfgw 13 6
def State.stk (s : State) : Nat := bits s.cfgw 21 14

/-- The key of the register at offset `off` of region 0 of function `fn`. -/
def key0 (fn off : Nat) : Nat := fn * 2 ^ 32 + off
/-- The key of the register at offset `off` of region 4. -/
def key4 (fn off : Nat) : Nat := fn * 2 ^ 32 + 2 ^ 28 + off

/-- A register's writable bits, its write-1-to-clear bits and its reset value. -/
structure RegAttr where
  rw : Word := 0
  w1c : Word := 0
  rst : Word := 0
  deriving DecidableEq, Repr

/-- The word the fuses hold from byte `o` on. -/
def fuseWord (o : Nat) : Word := BitVec.ofNat 32 ((List.range 4).foldl (fun a i => a + (Config.fuse (o + i)).toNat * 2 ^ (8 * i)) 0)

/-- The attributes of a register of region 0 (R393). Reserved offsets, and PF blocks in a virtual function, have none. PWGT_k resets to what
the fuses hold (R382), which the spec leaves open. -/
def attr0 (fn off : Nat) : RegAttr :=
  let pf := decide (fn = 0)
  if off < 0x100000 then
    match off % 64 with
    | 0x00 => { rw := 0xFFFFFF80 } | 0x04 => { rw := 0xFFFFF } | 0x08 => { rw := 0xFF, rst := 4 } | 0x0C => { rw := 0xFFFFFFFF }
    | 0x14 => { w1c := 1 } | _ => {}
  else if off < 0x104000 then
    match off % 64 with
    | 0x04 => { w1c := 0x40000000 } | 0x08 => { rw := 0xFFFFF000 } | 0x0C => { rw := 0xFFFFF } | 0x10 => { rw := 0xFFFFFFFF } | _ => {}
  else if 0x108000 ≤ off ∧ off < 0x108020 then (if pf then { rw := 0xFFFFFF, rst := 0x203010 } else {})
  else if 0x120000 ≤ off ∧ off < 0x120100 then
    if pf then (match off % 32 with | 0x04 => { w1c := 0x40000000 } | 0x10 => { rw := 0xFFFF, rst := 0x1000 } | _ => {}) else {}
  else if 0x130000 ≤ off ∧ off < 0x130800 then
    if off % 8 = 0 then { rw := 0xFF00270F, w1c := 0x4000 } else { rw := 0xFFFFF }
  else if 0x140000 ≤ off ∧ off < 0x142000 then
    match off % 32 with
    | 0x00 => { rw := 0xFFFE0001 } | 0x04 => { rw := 0xFFFFF } | 0x08 => { rw := 0xFFFFF } | 0x0C => { rw := 0xFFFFFFFF } | _ => {}
  else if 0x142000 ≤ off ∧ off < 0x146000 then
    match off % 64 with
    | 0x00 => { rw := 0xFFFFFFF0 } | 0x04 => { rw := 0xFFFFF } | 0x0C => { rw := 0xFFFFFFFF } | 0x10 => { rw := 0xFFFFFFFF }
    | 0x18 => { rw := 0x8000FF0F, rst := 0x4006 } | _ => {}
  else if 0x148000 ≤ off ∧ off < 0x14A000 then
    match off % 32 with
    | 0x00 => { rw := 0xFFFFC001 } | 0x04 => { rw := 0xFFFFF } | 0x08 => { rw := 0xFFFFFFE0 } | 0x0C => { rw := 0xF00FFFFF }
    | 0x14 => { rw := 0xFFFFFFFF } | 0x1C => { rw := 0xFFFFFFFF, rst := 0xFFFFFFFF } | _ => {}
  else if 0x14A000 ≤ off ∧ off < 0x14B000 then
    match off % 16 with
    | 0x00 => { rw := 0xF0000001 } | 0x04 => { rw := 0xFFFFF } | 0x08 => { rw := 0x80000FFF }
    | 0x0C => if pf then { rw := 7 } else {} | _ => {}
  else if pf = false then {}
  else if off = 0x150000 then { rw := 0xF, rst := 9 }
  else if 0x160000 ≤ off ∧ off < 0x160100 then
    match off with
    | 0x160000 => { rw := 0xFFFFFFFF, rst := 0x554B1812 }
    | 0x160004 => { rw := 0xFFFF, w1c := 0x80000000, rst := 20 }
    | 0x160008 => { rw := 0x1F0FFF, rst := 0x140294 }
    | 0x16000C => { rst := 660 }
    | 0x160010 => { rw := 0xF }
    | 0x160020 | 0x160024 | 0x160028 | 0x16002C => { rw := 0x7F, rst := 80 }
    | 0x160030 => { rw := 0xFFFFFFFF, rst := 0x55000000 }
    | 0x160034 => { rw := 0xFFFFFFFF, rst := 0xAAAA5555 }
    | 0x160038 => { rw := 0xFFFFFFFF, rst := 0xFFFFFFAA }
    | 0x160084 => { rw := 0xFFFF, rst := 0x646E }
    | 0x160088 => { rw := 0xFFFFFFC1 }
    | 0x16008C => { rw := 0xFFFFFFFF }
    | _ => {}
  else if 0x160100 ≤ off ∧ off < 0x160160 then { rw := 0xFFFFFFFF, rst := fuseWord (320 + (off - 0x160100) / 4 * 4) }
  else if 0x161000 ≤ off ∧ off < 0x161600 then
    match off % 32 with
    | 0x04 => { rst := 0x3C0000 } | 0x08 => { rw := 0x831F1FFF } | 0x0C => { rw := 0xFFFFFFFC } | 0x10 => { rw := 0xFFFFF } | _ => {}
  else if 0x170040 ≤ off ∧ off < 0x170060 then
    match off % 32 with
    | 0x00 => { rw := 0xC00F00FF, w1c := 0x20000000 } | 0x04 => { rw := 0xFFFFFFC0 } | 0x08 => { rw := 0xFFFFFFFF }
    | 0x0C => { rw := 0xF } | 0x14 => { rw := 0xFFFFFFFF } | 0x1C => { rw := 0xFFFFFFFF } | _ => {}
  else if off = 0x170160 ∨ off = 0x170164 then { rw := 0xFFFFFFFF }
  else if off = 0x170168 then { w1c := 0x40000000 }
  else if off = 0x170200 then { rw := 0xFFFFFFE0 }
  else if off = 0x170204 then { rw := 0xFFFFFFFF }
  else if off = 0x170208 then { rw := 0xF0, w1c := 0x40000000 }
  else if off = 0x180000 then { rw := 0x8000003F }
  else if off = 0x180008 then { rw := 0xFFF }
  else if 0x180010 ≤ off ∧ off < 0x180110 then { rw := 0xFFF }
  else if 0x181000 ≤ off ∧ off < 0x181100 then
    match off % 16 with
    | 0x00 | 0x04 => { rw := 0xFFFFFFFF } | 0x08 => { rw := 0x80000FFF } | _ => {}
  else {}

/-- The attributes of a register of region 4 (R409, R410, R414, R418). -/
def attr4 (fn off : Nat) : RegAttr :=
  if off < 0x4000 then
    match off % 64 with
    | 0x00 => { rw := 0xFFFFFFE1 } | 0x04 => { rw := 0xFFFFF } | 0x08 => { rw := 0xF } | 0x10 => { rw := 0xFFFFFFFF }
    | 0x1C => { w1c := 0x80000000 } | _ => {}
  else if off < 0x4020 then
    match off % 32 with
    | 0x00 => { rw := 0xFFFFFFC1 } | 0x04 => { rw := 0xFFFFF } | 0x08 => { rw := 0xFF0F } | 0x18 => { rw := 0xFFFFFF80 }
    | 0x1C => { rw := 0xFFFFF } | _ => {}
  else if fn = 0 ∧ 0x8000 ≤ off ∧ off < 0x8038 then
    match off with
    | 0x8000 => {} | 0x8004 | 0x8008 => { w1c := 0xFFFFFFFF } | 0x800C => { rw := 0xFFFF, rst := 0x1000 } | _ => { rw := 0xFFFFFFFF }
  else {}

/-- The attributes of a register by key. -/
def regAttr (k : Nat) : RegAttr :=
  let o := k % 2 ^ 32
  if o < 2 ^ 28 then attr0 (k / 2 ^ 32) o else attr4 (k / 2 ^ 32) (o - 2 ^ 28)

/-- The stored value of a register. -/
def State.rget (s : State) (k : Nat) : Word := sget (regAttr k).rst s.csr k

/-- Stores a register's value, whatever its access. -/
def State.rset (s : State) (k : Nat) (v : Word) : State := { s with csr := sins s.csr k v }

/-- A plain write (R10): writable bits take the value, write-1-to-clear bits clear. -/
def State.rwrite (s : State) (k : Nat) (v : Word) : State :=
  let a := regAttr k
  let o := s.rget k
  s.rset k (((o &&& ~~~ a.rw) ||| (v &&& a.rw)) &&& ~~~ (v &&& a.w1c))

/-- Bits <hi:lo> of a register. -/
def State.rbits (s : State) (k hi lo : Nat) : Nat := bits (s.rget k) hi lo

/-- Replaces bits <hi:lo> of a register. -/
def State.rsetBits (s : State) (k hi lo v : Nat) : State :=
  let o := (s.rget k).toNat
  let f := bits (s.rget k) hi lo
  s.rset k (BitVec.ofNat 32 (o - f * 2 ^ lo + v % 2 ^ (hi + 1 - lo) * 2 ^ lo))

/-- A context key: function and local context number. -/
def ctxKey (fn c : Nat) : Nat := fn * 256 + c
def ctxFn (ck : Nat) : Nat := ck / 256
def ctxLoc (ck : Nat) : Nat := ck % 256

/-- Register keys of the per-context blocks. -/
def kQueue (ck q o : Nat) : Nat := key0 (ctxFn ck) (ctxLoc ck * 4096 + 64 * q + o)
def kPre (ck o : Nat) : Nat := key0 (ctxFn ck) (0x100000 + 64 * ctxLoc ck + o)
def kL2 (ck o : Nat) : Nat := key0 (ctxFn ck) (0x130000 + 8 * ctxLoc ck + o)
def kXl (ck o : Nat) : Nat := key0 (ctxFn ck) (0x140000 + 32 * ctxLoc ck + o)
def kPm (ck o : Nat) : Nat := key0 (ctxFn ck) (0x142000 + 64 * ctxLoc ck + o)
def kTd (ck o : Nat) : Nat := key0 (ctxFn ck) (0x148000 + 32 * ctxLoc ck + o)
def kLk (ck o : Nat) : Nat := key0 (ctxFn ck) (0x14A000 + 16 * ctxLoc ck + o)
def kFb (ck o : Nat) : Nat := key4 (ctxFn ck) (64 * ctxLoc ck + o)
def kEv (fn o : Nat) : Nat := key4 fn (0x4000 + o)
def kEr (o : Nat) : Nat := key4 0 (0x8000 + o)
def kErrCnt (k : Nat) : Nat := kEr (0x10 + 4 * k)
def kCol (c o : Nat) : Nat := key0 0 (0x161000 + 32 * c + o)
def kCsplan (p : Nat) : Nat := key0 0 (0x108000 + 4 * p)
def kMra (st o : Nat) : Nat := key0 0 (0x120000 + 32 * st + o)

/-- The context id of a context (R392). -/
def State.ctxId (s : State) (ck : Nat) : Nat :=
  if ctxFn ck = 0 then 512 * s.rbits (kLk ck 0x0C) 2 0 + 256 + ctxLoc ck else 512 * (ctxFn ck - 1) + ctxLoc ck

/-- The tenant partition of a context (R392). -/
def State.ctxPart (s : State) (ck : Nat) : Nat := s.ctxId ck / 512

/-- The context a context id names (R392): a virtual function's context, or the PF context of that partition. -/
def State.ctxOfId (s : State) (id : Nat) : Option Nat :=
  if id % 512 < 256 then (if id / 512 < 8 then some (ctxKey (id / 512 + 1) (id % 512)) else none)
  else (let ck := id % 256; if s.ctxId ck = id then some ck else none)

/-- The column state, of a column nothing has touched included. -/
def State.col (s : State) (c : Nat) : Column := sget {} s.cols c
def State.setCol (s : State) (c : Nat) (x : Column) : State := { s with cols := sins s.cols c x }
def State.modCol (s : State) (c : Nat) (f : Column → Column) : State := s.setCol c (f (s.col c))

/-- The context state. -/
def State.ctx (s : State) (ck : Nat) : Ctx := sget {} s.ctxs ck
def State.setCtx (s : State) (ck : Nat) (x : Ctx) : State := { s with ctxs := sins s.ctxs ck x }
def State.modCtx (s : State) (ck : Nat) (f : Ctx → Ctx) : State := s.setCtx ck (f (s.ctx ck))

/-- Takes `n` things from a list, the k-th that which `f k` picks among those left. -/
def pickAll (f : Nat → Nat) (k : Nat) : Nat → List Nat → List Nat
  | 0, _ => []
  | n + 1, l => let i := f k % max 1 l.length; l.getD i 0 :: pickAll f (k + 1) n (l.eraseIdx i)

/-- The physical sites of the logical columns, fixed at the last reset: each column has a healthy site of its own (R17, R472). Which one it is,
the spec leaves to the base controller. -/
def State.sites (s : State) : List Nat :=
  let good := (List.range 56).filter fun x => !s.bootWorn.wornSites.contains x
  pickAll (Config.site s.bootWorn.wornSites) 0 good.length good

/-- The physical site of a logical column (R17). -/
def State.siteOf (s : State) (c : Nat) : Nat := s.sites.getD c 0

/-! ### Core clocks (R7, R386) -/

/-- The regulator that a column selects, and its FREQ (R386). -/
def State.colReg (s : State) (c : Nat) : Nat := s.rbits (key0 0 (0x160030 + 4 * (c / 16))) (2 * (c % 16) + 1) (2 * (c % 16))
def State.colFreq (s : State) (c : Nat) : Nat := s.rbits (key0 0 (0x160020 + 4 * s.colReg c)) 6 0

/-- The cycles a column's core clock has counted since reset: FREQ × 25 MHz beside the 1 GHz of DT, each stretch at its own FREQ (R7, R386). -/
def State.clock (s : State) (c : Nat) : Nat :=
  let x := s.col c
  (x.clkSum + (s.dt - x.clkAt) * s.colFreq c) / 40

/-- Notes what every core clock has counted, before a change of a frequency or of a column's regulator. -/
def State.noteClocks (s : State) : State :=
  (List.range s.ncol).foldl (fun s c =>
    s.modCol c fun x => { x with clkSum := x.clkSum + (s.dt - x.clkAt) * s.colFreq c, clkAt := s.dt }) s

/-- GBAND of a regulator: what the fuses hold, or what the ageing monitors have raised it to (R386, R387). -/
def State.gband (s : State) (k : Nat) : Nat := sget (Config.fuse (416 + k)).toNat s.guard k

/-- The configuration word the base controller presents for the parts that are worn (R472). -/
def State.nextCfg (s : State) : Word :=
  let u := 56 - s.worn.wornSites.length
  let sl := 136 - s.worn.wornSlices.length
  let good := (List.range 8).filter fun i => !s.worn.wornStacks.contains i
  if u < 40 ∨ sl < 112 ∨ good.length < 6 then Config.belowConfig u sl good.length
  else
    let ncol := if 48 ≤ u then 48 else if 44 ≤ u then 44 else 40
    let nslc := if 128 ≤ sl then 128 else if 120 ≤ sl then 120 else 112
    let low := s.laneGroups.any fun g => g.2.spares == 0
    BitVec.ofNat 32 (bits s.cfgw 31 31 * 2 ^ 31 + (if low then 2 ^ 30 else 0) + min 8 (sl - nslc) * 2 ^ 26 + min 8 (u - ncol) * 2 ^ 22
      + good.foldl (fun a i => a + 2 ^ i) 0 * 2 ^ 14 + nslc * 2 ^ 6 + ncol)

/-- The logical columns `lo` to `lo` + `n` − 1 that have a worn site, as a mask (R471). -/
def State.wornCols (s : State) (lo n : Nat) : Word :=
  BitVec.ofNat 32 ((List.range n).foldl (fun a i =>
    if decide (lo + i < s.ncol) && s.worn.wornSites.contains (s.siteOf (lo + i)) then a + 2 ^ i else a) 0)

/-- The value of a register as a read returns it (R10, R132, R389, R393, R406, R471): the column blocks and the configuration word are views of
other state, and sensors supply the input power and the coolant word. -/
def State.regRead (s : State) (fn region off : Nat) : Word :=
  if region = 4 then
    if off < 0x4000 ∧ off % 64 = 0x1C then
      (s.rget (key4 fn off) &&& 0x80000000) ||| BitVec.ofNat 32 (s.ctx (ctxKey fn (off / 64))).parked.length
    else s.rget (key4 fn off)
  else if 0x110000 ≤ off ∧ off < 0x110300 then
    let L := (off - 0x110000) / 16
    let c := s.col L
    if s.ncol ≤ L then 0
    else if fn ≠ 0 ∧ c.bound = true ∧ c.part ≠ fn - 1 then 0
    else
      match off % 16 with
      | 0x0 => BitVec.ofNat 32 c.bnd.1
      | 0x4 => BitVec.ofNat 32 c.bnd.2.1
      | 0x8 => BitVec.ofNat 32 c.bnd.2.2
      | _ => BitVec.ofNat 32 (c.part + (if c.bound then 8 else 0))
  else if fn = 0 ∧ 0x160020 ≤ off ∧ off < 0x160030 ∧ off % 4 = 0 then
    let r := s.rget (key0 0 off)
    BitVec.ofNat 32 (bits r 31 24 * 2 ^ 24 + s.gband ((off - 0x160020) / 4) % 256 * 2 ^ 16 + bits r 15 0)
  else if fn = 0 ∧ off = 0x170004 then s.cfgw
  else if fn = 0 ∧ off = 0x170020 then s.nextCfg
  else if fn = 0 ∧ off = 0x170024 then s.wornCols 0 32
  else if fn = 0 ∧ off = 0x170028 then s.wornCols 32 16
  else if fn = 0 ∧ off = 0x17002C then
    BitVec.ofNat 32 (s.worn.wornStacks.foldl (fun a i => a + 2 ^ i) 0 * 256
      + (s.worn.wornSlices.filter fun i => !s.bootWorn.wornSlices.contains i).length)
  else if fn = 0 ∧ 0x170100 ≤ off ∧ off < 0x170140 then
    BitVec.ofNat 32 ((List.range 4).foldl (fun a i => let o := off - 0x170100 + i; a + if o < 57 then (Config.fuse o).toNat * 2 ^ (8 * i) else 0) 0)
  else if fn = 0 ∧ off = 0x170008 then (if s.cyc = 0 then 0 else Config.sensor 0 s.cyc &&& 0xFFFF)
  else if fn = 0 ∧ off = 0x160080 then (if s.cyc = 0 ∨ s.excursion then s.rget (key0 0 off) else Config.sensor 1 s.cyc)
  else if fn = 0 ∧ 0x138000 ≤ off ∧ off < 0x13C000 then
    s.rget (kL2 (ctxKey ((off - 0x138000) / 2048 + 1) ((off - 0x138000) % 2048 / 8)) (off % 8))
  else s.rget (key0 fn off)

end Sys2Proof.Machine
end

