-- ==== Sys2Proof/Machine/Float.lean ====
section
/-! DEFINITION. Number formats, rounding and conversion (R201 to R216), and the scalar floating operations of R303 to R321, on codes
held as natural numbers. -/

namespace Sys2Proof.Machine

/-- Status flags <5:0>: SAT, NX, UF, OF, DZ, NV (R229). -/
abbrev Flags := BitVec 6

def flNV : Flags := 1
def flDZ : Flags := 2
def flOF : Flags := 4
def flUF : Flags := 8
def flNX : Flags := 16
def flSAT : Flags := 32

/-- Which codes of a format are special (R202). -/
inductive FmtKind where
  /-- infinities and NaNs at the top exponent -/
  | ieee
  /-- F8M: 0x80 is the only special code, a NaN -/
  | f8m
  /-- F6 and F4: every code is finite -/
  | finite
  deriving DecidableEq, Repr

/-- A floating format (R201, R202): exponent bits, significand bits, bias. -/
structure Fmt where
  eb : Nat
  mb : Nat
  bias : Nat
  kind : FmtKind
  deriving DecidableEq, Repr

def F32 : Fmt := ⟨8, 23, 127, .ieee⟩
def F16 : Fmt := ⟨5, 10, 15, .ieee⟩
def BF16 : Fmt := ⟨8, 7, 127, .ieee⟩
def F8E : Fmt := ⟨5, 2, 15, .ieee⟩
def F8M : Fmt := ⟨4, 3, 7, .f8m⟩
def F6 : Fmt := ⟨3, 2, 3, .finite⟩
def F4 : Fmt := ⟨2, 1, 1, .finite⟩

def Fmt.width (F : Fmt) : Nat := 1 + F.eb + F.mb

/-- The exponent of the largest finite value. -/
def Fmt.emax (F : Fmt) : Int :=
  match F.kind with
  | .ieee => (2 ^ F.eb : Int) - 2 - F.bias
  | _ => (2 ^ F.eb : Int) - 1 - F.bias

/-- The exponent of the smallest normal value. -/
def Fmt.emin (F : Fmt) : Int := 1 - F.bias

/-- The sign bit of a format, as a number. -/
def Fmt.signBit (F : Fmt) (neg : Bool) : Nat := if neg then 2 ^ (F.eb + F.mb) else 0

/-- The canonical NaN (R203). F6 and F4 have none. -/
def Fmt.nan (F : Fmt) : Nat :=
  match F.kind with
  | .ieee => (2 ^ F.eb - 1) * 2 ^ F.mb + 2 ^ (F.mb - 1)
  | .f8m => 0x80
  | .finite => 0

/-- Zero with a sign; F8M has no −0 (R210). -/
def Fmt.zero (F : Fmt) (neg : Bool) : Nat := if F.kind = .f8m then 0 else F.signBit neg

/-- The largest finite value with a sign. -/
def Fmt.max (F : Fmt) (neg : Bool) : Nat :=
  match F.kind with
  | .ieee => F.signBit neg + (2 ^ F.eb - 1) * 2 ^ F.mb - 1
  | _ => F.signBit neg + 2 ^ (F.eb + F.mb) - 1

/-- An infinity; a format without one saturates (R212). -/
def Fmt.inf (F : Fmt) (neg : Bool) : Nat :=
  match F.kind with
  | .ieee => F.signBit neg + (2 ^ F.eb - 1) * 2 ^ F.mb
  | _ => F.max neg

/-- A decoded floating value: a finite value is ± m × 2^e, zero when m = 0. -/
inductive FVal where
  | nan (signalling : Bool)
  | inf (neg : Bool)
  | fin (neg : Bool) (m : Nat) (e : Int)
  deriving DecidableEq, Repr

def FVal.isNaN : FVal → Bool | .nan _ => true | _ => false
def FVal.isSNaN : FVal → Bool | .nan s => s | _ => false
def FVal.isInf : FVal → Bool | .inf _ => true | _ => false
def FVal.isZero : FVal → Bool | .fin _ 0 _ => true | _ => false
/-- The sign; a NaN has none. -/
def FVal.neg : FVal → Bool | .nan _ => false | .inf s => s | .fin s _ _ => s
/-- The value with its sign inverted. -/
def FVal.negate : FVal → FVal | .nan s => .nan s | .inf s => .inf (!s) | .fin s m e => .fin (!s) m e

/-- The value of a code (R201, R202, R203). -/
def fdecode (F : Fmt) (c : Nat) : FVal :=
  let s := c.testBit (F.eb + F.mb)
  let E := c / 2 ^ F.mb % 2 ^ F.eb
  let M := c % 2 ^ F.mb
  if F.kind = .ieee ∧ E = 2 ^ F.eb - 1 then
    if M = 0 then .inf s else .nan (!(M.testBit (F.mb - 1)))
  else if F.kind = .f8m ∧ c % 256 = 0x80 then .nan false
  else if E = 0 then .fin s M (1 - F.bias - F.mb)
  else .fin s (2 ^ F.mb + M) ((E : Int) - F.bias - F.mb)

/-! ### Rounding (R209, R210) -/

/-- RoundInt of m × 2^(−k), with the sign of the value, in a mode (0 RNE, 1 RZ, 2 RU, 3 RD): the magnitude, and whether it is
inexact. -/
def roundShift (mode : Nat) (neg : Bool) (m : Nat) (k : Int) : Nat × Bool :=
  if k ≤ 0 then (m * 2 ^ (-k).toNat, false)
  else
    let kk := min k.toNat (Nat.log2 m + 3)
    let q := m / 2 ^ kk
    let r := m % 2 ^ kk
    let up : Bool :=
      match mode with
      | 0 => decide (2 ^ kk < 2 * r) || (2 * r == 2 ^ kk && q % 2 == 1)
      | 1 => false
      | 2 => !neg && r != 0
      | _ => neg && r != 0
    (if up then q + 1 else q, r != 0)

/-- Overflow of R210. -/
def overflowTo (F : Fmt) (mode : Nat) (neg : Bool) : Nat :=
  if F.kind ≠ .ieee then F.max neg
  else if mode = 0 ∨ (mode = 2 ∧ neg = false) ∨ (mode = 3 ∧ neg = true) then F.inf neg
  else F.max neg

/-- Encode of a finite value n × 2^qe that the format holds exactly, n ≠ 0, qe the spacing at its exponent or one below. -/
def encodeFin (F : Fmt) (neg : Bool) (n : Nat) (qe : Int) : Nat :=
  let (n, qe) := if 2 ^ (F.mb + 1) ≤ n then (n / 2, qe + 1) else (n, qe)
  if n < 2 ^ F.mb then F.signBit neg + n
  else F.signBit neg + (qe + F.mb + F.bias).toNat * 2 ^ F.mb + (n - 2 ^ F.mb)

/-- Round of R210: ± m × 2^e with m ≠ 0 into format F. -/
def fround (F : Fmt) (mode : Nat) (neg : Bool) (m : Nat) (e : Int) : Nat × Flags :=
  let fl : Int := Nat.log2 m + e
  let qe : Int := max fl F.emin - F.mb
  let (n, inexact) := roundShift mode neg m (qe - e)
  let nx : Flags := if inexact then flNX else 0
  if n ≠ 0 ∧ F.emax < Nat.log2 n + qe then (overflowTo F mode neg, flOF ||| flNX)
  else
    let (t, _) := roundShift mode neg m (fl - F.mb - e)
    let tiny : Bool := decide ((Nat.log2 t : Int) + (fl - F.mb) < F.emin)
    let flags := nx ||| (if inexact && tiny then flUF else 0)
    if n = 0 then (F.zero neg, flags) else (encodeFin F neg n qe, flags)

/-- Round of a signed dyadic ± m × 2^e, an exact zero taking the sign `zneg`. -/
def froundDy (F : Fmt) (mode : Nat) (zneg : Bool) (m : Int) (e : Int) : Nat × Flags :=
  if m = 0 then (F.zero zneg, 0) else fround F mode (decide (m < 0)) m.natAbs e

/-! ### Exact sums and products -/

/-- A signed mantissa. -/
def smant (neg : Bool) (m : Nat) : Int := if neg then -(m : Int) else m

/-- The exact sum of two dyadics. -/
def dyAdd (m1 e1 m2 e2 : Int) : Int × Int :=
  let e := min e1 e2
  (m1 * 2 ^ (e1 - e).toNat + m2 * 2 ^ (e2 - e).toNat, e)

/-- RoundArith of x + y for decoded operands (R305). -/
def faddV (F : Fmt) (mode : Nat) (x y : FVal) : Nat × Flags :=
  if x.isSNaN || y.isSNaN then (F.nan, flNV)
  else
    match x, y with
    | .nan _, _ => (F.nan, 0)
    | _, .nan _ => (F.nan, 0)
    | .inf s, .inf t => if s = t then (F.inf s, 0) else (F.nan, flNV)
    | .inf s, .fin .. => (F.inf s, 0)
    | .fin .., .inf t => (F.inf t, 0)
    | .fin s m e, .fin t n f =>
      let (z, ze) := dyAdd (smant s m) e (smant t n) f
      let zneg := if m = 0 ∧ n = 0 ∧ s = t then s else decide (mode = 3)
      froundDy F mode zneg z ze

/-- The exact product of decoded operands: none when it is invalid (0 × ∞) or a NaN operand decides the result. -/
def fmulX (x y : FVal) : Option FVal :=
  match x, y with
  | .nan _, _ => none
  | _, .nan _ => none
  | .inf s, .inf t => some (.inf (s != t))
  | .inf s, .fin t n _ => if n = 0 then none else some (.inf (s != t))
  | .fin s m _, .inf t => if m = 0 then none else some (.inf (s != t))
  | .fin s m e, .fin t n f => some (.fin (s != t) (m * n) (e + f))

/-- RoundArith of x × y (R305). -/
def fmulV (F : Fmt) (mode : Nat) (x y : FVal) : Nat × Flags :=
  if x.isSNaN || y.isSNaN then (F.nan, flNV)
  else if x.isNaN || y.isNaN then (F.nan, 0)
  else
    match fmulX x y with
    | none => (F.nan, flNV)
    | some (.fin s m e) => froundDy F mode s (smant s m) e
    | some (.inf s) => (F.inf s, 0)
    | some (.nan _) => (F.nan, 0)

/-- RoundArith of x × y + z with one rounding (R305, R306): an invalid product raises NV even beside a quiet NaN. -/
def ffmaV (F : Fmt) (mode : Nat) (np : Bool) (x y z : FVal) : Nat × Flags :=
  if x.isSNaN || y.isSNaN || z.isSNaN then (F.nan, flNV)
  else if x.isNaN || y.isNaN then (F.nan, 0)
  else
    match fmulX x y with
    | none => (F.nan, flNV)
    | some p => faddV F mode (if np then p.negate else p) z

/-! ### Comparison, minimum and maximum (R211, R307, R308) -/

/-- An integer that orders the non-NaN codes of an IEEE format by value; ±0 are equal. -/
def fkey (F : Fmt) (c : Nat) : Int := smant (c.testBit (F.eb + F.mb)) (c % 2 ^ (F.eb + F.mb))

/-- An integer that orders them with −0 below +0. -/
def fkeyZ (F : Fmt) (c : Nat) : Int :=
  let m := c % 2 ^ (F.eb + F.mb)
  if c.testBit (F.eb + F.mb) then -(m : Int) - 1 else m

/-- FMIN (`mx` false) and FMAX (R307). -/
def fminmax (F : Fmt) (mx : Bool) (a b : Nat) : Nat × Flags :=
  let x := fdecode F a
  let y := fdecode F b
  let fl : Flags := if x.isSNaN || y.isSNaN then flNV else 0
  if x.isNaN && y.isNaN then (F.nan, fl)
  else if x.isNaN then (b, fl)
  else if y.isNaN then (a, fl)
  else if decide (fkeyZ F a ≤ fkeyZ F b) != mx then (a, fl) else (b, fl)

/-- The condition `k` of R308 on two codes, with its flags. -/
def fcond (F : Fmt) (k : Nat) (a b : Nat) : Bool × Flags :=
  let x := fdecode F a
  let y := fdecode F b
  let un := x.isNaN || y.isNaN
  let sn : Flags := if x.isSNaN || y.isSNaN then flNV else 0
  let qn : Flags := if un then flNV else 0
  let i := fkey F a
  let j := fkey F b
  match k with
  | 0 => (!un && i == j, sn)
  | 1 => (un || i != j, sn)
  | 2 => (!un && decide (i < j), qn)
  | 3 => (!un && decide (i ≤ j), qn)
  | 4 => (!un && decide (j < i), qn)
  | 5 => (!un && decide (j ≤ i), qn)
  | 6 => (!un && decide (i < j), sn)
  | 7 => (!un && decide (i ≤ j), sn)
  | 8 => (!un && decide (j < i), sn)
  | 9 => (!un && decide (j ≤ i), sn)
  | 10 => (un, sn)
  | _ => (!un, sn)

/-! ### Rounding to integral, fraction, scaling, fields (R310 to R312) -/

/-- The canonical NaN with NV for a signalling source. -/
def fnanOf (F : Fmt) (x : FVal) : Nat × Flags := (F.nan, if x.isSNaN then flNV else 0)

/-- FRND (R310): NX only under `.x`. -/
def frndOp (mode : Nat) (x : Bool) (a : Nat) : Nat × Flags :=
  match fdecode F32 a with
  | .nan s => fnanOf F32 (.nan s)
  | .inf s => (F32.inf s, 0)
  | .fin s m e =>
    let (n, inexact) := roundShift mode s m (-e)
    (if n = 0 then F32.zero s else (fround F32 1 s n 0).1, if inexact && x then flNX else 0)

/-- FFRC (R310): a − Trunc(a), exact. -/
def ffrcOp (a : Nat) : Nat × Flags :=
  match fdecode F32 a with
  | .nan s => fnanOf F32 (.nan s)
  | .inf _ => (F32.nan, flNV)
  | .fin s m e =>
    let r := if 0 ≤ e then 0 else if (-e).toNat ≤ Nat.log2 m then m % 2 ^ (-e).toNat else m
    (if r = 0 then F32.zero s else (fround F32 1 s r e).1, 0)

/-- FSCL (R310): a × 2^n, one rounding. -/
def fsclOp (F : Fmt) (mode : Nat) (a : Nat) (n : Int) : Nat × Flags :=
  match fdecode F a with
  | .nan s => fnanOf F (.nan s)
  | .inf s => (F.inf s, 0)
  | .fin s m e => froundDy F mode s (smant s m) (e + n)

/-- FEXT `.exp` and `.mant` (R311). -/
def fextOp (k : Nat) (a b : Nat) : Nat × Flags :=
  match k with
  | 0 =>
    match fdecode F32 a with
    | .nan _ => (0x7FFFFFFE, flNV)
    | .inf _ => (0x7FFFFFFF, flNV)
    | .fin _ m e => if m = 0 then (0x80000000, flNV) else ((((Nat.log2 m : Int) + e) % 2 ^ 32).toNat, 0)
  | 1 =>
    match fdecode F32 a with
    | .nan s => fnanOf F32 (.nan s)
    | .inf s => (F32.inf s, 0)
    | .fin s m _ => if m = 0 then (F32.zero s, 0) else fround F32 0 s m (-(Nat.log2 m : Int))
  | 2 => (a ^^^ 0x80000000, 0)
  | 3 => (a &&& 0x7FFFFFFF, 0)
  | _ => ((a &&& 0x7FFFFFFF) ||| (b &&& 0x80000000), 0)

/-- The class number of an F32 code (R312). -/
def fclass (a : Nat) : Nat :=
  match fdecode F32 a with
  | .nan true => 0
  | .nan false => 1
  | .inf true => 2
  | .inf false => 9
  | .fin s m _ =>
    if m = 0 then (if s then 5 else 6)
    else if m < 2 ^ 23 then (if s then 4 else 7)
    else (if s then 3 else 8)

/-- FCLS (R312). -/
def fclsOp (a mask : Nat) : Nat :=
  let c := fclass a
  if mask = 0 then 2 ^ c else if mask.testBit (c - 1) then 1 else 0

/-! ### Square root and the approximations (R313 to R315) -/

/-- The integer square root of n, by bits from `k` down. -/
def isqrtBits (n : Nat) : Nat → Nat → Nat
  | 0, r => r
  | k + 1, r => let t := r + 2 ^ k; isqrtBits n k (if t * t ≤ n then t else r)

/-- The integer square root. -/
def isqrt (n : Nat) : Nat := isqrtBits n (Nat.log2 n / 2 + 1) 0

/-- A value with √(m × 2^e) to at least 120 bits and a sticky last bit: mantissa and exponent. -/
def sqrtDy (m : Nat) (e : Int) : Nat × Int :=
  let odd : Nat := (e % 2).toNat
  let big := m * 2 ^ (240 + odd)
  let r := isqrt big
  (2 * r + (if r * r = big then 0 else 1), (e - odd) / 2 - 120 - 1)

/-- FSQT (R313, R314): correctly rounded. -/
def fsqtOp (mode : Nat) (a : Nat) : Nat × Flags :=
  match fdecode F32 a with
  | .nan s => fnanOf F32 (.nan s)
  | .inf s => if s then (F32.nan, flNV) else (F32.inf false, 0)
  | .fin s m e =>
    if m = 0 then (F32.zero s, 0)
    else if s then (F32.nan, flNV)
    else let (r, re) := sqrtDy m e; fround F32 mode false r re

/-- Fixed point with 256 fractional bits. -/
def fxOne : Int := 2 ^ 256
def fxLn2 : Int := 0xB17217F7D1CF79ABC9E3B39803F2F6AF40F343267298B62D8A0D175B8BAAFA2B
def fxPi : Int := 0x3243F6A8885A308D313198A2E03707344A4093822299F31D0082EFA98EC4E6C89

def fxMul (x y : Int) : Int := x * y / fxOne

/-- A dyadic in fixed point, truncated. -/
def fxOf (m : Int) (e : Int) : Int :=
  if -256 ≤ e then m * 2 ^ (e + 256).toNat else m / 2 ^ (min (-(e + 256)).toNat 400)

/-- The sum of a power series: term k is the one before × x / (k × d). `step` is 1 for every factorial factor. -/
def fxExpSeries (x : Int) : Nat → Nat → Int → Int → Int
  | 0, _, _, acc => acc
  | f + 1, k, t, acc => let t' := fxMul t x / (k : Int); fxExpSeries x f (k + 1) t' (acc + t')

/-- The series of sin or cos: each term is −x² / (k (k + 1)) times the one before. -/
def fxTrigSeries (x2 : Int) : Nat → Nat → Int → Int → Int
  | 0, _, _, acc => acc
  | f + 1, k, t, acc =>
    let t' := -(fxMul t x2 / ((k : Int) * (k + 1)))
    fxTrigSeries x2 f (k + 2) t' (acc + t')

/-- The bits of log2 of z in [1, 2), by repeated squaring. -/
def fxLogBits : Nat → Int → Int → Int
  | 0, _, acc => acc
  | f + 1, z, acc =>
    let y := fxMul z z
    if 2 * fxOne ≤ y then fxLogBits f (y / 2) (2 * acc + 1) else fxLogBits f y (2 * acc)

/-- A close value of the function of approximation form `k` at a finite source that R314 and R315 do not list: mantissa and
exponent (R313). Its error, below 2^−100 of its size and, for FLOG2, below 2^−100, is far below the distance of any F32 result from a bound. -/
def approxRef (k : Nat) (s : Bool) (m : Nat) (e : Int) : Int × Int :=
  match k with
  | 0 => (smant s (2 ^ 128 / m), -128 - e)
  | 1 =>
    let (r, re) := sqrtDy m e
    ((2 ^ 320 / r : Nat), -320 - re)
  | 3 =>
    let x := fxOf (smant s m) e
    let n := x / fxOne
    (fxExpSeries (fxMul (x - n * fxOne) fxLn2) 60 1 fxOne fxOne, n - 256)
  | 4 =>
    let l := Nat.log2 m
    let z : Int := if l ≤ 256 then (m : Int) * 2 ^ (256 - l) else m / 2 ^ (l - 256)
    (((l : Int) + e) * 2 ^ 112 + fxLogBits 112 z 0, -112)
  | _ =>
    let x := fxOf (smant s m) e
    let n := (2 * x + fxPi / 2) / fxPi
    let r := x - n * fxPi / 2
    let q := (n + (if k = 6 then 1 else 0)) % 4
    let r2 := fxMul r r
    let v := if q % 2 = 0 then fxTrigSeries r2 30 2 r r else fxTrigSeries r2 30 1 fxOne fxOne
    (if 2 ≤ q then -v else v, -256)

/-- The bound of R313 around the value y = m × 2^e: mantissa and exponent of the largest distance allowed. -/
def approxBound (k : Nat) (am : Nat) (ae : Int) (m : Int) (e : Int) : Int × Int :=
  let ulp : Int := max ((Nat.log2 m.natAbs : Int) + e) (-126) - 23
  match k with
  | 0 => (1, ulp)
  | 1 | 3 => (2, ulp)
  | 4 => if -1 ≤ (Nat.log2 am : Int) + ae ∧ (Nat.log2 am : Int) + ae < 1 then (1, -22) else (2, ulp)
  | _ => (1, -21)

/-- Whether the finite value r lies within the bound of R313 of the close value. -/
def approxNear (r : FVal) (m e bm be : Int) : Bool :=
  match r with
  | .fin s n f =>
    let (d, de) := dyAdd (smant s n) f (-m) e
    let lo := min de be
    decide ((d.natAbs : Int) * 2 ^ (de - lo).toNat ≤ bm * 2 ^ (be - lo).toNat)
  | _ => false

/-- The result of an approximation form outside R314 and R315: the S4's own function where it keeps the bound of R313, else the close
value rounded. For FSIN and FCOS beyond 2^16, the S4's own value where it lies in [−1, 1], else 0. -/
def approxOp (k : Nat) (a : Nat) (s : Bool) (m : Nat) (e : Int) : Nat × Flags :=
  let own := (Config.approx k (BitVec.ofNat 32 a)).toNat
  let r : Nat :=
    if 5 ≤ k ∧ 16 ≤ (Nat.log2 m : Int) + e ∧ ¬ (Nat.log2 m + e = 16 ∧ m = 2 ^ Nat.log2 m) then
      (if own % 2 ^ 31 ≤ 0x3F800000 then own else 0)
    else
      let (y, ye) := approxRef k s m e
      let (bm, be) := approxBound k m e y ye
      if approxNear (fdecode F32 own) y ye bm be then own else (froundDy F32 0 false y ye).1
  (r, flNX ||| (if r % 2 ^ 31 ≠ 0 ∧ r % 2 ^ 31 < 2 ^ 23 then flUF else 0))

/-- Whether ± m × 2^e is ± a power of two, and its exponent. -/
def pow2Exp (m : Nat) (e : Int) : Option Int := if m = 2 ^ Nat.log2 m then some (Nat.log2 m + e) else none

/-- A power of two as an F32 code, exact for exponents −149 to 127. -/
def f32Pow2 (neg : Bool) (k : Int) : Nat := (fround F32 0 neg 1 k).1

/-- An integer as an F32 code, exact for small magnitudes. -/
def f32Int (k : Int) : Nat := (froundDy F32 0 false k 0).1

/-- FRCP (R313 to R315). -/
def frcpOp (a : Nat) : Nat × Flags :=
  match fdecode F32 a with
  | .nan s => fnanOf F32 (.nan s)
  | .inf s => (F32.zero s, 0)
  | .fin s m e =>
    if m = 0 then (F32.inf s, flDZ)
    else if a % 2 ^ 31 ≤ 0x00200000 then (F32.inf s, flOF ||| flNX)
    else
      match pow2Exp m e with
      | some k => (f32Pow2 s (-k), 0)
      | none => approxOp 0 a s m e

/-- FRSQ (R313 to R315). -/
def frsqOp (a : Nat) : Nat × Flags :=
  match fdecode F32 a with
  | .nan s => fnanOf F32 (.nan s)
  | .inf s => if s then (F32.nan, flNV) else (F32.zero false, 0)
  | .fin s m e =>
    if m = 0 then (F32.inf s, flDZ)
    else if s then (F32.nan, flNV)
    else
      match pow2Exp m e with
      | some k => if k % 2 = 0 then (f32Pow2 false (-(k / 2)), 0) else approxOp 1 a s m e
      | none => approxOp 1 a s m e

/-- FEXP2 (R313 to R315). -/
def fexp2Op (a : Nat) : Nat × Flags :=
  match fdecode F32 a with
  | .nan s => fnanOf F32 (.nan s)
  | .inf s => (if s then F32.zero false else F32.inf false, 0)
  | .fin s m e =>
    if s = false ∧ 0x43000000 ≤ a then (F32.inf false, flOF ||| flNX)
    else if s = true ∧ 0x43160000 ≤ a % 2 ^ 31 then (F32.zero false, flUF ||| flNX)
    else
      let k := (-e).toNat
      if m = 0 then (f32Pow2 false 0, 0)
      else if 0 ≤ e then (f32Pow2 false (smant s (m * 2 ^ e.toNat)), 0)
      else if k ≤ Nat.log2 m ∧ m % 2 ^ k = 0 then (f32Pow2 false (smant s (m / 2 ^ k)), 0)
      else approxOp 3 a s m e

/-- FLOG2 (R313 to R315). -/
def flog2Op (a : Nat) : Nat × Flags :=
  match fdecode F32 a with
  | .nan s => fnanOf F32 (.nan s)
  | .inf s => if s then (F32.nan, flNV) else (F32.inf false, 0)
  | .fin s m e =>
    if m = 0 then (F32.inf true, flDZ)
    else if s then (F32.nan, flNV)
    else
      match pow2Exp m e with
      | some k => (f32Int k, 0)
      | none => approxOp 4 a s m e

/-- FSIN (`cos` false) and FCOS (R313 to R315). -/
def ftrigOp (cos : Bool) (a : Nat) : Nat × Flags :=
  match fdecode F32 a with
  | .nan s => fnanOf F32 (.nan s)
  | .inf _ => (F32.nan, flNV)
  | .fin s m e =>
    if m = 0 then (if cos then 0x3F800000 else F32.zero s, 0)
    else approxOp (if cos then 6 else 5) a s m e

/-! ### Conversions (R212, R213, R318) -/

/-- Floating to floating (R212); an identical format copies every code but a NaN (R318). -/
def cvtFF (S D : Fmt) (mode : Nat) (a : Nat) : Nat × Flags :=
  match fdecode S a with
  | .nan s => if D.kind = .finite then (0, flNV) else (D.nan, if s then flNV else 0)
  | .inf s => (D.inf s, if D.kind = .ieee then 0 else flOF)
  | .fin s m e => if S = D then (a, 0) else if m = 0 then (D.zero s, 0) else fround D mode s m e

/-- An engine conversion (R212, R215): RNE, a finite overflow saturates in every format; the second component says whether it counts in
CONVX. -/
def cvtEngine (x : FVal) (D : Fmt) : Nat × Bool :=
  match x with
  | .nan _ => (D.nan, true)
  | .inf s => (D.inf s, true)
  | .fin s m e =>
    if m = 0 then (D.zero s, false)
    else
      let (r, fl) := fround D 0 s m e
      if fl &&& flOF ≠ 0 then (D.max s, true) else (r, false)

/-- The value range of an integer type code (R207, R243). -/
def intRange (ty : Nat) : Int × Int :=
  if ty = 1 then (-128, 127) else if ty = 2 ∨ ty = 3 then (0, 255)
  else if ty = 4 then (-32768, 32767) else if ty = 5 ∨ ty = 6 then (0, 65535)
  else if ty = 7 then (-2147483648, 2147483647) else if ty = 8 ∨ ty = 9 then (0, 4294967295)
  else if ty = 10 then (-9223372036854775808, 9223372036854775807) else (0, 18446744073709551615)

/-- The width in bits of an integer type code (R207, R243). -/
def intWidth (ty : Nat) : Nat :=
  if ty = 1 ∨ ty = 2 ∨ ty = 3 then 8 else if ty = 4 ∨ ty = 5 ∨ ty = 6 then 16
  else if ty = 7 ∨ ty = 8 ∨ ty = 9 then 32 else 64

/-- Whether an integer type code is signed. -/
def intSigned (ty : Nat) : Bool := ty == 1 || ty == 4 || ty == 7 || ty == 10

/-- Val of R286: the low bits of x as the type. -/
def intVal (x : Nat) (ty : Nat) : Int :=
  let w := intWidth ty
  let v := x % 2 ^ w
  if intSigned ty && decide (2 ^ (w - 1) ≤ v) then (v : Int) - 2 ^ w else v

/-- Fit of R286: the w-bit result, and SAT when it clamped. -/
def fitInt (r : Int) (ty : Nat) (sat : Bool) : Nat × Flags :=
  let w := intWidth ty
  let (lo, hi) := intRange ty
  if sat && decide (r < lo) then ((lo % 2 ^ w).toNat, flSAT)
  else if sat && decide (hi < r) then ((hi % 2 ^ w).toNat, flSAT)
  else ((r % 2 ^ w).toNat, 0)

/-- Floating to integer (R213): the w-bit result. -/
def cvtFI (S : Fmt) (ty : Nat) (mode : Nat) (a : Nat) : Nat × Flags :=
  let w := intWidth ty
  let (lo, hi) := intRange ty
  match fdecode S a with
  | .nan _ => (0, flNV)
  | .inf s => (((if s then lo else hi) % 2 ^ w).toNat, flNV)
  | .fin s m e =>
    let (n, inexact) := roundShift mode s m (-e)
    let r := smant s n
    if r < lo then ((lo % 2 ^ w).toNat, flNV)
    else if hi < r then ((hi % 2 ^ w).toNat, flNV)
    else ((r % 2 ^ w).toNat, if inexact then flNX else 0)

/-- Integer to floating (R213). -/
def cvtIF (D : Fmt) (mode : Nat) (v : Int) : Nat × Flags := froundDy D mode false v 0

/-- A type code's floating format (R243). -/
def fmtOf (ty : Nat) : Fmt :=
  if ty = 15 then F16 else if ty = 16 then BF16 else if ty = 17 then F8E else if ty = 18 then F8M
  else if ty = 19 then F6 else if ty = 20 then F4 else F32

/-- The low w bits of r extended to 32 bits as an integer type does (R304); 64-bit values are left as they are. -/
def extendInt (r ty : Nat) : Nat := if intWidth ty = 64 then r else (intVal r ty % 2 ^ 32).toNat

/-- CVT (R317, R318): the destination bits and flags for a source value of up to 64 bits. -/
def cvtOp (dst src : Nat) (mode : Nat) (sat : Bool) (a : Nat) : Nat × Flags :=
  let fd := decide (14 ≤ dst)
  let fs := decide (14 ≤ src)
  if fd && fs then
    let r := cvtFF (fmtOf src) (fmtOf dst) mode (a % 2 ^ (fmtOf src).width)
    r
  else if fs then
    let (r, fl) := cvtFI (fmtOf src) dst mode (a % 2 ^ (fmtOf src).width)
    (extendInt r dst, fl)
  else if fd then cvtIF (fmtOf dst) mode (intVal a src)
  else
    let (r, fl) := fitInt (intVal a src) dst sat
    (extendInt r dst, fl)

/-! ### Narrow elements and block scales (R205, R206, R216, R319 to R321) -/

/-- An X8 code as an integer (R205). -/
def x8Val (c : Nat) : Int := intVal c 1

/-- A T2 code as an integer (R206). -/
def t2Val (c : Nat) : Int := if c % 4 = 1 then 1 else if c % 4 = 3 then -1 else 0

/-- Narrow of R320 into T2. -/
def narrowT2 (mode : Nat) (x : FVal) : Nat × Flags :=
  match x with
  | .nan _ => (0, flNV)
  | .inf s => (if s then 3 else 1, flOF ||| flNX)
  | .fin s m e =>
    let (n, inexact) := roundShift mode s m (-e)
    if 1 < n then (if s then 3 else 1, flOF ||| flNX)
    else (if n = 0 then 0 else if s then 3 else 1, if inexact then flNX else 0)

/-- Narrow of R320: a decoded F32 value into a narrow type. -/
def narrowTo (ty mode : Nat) (x : FVal) : Nat × Flags :=
  if ty = 22 then narrowT2 mode x
  else
    let D := fmtOf ty
    match x with
    | .nan s => if D.kind = .finite then (0, flNV) else (D.nan, if s then flNV else 0)
    | .inf s => (D.inf s, if D.kind = .ieee then 0 else flOF)
    | .fin s m e => if m = 0 then (D.zero s, 0) else fround D mode s m e

/-- A value times 2^k. -/
def FVal.scale (x : FVal) (k : Int) : FVal := match x with | .fin s m e => .fin s m (e + k) | y => y

/-- CVPK `.pk` of one element under scale `sc` (R320). -/
def packElem (ty mode : Nat) (sc : Option Nat) (a : Nat) : Nat × Flags :=
  match sc with
  | none => narrowTo ty mode (fdecode F32 a)
  | some c => if x8Val c = -128 then (0, 0) else narrowTo ty mode ((fdecode F32 a).scale (-(x8Val c)))

/-- CVPK `.unpk` of one element under scale `sc` (R320). -/
def unpackElem (ty mode : Nat) (sc : Option Nat) (c : Nat) : Nat × Flags :=
  let x : FVal := if ty = 22 then (let v := t2Val c; .fin (decide (v < 0)) v.natAbs 0) else fdecode (fmtOf ty) c
  match sc with
  | some s =>
    if x8Val s = -128 then (0, 0)
    else
      match x.scale (x8Val s) with
      | .nan b => fnanOf F32 (.nan b)
      | .inf b => (F32.inf b, 0)
      | .fin b m e => froundDy F32 mode b (smant b m) e
  | none =>
    match x with
    | .nan b => fnanOf F32 (.nan b)
    | .inf b => (F32.inf b, 0)
    | .fin b m e => froundDy F32 mode b (smant b m) e

/-- The exponent of a narrow type's largest finite value (R216, R321). -/
def emaxOf (ty : Nat) : Int := (fmtOf ty).emax

/-- BlockScaleFor of R216 for a largest magnitude m × 2^e. -/
def blockScaleFor (ty : Nat) (m : Nat) (e : Int) : Int :=
  if m = 0 then -128 else min 127 (max (-127) ((Nat.log2 m : Int) + e - emaxOf ty))

/-- CVSC `.ext` (R321). -/
def cvscExt (ty a : Nat) : Nat × Flags :=
  let (s, fl) : Int × Flags :=
    match fdecode F32 a with
    | .fin _ m e => (blockScaleFor ty m e, 0)
    | _ => (-128, flNV)
  ((s % 2 ^ 32).toNat, fl)

/-- CVSC `.app` (R321). -/
def cvscApp (mode : Nat) (inv : Bool) (a b : Nat) : Nat × Flags :=
  let s := x8Val b
  if s = -128 then (0, 0) else fsclOp F32 mode a (if inv then -s else s)

/-- UlpF32 of R227 as an exponent: the spacing at |y|, 2^−149 for 0. -/
def ulpF32Exp (m : Nat) (e : Int) : Int := if m = 0 then -149 else max ((Nat.log2 m : Int) + e) (-126) - 23

end Sys2Proof.Machine
end

