-- ==== Sys2Proof/Machine/Memory.lean ====
section
/-! DEFINITION. Global memory: placement (R156 to R159), the page-table walk and its permissions (R149 to R155), homes, leases and
completion times (R179 to R182), and the column cache (R140, R184). -/

namespace Sys2Proof.Machine

/-! ### Placement (R154, R157, R158, R159) -/

/-- The number of set bits among bits 0 to 7. -/
def pop8 (x : Nat) : Nat := ((List.range 8).filter fun i => x.testBit i).length

/-- The k-th set bit among bits 0 to 7, the 0-th the lowest. -/
def nthBit (x k : Nat) : Nat := ((List.range 8).filter fun i => x.testBit i).getD k 0

def pStk (p : Word) : Nat := bits p 7 0
def pChn (p : Word) : Nat := bits p 12 8
def pGrn (p : Word) : Nat := bits p 15 13
def pBkh (p : Word) : Nat := bits p 19 16
def pHome (p : Word) : Nat := bits p 23 20
def pCls (p : Word) : Nat := bits p 27 24

/-- The channels a page uses (R157). -/
def pM (p : Word) : Nat := pop8 (pStk p) * 2 ^ pChn p

/-- The stripe granule (R157). -/
def pG (p : Word) : Nat := 256 * 2 ^ pGrn p

/-- Stack, channel and channel-local byte of byte o of a page (R158). -/
def locate (pa o : Nat) (p : Word) : Nat × Nat × Nat :=
  let k := pop8 (pStk p)
  let m := pM p
  let G := pG p
  let st := o / G
  let j := st % m
  (nthBit (pStk p) (j % k), pa / 2 ^ 40 % 32 + j / k, pa % 2 ^ 40 / m + st / m * G + o % G)

/-- The device memory key of a channel-local byte. -/
def physKey (stack chan L : Nat) : Nat := (stack * 32 + chan) * 2 ^ 31 + L

/-- The device memory key of byte o of a page (R158). DESIGN CHOICE (unsafe): where software breaks R158 and maps two leaves whose locations overlap
with another frame or plait, both reach the same bytes; the spec gives no consequence. -/
def pageKey (pa o : Nat) (p : Word) : Nat := let (st, ch, L) := locate pa o p; physKey st ch L

/-- The device memory key of a byte of a table or ring at a frame address, read with TPLAIT: placed within its 64 KiB frame (R150, R151). -/
def tableKey (a : Nat) (p : Word) : Nat := pageKey (a / 65536 * 65536) (a % 65536) p

/-- BankHash and the bank of a channel-local byte, for a code PBKH (R158). -/
def bankAt (L bkh : Nat) : Nat :=
  let row := L / 2 ^ 15
  (L / 2 ^ 10 % 32) ^^^ (if bkh = 0 then 0 else row / 2 ^ (bkh - 1) % 32)
def bankOf (L : Nat) (p : Word) : Nat := bankAt L (pBkh p)

/-- Bit reversal of 16 bits. -/
def brev16 (x : Nat) : Nat := (List.range 16).foldl (fun r i => 2 * r + (if x.testBit i then 1 else 0)) 0

/-- The home slice of a line (R159). -/
def State.homeSlice (s : State) (stack chan L pa : Nat) (p : Word) : Nat :=
  let K := stack * 2 ^ 29 + chan * 2 ^ 24 + L / 128 % 2 ^ 24
  let F := (K % 2 ^ 16) ^^^ (K / 2 ^ 16 % 2 ^ 16)
  if pHome p = 0 then brev16 F * s.nslc / 2 ^ 16
  else
    let g := if pHome p = 1 then pa / 2 ^ 45 % 64 * (s.nslc / 8) / s.ncol else pHome p - 2
    8 * g + ((F % 8) ^^^ (F / 8 % 8) ^^^ (F / 64 % 8) ^^^ (F / 512 % 8) ^^^ (F / 4096 % 8))

/-- Whether a plait word is legal for a page of `size` bytes (R156, R157). -/
def State.plaitLegal (s : State) (p : Word) (size : Nat) : Bool :=
  bits p 31 28 == 0 &&
  match pCls p with
  | 0 | 3 =>
    let k := pop8 (pStk p)
    decide (pBkh p ≤ 12) && decide (pChn p ≤ 5) && (pStk p &&& s.stk == pStk p) && [1, 2, 4, 8].contains k
      && decide (pM p * pG p ≤ size)
  | 1 => bits p 23 0 == 0
  | 2 => bits p 23 6 == 0
  | _ => false

/-- Whether a leaf's frame address is legal (R154). -/
def State.frameLegal (s : State) (pa : Nat) (p : Word) (size : Nat) : Bool :=
  match pCls p with
  | 0 | 3 =>
    pa / 2 ^ 51 == 0
      && (if pHome p = 1 then decide (pa / 2 ^ 45 % 64 < s.ncol) else pa / 2 ^ 45 % 64 == 0)
      && pa / 2 ^ 40 % 32 % 2 ^ pChn p == 0
      && pa % 2 ^ 40 % size == 0 && decide (pa % 2 ^ 40 + size ≤ pM p * (3 * 2 ^ 29))
  | _ => pa == 0

/-! ### Device memory and its homes -/

/-- The number of the first line of the base-scratchpad windows in the numbering of lines; the lines of HBM lie below it. -/
def winLine0 : Nat := 2 ^ 40

/-- The key of a window byte among the keys of lines, from its key in the windows. -/
def winAt (key : Nat) : Nat := winLine0 * 128 + key

/-- The home directory record of the line of a key. -/
def State.home (s : State) (line : Nat) : DirLine := sget {} s.dir line
def State.setHome (s : State) (line : Nat) (d : DirLine) : State := { s with dir := sins s.dir line d }

/-- The key a line's accesses reach: after a move, its new home (R169). -/
def State.redirect (s : State) (key : Nat) : Nat :=
  match (s.home (key / 128)).move with
  | .moved to_ => to_ * 128 + key % 128
  | _ => key

/-- The byte held at a home. -/
def State.byteAt (s : State) (key : Nat) : Byte :=
  if key < winAt 0 then s.mem.get (s.redirect key) else s.win.get (key - winAt 0)

/-- The bytes held at homes from a key upward. -/
def State.bytesAt (s : State) (key : Nat) : Nat → List Byte
  | 0 => []
  | n + 1 => s.byteAt key :: State.bytesAt s (key + 1) n

/-- Writes one byte at its home. -/
def State.putByte (s : State) (key : Nat) (b : Byte) : State :=
  if key < winAt 0 then { s with mem := s.mem.put (s.redirect key) b } else { s with win := s.win.put (key - winAt 0) b }

/-- Writes bytes, each with its line offset, at a line's home. -/
def State.putLine (s : State) (line : Nat) : List (Nat × Byte) → State
  | [] => s
  | (o, b) :: t => State.putLine (s.putByte (line * 128 + o) b) line t

/-- The unit that holds a line's poison: its home after a move (R446, R448). -/
def State.poisonUnit (s : State) (line : Nat) : Nat := if line < winLine0 then s.redirect (line * 128) / 128 else line

/-- Whether a line is poisoned (R448). -/
def State.isPoison (s : State) (line : Nat) : Bool := s.poison.contains (s.poisonUnit line)

/-- Marks or clears a line's poison. -/
def State.setPoison (s : State) (line : Nat) (p : Bool) : State :=
  let u := s.poisonUnit line
  { s with poison := if p then (if s.poison.contains u then s.poison else u :: s.poison)
                     else s.poison.filter (fun x => x != u) }

/-! ### Atomic operations and the waiting writes of a home (R182, R338, R339) -/

/-- The type an atomic's TY 0 stands for (R338). -/
def aopTyOf (aop ty : Nat) : Nat := if ty = 0 then (if aop ≤ 2 then 7 else 9) else ty

/-- Apply of R339. -/
def aopApply (aop ty v b c : Nat) : Nat :=
  let w := if intWidth ty = 64 ∧ ty ≠ 14 then 64 else 32
  match aop with
  | 0 => if ty = 14 then (faddV F32 0 (fdecode F32 v) (fdecode F32 b)).1 else (v + b) % 2 ^ w
  | 1 => if ty = 14 then (fminmax F32 false v b).1 else if intVal v ty ≤ intVal b ty then v else b
  | 2 => if ty = 14 then (fminmax F32 true v b).1 else if intVal v ty ≤ intVal b ty then b else v
  | 3 => v &&& b
  | 4 => v ||| b
  | 5 => v ^^^ b
  | 6 => b
  | _ => if v = b then c else v

/-- The word a count update leaves (R227, R350, R351). -/
def CountOp.apply (op : CountOp) (v : Nat) : Nat :=
  match op with
  | .set n => n % 2 ^ 32
  | .add n => (v + n) % 2 ^ 32
  | .addSat n => v / 2 ^ 16 * 2 ^ 16 + min 0xFFFF (v % 2 ^ 16 + n)
  | .sub n => (v + 2 ^ 32 - n % 2 ^ 32) % 2 ^ 32
  | .subLow n => v / 2 ^ 16 * 2 ^ 16 + (v % 2 ^ 16 + 2 ^ 16 - n % 2 ^ 16) % 2 ^ 16

/-- An access of a team has been performed at its home at time `t`: an atomic's old value is ready to return; a reduction or store is
acknowledged, and its time joins the horizons of its threads (R182, R183, R342); a time that the return router forwards is counted (R75, R79). -/
def Team.ack (tm : Team) (id t old : Nat) (bad : Bool) : Team :=
  match tm.accesses.find? fun a => a.id = id with
  | none => tm
  | some a =>
    match a.kind with
    | .atomic .. | .load | .window _ | .gather =>
      { tm with accesses := tm.accesses.map fun x => if x.id = id then { x with state := .ready, value := old, t, poison := bad } else x }
    | _ =>
      { tm with
        accesses := tm.accesses.filter fun x => x.id != id
        counters := if a.routed then { tm.counters with stakeBytes := (tm.counters.stakeBytes + 256) % 2 ^ 64 } else tm.counters
        threads := a.dests.foldl (fun l d => l.modify d.thread fun th => { th with horizon := max th.horizon t }) tm.threads }

/-- The largest lease length (R180). -/
def State.lmax (s : State) : Nat := s.rbits (key0 0 0x150000) 3 0

/-- The completion time of a write that arrives now (R182), and the directory record after its arrival (R180). -/
def State.arrive (s : State) (line : Nat) : Nat × DirLine :=
  let d := s.home line
  let now := s.dt
  let live := decide (now < d.e)
  (max now d.e + 1, { d with wrote := true, ll := if live then max 32 (d.ll / 2) else d.ll })

def State.cline (s : State) (c line : Nat) : CLine := sget {} (s.col c).lines line

def State.setCline (s : State) (c line : Nat) (l : CLine) : State :=
  s.modCol c fun x => { x with lines := if l.data = [] then sdel x.lines line else sins x.lines line l }

/-- The lease granted now: its length after R180, and its expiry under R181; none when it would be too short, or the line is owned or moving (R169,
R193). -/
def State.grantNow (s : State) (line : Nat) : State × Option Nat :=
  let d := s.home line
  let now := s.dt
  let top := 2 ^ s.lmax
  let ll := min top (if d.wrote then d.ll else min top (2 * d.ll))
  let e := d.waiting.foldl (fun e w => min e (w.t - 1)) (now + ll)
  if now + 8 ≤ e ∧ d.owner = none ∧ d.move ≠ .moving then (s.setHome line { d with ll, e := max d.e e, wrote := false }, some e)
  else (s, none)

/-- The lease of a line that its column keeps after a write-back: it is granted when the home applies the write, at its completion time (R184). -/
def State.keepLine (s : State) (line c t : Nat) : State :=
  if shas (s.col c).lines line && (s.cline c line).grant == t then
    match s.grantNow line with
    | (s, some e) => s.setCline c line { s.cline c line with lease := e }
    | (s, none) => s
  else s

/-- Applies one waiting write at its home (R182). -/
def State.applyWrite (s : State) (line : Nat) (w : HomeWrite) : State :=
  let ack (s : State) (old : Nat) (bad : Bool) : State :=
    match w.team, w.access with
    | some k, some id =>
      match sfind s.teams k with
      | some tm => { s with teams := sins s.teams k (tm.ack id w.t old bad) }
      | none => s
    | _, _ =>
      match w.reply with
      | some (dev, va) =>
        let m : OutMsg := if bad then { dev := some dev, addr := va, data := [], err := some 0x1040, kind := .reply }
          else { dev := some dev, addr := va, data := (match w.op with | .atomic _ size .. => leBytes old size | _ => []), kind := .reply }
        { s with outbox := m :: s.outbox }
      | none => s
  match w.op with
  | .write bytes =>
    let s := s.putLine line bytes
    let s := if w.poison || decide (128 ≤ bytes.length) then s.setPoison line w.poison else s
    let s := if w.last then s.setHome line { s.home line with owner := none } else s
    ack (match w.keep with | some c => s.keepLine line c w.t | none => s) 0 false
  | .atomic off size aop ty b c =>
    if s.isPoison line then ack s 0 true
    else
      let old := leNat (s.bytesAt (line * 128 + off) size)
      let new := leBytes (aopApply aop ty old b c) size
      ack (s.putLine line (new.zipIdx.map fun (x, i) => (off + i, x))) old false
  | .count off op =>
    let old := leNat (s.bytesAt (line * 128 + off) 4)
    ack (s.putLine line ((leBytes (op.apply old) 4).zipIdx.map fun (x, i) => (off + i, x))) old false

/-- Applies the listed writes in order. A column keeps no lease on a line that a later one of them changes (R181). -/
def State.applyWrites (s : State) (line : Nat) : List HomeWrite → State
  | [] => s
  | w :: rest => State.applyWrites (s.applyWrite line (if rest.isEmpty then w else { w with keep := none })) line rest

/-- Applies the waiting writes of a line whose completion time the home's DT has reached (R182): of a line that an engine owns, the engine's own alone
(R193); of a line that moves, none (R169). -/
def State.applyDue (s : State) (line : Nat) : State :=
  let d := s.home line
  if d.move == .moving then s
  else
    match d.owner with
    | none =>
      let due := d.waiting.takeWhile fun w => decide (w.t ≤ s.dt)
      if due = [] then s
      else (s.setHome line { d with waiting := d.waiting.drop due.length }).applyWrites line due
    | some r =>
      match d.waiting.find? fun w => w.req == some r && decide (w.t ≤ s.dt) with
      | none => s
      | some w => (s.setHome line { d with waiting := d.waiting.erase w }).applyWrite line w

/-- Applies every waiting write of a line, as when their times have passed. -/
def State.applyAll (s : State) (line : Nat) : State :=
  let d := s.home line
  if d.waiting = [] then s else (s.setHome line { d with waiting := [] }).applyWrites line d.waiting

/-- The dirty bytes of a line in a column cache. -/
def CLine.dirtyBytes (l : CLine) : List (Nat × Byte) := l.data.filter fun (o, _) => l.dirty.contains o

/-- The line a line's accesses reach: after a move within the device, its new home (R169). -/
def State.lineOf (s : State) (line : Nat) : Nat := match (s.home line).move with | .moved to_ => to_ | _ => line

/-- A write arrives at a line's home, its new one after a move, and waits there for its completion time, which is returned (R169, R182). -/
def State.homeArrive (s : State) (line : Nat) (w : HomeWrite) : State × Nat :=
  let line := s.lineOf line
  let s := s.applyDue line
  let (t, d) := s.arrive line
  (s.setHome line { d with waiting := d.waiting ++ [{ w with t }] }, t)

/-- The lease a read that arrives now receives: its length after R180, and its expiry under R181; none when it is sent without one. -/
def State.grant (s : State) (line : Nat) : State × Option Nat := (s.applyDue line).grantNow line

/-! ### The column cache (R140, R179, R184) -/

/-- Whether a byte of a line hits for a thread with this lease floor (R179). -/
def CLine.hit (l : CLine) (now floor o : Nat) : Bool :=
  shas l.data o && (l.dirty.contains o || (decide (now + 2 < l.lease) && decide (floor ≤ l.grant)))

/-- The bytes a load finds in the column cache; none when a byte misses. -/
def State.colHit (s : State) (c key size floor : Nat) : Option (List Byte) :=
  let l := s.cline c (key / 128)
  if (List.range size).all fun i => l.hit s.dt floor (key % 128 + i) then
    some ((List.range size).map fun i => sget 0 l.data (key % 128 + i))
  else none

/-- Whether a line holds written bytes whose write-back has not reached its completion time (R184): its grant time is that time. -/
def CLine.pending (l : CLine) (now : Nat) : Bool := decide (now < l.grant)

/-- A byte that a column has written, that its home has not applied, and that the column still holds: in a dirty or just written-back line, or of an evicted
one in the write-back buffer (R178, R184). -/
def State.ownByte (s : State) (c key : Nat) : Option Byte :=
  let l := s.cline c (key / 128)
  let o := key % 128
  if l.dirty.contains o || (l.pending s.dt && shas l.data o) then some (sget 0 l.data o)
  else
    match (s.col c).wbuf.find? fun e => e.1 == key / 128 && decide (s.dt < e.2.2 + 2) && e.2.1.any fun b => b.1 == o with
    | some e => (e.2.1.find? fun b => b.1 == o).map Prod.snd
    | none => none

/-- Whether a byte that a column has written waits at its home, and has left the column with the line that it dropped: a load of it waits for the home
to apply it (R178, R184). -/
def State.ownWait (s : State) (c key : Nat) : Bool :=
  (s.ownByte c key).isNone && (s.home (key / 128)).waiting.any fun w =>
    w.col == some c && (match w.op with | .write bs => bs.any fun b => b.1 == key % 128 | _ => false)

/-- A byte as a column sees it at its home: its own unapplied bytes first (R178, R179, R184). -/
def State.colByte (s : State) (c key : Nat) : Byte := (s.ownByte c key).getD (s.byteAt key)

def State.colBytes (s : State) (c key : Nat) : Nat → List Byte
  | 0 => []
  | n + 1 => s.colByte c key :: State.colBytes s c (key + 1) n

/-- Stores one byte in the column cache. -/
def CLine.store (l : CLine) (slot o : Nat) (b : Byte) : CLine :=
  { l with data := sins l.data o b
           dirty := if l.dirty.contains o then l.dirty else o :: l.dirty
           slots := if l.slots.contains slot then l.slots else slot :: l.slots }

/-- A store performed in the column cache, with the dirty notice to the home when the line first becomes dirty (R184). -/
def State.colStore (s : State) (c slot key : Nat) (bs : List Byte) : State :=
  let line := key / 128
  let l := s.cline c line
  let first := l.dirty.isEmpty
  let (l', _) := bs.foldl (fun (p : CLine × Nat) b => (p.1.store slot p.2 b, p.2 + 1)) (l, key % 128)
  let s := s.setCline c line l'
  if first && !bs.isEmpty then
    let d := s.home line
    s.setHome line { d with writers := if d.writers.contains c then d.writers else c :: d.writers }
  else s

/-- A line leaves a column: its copies in the cache and in the write-back buffer are read no more. -/
def State.dropLine (s : State) (c line : Nat) : State :=
  (s.setCline c line {}).modCol c fun x => { x with wbuf := x.wbuf.map fun e => if e.1 = line then (e.1, [], e.2.2) else e }

/-- Writes back a line of a column: its dirty bytes arrive at the home, and it stays clean, with a lease from the completion time on, or is dropped (R184);
the write-back buffer keeps the completion time for the releases that wait for it (R188). Returns the latest completion time of the line's bytes; 0 when every
one of them is at its home. -/
def State.writeBack (s : State) (c line : Nat) (team : Option Nat) (keep : Bool) : State × Nat :=
  let l := s.cline c line
  let old := if l.pending s.dt then l.data else l.dirtyBytes
  let u := if l.pending s.dt then l.grant else 0
  let leave (s : State) (t : Nat) : State := (s.dropLine c line).modCol c fun x => { x with wbuf := if t = 0 then x.wbuf else (line, [], t) :: x.wbuf }
  if l.dirty = [] then (if keep then s else leave s u, u)
  else
    let (s, t) := s.homeArrive line { t := 0, op := .write l.dirtyBytes, team, keep := if keep then some c else none, col := some c }
    if keep then (s.setCline c line { data := old, dirty := [], slots := [], lease := 0, grant := t }, t)
    else (leave s t, t)

/-- Recalls every dirty column-cache copy of a line (R193). -/
def State.recallDirty (s : State) (line : Nat) : State :=
  let cs := (s.cols.filter fun p => (sget {} p.2.lines line).dirty != []).map Prod.fst
  cs.foldl (fun s c => (s.writeBack c line none false).1) s

/-- Evicts a line of a column: it is written back and leaves, and its bytes stay readable in the write-back buffer (R184). -/
def State.evict (s : State) (c line : Nat) : State :=
  let l := s.cline c line
  let old := if l.pending s.dt then l.data else l.dirtyBytes
  let w := (s.col c).wbuf
  let (s, t) := s.writeBack c line none false
  s.modCol c fun x => { x with wbuf := if old = [] then w else (line, old, t) :: w }

/-- Whether a line can be filled from its home: none of its bytes has a write-back under way. -/
def State.fillable (s : State) (c line : Nat) : Bool :=
  !(s.cline c line).pending s.dt && !((s.col c).wbuf.any fun e => e.1 == line && e.2.1 != [] && decide (s.dt < e.2.2 + 2))
    && !((s.home line).waiting.any fun w => w.col == some c)

/-- The latest completion time of the writes a column has under way: of those that wait at their homes, and of its write-back buffer. -/
def State.pendingMax (s : State) (c : Nat) : Nat :=
  s.dir.foldl (fun t p => p.2.waiting.foldl (fun t w => if w.col = some c then max t w.t else t) t)
    ((s.col c).wbuf.foldl (fun t e => max t e.2.2) 0)

/-- Whether a write of a column waits at a home that holds its line (R169, R193). -/
def State.pendingHeld (s : State) (c : Nat) : Bool :=
  s.dir.any fun p => (p.2.owner.isSome || p.2.move == .moving) && p.2.waiting.any fun w => w.col == some c

/-- Writes back every listed line; the largest completion time. -/
def State.writeBackAll (s : State) (c : Nat) (team : Option Nat) : List Nat → State × Nat
  | [] => (s, 0)
  | ln :: rest =>
    let (s, t) := s.writeBack c ln team true
    let (s, u) := State.writeBackAll s c team rest
    (s, max t u)

/-- The dirty lines of a column whose team mask holds a slot (R188). -/
def State.dirtyOf (s : State) (c slot : Nat) : List Nat :=
  ((s.col c).lines.filter fun (_, l) => !l.dirty.isEmpty && l.slots.contains slot).map Prod.fst

/-- Every dirty line of a column. -/
def State.dirtyAll (s : State) (c : Nat) : List Nat :=
  ((s.col c).lines.filter fun (_, l) => !l.dirty.isEmpty).map Prod.fst

/-! ### The walk (R149 to R153) -/

/-- What a walk finds: a leaf, with the key of its entry, the page base and size, its frame address, plait, w0 and w3; or a fault
with its INFO beyond the access kind. -/
inductive Walk where
  | leaf (pte base size frame : Nat) (plait w0 w3 : Word)
  | fault (code info : Nat)
  deriving DecidableEq, Repr

/-- A table's index of an address (R149). -/
def tableIndex (va : Nat) : Nat → Nat
  | 3 => va / 2 ^ 39 % 8192
  | 2 => va / 2 ^ 30 % 512
  | 1 => va / 2 ^ 21 % 512
  | _ => va / 2 ^ 16 % 32

/-- The page size of a leaf at a level (R149). -/
def pageSize : Nat → Nat
  | 2 => 2 ^ 30
  | 1 => 2 ^ 21
  | _ => 2 ^ 16

/-- The size of the table a level's entry points to. -/
def tableSize : Nat → Nat
  | 3 => 2 ^ 13
  | 2 => 2 ^ 13
  | _ => 2 ^ 9

/-- EntryIllegal of R153. -/
def State.entryIllegal (s : State) (e : List Word) (lvl : Nat) : Bool :=
  let w0 := wd e 0
  let leaf := bits w0 1 1 == 1
  let pa := (w0.toNat / 512 * 512) + 2 ^ 32 * bits (wd e 1) 19 0
  bits w0 8 7 != 0 || bits (wd e 1) 31 20 != 0
    || (leaf && lvl == 3) || (!leaf && lvl == 0)
    || (!leaf && (pa % tableSize lvl != 0 || wd e 2 != 0 || wd e 3 != 0))
    || (leaf && !(s.plaitLegal (wd e 2) (pageSize lvl) && s.frameLegal pa (wd e 2) (pageSize lvl)))

/-- Whether a context's TPLAIT keeps the conditions of R150. -/
def State.tplaitLegal (s : State) (ck : Nat) : Bool :=
  let p := s.rget (kXl ck 0x0C)
  (pCls p == 0 || pCls p == 3) && s.plaitLegal p (2 ^ 16)

/-- Walks from the table at frame address `t`, level `n − 1` (R151). DESIGN CHOICE (unsafe): a table address that is no legal frame under TPLAIT is not judged;
the entry is read at the key that R158 computes from it. -/
def State.walkFrom (s : State) (p : Word) (va : Nat) : Nat → Nat → Walk
  | 0, _ => .fault 0x1002 0
  | n + 1, t =>
    let key := tableKey (t + 16 * tableIndex va n) p
    if s.isPoison (key / 128) then .fault 0x1002 (16 * n + 256)
    else
      let e := bytesWords (s.bytesAt key 16)
      let w0 := wd e 0
      if bits w0 0 0 = 0 then .fault 0x1001 (16 * n)
      else if s.entryIllegal e n then .fault 0x1002 (16 * n)
      else
        let pa := (w0.toNat / 512 * 512) + 2 ^ 32 * bits (wd e 1) 19 0
        if bits w0 1 1 = 1 then .leaf key (va / pageSize n * pageSize n) (pageSize n) pa (wd e 2) w0 (wd e 3)
        else State.walkFrom s p va n pa

/-- The walk of a context (R151). -/
def State.walk (s : State) (ck va : Nat) : Walk :=
  if s.tplaitLegal ck = false then .fault 0x1002 0x30
  else
    let root := s.rbits (kXl ck 0) 31 17 * 2 ^ 17 + 2 ^ 32 * s.rbits (kXl ck 4) 19 0
    s.walkFrom (s.rget (kXl ck 0x0C)) va 4 root

/-! ### Translation and permission (R155, R161, R165, R444, R483) -/

/-- Where an access goes. -/
inductive Target where
  | hbm (key : Nat)
  | host (va : Nat)
  | peer (dev va : Nat)
  | window (key : Nat)
  deriving DecidableEq, Repr

/-- Access kinds of R434. -/
def kLoad : Nat := 0
def kStore : Nat := 1
def kAtomic : Nat := 2
def kRed : Nat := 3
def kFetch : Nat := 4
def kStream : Nat := 5
def kEngR : Nat := 6
def kEngW : Nat := 7
def kTable : Nat := 8
def kHostIn : Nat := 9
def kPeerIn : Nat := 10

/-- Whether an access reads, writes or fetches (R155). -/
def kindRead (k : Nat) (write : Bool) : Bool :=
  k == 0 || k == 2 || k == 3 || k == 6 || k == 8 || ((k == 9 || k == 10) && !write)
def kindWrite (k : Nat) (write : Bool) : Bool := k == 1 || k == 2 || k == 3 || k == 7 || ((k == 9 || k == 10) && write)
def kindFetch (k : Nat) : Bool := k == 4 || k == 5

/-- The permission fault of an access to a leaf (R155, R483 rows 6 and 7). -/
def permFault (w0 plait : Word) (kind : Nat) (write priv : Bool) : Option Nat :=
  if bits w0 5 5 = 1 ∧ priv = false then some 0x1006
  else if kindFetch kind ∧ (bits w0 4 4 = 0 ∨ pCls plait = 1) then some 0x1005
  else if kindRead kind write ∧ bits w0 2 2 = 0 then some 0x1003
  else if kindWrite kind write ∧ bits w0 3 3 = 0 then some 0x1004
  else none

/-- Whether the ATS result of a translation grants an access to a HOST page (R165). -/
def Xlat.granted (x : Xlat) (kind : Nat) (write : Bool) : Bool :=
  match x.ats with
  | some g => (!kindRead kind write || g.rd) && (!kindWrite kind write || g.wr)
  | none => false

/-- The number of a translation cache: of a column, 64 and more of an engine of the base die, 127 of the agents there that keep no translations. -/
def cacheNo (col : Option Nat) : Nat := col.getD 127

/-- A cache sends an ATS Translation Request for the page of an address, tagged with the context's PASID, unless one of its own waits for its completion
(R165). -/
def State.askAts (s : State) (col : Option Nat) (ck va : Nat) : State :=
  if s.atsAsked.contains (cacheNo col, ck, va / 4096) then s
  else
    let m : OutMsg := { dev := none, addr := va / 4096 * 4096, data := [], kind := .atsRequest (s.rbits (kXl ck 8) 19 0) }
    { s with atsAsked := (cacheNo col, ck, va / 4096) :: s.atsAsked, outbox := m :: s.outbox }

/-- Page Requests of a function that have been sent and not been answered (R443). -/
def State.pagesSent (s : State) (fn : Nat) : Nat := (s.pageReqs.filter fun p => p.fn == fn && p.sent).length

/-- Sends the first Page Request of a function that waits, while its allocation has room (R443). -/
def State.sendPage (s : State) (fn : Nat) : State :=
  match s.pageReqs.find? fun p => p.fn == fn && !p.sent with
  | some p =>
    if s.pagesSent fn < 32 + Config.pageAllocation fn then
      let m : OutMsg := { dev := none, addr := p.va, data := [], kind := .pageRequest p.pasid p.write }
      { s with pageReqs := s.pageReqs.map fun q => if q = p then { q with sent := true } else q, outbox := m :: s.outbox }
    else s
  | none => s

/-- An access needs what ATS does not grant: one Page Request of its PASID and 4 KiB page; identical ones are merged, and those beyond the function's allocation
wait in order (R443). -/
def State.requestPage (s : State) (ck va : Nat) (write : Bool) : State :=
  let fn := ctxFn ck
  let pasid := s.rbits (kXl ck 8) 19 0
  let page := va / 4096 * 4096
  let same (p : PageReq) : Bool := p.fn == fn && p.pasid == pasid && p.va == page && p.write == write
  match s.pageReqs.find? same with
  | some p => if p.ctxs.contains ck then s else { s with pageReqs := s.pageReqs.map fun q => if same q then { q with ctxs := q.ctxs ++ [ck] } else q }
  | none => ({ s with pageReqs := s.pageReqs ++ [{ fn, pasid, va := page, write, ctxs := [ck], sent := false }] } : State).sendPage fn

/-- The cached translation a column holds for an address (R161). -/
def Column.lookup (x : Column) (ck va : Nat) : Option Xlat :=
  x.tlb.find? fun t => t.ctx == ck && decide (t.base ≤ va) && decide (va < t.base + t.size)

/-- The translation that a cache holds for an address (R161): a column's, or, from 64 upward, that of the base-die engines with a SRC code (R412). Without a
cache there is only what ATS has granted. -/
def State.xlatOf (s : State) (col : Option Nat) (ck va : Nat) : Option Xlat :=
  let c := cacheNo col
  if c < 64 then (s.col c).lookup ck va
  else (s.engTlb.find? fun p => p.1 == c - 64 && p.2.ctx == ck && decide (p.2.base ≤ va) && decide (va < p.2.base + p.2.size)).map Prod.snd

/-- A cache takes a translation (R161): 2048 entries in a column, 64 in an engine of the base die. DESIGN CHOICE: the agents of the base die for which the
spec names no cache translate afresh each time, and keep of HOST pages what ATS has granted. -/
def State.xlatKeep (s : State) (col : Option Nat) (x : Xlat) : State :=
  let c := cacheNo col
  if c < 64 then s.modCol c fun y => { y with tlb := (x :: y.tlb).take 2048 }
  else if col.isNone && x.ats.isNone then s
  else { s with engTlb := (c - 64, x) :: (s.engTlb.filter fun p => p.1 == c - 64).take 63 ++ s.engTlb.filter fun p => p.1 != c - 64 }

/-- The base-scratchpad range of a context that holds an address. -/
def State.winOf (s : State) (ck va : Nat) : Option Win :=
  s.wins.find? fun w => w.ctx == ck && decide (w.base ≤ va) && decide (va < w.base + if w.live then 2 ^ 24 else w.size)

/-- The window a context's L2PART sets, if it has one: base and size (R142). -/
def State.l2Window (s : State) (ck : Nat) : Option (Nat × Nat) :=
  if s.rbits (kL2 ck 0) 13 13 = 1 ∧ s.rbits (kL2 ck 0) 10 8 ≠ 0 then
    some (s.rbits (kL2 ck 0) 31 24 * 2 ^ 24 + 2 ^ 32 * (s.ctx ck).winHi, 2 ^ 21 * s.rbits (kL2 ck 0) 10 8)
  else none

/-- Whether a change of the window holds an address (R143 step 1). -/
def State.winHeld (s : State) (ck va : Nat) : Bool :=
  s.rbits (kL2 ck 0) 15 15 == 1
    && ((s.wins.any fun w => w.ctx == ck && w.live && w.base / 2 ^ 24 == va / 2 ^ 24)
        || (match s.l2Window ck with | some w => w.1 / 2 ^ 24 == va / 2 ^ 24 | none => false))

/-- The key of a window byte. -/
def winKey (ck o : Nat) : Nat := ck * 2 ^ 24 + o

/-- Whether a trained link leads to a peer device (R397, R473). -/
def State.peerUp (s : State) (dev : Nat) : Bool :=
  s.rbits (key0 0 0x180000) 31 31 == 1 && (s.rget (key0 0 0x180004) &&& s.rget (key0 0 (0x180010 + 4 * dev))) != 0

/-- Whether traffic to a target can leave the device (R473). -/
def State.targetUp (s : State) : Target → Bool
  | .host _ => s.hostUp
  | .peer d _ => s.peerUp d
  | _ => true

/-- The target of an address under a cached leaf: of a HOST page the translated address, where ATS has given one. -/
def Xlat.target (x : Xlat) (va : Nat) : Target :=
  match pCls x.plait with
  | 1 => .host (match x.ats with | some g => g.addr + (va - x.base) | none => va)
  | 2 => .peer (bits x.plait 5 0) va
  | _ => .hbm (pageKey x.frame (va - x.base) x.plait)

/-- What a leaf gives an access: its fault, or where it goes, a moved line's accesses to its new home, or to the device it has moved to (R155, R165, R169,
R173). An access that faults at the peer that serves it faults here with its CODE (R434), and one to a HOST page where ATS or PRI has failed with 0x100D
(R443). CODE 0: ATS has not granted it. -/
def State.judgeLeaf (s : State) (x : Xlat) (va kind : Nat) (write priv : Bool) : Except (Nat × Nat) Target :=
  match permFault x.perm x.plait kind write priv with
  | some code => .error (code, kind)
  | none =>
    match x.target va with
    | .host a =>
      let fail := match x.ats with | some g => g.fail | none => 0
      if kind == 9 || kind == 10 || x.granted kind write then .ok (.host a) else if fail = 0 then .error (0, kind) else .error (0x100D, kind + 16 * fail)
    | .hbm key => (match (s.home (key / 128)).move with | .away d a => .ok (.peer d (a + key % 128)) | _ => .ok (.hbm (s.redirect key)))
    | .peer d a =>
      match if kind == 9 || kind == 10 then none else Config.peerError s.cyc a with
      | some e => .error (0x100E, kind + 16 * (e % 4096))
      | none => .ok (.peer d a)
    | t => .ok t

/-- What a translation gives an access; one to a HOST page that lacks its ATS result asks for it, and one that lacks what ATS grants asks for the page
(R165, R443): CODE 1. -/
def State.xlateLeaf (s : State) (col : Option Nat) (x : Xlat) (va kind : Nat) (write priv : Bool) : State × Except (Nat × Nat) Target :=
  match s.judgeLeaf x va kind write priv with
  | .error (0, info) => if x.ats.isNone then (s.askAts col x.ctx va, .error (0, info)) else (s.requestPage x.ctx va (kindWrite kind write), .error (1, info))
  | r => (s, r)

/-- The leaf of an address: in a cache, or by a walk. -/
def State.leafOf (s : State) (col : Option Nat) (ck va : Nat) : Option Xlat :=
  (s.xlatOf col ck va).or
    (match s.walk ck va with | .leaf _ base size frame plait w0 _ => some { ctx := ck, base, size, frame, plait, perm := w0 } | .fault .. => none)

/-- Translates an access (R483): the state with the translation cached, and the target or a fault CODE with its INFO. `col` is the cache that is looked up: a
column's, or that of an engine of the base die (R161); a HOST page's leaf is kept with its ATS result alone. CODE 0 means that the access waits where it is
without a record, for an ATS completion or a window change in progress, and CODE 1 that it is held without one for a page request (R143, R165, R443). DEDUCED:
a walk that meets a poisoned table line reports access kind 8, a table read (R434, R448). -/
def State.xlate (s : State) (col : Option Nat) (ck va kind : Nat) (write priv sys : Bool) : State × Except (Nat × Nat) Target :=
  if s.rbits (kXl ck 0) 0 0 = 0 then (s, .error (0x1007, kind))
  else if s.winHeld ck va then (s, .error (0, kind))
  else
    match s.winOf ck va with
    | some w =>
      if w.live = false then (s, .error (0x1011, kind + 16))
      else if sys || kindFetch kind || kind == 9 || kind == 10 then (s, .error (0x1012, kind))
      else if w.base + w.size ≤ va then (s, .error (0x1011, kind))
      else (s, .ok (.window (winKey ck (va - w.base))))
    | none =>
      match s.xlatOf col ck va with
      | some x => s.xlateLeaf col x va kind write priv
      | none =>
        match s.walk ck va with
        | .fault code info => (s, .error (code, (if 256 ≤ info then kTable else kind) + info))
        | .leaf _ base size frame plait w0 _ =>
          let x : Xlat := { ctx := ck, base, size, frame, plait, perm := w0 }
          (if pCls plait = 1 then s else s.xlatKeep col x).xlateLeaf col x va kind write priv

/-- The same for an access of an agent that keeps to where it is while it waits: CODE 0 stands for both. -/
def State.xlateAgent (s : State) (col : Option Nat) (ck va kind : Nat) (write priv sys : Bool) : State × Except (Nat × Nat) Target :=
  match s.xlate col ck va kind write priv sys with
  | (s, .error (1, info)) => (s, .error (0, info))
  | r => r

/-- Whether a HOST page would have to take an access, as far as its leaf tells before ATS does (R483). -/
def State.onHost (s : State) (col : Option Nat) (ck va : Nat) : Bool :=
  !s.winHeld ck va && (s.winOf ck va).isNone && (match s.leafOf col ck va with | some x => pCls x.plait == 1 | none => false)

/-- The key of a target's byte at a home slice: of HBM, or of a base-scratchpad window. -/
def Target.key? : Target → Option Nat
  | .hbm key => some key
  | .window key => some (winAt key)
  | _ => none

/-- The line a target's poison is kept for. -/
def Target.line (t : Target) : Option Nat := t.key?.map (· / 128)

/-- The home key of an address under the translation in force, whatever its permissions (R178). -/
def State.keyOf (s : State) (col : Option Nat) (ck va : Nat) : Option Nat :=
  match s.winOf ck va with
  | some w => if w.live then some (winAt (winKey ck (va - w.base))) else none
  | none =>
    match s.leafOf col ck va with
    | some x => (match x.target va with | .hbm key => some (s.redirect key) | _ => none)
    | none => none

/-- Whether a line is held at its home, by an engine's ownership or a move (R169, R193). -/
def State.lineHeld (s : State) (line : Nat) : Bool := (s.home line).owner.isSome || (s.home line).move == .moving

/-- Whether a target's unit is poisoned (R448). -/
def State.poisoned (s : State) (tgt : Target) : Bool := match tgt.line with | some l => s.isPoison l | none => false

/-- Whether a fault CODE is of freeze fate (R434); the others hold or stop their access. -/
def freezeFate (code : Nat) : Bool :=
  [0x1006, 0x1008, 0x1009, 0x100A, 0x100B, 0x100C, 0x1012, 0x1020, 0x1040].contains code

/-! ### Reads and writes of engines and of the S4 on its own account (R155, R194) -/

/-- A byte and whether its unit is poisoned (R448). -/
abbrev PByte := Byte × Bool

/-- Whether the home of a line holds a reader back: the line moves (R169), or an engine other than `me` owns it (R193). -/
def State.heldFor (s : State) (me : Option Nat) (line : Nat) : Bool :=
  (s.home line).move == .moving || (match (s.home line).owner with | some q => me != some q | none => false)

/-- One byte of a read through the translations of `cache`, with the bytes that column `own` has written first (R194): else the home's, where request `me`
reads its own lines. CODE 0: it waits for its home, a link or ATS. -/
def State.agentByte (s : State) (cache own me : Option Nat) (ck kind : Nat) (priv : Bool) (va : Nat) :
    State × Except (Nat × Nat × Nat) (Target × PByte) :=
  if 2 ^ 52 ≤ va then (s, .error (0x1008, kind, va))
  else
    match s.xlateAgent cache ck va kind false priv false with
    | (s, .error (code, info)) => (s, .error (code, info, va))
    | (s, .ok tgt) =>
      let mine : Option Byte := match own, tgt with | some c, .hbm key => s.ownByte c key | _, _ => none
      let held : Bool := mine.isNone &&
        ((match tgt.key? with | some key => s.heldFor me (key / 128) | none => false)
          || (match own, tgt with | some c, .hbm key => s.ownWait c key | _, _ => false))
      if held || !s.targetUp tgt then (s, .error (0, kind, va)) else
      let b := match tgt with
        | .hbm key => mine.getD (s.byteAt key)
        | .window key => s.byteAt (winAt key)
        | .host a => Config.outside s.cyc a
        | .peer _ a => Config.outside s.cyc a
      (s, .ok (tgt, b, s.poisoned tgt))

/-- The bytes of a read up to the first that faults. -/
def State.agentBytes (s : State) (cache own me : Option Nat) (ck kind : Nat) (priv : Bool) (va : Nat) :
    Nat → State × List (Target × PByte) × Option (Nat × Nat × Nat)
  | 0 => (s, [], none)
  | n + 1 =>
    match s.agentByte cache own me ck kind priv va with
    | (s, .error e) => (s, [], some e)
    | (s, .ok b) =>
      let (s, l, e) := State.agentBytes s cache own me ck kind priv (va + 1) n
      (s, b :: l, e)

/-- Whether one target is the byte after another, in the same line. -/
def Target.next : Target → Target → Bool
  | .hbm a, .hbm b | .window a, .window b | .host a, .host b => b == a + 1 && b % 128 != 0
  | .peer d a, .peer e b => d == e && b == a + 1 && b % 128 != 0
  | _, _ => false

/-- Bytes in pieces: those in a row in one line are one piece. -/
def targetPieces {β : Type} : List (Target × β) → List (Target × List β)
  | [] => []
  | (t, b) :: rest =>
    match targetPieces rest with
    | (u, bs) :: ps => if t.next u then (t, b :: bs) :: ps else (t, [b]) :: (u, bs) :: ps
    | [] => [(t, [b])]

/-- The read requests of a context that leave the device for bytes of HOST and PEER pages (R165, R166). -/
def State.sendReads {β : Type} (s : State) (ck : Nat) (l : List (Target × β)) : State :=
  (targetPieces l).foldl (fun s p =>
    let m : OutMsg := { dev := none, addr := 0, data := [], kind := .read p.2.length, dctx := s.rbits (kLk ck 8) 11 0 }
    match p.1 with
    | .host a => { s with outbox := { m with addr := a, translated := true } :: s.outbox }
    | .peer d a => { s with outbox := { m with dev := some d, addr := a } :: s.outbox }
    | _ => s) s

/-- A read of every byte of a range, or its first fault; poison is consumed (R448). -/
def State.agentRead (s : State) (cache own : Option Nat) (ck kind : Nat) (priv : Bool) (va n : Nat) : State × Except (Nat × Nat × Nat) (List Byte) :=
  match s.agentBytes cache own none ck kind priv va n with
  | (s, _, some e) => (s, .error e)
  | (s, l, none) =>
    match l.findIdx? fun b => b.2.2 with
    | some i => (s, .error (0x1040, kind, va + i))
    | none => (s.sendReads ck l, .ok (l.map fun b => b.2.1))

/-- The bytes at a virtual address of a context, read whole, for an agent of the base die; a fault CODE where one byte's page does not translate. -/
def State.virtRead (s : State) (ck kind : Nat) (priv : Bool) (va n : Nat) : State × Except (Nat × Nat × Nat) (List Byte) :=
  s.agentRead none none ck kind priv va n

/-- The bytes a thread's load finds at a virtual address, through its column's cache and translations (R179); a fault CODE where one byte's
page does not translate. -/
def State.colRead (s : State) (c ck kind : Nat) (priv : Bool) (va n : Nat) : State × Except (Nat × Nat × Nat) (List Byte) :=
  s.agentRead (some c) (some c) ck kind priv va n

/-- Where every byte of a range to be written goes; else the first fault. -/
def State.writeTargets (s : State) (ck kind : Nat) (priv : Bool) (va : Nat) : Nat → State × Except (Nat × Nat × Nat) (List Target)
  | 0 => (s, .ok [])
  | n + 1 =>
    match s.xlateAgent none ck va kind true priv false with
    | (s, .error (code, info)) => (s, .error (code, info, va))
    | (s, .ok tgt) =>
      if !s.targetUp tgt || (match tgt with | .hbm key => (s.home (key / 128)).move == .moving | _ => false) then (s, .error (0, kind, va))
      else
        match State.writeTargets s ck kind priv (va + 1) n with
        | (s, .error e) => (s, .error e)
        | (s, .ok l) => (s, .ok (tgt :: l))

/-- Changes a write of the S4's own that is under way. -/
def State.modPut (s : State) (id : Nat) (f : Put → Put) : State := { s with puts := s.puts.map fun p => if p.id = id then f p else p }

/-- One piece of a write of the S4's own arrives at its home (R182), or leaves the device. -/
def State.putPiece (s : State) (ck id : Nat) (p : Target × List Byte) : State :=
  match p.1 with
  | .hbm key =>
    let (s, t) := (s.recallDirty (key / 128)).homeArrive (key / 128)
      { t := 0, op := .write (p.2.zipIdx.map fun b => (key % 128 + b.2, b.1)), put := some id }
    s.modPut id fun q => { q with t := max q.t t }
  | .window key =>
    let (s, t) := s.homeArrive (winAt key / 128) { t := 0, op := .write (p.2.zipIdx.map fun b => (winAt key % 128 + b.2, b.1)), put := some id }
    s.modPut id fun q => { q with t := max q.t t }
  | .host a => { s with outbox := { dev := none, addr := a, data := p.2, translated := true, relaxed := true } :: s.outbox }
  | .peer d a =>
    ({ s with outbox := { dev := some d, addr := a, data := p.2, dctx := s.rbits (kLk ck 8) 11 0 } :: s.outbox }).modPut id fun q =>
      { q with peerOut := q.peerOut + 1 }

/-- A write of this device to a page, for a context that is a member of its domain, is noted by the peer-move agent (R171, R394). -/
def State.localWrite (s : State) (ck va : Nat) : State :=
  { s with candidates := s.candidates.map fun x =>
      if s.rbits (kLk ck 8) 31 31 = 1 ∧ x.dctx = s.rbits (kLk ck 8) 11 0 ∧ x.page = va / 2 ^ 16 then { x with localWrite := true } else x }

/-- Puts a write of the S4's own on its way, whole or not at all (R155): the fault that stops it. CODE 0: it waits for a link, ATS or the move of a line
(R169). An update of a count is one atomic at its home (R350, R367). -/
def State.sendPut (s : State) (id ck : Nat) (todo : PutTodo) : State × Option (Nat × Nat × Nat) :=
  let sent (s : State) : State := s.modPut id fun p => { p with todo := none }
  match todo with
  | .bytes va bs =>
    match s.writeTargets ck kEngW true va bs.length with
    | (s, .error e) => (s, some e)
    | (s, .ok ts) =>
      let s := (targetPieces (ts.zip bs)).foldl (fun s p => s.putPiece ck id p) (sent s)
      ((s.localWrite ck va).localWrite ck (va + bs.length - 1), none)
  | .count va op =>
    match s.writeTargets ck kEngW true va 4 with
    | (s, .error e) => (s, some e)
    | (s, .ok ts) =>
      let s := sent s
      let s := match (ts.headD (.host 0)) with
        | .host a => s.putPiece ck id (.host a, leBytes (op.apply (leNat ((List.range 4).map fun i => Config.outside s.cyc (a + i)))) 4)
        | .peer d a => s.putPiece ck id (.peer d a, leBytes (op.apply (leNat ((List.range 4).map fun i => Config.outside s.cyc (a + i)))) 4)
        | .hbm key | .window key =>
          let key := match ts.headD (.host 0) with | .window _ => winAt key | _ => key
          let (s, t) := s.homeArrive (key / 128) { t := 0, op := .count (key % 128) op, put := some id }
          s.modPut id fun q => { q with t := max q.t t }
      (s.localWrite ck va, none)

/-- Makes a write of the S4's own at once, or not at all: the fault that stopped it. It is under way until it is released. -/
def State.virtWrite (s : State) (ck va : Nat) (bs : List Byte) (end_ : PutEnd) : State × Option (Nat × Nat × Nat) :=
  let id := s.idNext
  let todo : PutTodo := .bytes va bs
  match ({ s with idNext := id + 1, puts := s.puts ++ [{ id, ck, end_, todo := some todo }] } : State).sendPut id ck todo with
  | (s, some e) => ({ s with puts := s.puts.filter fun p => p.id != id }, some e)
  | (s, none) => (s, none)

/-- Whether a write of the S4's own has been released at system scope (R189): every byte is applied at its home, the horizon is waited out, and peers have
acknowledged. -/
def State.putDone (s : State) (p : Put) : Bool :=
  p.todo.isNone && p.peerOut == 0 && decide (p.t + 2 ≤ s.dt) && s.dir.all fun d => d.2.waiting.all fun w => w.put != some p.id

end Sys2Proof.Machine
end

