-- ==== Sys2Proof/Machine/Ops.lean ====
section
/-! DEFINITION. Named operations over threads, teams and reports: registers and flags, error counters, events (R414 to R416), fault records
(R410 to R413), freezing (R417), taking a trap (R420 to R424) and returning from it, and the release of R187 to R189. -/

namespace Sys2Proof.Machine

/-! ### Teams, threads and registers -/

/-- The key of the team in slot `slot` of logical column `col`. -/
def teamKey (col slot : Nat) : Nat := col * 32 + slot
def teamCol (k : Nat) : Nat := k / 32
def teamSlot (k : Nat) : Nat := k % 32

def State.team? (s : State) (k : Nat) : Option Team := sfind s.teams k
def State.setTeam (s : State) (k : Nat) (tm : Team) : State := { s with teams := sins s.teams k tm }
def State.modTeam (s : State) (k : Nat) (f : Team → Team) : State :=
  match s.team? k with
  | some tm => s.setTeam k (f tm)
  | none => s

def Team.thread (tm : Team) (t : Nat) : Thread := tm.threads.getD t {}
def Team.modThread (tm : Team) (t : Nat) (f : Thread → Thread) : Team := { tm with threads := tm.threads.modify t f }
def Team.modThreads (tm : Team) (f : Thread → Thread) : List Nat → Team
  | [] => tm
  | t :: rest => Team.modThreads (tm.modThread t f) f rest
def State.modThread (s : State) (k t : Nat) (f : Thread → Thread) : State := s.modTeam k fun tm => tm.modThread t f
def State.modThreads (s : State) (k : Nat) (ts : List Nat) (f : Thread → Thread) : State := s.modTeam k fun tm => tm.modThreads f ts

/-- The register count n of a thread's group (R42). -/
def Team.n (tm : Team) (t : Nat) : Nat := (tm.groups.getD (t / 32) { n := 0 }).n

/-- Register v`r` of a thread. -/
def Thread.get (th : Thread) (r : Nat) : Word := sget 0 th.regs r
/-- The 64-bit value of a pair (R8). -/
def Thread.get64 (th : Thread) (r : Nat) : Nat := (th.get r).toNat + 2 ^ 32 * (th.get (r + 1)).toNat
/-- `cnt` registers from v`r` as one number (R8). -/
def Thread.getN (th : Thread) (r : Nat) : Nat → Nat
  | 0 => 0
  | cnt + 1 => (th.get r).toNat + 2 ^ 32 * Thread.getN th (r + 1) cnt

/-- Writes register v`r`, clearing its poison (R458). -/
def Thread.put (th : Thread) (r : Nat) (v : Word) : Thread :=
  { th with regs := sins th.regs r v, poison := th.poison.filter fun x => x != r }
/-- Writes `cnt` registers from v`r` with a number (R8). -/
def Thread.putN (th : Thread) (r : Nat) (v : Nat) : Nat → Thread
  | 0 => th
  | cnt + 1 => Thread.putN (th.put r (BitVec.ofNat 32 v)) (r + 1) (v / 2 ^ 32) cnt

/-- Writes `cnt` registers of thread `t`; a register at or above its group's n does not exist, and a write to it is dropped. -/
def Team.putRegs (tm : Team) (t r v cnt : Nat) : Team :=
  if r + cnt ≤ tm.n t then tm.modThread t fun th => th.putN r v cnt else tm

/-- The count of completion flag f`i` (R235). -/
def Thread.flag (th : Thread) (i : Nat) : Nat := (th.flags.extractLsb' (4 * i) 4).toNat
/-- Sets the count of a completion flag. -/
def Thread.setFlag (th : Thread) (i v : Nat) : Thread :=
  { th with flags := (th.flags &&& ~~~ (15#48 <<< (4 * i))) ||| (BitVec.ofNat 48 (v % 16) <<< (4 * i)) }
/-- A flag falls by one (R235). -/
def Thread.dropFlag (th : Thread) (i : Nat) : Thread := th.setFlag i (th.flag i - 1)
def Thread.dropFlag? (th : Thread) : Option Nat → Thread
  | some i => th.dropFlag i
  | none => th

/-- The context of a team, through its grid. -/
def State.teamCtx (s : State) (tm : Team) : Nat :=
  match sfind s.grids tm.grid with
  | some g => g.ctx
  | none => 0

/-- Whether a team's task is a privileged event task (R415). -/
def State.teamPriv (s : State) (tm : Team) : Bool :=
  match sfind s.grids tm.grid with
  | some g => g.priv
  | none => false

/-- The job card of a team. -/
def State.teamCard (s : State) (tm : Team) : List Word :=
  match sfind s.grids tm.grid with
  | some g => g.card
  | none => []

def State.modGrid (s : State) (g : Nat) (f : Grid → Grid) : State :=
  match sfind s.grids g with
  | some x => { s with grids := sins s.grids g (f x) }
  | none => s

/-! ### Events (R414 to R416) and captures (R475) -/

/-- Raises an MSI-X vector of a function. -/
def State.raiseMsix (s : State) (fn v : Nat) : State := { s with msix := (fn, v) :: s.msix }

/-- A fresh free value: the counter advances. -/
def State.free (s : State) : State × Word := ({ s with freeCount := s.freeCount + 1 }, Config.freeWord s.freeCount)

/-- A number as a word. -/
def nw (x : Nat) : Word := BitVec.ofNat 32 x

/-- Writes a capture record (R475) when the context is captured. -/
def State.capture (s : State) (kind ck addr len idx acq : Nat) (bytes : List Byte) : State :=
  let c0 := s.rget (key0 0 0x170040)
  if bits c0 31 31 = 1 ∧ bits c0 19 16 = ctxFn ck ∧ bits c0 7 0 = ctxLoc ck then
    let wr := s.rbits (key0 0 0x170050) 31 0
    let rd := s.rbits (key0 0 0x170054) 31 0
    let size := 2 ^ (s.rbits (key0 0 0x17004C) 3 0 + 8)
    if (wr + 2 ^ 32 - rd) % 2 ^ 32 < size then
      let base := s.rbits (key0 0 0x170044) 31 6 * 64 + 2 ^ 32 * s.rbits (key0 0 0x170048) 31 0
      let d := s.dt
      let rec_ := wordsBytes [nw kind, nw wr, nw d, nw (d / 2 ^ 32), nw acq, nw (acq / 2 ^ 32), nw addr, nw (addr / 2 ^ 32), nw len, nw idx]
        ++ (Config.shake256 bytes 16).take 16 ++ wordsBytes [0, 0]
      { s with outbox := { dev := none, addr := base + 64 * (wr % size), data := rec_ } :: s.outbox }.rset (key0 0 0x170050) (nw (wr + 1))
    else s.rset (key0 0 0x170040) (c0 ||| 0x20000000)
  else s

/-- The counted acquires granted so far (R474, R476). -/
def State.acqn (s : State) : Nat := s.rbits (key0 0 0x170058) 31 0

/-- Whether a context is captured or replayed (R474). -/
def State.counted (s : State) (ck : Nat) : Bool :=
  let c0 := s.rget (key0 0 0x170040)
  bits c0 31 30 != 0 && bits c0 19 16 == ctxFn ck && bits c0 7 0 == ctxLoc ck

/-- Grants a counted acquire of a context (R476, R477): none while an inbound write to the context has not been applied, or, in replay, while
REPGATE is below its number. Other contexts' acquires are not counted. -/
def State.countAcquire (s : State) (ck : Nat) : Option State :=
  if !s.counted ck then some s
  else if s.dir.any fun p => p.2.waiting.any fun w => w.inbound == some ck then none
  else if s.rbits (key0 0 0x170040) 30 30 = 1 ∧ s.rbits (key0 0 0x17005C) 31 0 ≤ s.acqn then none
  else some (s.rset (key0 0 0x170058) (nw (s.acqn + 1)))

/-- The writes of the S4's own under way that a predicate names. -/
def State.putsOf (s : State) (p : Put → Bool) : Nat := (s.puts.filter p).length

/-- Event records of a function that are on their way to its ring. -/
def State.evSent (s : State) (fn : Nat) : Nat := s.putsOf fun p => match p.end_ with | .event f _ => f == fn | _ => false

/-- Makes a write of the S4's own: the write, and the fault that stops it. It waits where it cannot be made at once. -/
def State.post (s : State) (ck : Nat) (todo : PutTodo) (end_ : PutEnd) (req : Option Nat := none) : State × Put × Option (Nat × Nat × Nat) :=
  let p : Put := { id := s.idNext, ck, end_, todo := some todo, req }
  let (s, e) := ({ s with idNext := s.idNext + 1, puts := s.puts ++ [p] } : State).sendPut p.id ck todo
  (s, p, e)

/-- Posts an event record (R415): the record is written with DT, in words 2 and 3 of `ws`. DESIGN CHOICE: the spec gives no outcome for a memory fault of
this write; the record waits until it can be written. -/
def State.postEvent (s : State) (fn : Nat) (ws : List Word) : State :=
  let size := 2 ^ (s.rbits (kEv fn 8) 3 0 + 4)
  let wr := s.rbits (kEv fn 0x0C) 31 0 + s.evSent fn
  let base := s.rbits (kEv fn 0) 31 6 * 64 + 2 ^ 32 * s.rbits (kEv fn 4) 19 0
  let ws := (ws.set 2 (nw s.dt)).set 3 (nw (s.dt / 2 ^ 32))
  (s.post (ctxKey fn (s.rbits (kEv fn 8) 15 8)) (.bytes (base + 64 * (wr % size)) (wordsBytes ws)) (.event fn ws)).1

/-- An event record has been released (R415): EV_WR rises, vector 48 is raised, and a copy of the handler card waits to be taken in. -/
def State.eventPosted (s : State) (fn : Nat) (ws : List Word) : State :=
  let evctx := ctxKey fn (s.rbits (kEv fn 8) 15 8)
  let size := 2 ^ (s.rbits (kEv fn 8) 3 0 + 4)
  let wr := s.rbits (kEv fn 0x0C) 31 0
  let addr := s.rbits (kEv fn 0) 31 6 * 64 + 2 ^ 32 * s.rbits (kEv fn 4) 19 0 + 64 * (wr % size)
  let s := (s.rset (kEv fn 0x0C) (nw (wr + 1))).raiseMsix fn 48
  let s := s.modCtx evctx fun x =>
    { x with intakes := sins x.intakes 64 (sget [] x.intakes 64 ++ [{ words := [], addr, launch := false, event := some wr }]) }
  match s.ctxOfId (bits (wd ws 0) 31 20) with
  | some ck => s.capture 4 ck addr 64 0 s.acqn (wordsBytes ws)
  | none => s

/-- Whether an event queue takes a record now. -/
def State.evRoom (s : State) (fn : Nat) : Bool :=
  s.rbits (kEv fn 0) 0 0 == 1
    && decide ((s.rbits (kEv fn 0x0C) 31 0 + 2 ^ 32 - s.rbits (kEv fn 0x10) 31 0) % 2 ^ 32 + s.evSent fn < 2 ^ (s.rbits (kEv fn 8) 3 0 + 4))

/-- A hardware event: posted, held in the function's hold of 64 records, or dropped and counted in EV_LOST (R415). -/
def State.hwEvent (s : State) (fn : Nat) (ws : List Word) : State :=
  let held := s.heldEvents.filter fun p => p.1 = fn
  if held.isEmpty && s.evRoom fn then s.postEvent fn ws
  else if held.length < 64 then { s with heldEvents := s.heldEvents ++ [(fn, ws)] }
  else
    let n := s.rbits (kEv fn 0x14) 15 0
    s.rset (kEv fn 0x14) (nw (min (n + 1) 0xFFFF))

/-- Posts held hardware events of a function while its queue has room (R415). -/
def State.releaseHeld (s : State) (fn : Nat) : Nat → State
  | 0 => s
  | fuel + 1 =>
    match s.heldEvents.find? fun p => p.1 = fn with
    | some p =>
      if s.evRoom fn then State.releaseHeld ({ s with heldEvents := s.heldEvents.erase p }.postEvent fn p.2) fn fuel else s
    | none => s

/-- An event record (R416); DT is filled in at posting. -/
def eventWords (ctxid kind tidx : Nat) (payload : List Word) : List Word :=
  ([nw (ctxid * 2 ^ 20 + kind), nw tidx, 0, 0] ++ payload ++ List.replicate 12 0).take 16

/-- A device-wide event for the queue of the physical function. -/
def State.pfEvent (s : State) (kind : Nat) (payload : List Word) : State := s.hwEvent 0 (eventWords 0 kind 0xFFFFFFFF payload)

/-- Error counter ERRCNT_k rises, saturating; a CORRECTED event is posted when it passes a multiple of CTHR (R418). -/
def State.countError (s : State) (k : Nat) : State :=
  let v := s.rbits (kErrCnt k) 31 0
  if v = 0xFFFFFFFF then s
  else
    let s := s.rset (kErrCnt k) (nw (v + 1))
    let thr := s.rbits (kEr 0x0C) 15 0
    if thr ≠ 0 ∧ (v + 1) % thr = 0 then s.pfEvent 9 [nw k, nw (v + 1)] else s

/-! ### Fault records (R410 to R413) -/

/-- The eight words of a fault record (R412). -/
def Rec.words (r : Rec) (gen : Nat) : List Word :=
  [nw (gen % 256 * 2 ^ 24 + r.cls * 2 ^ 22 + r.src * 2 ^ 16 + r.code), nw (r.col * 2 ^ 26 + r.slot * 2 ^ 21 + r.thread), nw r.team,
   nw r.pc, nw (r.word * 2 ^ 24 + r.pc / 2 ^ 32 % 2 ^ 20), nw r.addr, nw (r.addr / 2 ^ 32 % 2 ^ 20), nw r.info]

/-- The generation of a context's fault buffer. -/
def State.gen (s : State) (ck : Nat) : Nat := s.rbits (kFb ck 0x14) 7 0

/-- Records of a context that are on their way to its buffer. -/
def State.recsSent (s : State) (ck : Nat) : Nat := s.putsOf fun p => p.ck == ck && (match p.end_ with | .fault _ => true | _ => false)

/-- Where the next record of a context goes (R411). -/
def State.recAddr (s : State) (ck : Nat) : Nat :=
  s.rbits (kFb ck 0) 31 5 * 32 + 2 ^ 32 * s.rbits (kFb ck 4) 19 0
    + 32 * ((s.rbits (kFb ck 0x0C) 31 0 + s.recsSent ck) % 2 ^ (s.rbits (kFb ck 8) 3 0 + 4))

/-- The oldest parked record is written to the fault buffer when there is room (R411), and whether it was. A write that meets a memory fault waits for a
notice or a change of GEN. -/
def State.enterRecord (s : State) (ck : Nat) : State × Bool :=
  match (s.ctx ck).parked with
  | [] => (s, false)
  | r :: rest =>
    let used := (s.rbits (kFb ck 0x0C) 31 0 + 2 ^ 32 - s.rbits (kFb ck 0x10) 31 0) % 2 ^ 32 + s.recsSent ck
    if s.rbits (kFb ck 0) 0 0 = 1 ∧ used < 2 ^ (s.rbits (kFb ck 8) 3 0 + 4) ∧ (s.ctx ck).recStuck = false then
      match s.virtWrite ck (s.recAddr ck) (wordsBytes r) (.fault r) with
      | (s, some (code, _)) => (if code = 0 then s else s.modCtx ck fun x => { x with recStuck := true }, false)
      | (s, none) => (s.modCtx ck fun x => { x with parked := rest }, true)
    else (s, false)

/-- Parked records enter the buffer in detection order as room appears (R411). -/
def State.enterRecords (s : State) (ck : Nat) : Nat → State
  | 0 => s
  | fuel + 1 =>
    match s.enterRecord ck with
    | (s, true) => State.enterRecords s ck fuel
    | (s, false) => s

/-- A record has been released (R411): FB_WR rises and MSI-X vector c mod 48 is raised; a contained fault then posts its FAULT event (R408, R413). -/
def State.recordWritten (s : State) (ck : Nat) (ws : List Word) : State :=
  let s := (s.rset (kFb ck 0x0C) (nw (s.rbits (kFb ck 0x0C) 31 0 + 1))).raiseMsix (ctxFn ck) (ctxLoc ck % 48)
  let tidx := if bits (wd ws 1) 31 26 = 0x3F then 0xFFFFFFFF else (wd ws 2).toNat
  if bits (wd ws 0) 23 22 = 2 then s.hwEvent (ctxFn ck) (eventWords (s.ctxId ck) 2 tidx ws) else s

/-- Writes one fault record to a context's buffer, or parks it, or drops it with the park full (R411). ERRCNT_9 counts the detection of a contained error
(R418). -/
def State.report (s : State) (ck : Nat) (r : Rec) : State :=
  let s := if r.cls = 2 then s.countError 9 else s
  let p := (s.ctx ck).parked
  if p.length < 16 then
    (s.modCtx ck fun x => { x with parked := p ++ [r.words (s.gen ck)] }).enterRecords ck 17
  else
    let n := s.rbits (kFb ck 0x18) 15 0
    s.rsetBits (kFb ck 0x18) 15 0 (min (n + 1) 0xFFFF)

/-- Reports a repairable fault: a duplicate within its generation writes no record (R442). `agent` is none for a fault of a column, or the
SRC of a base-die agent. -/
def State.reportOnce (s : State) (ck : Nat) (agent : Option Nat) (kind : Nat) (r : Rec) : State :=
  let region := r.addr / 2 ^ 16
  match agent with
  | none =>
    let key := (ck, r.code, kind, region, s.gen ck)
    if (s.col r.col).dups.contains key then s.countError 9
    else (s.modCol r.col fun x => { x with dups := key :: x.dups }).report ck r
  | some a =>
    let key := (ck, a, r.code, kind, region, s.gen ck)
    if s.dups.contains key then s.countError 9 else { s with dups := key :: s.dups }.report ck r

/-- An entry of the telemetry ring has been released, or is lost (R368). -/
def State.telemetryWritten (s : State) (ck : Nat) : State := s.rset (kTd ck 0x10) (s.rget (kTd ck 0x10) + 1)
def State.telemetryLost (s : State) (ck : Nat) : State := s.rset (kTd ck 0x18) (s.rget (kTd ck 0x18) + 1)

/-- What follows a write of the S4's own once it is released (R368, R411, R415). -/
def State.endPut (s : State) (p : Put) : State :=
  let s := { s with puts := s.puts.filter fun q => q.id != p.id }
  match p.end_ with
  | .fault ws => s.recordWritten p.ck ws
  | .event fn ws => s.eventPosted fn ws
  | .telemetry _ => s.telemetryWritten p.ck
  | .count _ | .save => s

/-- A memory fault of such a write: an entry of the telemetry ring is lost and an update of a count not made, each with a record (R368, R481). -/
def State.putFault (s : State) (p : Put) (e : Nat × Nat × Nat) : State :=
  let drop : State := { s with puts := s.puts.filter fun q => q.id != p.id }
  let rec_ (s : State) (r : Rec) : State := s.reportOnce p.ck none kEngW { r with code := e.1, info := e.2.1, addr := e.2.2 }
  if e.1 = 0 then s
  else
    match p.end_ with
    | .telemetry r => rec_ (drop.telemetryLost p.ck) r
    | .count r => rec_ drop r
    | _ => s

/-- Makes an update of a count, or writes an entry of the telemetry ring (R350, R368, R481). -/
def State.makePut (s : State) (ck : Nat) (todo : PutTodo) (end_ : PutEnd) (req : Option Nat := none) : State :=
  match s.post ck todo end_ req with
  | (s, p, some e) => s.putFault p e
  | (s, _, none) => s

/-- The queue in which a write of the S4's own keeps its order. -/
def Put.queue (p : Put) : Nat × Nat :=
  match p.end_ with
  | .fault _ => (0, p.ck)
  | .event fn _ => (1, fn)
  | .telemetry _ => (2, p.ck)
  | .count _ | .save => (3, p.id)

/-- The writes of the S4's own go on: one that waits is tried again, and the oldest of each queue ends once it is released. -/
def State.settlePuts (s : State) : State :=
  (s.puts.foldl (fun (a : State × List (Nat × Nat)) p =>
    if a.2.contains p.queue then a
    else
      match p.todo with
      | some todo =>
        match a.1.sendPut p.id p.ck todo with
        | (s, some e) => (s.putFault p e, p.queue :: a.2)
        | (s, none) => (s, p.queue :: a.2)
      | none => if a.1.putDone p then (a.1.endPut p, a.2) else (a.1, p.queue :: a.2)) (s, [])).1

/-- Parked records whose write waited for room, a link or ATS are tried again. -/
def State.settleRecords (s : State) : State :=
  s.ctxs.foldl (fun s p => if p.2.parked.isEmpty then s else s.enterRecords p.1 17) s

/-- A FAULT event of the physical function that carries a record written to no buffer (R449, R452): its GEN is a free value. -/
def State.pfFault (s : State) (r : Rec) : State :=
  let s := if r.cls = 2 then s.countError 9 else s
  let (s, g) := s.free
  s.pfEvent 2 (r.words g.toNat)

/-! ### Freezing (R417) -/

/-- The place of a thread within its team's records: column, slot and team index. -/
def teamRec (k : Nat) (tm : Team) (r : Rec) : Rec := { r with col := teamCol k, slot := teamSlot k, team := tm.index }

/-- Requests that a team be frozen with a CODE. A team is frozen once (R422). -/
def State.freezeTeam (s : State) (k code : Nat) : State :=
  s.modTeam k fun tm =>
    if tm.frozen.isSome || tm.freezing.isSome then tm else { tm with freezing := some code, halting := true, haltAt := if tm.halting then tm.haltAt else s.cyc }

/-- Whether a bundle has halted for a pre-emption or a freeze: it stands at a clause header, or it waits at a word (R72, R117). -/
def Team.bundleHalted (tm : Team) (b : Bundle) : Bool :=
  b.clause.isNone || b.threads.any fun t => (tm.thread t).wait.kind != .none

def Team.allHalted (tm : Team) : Bool := tm.bundles.all fun b => tm.bundleHalted b

/-- Whether every bundle has halted for a migration, a parking or a placing: a bundle that the range scoreboard stalls has not (R47, R72). -/
def Team.allAtRest (tm : Team) : Bool :=
  tm.bundles.all fun b => tm.bundleHalted b && b.threads.all fun t => (tm.thread t).wait.kind != .scoreboard

/-! ### Traffic of the stake bus (R63, R64, R80 to R84) -/

/-- Whether a stretch between two layers of a column uses a boundary direction (R63): boundary i joins layer i and layer i + 1, layer 0 being
the base die; direction 0 is upward. -/
def crosses (src dst b d : Nat) : Bool :=
  if d = 0 then decide (src ≤ b ∧ b < dst) else decide (dst ≤ b ∧ b < src)

/-- A transfer's stretches: pairs of layers, each from and to. -/
abbrev Path := List (Nat × Nat)

def Path.crosses (p : Path) (b d : Nat) : Bool := p.any fun q => Machine.crosses q.1 q.2 b d

/-- The stretches between a core and the column store, whose bytes are interleaved over all four layers (R47, R131). -/
def toStore (l : Nat) : Path := [1, 2, 3, 4].map fun x => (l, x)
def fromStore (l : Nat) : Path := [1, 2, 3, 4].map fun x => (x, l)

/-- The path of a team in transfer: parking, placing or migration; layer 0 stands for the column store (R72). -/
def movePath (src dst : Nat) : Path := if dst = 0 then toStore src else if src = 0 then fromStore dst else [(src, dst)]

/-- Whether realignment keeps a transfer from starting, or pauses one that runs (R81). -/
def State.pathHeld (s : State) (c : Nat) (p : Path) (running : Bool) : Bool :=
  s.stakeOps.any fun o => !o.test && o.col == c && p.crosses o.boundary o.direction && (o.running || !running)

/-- The key of a lane group: its physical site, boundary, direction and number (R454). -/
def State.laneKey (s : State) (c b d g : Nat) : Nat := ((s.siteOf c * 4 + b) * 2 + d) * 32 + g
def State.lane (s : State) (k : Nat) : LaneGroup := sget {} s.laneGroups k
def State.setLane (s : State) (k : Nat) (x : LaneGroup) : State := { s with laneGroups := sins s.laneGroups k x }

/-- The background test in progress; there is one at a time in the stack (R83). -/
def State.testOp (s : State) : Option StakeOp := s.stakeOps.find? fun o => o.test

/-- The tester gives its lane group back to traffic: the run is incomplete, and is tried again 10 µs later at the earliest (R84). -/
def State.relinquish (s : State) (o : StakeOp) : State :=
  let k := s.laneKey o.col o.boundary o.direction o.group
  let s := s.setLane k { s.lane k with quietAt := s.dt + 10000, tries := (s.lane k).tries + 1 }
  { s with stakeOps := s.stakeOps.filter fun o => !o.test, busyAt := sins s.busyAt (4 * o.col + o.boundary) s.cyc }

/-- Traffic uses the boundaries of a path now (R84). -/
def State.markPath (s : State) (c : Nat) (p : Path) : State :=
  { s with busyAt := (([0, 1, 2, 3] : List Nat).filter fun b => p.crosses b 0 || p.crosses b 1).foldl (fun l b => sins l (4 * c + b) s.cyc) s.busyAt }

/-- A transfer starts over a path: the tester gives back a lane group that the path needs (R84). -/
def State.startPath (s : State) (c : Nat) (p : Path) : State :=
  let s := s.markPath c p
  match s.testOp with
  | some o => if o.col == c && p.crosses o.boundary o.direction then s.relinquish o else s
  | none => s

/-- The stretches of the demand accesses of a core: to and from the base die and the banks of the column store (R64, R131). -/
def demandPath (l : Nat) : Path := (l, 0) :: (0, l) :: (toStore l ++ fromStore l)

/-- Demand accesses of a column go over a path: the tester sees them, and gives back a lane group that they need (R84). Its view of idle time is kept only
while a test runs or waits for an idle interval. -/
def State.demand (s : State) (c : Nat) (p : Path) : State :=
  if s.testOp.isSome || s.laneGroups.any (fun g => decide (64 ≤ g.2.tries)) then s.startPath c p else s

/-- The layer whose core executes a team. -/
def Team.layer? (tm : Team) : Option Nat := match tm.place with | .core l => some l | _ => none

/-- DT ticks of residence join the counter of a layer (R79). -/
def Counters.reside (c : Counters) (layer ticks : Nat) : Counters :=
  match layer with
  | 1 => { c with res1 := (c.res1 + ticks) % 2 ^ 64 }
  | 2 => { c with res2 := (c.res2 + ticks) % 2 ^ 64 }
  | 3 => { c with res3 := (c.res3 + ticks) % 2 ^ 64 }
  | _ => { c with res4 := (c.res4 + ticks) % 2 ^ 64 }

/-- The core cycles a group's request has waited, by the column's clock (R44). -/
def Group.cycles (g : Group) (clk : Nat) : Nat := g.waited + match g.mark with | some m => clk - m | none => 0

/-- The waiting times of a team's pending requests stop, or go on, with the column's clock (R44, R45). -/
def stopWaits (gs : List Group) (clk : Nat) : List Group :=
  gs.map fun g => if g.req.isSome then { g with waited := g.cycles clk, mark := none } else g
def startWaits (gs : List Group) (clk : Nat) : List Group := gs.map fun g => if g.req.isSome then { g with mark := some clk } else g

/-- The counters of a team, its residence on its present core included: it counts to the halt request of a migration, and after one from the
first issue on the target (R79). -/
def Team.resided (tm : Team) (now : Nat) : Counters :=
  match tm.place with
  | .core l => if tm.migDone = [] then tm.counters.reside l ((match tm.migFrom with | some m => m.2 | none => now) - tm.resFrom) else tm.counters
  | _ => tm.counters

/-- A team leaves its core, for the register backing or for a transfer (R47, R72): its bundles leave the active set, and its residence ends. -/
def Team.leave (tm : Team) (now clk : Nat) (place : Place) : Team :=
  { tm with place, counters := tm.resided now, resFrom := now, readyAt := now, groups := stopWaits tm.groups clk,
            bundles := tm.bundles.map fun b => { b with active := false } }

/-- A team whose freeze is requested is frozen once it has halted, its move has ended and no HALT or SAVE is in progress, with one FREEZE event
(R417, R424, R433). From its core it then goes to the register backing, a transfer of its own (R64). -/
def State.settle (s : State) (k : Nat) : State :=
  match s.team? k with
  | none => s
  | some tm =>
    match tm.freezing, tm.place with
    | none, _ => s
    | _, .moving _ _ => s
    | some code, _ =>
      let ck := s.teamCtx tm
      if tm.allHalted && !tm.parking && (s.ctx ck).cmd.isNone && (s.col (teamCol k)).migration.all (fun m => m.slot != teamSlot k) then
        let s := s.setTeam k { tm with freezing := none, frozen := some code }
        let desc := teamSlot k * 2 ^ 22 + teamCol k * 2 ^ 16 + s.ctxId ck * 2 ^ 4 + 1
        s.hwEvent (ctxFn ck) (eventWords (s.ctxId ck) 3 tm.index [nw desc, nw code])
      else s

/-! ### Taking a trap (R420 to R424) and returning from it -/

/-- The word a bundle issues: the team and bundle, the word's slot in its clause, and the address of the clause header. -/
structure Iss where
  k : Nat
  idx : Nat
  tm : Team
  b : Bundle
  hdr : Header
  off : Nat
  /-- the word is the last of its clause -/
  last : Bool
  pc : Nat

/-- Replaces bundle `idx` of a team. -/
def State.modBundle (s : State) (k idx : Nat) (f : Bundle → Bundle) : State :=
  s.modTeam k fun tm => { tm with bundles := tm.bundles.modify idx f }

/-- Takes a trap at a word of a bundle (R421 to R424): one fault record names the lowest-numbered thread that breaks the rule, every thread
of the bundle stops in front of the word, and the team is frozen. -/
def State.takeTrap (s : State) (x : Iss) (thread code info addr : Nat) : State :=
  let ck := s.teamCtx x.tm
  let s := s.report ck (teamRec x.k x.tm { code, src := 0, thread, pc := x.pc, word := x.off, addr, info })
  let s := s.modThreads x.k x.b.threads fun th => { th with wait := { kind := .stopped, word := x.off } }
  let s := s.modBundle x.k x.idx fun b => { b with issued := false }
  (s.freezeTeam x.k code).settle x.k

/-- Takes a decode fault of the clause a bundle stands at (R421 to R423): its threads keep standing at the header. -/
def State.takeDecodeTrap (s : State) (k : Nat) (tm : Team) (b : Bundle) (pc code word info : Nat) : State :=
  let ck := s.teamCtx tm
  let thread := b.threads.foldl min (b.threads.headD 0)
  let s := s.report ck (teamRec k tm { code, src := 0, thread, pc, word, info })
  (s.freezeTeam k code).settle k

/-- The waiting M-word of a team's stream leaves the tile queues (R139). -/
def Team.unplace (tm : Team) : Team :=
  match tm.stream.place with
  | none => tm
  | some id =>
    { tm with stream := { tm.stream with place := none }
              tiles := tm.tiles.map fun (p : Nat × Tile) => (p.1, { p.2 with queue := p.2.queue.filter fun q => q != id }) }

/-- Takes a stream fault (R430): the stream stops at the faulting M-word with RUN and WT clear and ABT set, and the team is frozen. -/
def State.takeStreamFault (s : State) (k : Nat) (tm : Team) (code info addr : Nat) : State :=
  let ck := s.teamCtx tm
  let s := s.report ck (teamRec k tm { code, src := 1, pc := tm.stream.pos, addr, info })
  let s := s.modTeam k fun tm =>
    let tm := tm.unplace
    { tm with stream := { tm.stream with run := false, wt := false, abt := true, token := none, watch := none, held := false, ir := none } }
  (s.freezeTeam k code).settle k

/-- Returns from a trap: a frozen team is released (R417, R423). Threads stopped in a clause issue the word they stopped at again; held
accesses are retried. -/
def Team.release (tm : Team) : Team :=
  { tm with
    frozen := none, freezing := none, halting := false, halted := false
    threads := tm.threads.map fun th => if th.wait.kind = .stopped then { th with wait := {} } else th
    accesses := tm.accesses.map fun a => if a.state = .held then { a with state := .sent } else a }

/-! ### Releases (R187 to R189, R438) -/

/-- Whether a thread has live entries in the side log of its column (R438). -/
def State.sideEntries (s : State) (k t : Nat) : List SideEntry :=
  (s.col (teamCol k)).sideLog.filter fun e => e.team = k && e.thread = t

/-- The access is one that a release or a full fence of the thread waits for. -/
def Access.of (a : Access) (t : Nat) : Bool := a.dests.any fun d => d.thread = t

/-- The first part of a release at a scope (R188): beyond team scope, every dirty line whose team mask holds the team is written back, and the
completion times join the thread's horizon, with those of the write-backs the column already has under way. -/
def State.startRelease (s : State) (k t scope : Nat) : State :=
  if scope = 0 then s
  else
    let (s, u) := s.writeBackAll (teamCol k) (some k) (s.dirtyOf (teamCol k) (teamSlot k))
    let tmax := max u (s.pendingMax (teamCol k))
    s.modThread k t fun th => { th with horizon := max th.horizon tmax }

/-- Whether the lines a release writes back, and those whose write-backs are under way, are neither owned by an engine nor moving (R169, R193): a write-back
that reaches such a line is held. -/
def State.canRelease (s : State) (k scope : Nat) : Bool :=
  scope == 0 || (!s.pendingHeld (teamCol k) && (s.dirtyOf (teamCol k) (teamSlot k)).all fun ln => !s.lineHeld ln)

/-- Whether a thread's accesses numbered below `id` have been performed: the team-scope release of R187, which also waits for the acknowledgement of
reductions (R342), for side-log entries (R438) and for the accesses the load-store unit holds (R335). -/
def State.teamReleased (s : State) (k t id : Nat) : Bool :=
  match s.team? k with
  | none => true
  | some tm => (tm.accesses.all fun a => !a.of t || decide (id ≤ a.id)) && (s.sideEntries k t).isEmpty && !(tm.thread t).redOut

/-- Whether a release that has started is complete (R187 to R189), for the accesses numbered below `id`. -/
def State.released (s : State) (k t scope id : Nat) : Bool :=
  match s.team? k with
  | none => true
  | some tm =>
    let th := tm.thread t
    s.teamReleased k t id && (scope == 0 || decide (th.horizon + 2 ≤ s.dt)) && (scope != 3 || th.peerOut == 0)

/-- An acquire at a scope (R187, R188): beyond team scope the lease floor becomes DT. -/
def Thread.acquire (th : Thread) (scope now : Nat) : Thread := if scope = 0 then th else { th with floor := now }

end Sys2Proof.Machine
end

