-- ==== Sys2Proof/Machine/Operands.lean ====
section
/-! DEFINITION. Operands and issue of a lane, uniform or control word: guards and passing threads (R244), the issue faults every word shares
(R426, R458, R482), operand values, writing results (R35), waiting at a word (R60, R108), and the end of a clause (R33, R234). -/

namespace Sys2Proof.Machine

/-! ### The word at issue -/

/-- The word at the issue slot; none when no bundle holds it. -/
def State.iss (s : State) : Option Iss :=
  match s.cur with
  | some (.bundle k idx) =>
    match s.team? k with
    | some tm =>
      match tm.bundles[idx]? with
      | some b =>
        match b.clause with
        | some c =>
          match c.slots[b.pos]? with
          | some sl =>
            some { k, idx, tm, b, hdr := c.hdr, off := sl.off, last := b.pos + 1 == c.slots.length,
                   pc := (tm.thread (b.threads.headD 0)).pc.toNat }
          | none => none
        | none => none
      | none => none
    | none => none
  | _ => none

/-- Whether a word's guard passes in a thread (R244). -/
def Thread.passes (th : Thread) (m : Mods) : Bool := m.g == 127 || ((th.get m.g.toNat != 0) != m.gn)

/-- The threads of the bundle whose guard passes. -/
def Iss.passing (x : Iss) (m : Mods) : List Nat := x.b.threads.filter fun t => (x.tm.thread t).passes m

/-- Orders threads by lane (R29). -/
def byLane (ts : List Nat) : List Nat := ts.foldr ins []
where ins (t : Nat) : List Nat → List Nat
  | [] => [t]
  | u :: rest => if t % 32 ≤ u % 32 then t :: u :: rest else u :: ins t rest

/-- The thread on the lowest lane; 0 for an empty list. -/
def lowLane (ts : List Nat) : Nat := (byLane ts).headD 0

/-! ### Issue faults (R426, R458, R482) -/

/-- The flag number a flagged form names (R235). -/
def Iss.flagNo (x : Iss) (f : Form) : Option Nat :=
  match f.flag with
  | some fs => some (if fs then x.hdr.bf.toNat else x.hdr.af.toNat)
  | none => none

/-- The first register of a list of operands at or above n: `nw` for an operand that is written, `nr` for one that is read. The register, and n. -/
def firstBeyond (nw nr : Nat) (ops : List Opnd) : Option (Nat × Nat) :=
  let n (o : Opnd) : Nat := if o.wr then nw else nr
  (ops.find? fun o => decide (n o < o.reg.toNat + o.cnt)).map fun o => (max (n o) o.reg.toNat, n o)

/-- The registers an operand names. -/
def Opnd.regs (o : Opnd) : List Nat := (List.range o.cnt).map (o.reg.toNat + ·)

/-- The first condition of a list of word conditions that holds: CODE and INFO. -/
def firstHeld : List (Bool × Nat × Nat) → Option (Nat × Nat)
  | [] => none
  | (c, code, info) :: rest => if c then some (code, info) else firstHeld rest

/-- The issue fault a thread meets at a word: the lowest CODE that applies, with its INFO (R482). `n` is what the fields of written registers are
judged against, `extra` the word's own conditions in ascending order of CODE. -/
def Iss.fault (x : Iss) (f : Form) (t n : Nat) (extra : List (Bool × Nat × Nat)) : Option (Nat × Nat) :=
  let th := x.tm.thread t
  match firstBeyond n (x.tm.n t) f.operands with
  | some (r, m) => some (0x0020, r + 256 * m)
  | none =>
    match firstHeld (extra.filter fun e => e.2.1 == 0x0020) with
    | some e => some e
    | none =>
      let fl := x.flagNo f
      if (match fl with | some i => th.flag i == 15 | none => false) then some (0x0021, fl.getD 0)
      else
        match (f.operands.flatMap Opnd.regs).find? fun r => th.pend.any fun p => p.1 == r with
        | some r => some (0x0022, r)
        | none =>
          match firstHeld extra with
          | some e => some e
          | none =>
            ((f.operands.filter fun o => !o.wr).flatMap Opnd.regs).find? (fun r => th.poison.contains r) |>.map fun r => (0x2010, r)

/-- ADDR of the record of an issue fault (R422): the address of which INFO names the low bits, in the pair the word reads; else 0. -/
def Iss.faultAddr (x : Iss) (f : Form) (t code : Nat) : Nat :=
  if code = 0x0023 ∨ code = 0x002F then
    match f.operands.find? fun o => !o.wr && o.cnt == 2 with
    | some o => (x.tm.thread t).get64 o.reg.toNat % 2 ^ 52
    | none => 0
  else 0

/-- Whether a thread's guard register cannot be read: it is at or above n, or pending. Such a thread is judged (R426). -/
def Iss.guardBad (x : Iss) (m : Mods) (t : Nat) : Bool :=
  m.g != 127 && (decide (x.tm.n t ≤ m.g.toNat) || (x.tm.thread t).pend.any fun p => p.1 == m.g.toNat)

/-- The threads a word is judged for (R420): those whose guard passes, a once-per-bundle word from the lowest lane only. -/
def Iss.judged (x : Iss) (f : Form) : List Nat :=
  let ts := x.b.threads.filter fun t => x.guardBad f.m t || (x.tm.thread t).passes f.m
  if f.once then (byLane ts).take 1 else ts

/-- The thread, CODE and INFO of the first issue fault among some threads, in order. -/
def Iss.firstFault (x : Iss) (f : Form) (n : Nat → Nat) (extra : Nat → List (Bool × Nat × Nat)) : List Nat → Option (Nat × Nat × Nat)
  | [] => none
  | t :: rest =>
    match x.fault f t (n t) (extra t) with
    | some (code, info) => some (t, code, info)
    | none => Iss.firstFault x f n extra rest

/-! ### The end of a clause (R33, R110, R234) -/

/-- Adds a thread to the part of its program counter. -/
def addPart (pc : VAddr) (t : Nat) : List (VAddr × List Nat) → List (VAddr × List Nat)
  | [] => [(pc, [t])]
  | (q, ts) :: rest => if q = pc then (q, ts ++ [t]) :: rest else (q, ts) :: addPart pc t rest

/-- The parts of a bundle by program counter, the part with the lowest-numbered lane first (R33). -/
def Team.parts (tm : Team) (ts : List Nat) : List (List Nat) :=
  let ps := (ts.foldl (fun ps t => addPart (tm.thread t).pc t ps) []).map Prod.snd
  let low := lowLane ts
  (ps.filter fun p => p.contains low) ++ ps.filter fun p => !p.contains low

/-- Whether a thread waits at nothing, or at a memory access that it tries again by itself (R443). -/
def Wait.open (w : Wait) : Bool := w.kind == .none || (w.kind == .memHeld && w.started)

/-- Whether a thread at a clause header waits at nothing but, perhaps, the wait mask (R60, R335). -/
def Thread.stands (th : Thread) : Bool := th.wait.open && th.hold.isNone && th.wait.word == 0

/-- Ends the clause of a bundle: each thread stands at the header its transfer names, else at Next; exited threads leave; the bundle splits
where program counters differ, with the ending cycle as stamp, and the part of the lowest lane keeps the place (R33, R109, R234). -/
def Team.endClause (tm : Team) (now idx next : Nat) (b : Bundle) (target : Nat → Option VAddr) (yld : Bool) : Team :=
  let tm := b.threads.foldl (fun tm t => tm.modThread t fun th => { th with pc := (target t).getD (BitVec.ofNat 52 next) }) tm
  let ts := b.threads.filter fun t => !(tm.thread t).exited
  let mk (active : Bool) (p : List Nat) : Bundle := { threads := p, slice := b.slice, stamp := now, active, yielded := yld }
  match tm.parts ts with
  | [] => { tm with bundles := tm.bundles.eraseIdx idx }
  | p :: rest => { tm with bundles := tm.bundles.set idx (mk b.active p) ++ rest.map (mk false) }

/-- The address of the header after a clause: Next of R267. -/
def Iss.next (x : Iss) : Nat := (x.pc + 4 * (x.hdr.len + 1)) % 2 ^ 52

/-- The clause of the bundle ends. -/
def State.endClause (s : State) (x : Iss) (target : Nat → Option VAddr) : State :=
  let s := s.modTeam x.k fun tm => tm.endClause s.cyc x.idx x.next x.b target (x.hdr.yld || x.b.yielded)
  s.settle x.k

/-- The bundle goes on to its next word, or its clause ends without a transfer. -/
def State.advance (s : State) (x : Iss) : State :=
  if x.last then s.endClause x (fun _ => none)
  else s.modBundle x.k x.idx fun b => { b with pos := b.pos + 1, issued := false }

/-! ### Waiting at a word (R60, R108) -/

/-- The threads wait at the word. `acted` says that the word has acted and goes on once they wait no more. -/
def State.waitAt (s : State) (x : Iss) (ts : List Nat) (w : Thread → Wait) (acted : Bool) : State :=
  let s := s.modThreads x.k ts fun th => { th with wait := w th }
  let s := s.modBundle x.k x.idx fun b => { b with issued := acted }
  s.settle x.k

/-- The bundle's threads wait no more. -/
def State.clearWaits (s : State) (x : Iss) : State := s.modThreads x.k x.b.threads fun th => { th with wait := {} }

/-- A rendezvous point of a team. -/
def Team.point (tm : Team) (z : Nat) : RzPoint := sget {} tm.rz z

/-- A thread's rendezvous wait ends once its point has left the phase of its token; its completion is the acquire of R53. -/
def Team.endRendezvous (tm : Team) (now t : Nat) : Team :=
  let w := (tm.thread t).wait
  if w.kind = .rendezvous ∧ (tm.point w.point).p ≠ w.token then
    tm.modThread t fun th => { th.acquire (if (tm.point w.point).marks.contains w.token then 1 else 0) now with wait := {} }
  else tm

/-- A bundle whose word has acted goes on when none of its threads waits at it. A CSR wait ends when the change it waits for has ended
(R143, R280). -/
def State.resumeWord (s : State) (x : Iss) : State :=
  let s := s.modTeam x.k fun tm => x.b.threads.foldl (fun tm t => tm.endRendezvous s.dt t) tm
  let s := s.modTeam x.k fun tm => x.b.threads.foldl (fun tm t => tm.modThread t fun th =>
    if th.wait.kind = .csr ∧ s.rbits (kL2 th.wait.token 0) 15 15 = 0 then { th with wait := {} } else th) tm
  match s.team? x.k with
  | some tm => if x.b.threads.any fun t => (tm.thread t).wait.kind != .none then s else s.advance x
  | none => s

/-- Runs a word: its issue faults are judged, else it acts for the passing threads. A bundle that waits at a word that has acted goes on
with its wait. -/
def runWord (s : State) (i : Instr) (n : Iss → Nat → Nat) (extra : Iss → Nat → List (Bool × Nat × Nat)) (act : Iss → List Nat → State) :
    Host.Outcome State Fault Refusal :=
  match s.iss, form i with
  | some x, some f =>
    .next
      (if x.b.issued then s.resumeWord x
       else
         match x.firstFault f (n x) (extra x) (x.judged f) with
         | some (t, code, info) => s.takeTrap x t code info (x.faultAddr f t code)
         | none => act x (x.passing f.m))
  | _, _ => .fault .noBundle

/-- The register counts words are judged against: the group's n. -/
def nOf (x : Iss) (t : Nat) : Nat := x.tm.n t
/-- A word with no issue faults of its own. -/
def noExtra (_ : Iss) (_ : Nat) : List (Bool × Nat × Nat) := []

/-- Whether the release that a word makes before it acts is complete for every thread, or completes as it starts (R60, R188). -/
def State.releaseReady (s : State) (x : Iss) (ts : List Nat) (scope : Nat) : Bool :=
  let started := ts.all fun t => (x.tm.thread t).wait.started
  let u := if started then s else ts.foldl (fun s t => s.startRelease x.k t scope) s
  (started || (s.canRelease x.k scope && ts.all fun t => s.teamReleased x.k t s.idNext)) && ts.all fun t => u.released x.k t scope u.idNext

/-- Acts once a release at a scope is complete for every thread: until then the threads wait, recorded as WAIT 10 (R60). The write-backs
follow the thread's earlier accesses (R188). -/
def State.afterRelease (s : State) (x : Iss) (ts : List Nat) (scope : Nat) (act : State → State) : State :=
  let started := ts.all fun t => (x.tm.thread t).wait.started
  if !started && !(s.canRelease x.k scope && ts.all fun t => s.teamReleased x.k t s.idNext) then
    s.waitAt x ts (fun _ => { kind := .release, word := x.off }) false
  else
    let s := if started then s else ts.foldl (fun s t => s.startRelease x.k t scope) s
    if ts.all fun t => s.released x.k t scope s.idNext then act (s.clearWaits x)
    else s.waitAt x ts (fun _ => { kind := .release, word := x.off, started := true }) false

/-! ### Results (R35, R36, R244) -/

/-- A thread's result: the value written and the flags raised. -/
abbrev Val := Thread → Nat × Flags

/-- Raises sticky status flags (R229). -/
def Thread.raise (th : Thread) (fl : Flags) : Thread := { th with status := th.status ||| fl.setWidth 32 }

/-- Writes results: each passing thread's own, or, once per bundle, the result of the lowest passing lane to every passing thread. -/
def Team.writeResults (tm : Team) (once : Bool) (d cnt : Nat) (val : Val) (ts : List Nat) : Team :=
  let low := lowLane ts
  let v0 := val (tm.thread low)
  ts.foldl (fun acc t =>
    let (v, fl) := if once then v0 else val (tm.thread t)
    (acc.putRegs t d v cnt).modThread t fun th => th.raise fl) tm

/-- Runs a register-to-register word whose result takes `cnt` registers from `d`. -/
def runArith (s : State) (i : Instr) (once : Bool) (d : RegNo) (cnt : Nat) (val : Val) : Host.Outcome State Fault Refusal :=
  runWord s i nOf noExtra fun x ts => (s.modTeam x.k fun tm => tm.writeResults once d.toNat cnt val ts).advance x

end Sys2Proof.Machine
end

