-- ==== Sys2Proof/Machine/Flags.lean ====
section
/-! DEFINITION. Completion flags (R235, R236) and integer and condition flag computations shared by the instruction families. -/

namespace Sys2Proof.Machine

/-! ### Completion flags -/

/-- A flagged word raises its flag by one in a thread. A count driven above 15 in a thread the word was not judged for is a free value
(R235, R426). -/
def State.raiseFlag (s : State) (k t : Nat) (fl : Option Nat) : State :=
  match fl with
  | none => s
  | some i =>
    match s.team? k with
    | none => s
    | some tm =>
      if (tm.thread t).flag i < 15 then s.modThread k t fun th => th.setFlag i (th.flag i + 1)
      else let (s, v) := s.free; s.modThread k t fun th => th.setFlag i v.toNat

def State.raiseFlags (s : State) (k : Nat) (fl : Option Nat) : List Nat → State
  | [] => s
  | t :: rest => State.raiseFlags (s.raiseFlag k t fl) k fl rest

/-- Registers of a thread become pending under a flag (R236). -/
def Thread.addPend (th : Thread) (r cnt : Nat) (fl : Option Nat) : Thread :=
  match fl with
  | some i => { th with pend := th.pend ++ (List.range cnt).map fun j => (r + j, i) }
  | none => th

/-- A clause start ends the pending state of the registers whose flags its header's WAIT names (R236). -/
def Thread.endPend (th : Thread) (wait : BitVec 12) : Thread := { th with pend := th.pend.filter fun p => !wait.getLsbD p.2 }

/-- Whether the flags a WAIT mask names read zero in a thread (R233). -/
def Thread.waitClear (th : Thread) (wait : BitVec 12) : Bool :=
  (List.range 12).all fun i => !wait.getLsbD i || th.flag i == 0

/-- A result reaches its thread (R73): registers are written, and the flag falls. A result for an exited thread or a discarded register is
dropped (R269, R278). -/
def Team.deliver (tm : Team) (d : Dest) (v : Nat) : Team :=
  let tm := if (tm.thread d.thread).exited then tm else tm.putRegs d.thread d.reg v d.cnt
  tm.modThread d.thread fun th => th.dropFlag? d.flag

/-! ### Conditions -/

/-- A register as a natural number. -/
def Thread.nat (th : Thread) (r : RegNo) : Nat := (th.get r.toNat).toNat

/-- The integer conditions of R284 and R298. -/
def icond (k : Nat) (a b : Word) : Bool :=
  match k with
  | 0 => a == b | 1 => a != b
  | 2 => a.slt b | 3 => a.sle b | 4 => b.slt a | 5 => b.sle a
  | 6 => a.ult b | 7 => a.ule b | 8 => b.ult a | _ => b.ule a

/-- SAT of an integer fit (R286). -/
def satFlag (b : Bool) : Flags := if b then flSAT else 0

end Sys2Proof.Machine
end

