-- ==== Sys2Proof/Machine/Teams.lean ====
section
/-! DEFINITION. Job cards (R86 to R88), room and placement (R41, R46, R54, R95, R131 to R135), the start, parking and retirement of a team
(R47, R58, R59, R106), grid completion (R97), the RETS hand-over (R101 to R105, R431) and the grid barrier (R114). -/

namespace Sys2Proof.Machine

/-! ### The job card (R86) -/

abbrev Card := List Word
def Card.entry (w : Card) : Nat := addr52 (wd w 0) (wd w 1)
def Card.msa (w : Card) : Nat := addr52 (wd w 2) (wd w 3)
def Card.bsp (w : Card) : Bool := bits (wd w 4) 29 29 == 1
def Card.ccols (w : Card) : Nat := bits (wd w 4) 28 25
def Card.crows (w : Card) : Nat := bits (wd w 4) 24 22
def Card.pri (w : Card) : Nat := bits (wd w 4) 21 20
def Card.coop (w : Card) : Bool := bits (wd w 4) 19 19 == 1
def Card.persist (w : Card) : Bool := bits (wd w 4) 18 18 == 1
def Card.tsl (w : Card) : Nat := bits (wd w 4) 17 9
def Card.n (w : Card) : Nat := 8 * (bits (wd w 4) 8 5 + 1)
def Card.thr (w : Card) : Nat := 32 * (bits (wd w 4) 4 0 + 1)
def Card.teams (w : Card) : Nat := bits (wd w 5) 31 16
def Card.spad (w : Card) : Nat := bits (wd w 5) 13 0
def Card.arg (w : Card) : Nat := addr52 (wd w 6) (wd w 7)
def Card.minch (w : Card) : Nat := bits (wd w 8) 31 16
def Card.rsz (w : Card) : Nat := bits (wd w 8) 15 0
def Card.rcnt (w : Card) : Nat := (wd w 9).toNat
def Card.part (w : Card) : Nat := bits (wd w 10) 30 28
def Card.ctxid (w : Card) : Nat := bits (wd w 10) 27 16
def Card.div (w : Card) : Nat := bits (wd w 10) 15 0
def Card.waddr (w : Card) (k : Nat) : Nat := addr52 (wd w (11 + 4 * k)) (wd w (12 + 4 * k))
def Card.wv (w : Card) (k : Nat) : Bool := bits (wd w (12 + 4 * k)) 31 31 == 1
def Card.wval (w : Card) (k : Nat) : Nat := (wd w (13 + 4 * k)).toNat + 2 ^ 32 * (wd w (14 + 4 * k)).toNat
def Card.saddr (w : Card) : Nat := addr52 (wd w 27) (wd w 28)
def Card.sv (w : Card) : Bool := bits (wd w 28) 31 31 == 1
def Card.sinc (w : Card) : Nat := (wd w 29).toNat
def Card.pcol (w : Card) : Nat := bits (wd w 30) 7 2
def Card.plk (w : Card) : Nat := bits (wd w 30) 1 0
def Card.lok (w : Card) : Bool := bits (wd w 31) 17 17 == 1
def Card.sok (w : Card) : Bool := bits (wd w 31) 16 16 == 1
def Card.allow (w : Card) : Nat := bits (wd w 31) 15 0
/-- The cluster size C (R87). -/
def Card.csize (w : Card) : Nat := w.crows * w.ccols
/-- The number of teams of a card's grid (R87). -/
def Card.total (w : Card) : Nat := if w.persist then w.teams else w.rcnt

/-- The legal cluster shapes (R54). -/
def legalShape (r c : Nat) : Bool :=
  (r == 1 && decide (1 ≤ c) && decide (c ≤ 8)) || (r == 2 && decide (1 ≤ c) && decide (c ≤ 6)) || (r == 3 && c == 4) || (r == 4 && c == 3)

/-- The logical columns of an r × c rectangle whose first column is `c0`, in member order (R17, R54). -/
def rectangle (c0 r c : Nat) : List Nat :=
  (List.range r).flatMap fun i => (List.range c).map fun j => c0 + 8 * i + j

/-- Whether a rectangle fits the logical column grid of N columns (R22). -/
def rectFits (N c0 r c : Nat) : Bool :=
  decide (c0 % 8 + c ≤ 8) && (rectangle c0 r c).all fun x => decide (x < N)

/-- BackingReserve of R135. -/
def backingReserve (T n : Nat) : Nat :=
  let g := (T + 127) / 128
  let nmax := min 128 (8 * (512 / (8 * g)))
  let _ := n
  4096 * ((T * (4 * nmax + 64) + 16384 + 4095) / 4096)

/-- The bytes of a team's scratchpad extent (R135). -/
def spadExtent (kib : Nat) : Nat := 4096 * ((kib + 3) / 4)

/-- The region sizes of a partition's template in bytes and tile slots: backing, scratchpad, tile slots (R131, R133). -/
def State.template (s : State) (part : Nat) : Nat × Nat × Nat :=
  let p := s.rget (kCsplan part)
  (65536 * bits p 7 0, 65536 * bits p 15 8, 16 * bits p 23 16)

/-- How many teams of a card one empty column holds (R46, R135). -/
def State.perColumn (s : State) (w : Card) : Nat :=
  let (bk, sp, ts) := s.template w.part
  let a := bk / backingReserve w.thr w.n
  let b := if w.spad = 0 then 32 else sp / spadExtent w.spad
  let c := if w.tsl = 0 then 32 else ts / w.tsl
  min 32 (min a (min b c))

/-- How many disjoint rectangles of a shape the column grid holds, taken row band by row band. -/
def disjointRects (N r c : Nat) : Nat :=
  (List.range 6).foldl (fun acc i => if i % r = 0 then
    acc + ((List.range 8).filter fun j => j % c == 0 && rectFits N (8 * i + j) r c).length else acc) 0

/-- The conditions of R88, in the order listed: the number of the first that holds, counted from 1. `launch` is that the card came through
LAUNCH; `successor` leaves out the LOK and cooperative checks (R103). -/
def State.cardCheck (s : State) (ck : Nat) (w : Card) (launch successor : Bool) : Option Nat :=
  let z (k hi lo : Nat) : Bool := bits (wd w k) hi lo != 0
  let reserved := z 1 31 20 || z 3 31 20 || z 4 31 30 || z 5 15 14 || z 7 31 20 || z 10 31 31 || z 12 30 20 || z 16 30 20
    || z 20 30 20 || z 24 30 20 || z 28 30 20 || z 30 31 8 || z 31 31 18
  let misaligned := z 0 1 0 || z 2 1 0 || z 6 2 0 || z 8 2 0 || z 11 2 0 || z 15 2 0 || z 19 2 0 || z 23 2 0 || z 27 2 0
  let (bk, sp, ts) := s.template (s.ctxPart ck)
  let conds : List Bool :=
    [reserved || misaligned,
     decide (512 < (w.thr + 127) / 128 * w.n),
     !(legalShape w.crows w.ccols && (List.range s.ncol).any fun c0 => rectFits s.ncol c0 w.crows w.ccols),
     !w.persist && w.teams != 0,
     w.persist && w.teams == 0,
     w.total % max 1 w.csize != 0,
     w.minch == 0,
     decide (256 < w.tsl) || decide (8192 < w.spad) || decide (sp < spadExtent w.spad) || decide (ts < w.tsl)
       || decide (bk < backingReserve w.thr w.n),
     w.ctxid != s.ctxId ck || w.part != s.ctxPart ck,
     !successor && w.coop && decide ((if w.csize = 1 then s.ncol else disjointRects s.ncol w.crows w.ccols * w.csize)
        * s.perColumn w < w.total),
     !successor && launch && !w.lok,
     decide (0xFFF < w.allow)]
  (conds.findIdx? fun b => b).map (· + 1)

/-! ### Room (R41, R46, R131 to R135) -/

/-- The teams of a column: slot keys and teams. -/
def State.teamsOf (s : State) (c : Nat) : List (Nat × Team) := s.teams.filter fun p => teamCol p.1 = c

/-- The registers per lane a team takes on a slice: groups whose threads have all exited take none (R41, R269). -/
def Team.sliceRegs (tm : Team) (sl : Nat) : Nat :=
  (tm.groups.zipIdx.filter fun p => p.2 % 4 = sl && ((List.range 32).any fun l => !(tm.thread (32 * p.2 + l)).exited)).foldl
    (fun a p => a + p.1.n) 0

/-- Whether a team is on the core of a layer, or on its way to it (R72). -/
def Team.onCore (tm : Team) (l : Nat) : Bool :=
  match tm.place with
  | .core x => x == l
  | .moving a b => a == l || b == l
  | .parked => false

/-- Whether a team takes room on the core of a layer: it is there, on its way, or about to migrate there (R41, R46, R72). -/
def State.claims (s : State) (k : Nat) (tm : Team) (l : Nat) : Bool :=
  tm.onCore l || match (s.col (teamCol k)).migration with | some m => m.slot == teamSlot k && m.dst == l | none => false

/-- Whether a team is chosen for a migration that has not ended. -/
def State.migrating (s : State) (k : Nat) : Bool :=
  match (s.col (teamCol k)).migration with | some m => m.slot == teamSlot k | none => false

/-- The layers whose rails are up and whose core takes placements: not closed, and OPEN in LGATE (R70, R388). -/
def State.layerOpen (s : State) (c l : Nat) : Bool :=
  !(s.col c).closed.contains l && s.rbits (key0 0 0x160010) (2 * l + 7) (2 * l + 6) == 0

/-- Whether the core of a layer of a column holds a team beside those that claim it (R41, R46); a team that holds the engine needs a core whose engine
no other team holds or has in reserve (R68). `self` is the team's own key. -/
def State.coreFits (s : State) (c l self : Nat) (tm : Team) : Bool :=
  let others := (s.teamsOf c).filter fun p => p.1 != self && s.claims p.1 p.2 l
  decide (others.length < 8)
    && decide (others.foldl (fun a p => a + p.2.threads.length) 0 + tm.threads.length ≤ 2048)
    && ((List.range 4).all fun sl => decide (others.foldl (fun a p => a + p.2.sliceRegs sl) 0 + tm.sliceRegs sl ≤ 512))
    && (tm.engine.isNone || (others.all fun p => p.2.engine.isNone) && ((s.teamsOf c).all fun p => p.1 == self || p.2.engAt != some l)
        && (s.col c).batons.all fun b => b.1 != l || b.2.1 == teamSlot self)

/-- Whether the core of a layer of a column has room for a team: it is open to placement, and holds it (R41, R46, R68, R70). -/
def State.coreRoom (s : State) (c l self : Nat) (tm : Team) : Bool := s.layerOpen c l && s.coreFits c l self tm

/-- The hot-spot reading of a layer at a column (R390). -/
def State.temp (s : State) (c l : Nat) : Nat := s.rbits (kCol c 0) (8 * l - 1) (8 * l - 8)

/-- The coolest of the layers listed, the lower layer number among equals. -/
def State.coolest (s : State) (c : Nat) : List Nat → Option Nat
  | [] => none
  | l :: rest =>
    match State.coolest s c rest with
    | none => some l
    | some x => if s.temp c l ≤ s.temp c x then some l else some x

/-- The core a team is placed on (R48, R95). -/
def State.chooseCore (s : State) (c self : Nat) (tm : Team) : Option Nat :=
  s.coolest c ([1, 2, 3, 4].filter fun l => s.coreRoom c l self tm)

/-- The first free range of `size` bytes below `limit` beside the ranges taken. -/
def freeExtent (taken : List (Nat × Nat)) (size limit : Nat) : Option (Nat × Nat) :=
  if size = 0 then some (0, 0)
  else
    let starts := 0 :: taken.map fun p => p.1 + p.2
    let ok (b : Nat) : Bool := decide (b + size ≤ limit)
      && taken.all fun p => p.2 == 0 || decide (b + size ≤ p.1) || decide (p.1 + p.2 ≤ b)
    ((starts.filter ok).min?).map fun b => (b, size)

/-- Region sizes of a column: its boundaries while bound, else the template of the partition that would bind it. -/
def State.regions (s : State) (c part : Nat) : Nat × Nat × Nat :=
  let x := s.col c
  if x.bound then (65536 * x.bnd.1, 65536 * (x.bnd.2.1 - x.bnd.1), 16 * (x.bnd.2.2 - x.bnd.2.1)) else s.template part

/-- The reservations of R135 a team of a card would take in a column beside the teams other than `self`, and beside the backing of an engine it inherits
(R377): its backing and scratchpad extents; none when they do not fit, or when the column is bound to another partition (R134). -/
def State.room (s : State) (c self : Nat) (w : Card) : Option ((Nat × Nat) × (Nat × Nat)) :=
  let x := s.col c
  if x.bound && x.part != w.part then none
  else
    let (bk, sp, ts) := s.regions c w.part
    let others := (s.teamsOf c).filter fun p => p.1 != self
    let own := match s.team? self with | some tm => tm.engBacking.toList | none => []
    let taken := own ++ others.flatMap fun p => p.2.backing :: p.2.engBacking.toList
    if others.foldl (fun a p => a + p.2.tsl) 0 + w.tsl ≤ ts then
      match freeExtent taken (backingReserve w.thr w.n) bk, freeExtent (others.map fun p => p.2.extent) (spadExtent w.spad) sp with
      | some b, some e => some (b, e)
      | _, _ => none
    else none

/-- The lowest free team slot of a column (R46). -/
def State.freeSlot (s : State) (c : Nat) : Option Nat := (List.range 32).find? fun i => (s.team? (teamKey c i)).isNone

/-- Binds an unbound column to a partition and lays it out from its template; a change of BND_2 writes back and empties the column cache
(R134). -/
def State.bind (s : State) (c part : Nat) : State :=
  let x := s.col c
  if x.bound then s
  else
    let p := s.rget (kCsplan part)
    let b := (bits p 7 0, bits p 7 0 + bits p 15 8, bits p 7 0 + bits p 15 8 + bits p 23 16)
    let s :=
      if b.2.2 = x.bnd.2.2 then s
      else
        (s.col c).lines.foldl (fun s ln => (s.writeBack c ln.1 none false).1) s
    s.modCol c fun x => { x with bnd := b, bound := true, part }

/-! ### The start of a team (R58, R59) -/

/-- Bundles of a team's threads at their program counters: one for each slice and group set with no lane twice (R31). -/
def Team.form (tm : Team) (now : Nat) : Team :=
  let live := (List.range tm.threads.length).filter fun t => !(tm.thread t).exited
  let add (bs : List Bundle) (t : Nat) : List Bundle :=
    let sl := t / 32 % 4
    let fits (b : Bundle) : Bool :=
      b.slice == sl && b.threads.all fun u => u % 32 != t % 32 && (tm.thread u).pc == (tm.thread t).pc
        && (tm.thread u).wait == (tm.thread t).wait
    match bs.findIdx? fits with
    | some i => bs.modify i fun b => { b with threads := b.threads ++ [t] }
    | none => bs ++ [{ threads := [t], slice := sl, stamp := now, active := false }]
  { tm with bundles := live.foldl add [] }

/-- The launch values of v0 to v3 (R58). -/
def startRegs (w : Card) (idx t : Nat) : List (Nat × Word) :=
  let arg := w.arg + idx * w.rsz
  let vals : List Word := if w.persist then [nw t, nw idx] else [nw t, nw idx, nw arg, nw (arg / 2 ^ 32 % 2 ^ 20)]
  vals.zipIdx.foldl (fun l p => sput 0 l p.2 p.1) []

/-- A team at its start (R58, R59): at ENTRY, with launch registers, everything else zero and lease floors at DT. -/
def newTeam (w : Card) (grid idx member age now : Nat) (cluster : List Nat) (backing extent : Nat × Nat) : Team :=
  let th (t : Nat) : Thread := { pc := BitVec.ofNat 52 w.entry, regs := startRegs w idx t, floor := now }
  { grid, index := idx, member, cluster, place := .parked, age, since := now, groups := List.replicate (w.thr / 32) { n := w.n },
    threads := (List.range w.thr).map th, spadLen := 1024 * w.spad, tsl := w.tsl, backing, extent, readyAt := now }

/-- Puts a team on a core (R47, R95 step 5): its bundles take the cycle as stamp and enter the sets of their slices. -/
def Team.onto (tm : Team) (l now cyc clk : Nat) : Team :=
  { tm with place := .core l, engAt := tm.engAt.map fun _ => l, since := now, placedAt := now, resFrom := now, groups := startWaits tm.groups clk,
            bundles := tm.bundles.map fun b => { b with stamp := cyc, active := false } }

/-- Places a new team in a slot: on the coolest core with room, or parked and ready (R95). -/
def State.startTeam (s : State) (k : Nat) (tm : Team) : State :=
  let tm := tm.form s.cyc
  match s.chooseCore (teamCol k) k tm with
  | some l => s.setTeam k (tm.onto l s.dt s.cyc (s.clock (teamCol k)))
  | none => s.setTeam k tm

/-! ### Retirement and completion (R97, R106) -/

/-- Frees a team slot; a column with no team left is unbound (R134). -/
def State.freeTeam (s : State) (k : Nat) : State :=
  let s := { s with teams := sdel s.teams k }
  if (s.teamsOf (teamCol k)).isEmpty then s.modCol (teamCol k) fun x => { x with bound := false } else s

/-- The accesses of a retiring team that memory still owes their effect (R106, R269): its results are discarded. -/
def Team.orphans (tm : Team) (k ctx : Nat) (priv : Bool) (t : Nat) : List Orphan :=
  (tm.accesses.filter fun a => (match a.kind with | .atomic .. | .reduction .. | .store _ => true | _ => false)
      && (a.state == .sent || a.state == .held || a.state == .unreleased)).map fun a =>
    { slot := teamSlot k, grid := tm.grid, index := tm.index, ctx, priv, acc := a
      horizon := a.dests.foldl (fun h d => max h (tm.thread d.thread).horizon) t }

/-- Counts retired handler tasks in EV_DONE, consecutively from the oldest (R414). -/
def State.countDone (s : State) (fn : Nat) : Nat → State
  | 0 => s
  | fuel + 1 =>
    let d := s.rbits (kEv fn 0x10) 31 0
    if s.evRetired.contains (fn, d) then
      State.countDone ({ s with evRetired := s.evRetired.erase (fn, d) }.rset (kEv fn 0x10) (nw (d + 1))) fn fuel
    else s

/-- Whether a grid's last team has retired (R97, R105). -/
def State.gridDone (s : State) (g : Grid) : Bool :=
  !g.complete &&
  match g.pred with
  | none => g.retired == Card.total g.card && g.placed == Card.total g.card
  | some p => g.retired == g.started && (match sfind s.grids p with | some q => q.complete | none => true)

/-- Marks a grid complete when its last team has retired, and after it the grids of its successors. A card without a signal, and a failed
grid, signal nothing (R97, R105, R459). -/
def State.completeGrids (s : State) : Nat → State
  | 0 => s
  | fuel + 1 =>
    match s.grids.find? fun p => s.gridDone p.2 with
    | none => s
    | some (id, g) =>
      let s := { s with grids := sins s.grids id { g with complete := true, signalled := !Card.sv g.card || g.failed } }
      let s :=
        match g.event with
        | some e =>
          let fn := ctxFn g.ctx
          let s := { s with evRetired := (fn, e) :: s.evRetired }
          (s.countDone fn 4096).releaseHeld fn 64
        | none => s
      State.completeGrids s fuel

/-- Whether a directed move is pending at a column (R390). -/
def State.dmPending (s : State) (c : Nat) : Bool := s.rbits (kCol c 8) 30 29 == 1

/-- A directed move ends: DMST 2 done or 3 missed (R71). -/
def State.dmEnd (s : State) (c st : Nat) : State := (s.rsetBits (kCol c 8) 30 29 st).rsetBits (kCol c 8) 31 31 0

/-- A migration of a team that is no longer to move is given up: the team completes its hand-over or exit where it stands (R69), and a directed move is
missed (R71). -/
def State.dropMigration (s : State) (k : Nat) : State :=
  match (s.col (teamCol k)).migration with
  | some m =>
    if m.slot = teamSlot k then
      let s := (s.modCol (teamCol k) fun x => { x with migration := none }).modTeam k fun tm => { tm with migFrom := none, still := false }
      if m.directed then s.dmEnd (teamCol k) 3 else s
    else s
  | none => s

/-- What stands in a side-log entry for a team that has retired: this number, and its key. -/
def noTeam : Nat := 4096

/-- Retires a team (R106): its stream stops and its engine is scrubbed, results are discarded, its dirty lines are written back for the
grid's signal (R97), and the slot is freed. -/
def State.retire (s : State) (k : Nat) (free : Bool) : State :=
  match s.team? k with
  | none => s
  | some tm =>
    let c := teamCol k
    let lines := s.dirtyOf c (teamSlot k)
    let held := lines.filter s.lineHeld
    let (s, t) := (s.dropMigration k).writeBackAll c (some k) lines
    let t := max t (s.pendingMax c)
    let h := tm.accesses.foldl (fun h a => max h a.t) (tm.threads.foldl (fun h th => max h th.horizon) t)
    let p := tm.threads.foldl (fun n th => n + th.peerOut) 0
    let orphans := tm.orphans k (s.teamCtx tm) (s.teamPriv tm) t
    let s := s.modCol c fun x =>
      { x with orphans := x.orphans ++ orphans
               sideLog := x.sideLog.map fun e => if e.team = k then { e with team := noTeam + k } else e }
    let s := s.modGrid tm.grid fun g =>
      { g with retired := g.retired + 1, horizon := max g.horizon h, peerOut := g.peerOut + p,
               owed := held.map (fun l => (l, t)) ++ g.owed, barWait := g.barWait.filter fun q => q.1 != k }
    let s := if free then s.freeTeam k else s
    s.completeGrids s.grids.length

/-! ### The grid barrier (R114, R276) -/

/-- Whether a grid gets no more teams: the scheduler has placed all, or, of a successor grid, its predecessor is complete (R105). -/
def State.gathered (s : State) (x : Grid) : Bool :=
  x.placed == Card.total x.card || match x.pred with | some p => (match sfind s.grids p with | some q => q.complete | none => true) | none => false

/-- Whether every thread of every team of a grid has arrived at the barrier or exited; retired teams count as exited, and so do cluster members that keep
their slots until their hand-over can end (R104, R276). -/
def State.barrierFull (s : State) (g : Nat) (x : Grid) : Bool :=
  s.gathered x && !x.barWait.isEmpty
    && s.teams.all fun p => p.2.grid != g || (match p.2.handover with | some h => h.step == 6 | none => false)
      || (List.range p.2.threads.length).all fun t => (p.2.thread t).exited || x.barWait.contains (p.1, t)

/-- The window in which a generation admits a column: columns are taken in order from the start pointer, eight in a window (R114). -/
def slewWindow (N p c : Nat) : Nat := (c + N - p % N) % N / 8

/-- Releases the threads of a team from the barrier: each goes on with a device-scope acquire (R276). -/
def Team.leaveBarrier (tm : Team) (now : Nat) : Team :=
  { tm with admitting := false, threads := tm.threads.map fun th =>
      if th.wait.kind = .gbar then { th.acquire 2 now with wait := {} } else th }

/-- Whether a thread of a team waits at something. -/
def Team.anyWaits (tm : Team) (k : WaitKind) : Bool := tm.threads.any fun th => th.wait.kind == k

/-- A team that halts leaves the barrier as released: it stands at the instruction after GBAR (R124). -/
def Team.passBarrier (tm : Team) (now cyc : Nat) : Team :=
  let at_ (b : Bundle) : Bool := b.issued && b.threads.any fun t => (tm.thread t).wait.kind == .gbar
  let go := (tm.bundles.zipIdx.filter fun p => at_ p.1).reverse
  go.foldl (fun tm p =>
    match p.1.clause with
    | none => tm
    | some c =>
      match c.slots[p.1.pos + 1]? with
      | some sl =>
        { tm.modThreads (fun th => { th with wait := { kind := .stopped, word := sl.off } }) p.1.threads with
          bundles := tm.bundles.modify p.2 fun b => { b with pos := b.pos + 1, issued := false } }
      | none =>
        let pc := (tm.thread (p.1.threads.headD 0)).pc.toNat
        tm.endClause cyc p.2 ((pc + 4 * (c.hdr.len + 1)) % 2 ^ 52) p.1 (fun _ => none) (c.hdr.yld || p.1.yielded)) (tm.leaveBarrier now)

/-- Completes a generation when the last thread has arrived (R114): executing teams are admitted in their column's window, in ascending
slot order; parked teams become ready at once, and teams that halt for a command are released where they stand (R124). -/
def State.barrier (s : State) (g : Nat) : State :=
  match sfind s.grids g with
  | none => s
  | some x =>
    if s.barrierFull g x then
      let N := s.ncol
      let start := max s.cyc s.slewFree
      let windows := (N + 7) / 8
      let mine := s.teams.filter fun q => q.2.grid = g
      let waiting := mine.filter fun q => q.2.layer?.isSome && q.2.anyWaits .gbar
      let admits := waiting.map fun q =>
        let c := teamCol q.1
        let rank := (waiting.filter fun r => teamCol r.1 = c && decide (r.1 < q.1)).length
        (start + 32 * slewWindow N s.slewPtr c + rank, q.1)
      let s := { s with
        admits := s.admits ++ admits
        slewPtr := (s.slewPtr + 8) % N
        slewFree := start + 32 * windows
        teams := s.teams.map fun ((k, tm) : Nat × Team) =>
          (k, if tm.grid != g then tm
              else if tm.layer?.isSome && tm.halting && x.halted then tm.passBarrier s.dt s.cyc
              else if tm.layer?.isSome then { tm with admitting := tm.anyWaits .gbar }
              else { tm.leaveBarrier s.dt with readyAt := s.dt }) }
      s.modGrid g fun x => { x with barGen := x.barGen + 1, barWait := [] }
    else s

/-! ### The RETS hand-over (R101 to R105, R431) -/

/-- Whether a hand-over begins: every non-exited thread waits in RETS, and at least one does (R101). -/
def Team.allRets (tm : Team) : Bool :=
  (tm.threads.any fun th => !th.exited && th.wait.kind == .rets) && tm.threads.all fun th => th.exited || th.wait.kind == .rets

/-- The lowest-numbered thread that executed RETS. -/
def Team.retsThread (tm : Team) : Nat := ((List.range tm.threads.length).find? fun t => (tm.thread t).wait.kind == .rets).getD 0

/-- The lowest register count a successor needs to cover the highest inherited block (R103). -/
def maskRegs (mask : Nat) : Nat := (List.range 8).foldl (fun n b => if mask.testBit b then 16 * (b + 1) else n) 0

/-- Whether a member of a team's cluster has exited instead of executing RETS (R104): its slot holds neither it, unfinished, nor a successor from its grid. -/
def State.memberGone (s : State) (tm : Team) (m i : Nat) : Bool :=
  match s.team? m with
  | none => true
  | some o =>
    if o.grid = tm.grid ∧ o.index + tm.member = tm.index + i then o.threads.all fun th => th.exited
    else match sfind s.grids o.grid with | some g => g.pred != some tm.grid | none => true

/-- The shape checks of R103 step 2, by the INFO codes of R431. -/
def State.shapeFault (s : State) (k : Nat) (tm : Team) (mask : Nat) (w : Card) : Option Nat :=
  let irg := mask % 256
  let old : Card := s.teamCard tm
  let same := w.crows == old.crows && w.ccols == old.ccols
  let conds : List Bool :=
    [irg != 0 && w.thr != tm.threads.length,
     decide (w.n < maskRegs irg),
     mask.testBit 8 && decide (1024 * w.spad < tm.spadLen),
     mask.testBit 9 && decide (w.tsl < tm.tsl),
     !w.persist && decide (w.rcnt ≤ tm.index),
     !(w.csize == 1 || same),
     decide (1 < w.csize) && tm.cluster.zipIdx.any fun m => m.1 != k && s.memberGone tm m.1 m.2]
  (conds.findIdx? fun b => b).map (· + 1)

/-- The members of a team's cluster, itself included, that have begun their hand-over to a card. -/
def State.begun (s : State) (k : Nat) (tm : Team) (card : Nat) : List Nat :=
  k :: tm.cluster.filter fun m => m != k && (match s.team? m with
    | some o => o.grid == tm.grid && (match o.handover with | some q => q.card == card | none => false) | none => false)

/-- A hand-over fails with a freeze: every cluster member that has begun its hand-over to the same card is frozen, its own not to be tried again (R103,
R431). -/
def State.handoverFreeze (s : State) (k : Nat) (tm : Team) (card code : Nat) : State :=
  (s.begun k tm card).foldl (fun s m =>
    ((s.modTeam m fun o => { o with handover := o.handover.map fun q => { q with failed := true, step := 2 } }).freezeTeam m code).settle m) s

/-- The record of a failed hand-over, with PC and WORD of the RETS (R431). -/
def handoverRec (k : Nat) (tm : Team) (h : Handover) (code src info addr : Nat) : Rec :=
  teamRec k tm { code, src, thread := h.thread, pc := (tm.thread h.thread).pc.toNat, word := (tm.thread h.thread).wait.word, addr, info }

/-- A hand-over check fails (R431): a record, and the team is frozen in its RETS wait. -/
def State.handoverFault (s : State) (k : Nat) (tm : Team) (h : Handover) (code info addr : Nat) : State :=
  (s.report (s.teamCtx tm) (handoverRec k tm h code (if code = 0x3001 then 8 else 0) info addr)).handoverFreeze k tm h.card code

/-- A team whose last thread has exited makes the checks of the other members of its cluster fail that have begun a hand-over to a card for the cluster
(R104, R431). -/
def State.memberExited (s : State) (k : Nat) (tm : Team) : State :=
  let fails := (tm.cluster.filter (· != k)).filterMap fun m => (s.team? m).bind fun o => o.handover.bind fun h =>
    if o.grid = tm.grid ∧ 2 ≤ h.step ∧ h.failed = false ∧ 1 < Card.csize h.words then some (m, o, h) else none
  fails.foldl (fun s f => s.handoverFault f.1 f.2.1 f.2.2 0x002B 7 0) s

/-- Steps 1 and 2 of a hand-over (R103): the card is read as an engine read of the team and checked; a repairable fault holds the hand-over
at step 1. -/
def State.handoverRead (s : State) (k : Nat) : State :=
  match s.team? k with
  | none => s
  | some tm =>
    match tm.handover with
    | none => s
    | some h =>
      if h.step ≠ 1 ∨ h.failed = true then s
      else
        let ck := s.teamCtx tm
        match s.virtRead ck kEngR (s.teamPriv tm) h.card 128 with
        | (s, .error (code, info, va)) =>
          let r := handoverRec k tm h code 0 info va
          if code = 0 then s
          else if freezeFate code then (s.report ck r).handoverFreeze k tm h.card code
          else s.reportOnce ck none kEngR r
        | (s, .ok bs) =>
          let w := bytesWords bs
          let s := s.modTeam k fun tm => { tm with handover := some { h with words := w, step := 2 } }
          if Card.sok w = false then s.handoverFault k tm h 0x002A 1 0
          else if h.mask &&& Card.allow w ≠ h.mask then s.handoverFault k tm h 0x002A 2 0
          else
            match s.cardCheck ck w false true with
            | some i => s.handoverFault k tm h 0x3001 i h.card
            | none =>
              match s.shapeFault k tm h.mask w with
              | some i => s.handoverFault k tm h 0x002B i 0
              | none => s.modTeam k fun tm => { tm with handover := some { h with words := w, step := 3 } }

/-- Begins the hand-over of a team all of whose threads have executed RETS or exited (R101). -/
def State.beginHandover (s : State) (k : Nat) : State :=
  match s.team? k with
  | none => s
  | some tm =>
    if tm.allRets && tm.handover.isNone && tm.frozen.isNone && tm.freezing.isNone then
      let t := tm.retsThread
      let w := (tm.thread t).wait
      (s.modTeam k fun tm => { tm with handover := some { card := w.until_, mask := w.token, thread := t, step := 1, words := [] } }).handoverRead k
    else s

/-- Whether a team has requests that its retirement waits for (R106 step 5): those of column copy engines, the tile controller and the work
distributor. -/
def State.busy (s : State) (k : Nat) (tm : Team) : Bool :=
  s.reqs.any fun r => r.team == k && r.age == tm.age && r.kind != .coll && r.kind != .plmv

/-- The engine a team releases is scrubbed and released, its backing is freed, and a baton is kept for the team slot named (R359). DESIGN CHOICE: where the team
has moved to another core since its MXREL, the engine that is kept is that of its present core; of a team that has been parked none is kept. The spec is
silent on both. -/
def State.releaseEngine (s : State) (k : Nat) : State :=
  match s.team? k with
  | none => s
  | some tm =>
    match tm.engine.bind fun e => e.releasing, tm.place with
    | none, _ => s
    | _, .moving _ _ => s
    | some v, _ =>
      let c := teamCol k
      let s := s.setTeam k { tm with engine := none, engBacking := none }
      match tm.layer? with
      | some l =>
        if v / 2 ^ 5 % 2 = 1 then s.modCol c fun x => { x with batons := (l, v % 32, s.clock c + 4096) :: x.batons.filter fun b => b.1 != l } else s
      | none => s

/-- The matrix stream of a team whose last thread has exited stops after the M-word in progress (R106, R369). -/
def Team.stopStream (tm : Team) : Team :=
  if tm.stream.run then
    { tm.unplace with stream := { tm.unplace.stream with run := false, wt := false, abt := true, token := none, watch := none, held := false, ir := none } }
  else tm

/-- After threads of a team have exited or executed RETS: the team retires once its copies have ended, its engine free at once, or its hand-over begins, and
a barrier or collective that counts exited threads is looked at again (R101, R106, R276). -/
def State.afterExit (s : State) (k : Nat) : State :=
  match s.team? k with
  | none => s
  | some tm =>
    if tm.threads.all fun th => th.exited then
      let s := (s.memberExited k tm).modTeam k Team.stopStream
      let s := (s.releaseEngine k).modTeam k fun tm => { tm with engine := none, engBacking := none }
      let s := if tm.handover.isSome || s.busy k tm then s else s.retire k true
      s.barrier tm.grid
    else (s.beginHandover k).barrier tm.grid

/-- A team whose hand-over is abandoned retires as though every waiting thread had executed EXIT (R431). -/
def State.retireAbandoned (s : State) (k : Nat) : State :=
  match s.team? k with
  | none => s
  | some tm => (((s.modTeam k fun tm => { tm with threads := tm.threads.map fun th => { th with exited := true, wait := {} }, handover := none, bundles := [] }).afterExit k)).barrier tm.grid

/-- The registers a successor's thread starts with: inherited blocks keep the predecessor's values within its group's n, and the others take
the launch values (R58, R104). -/
def inheritRegs (mask n : Nat) (old new : List (Nat × Word)) : List (Nat × Word) :=
  let keep (r : Nat) : Bool := mask.testBit (r / 16) && decide (r / 16 < 8)
  let a := (old.filter fun p => keep p.1 && decide (p.1 < n)).foldl (fun l p => sput 0 l p.1 p.2) []
  (new.filter fun p => !keep p.1).foldl (fun l p => sput 0 l p.1 p.2) a

/-- The successor of a team (R102, R104), before it is started. -/
def Team.successorOf (tm : Team) (w : Card) (mask grid age now : Nat) : Team :=
  let fresh := newTeam w grid tm.index (tm.index % max 1 w.csize) age now (if w.csize = 1 then [] else tm.cluster) tm.backing tm.extent
  let th (t : Nat) : Thread :=
    let o := tm.thread t
    let f := fresh.thread t
    if mask % 256 = 0 then f else { f with regs := inheritRegs mask (tm.n t) o.regs f.regs, poison := o.poison.filter fun r => mask.testBit (r / 16) }
  let eng : Option Engine :=
    if mask.testBit 10 then tm.engine.map fun e => { accs := e.accs } else none
  { fresh with
    threads := (List.range w.thr).map th
    spad := if mask.testBit 8 then tm.spad else []
    spadPoison := if mask.testBit 8 then tm.spadPoison else []
    tiles := if mask.testBit 9 then tm.tiles.map fun p => (p.1, { p.2 with queue := [] }) else []
    rz := if mask.testBit 11 then tm.rz.map fun p => (p.1, { e := p.2.e }) else []
    engine := eng
    engBacking := if eng.isSome then tm.engBacking else none
    successor := true, fresh := true }

/-! ### Parked teams (R48) -/

/-- Whether a wait of a team may end: it has not halted for a migration, which it makes with the waits it has (R72). -/
def Team.waitsEnd (tm : Team) : Bool := !tm.still && (match tm.place with | .moving (_ + 1) (_ + 1) => false | _ => true)

/-- Whether a team halts for a command, so that its bundles have issue priority (R117). -/
def State.rushed (s : State) (tm : Team) : Bool :=
  tm.halting && match sfind s.grids tm.grid with | some g => g.halted | none => false

/-- Whether a team on a core goes to the register backing once it has halted: chosen for parking, halted for a command, or frozen (R48, R117, R417). -/
def State.toPark (s : State) (tm : Team) : Bool := tm.parking || s.rushed tm || tm.frozen.isSome

/-- Whether it has halted so far that it may go: for a parking, no bundle is stalled at the scoreboard (R47, R117). -/
def State.mayPark (s : State) (tm : Team) : Bool :=
  if s.rushed tm || tm.frozen.isSome || tm.freezing.isSome then tm.allHalted else tm.allAtRest

/-- Whether a thread may keep a team ready (R48): it has not exited and waits at none of the conditions listed there. -/
def Thread.readyWait (th : Thread) : Bool :=
  !th.exited && !([.rendezvous, .collective, .vgrow, .gbar, .sleep, .rets] : List WaitKind).contains th.wait.kind
    && (th.wait.kind != .memHeld || th.wait.started)

/-- Whether a memory fault holds an access of a thread (R436). -/
def Team.heldAt (tm : Team) (t : Nat) : Bool := tm.accesses.any fun a => a.state == .held && a.of t

/-- Whether a team has a thread that is ready in the sense of R48: a load held by a memory fault stops its thread at its next clause header (R436). -/
def Team.anyReady (tm : Team) : Bool :=
  (List.range tm.threads.length).any fun t =>
    let th := tm.thread t
    (th.readyWait || (!th.exited && th.wait.kind == .rendezvous && (tm.point th.wait.point).p != th.wait.token))
      && !(tm.heldAt t && tm.bundles.any fun b => b.threads.contains t && b.clause.isNone)

/-- Whether a parked team is ready for placement: not frozen, halted or unstarted, with a thread that is ready (R48, R117, R417). -/
def State.teamReady (s : State) (tm : Team) : Bool :=
  tm.frozen.isNone && tm.freezing.isNone && !tm.halted && !tm.halting && !tm.successor
    && tm.anyReady
    && (match sfind s.grids tm.grid with | some g => !g.halted | none => true)

/-! ### Intakes (R88, R89, R92, R413) -/

/-- The state of a context (R116): 0 running, 1 halted in place, 2 saved. -/
def State.cstate (s : State) (ck : Nat) : Nat := s.rbits (kPre ck 4) 29 28

/-- Whether a queue is halted (R116). -/
def State.qhalt (s : State) (ck q : Nat) : Bool :=
  if q < 32 then (s.rget (kPre ck 0x14)).getLsbD q else (s.rget (kPre ck 0x18)).getLsbD (q - 32)

/-- The cards in an intake. -/
def Ctx.intake (x : Ctx) (q : Nat) : List CardIn := sget [] x.intakes q
def State.setIntake (s : State) (ck q : Nat) (l : List CardIn) : State :=
  s.modCtx ck fun x => { x with intakes := sins x.intakes q l }

/-- Whether a queue takes no card from LAUNCH (R92). -/
def State.launchRefused (s : State) (ck q : Nat) : Bool :=
  decide (16 ≤ ((s.ctx ck).intake q).length) || s.qhalt ck q || s.cstate ck != 0
    || (match (s.ctx ck).cmd with | some c => c.op == 2 || c.op == 3 | none => false)

/-- A card enters an intake, or is rejected with its one record (R88, R413). -/
def State.intakePush (s : State) (ck q : Nat) (ci : CardIn) : State :=
  match s.cardCheck ck ci.words ci.launch false with
  | some i => s.report ck { code := 0x3001, src := 8, team := q, addr := ci.addr, info := i }
  | none => s.setIntake ck q ((s.ctx ck).intake q ++ [ci])

end Sys2Proof.Machine
end

