-- ==== Sys2Proof/Machine/Control.lean ====
section
/-! DEFINITION. Control, synchronisation and system instructions (R265 to R283): branches, ending and launching, rendezvous points, the grid
barrier, register allocation, special values, traps, events and freezing. Device register access is in Registers.lean. -/

namespace Sys2Proof.Machine

/-! ### Shared pieces -/

/-- The address in a pair (R268). -/
def Thread.addr (th : Thread) (r : RegNo) : Nat := addr52 (th.get r.toNat) (th.get (r.toNat + 1))
/-- Whether bits <31:20> of an address pair's odd register are set (R149, R268). -/
def Thread.addrBad (th : Thread) (r : RegNo) : Bool := bits (th.get (r.toNat + 1)) 31 20 != 0

/-- The thread on the lowest passing lane. -/
def Iss.lead (x : Iss) (ts : List Nat) : Thread := x.tm.thread (lowLane ts)

/-- Writes one value to a destination of every listed thread. -/
def State.putAll (s : State) (k : Nat) (ts : List Nat) (d cnt v : Nat) : State :=
  s.modTeam k fun tm => ts.foldl (fun tm t => tm.putRegs t d v cnt) tm

/-- The clause ends; the passing threads for which `tgt` names a target go there (R234, R267). -/
def State.branch (s : State) (x : Iss) (ts : List Nat) (tgt : Nat → Option VAddr) : State :=
  s.endClause x fun t => if ts.contains t then tgt t else none

/-- H + 4 × disp16 (R267). -/
def Iss.target (x : Iss) (disp : BitVec 16) : VAddr := BitVec.ofNat 52 x.pc + disp.signExtend 52 * 4#52

/-- The condition of BRC and BRL: the register is not zero, or zero with `.z` (R267). -/
def brTaken (m : Mods) (v : Word) : Bool := (v == 0) == m.xm.getLsbD 0

/-- CODE 0x0023: a target register pair that is no legal clause header address (R426). -/
def jumpBad (a : RegNo) (x : Iss) (t : Nat) : List (Bool × Nat × Nat) :=
  let th := x.tm.thread t
  [(th.addrBad a || th.addr a % 4 != 0, 0x0023, (th.get a.toNat).toNat)]

/-! ### Branches, calls and returns (R267) -/

/-- BRA (R267). -/
def execBra (m : Mods) (disp : BitVec 16) (s : State) : Host.Outcome State Fault Refusal :=
  runWord s (.bra m disp) nOf noExtra fun x ts => s.branch x ts fun _ => some (x.target disp)

/-- BRC (R267): the condition is evaluated once, from the lowest passing lane. -/
def execBrc (m : Mods) (a : RegNo) (disp : BitVec 16) (s : State) : Host.Outcome State Fault Refusal :=
  runWord s (.brc m a disp) nOf noExtra fun x ts =>
    s.branch x ts fun _ => if brTaken m ((x.lead ts).get a.toNat) then some (x.target disp) else none

/-- BRL (R267): each thread on its own condition. -/
def execBrl (m : Mods) (a : RegNo) (disp : BitVec 16) (s : State) : Host.Outcome State Fault Refusal :=
  runWord s (.brl m a disp) nOf noExtra fun x ts =>
    s.branch x ts fun t => if brTaken m ((x.tm.thread t).get a.toNat) then some (x.target disp) else none

/-- JMP (R267). -/
def execJmp (m : Mods) (a : RegNo) (s : State) : Host.Outcome State Fault Refusal :=
  runWord s (.jmp m a) nOf (jumpBad a) fun x ts => s.branch x ts fun t => some (BitVec.ofNat 52 ((x.tm.thread t).addr a))

/-- RET (R267). -/
def execRet (m : Mods) (a : RegNo) (s : State) : Host.Outcome State Fault Refusal :=
  runWord s (.ret m a) nOf (jumpBad a) fun x ts => s.branch x ts fun t => some (BitVec.ofNat 52 ((x.tm.thread t).addr a))

/-- CALL, direct (R267): the link pair receives Next. -/
def execCallDirect (m : Mods) (a : RegNo) (disp : BitVec 16) (s : State) : Host.Outcome State Fault Refusal :=
  runWord s (.callDirect m a disp) nOf noExtra fun x ts =>
    (s.putAll x.k ts a.toNat 2 x.next).branch x ts fun _ => some (x.target disp)

/-- CALL through a register (R267): the pair is read before it is written. -/
def execCallRegister (m : Mods) (a : RegNo) (s : State) : Host.Outcome State Fault Refusal :=
  runWord s (.callRegister m a) nOf (jumpBad a) fun x ts =>
    (s.putAll x.k ts a.toNat 2 x.next).branch x ts fun t => some (BitVec.ofNat 52 ((x.tm.thread t).addr a))

/-! ### Ending, handing on and launching (R269 to R273) -/

/-- EXIT (R269): the thread stops issuing for good. -/
def execExit (m : Mods) (s : State) : Host.Outcome State Fault Refusal :=
  runWord s (.exit m) nOf noExtra fun x ts =>
    ((s.modThreads x.k ts fun th => { th with exited := true }).endClause x fun _ => none).afterExit x.k

/-- RETS (R270, R426): the thread waits for the hand-over, standing at the header of its clause. -/
def execRets (m : Mods) (a b : RegNo) (s : State) : Host.Outcome State Fault Refusal :=
  runWord s (.rets m a b) nOf
    (fun x t =>
      let th := x.tm.thread t
      let v := (th.get b.toNat).toNat
      [(th.addrBad a || th.addr a % 128 != 0 || v / 2 ^ 12 != 0, 0x0029, v)])
    fun x ts =>
      let l := x.lead ts
      let w : Wait := { kind := .rets, word := x.off, token := (l.get b.toNat).toNat, until_ := l.addr a }
      ((s.modThreads x.k ts fun th => { th with wait := w }).branch x ts fun t => some (x.tm.thread t).pc).afterExit x.k

/-- A repairable memory fault of a word holds it: its threads wait at it, recorded as WAIT 8, and it issues again from its start (R271).
A fault of freeze fate freezes the team as an issue fault does (R435). CODE 0 waits without a record. -/
def State.wordFault (s : State) (x : Iss) (ts : List Nat) (kind code info va : Nat) : State :=
  let hold (s : State) : State := s.waitAt x ts (fun _ => { kind := .memHeld, word := x.off, token := va, started := code == 0 }) false
  if code = 0 then hold s
  else if freezeFate code then s.takeTrap x (lowLane ts) code info va
  else
    let r := teamRec x.k x.tm { code, src := 0, thread := lowLane ts, pc := x.pc, word := x.off, addr := va, info }
    hold (s.reportOnce (s.teamCtx x.tm) none kind r)

/-- LAUNCH (R92, R271): after a device-scope release, the card is copied into the intake and 1 returned, or 0 when the queue takes none. -/
def execLaunch (m : Mods) (d a b : RegNo) (s : State) : Host.Outcome State Fault Refusal :=
  runWord s (.launch m d a b) nOf
    (fun x t =>
      let th := x.tm.thread t
      let v := (th.get b.toNat).toNat
      [(th.addrBad a || th.addr a % 128 != 0 || v / 2 ^ 6 != 0, 0x0028, v)])
    fun x ts =>
      if ts = [] then s.advance x
      else
        s.afterRelease x ts 2 fun s =>
          let l := x.lead ts
          let ck := s.teamCtx x.tm
          let q := (l.get b.toNat).toNat
          if s.launchRefused ck q then (s.putAll x.k ts d.toNat 1 0).advance x
          else
            match s.colRead (teamCol x.k) ck kLoad (s.teamPriv x.tm) (l.addr a) 128 with
            | (s, .error (code, info, va)) => s.wordFault x ts kLoad code info va
            | (s, .ok bs) =>
              let s := s.intakePush ck q { words := bytesWords bs, addr := l.addr a, launch := true }
              (s.putAll x.k ts d.toNat 1 1).advance x

/-- NOP (R272). -/
def execNop (m : Mods) (s : State) : Host.Outcome State Fault Refusal :=
  runWord s (.nop m) nOf noExtra fun x _ => s.advance x

/-- YIELD (R237, R272): the clause acts as though its header had YLD = 1. -/
def execYield (m : Mods) (s : State) : Host.Outcome State Fault Refusal :=
  runWord s (.yield m) nOf noExtra fun x ts =>
    if ts = [] then s.advance x
    else (s.modBundle x.k x.idx fun b => { b with yielded := true }).advance { x with b := { x.b with yielded := true } }

/-- SLEEP (R273): the thread waits until DT has advanced by the count. -/
def execSleep (m : Mods) (a : RegNo) (s : State) : Host.Outcome State Fault Refusal :=
  runWord s (.sleep m a) nOf noExtra fun x ts =>
    let c := ((x.lead ts).get a.toNat).toNat
    if ts = [] ∨ c = 0 then s.advance x
    else s.waitAt x ts (fun _ => { kind := .sleep, word := x.off, until_ := s.dt + c }) true

/-! ### Rendezvous points (R50 to R53, R274, R275) -/

/-- One arrival at a point, through RZCARV or not (R51, R53, R275): the point, and the token returned. -/
def RzPoint.arrive (z : RzPoint) (cluster : Bool) : RzPoint × Nat :=
  let tok := z.p
  let c := z.cluster || cluster
  if z.a + 1 = z.e then
    ({ z with a := 0, p := (z.p + 1) % 2 ^ 16, cluster := false, marks := (if c then [z.p] else []) ++ z.marks.filter fun q => q != z.p }, tok)
  else ({ z with a := z.a + 1, cluster := c }, tok)

def Team.setPoint (tm : Team) (z : Nat) (p : RzPoint) : Team := { tm with rz := sins tm.rz z p }

/-- Arrivals of threads at a point of their own team, in ascending lane order: the team, and each thread's token. -/
def Team.arriveAll (tm : Team) (z : Nat) : List Nat → Team × List (Nat × Nat)
  | [] => (tm, [])
  | t :: rest =>
    let (p, tok) := (tm.point z).arrive false
    let (tm, toks) := Team.arriveAll (tm.setPoint z p) z rest
    (tm, (t, tok) :: toks)

/-- `n` arrivals of RZCARV at a member's point. -/
def Team.arriveN (tm : Team) (z : Nat) : Nat → Team
  | 0 => tm
  | n + 1 => Team.arriveN (tm.setPoint z ((tm.point z).arrive true).1) z n

/-- CODE 0x0025: a point that is not initialised (R426). -/
def pointBad (pt : BitVec 5) (x : Iss) (_ : Nat) : List (Bool × Nat × Nat) := [((x.tm.point pt.toNat).e == 0, 0x0025, pt.toNat)]

/-- The same of an arrival: it reaches the rendezvous unit, and is judged there, once its thread's release is complete (R275). -/
def State.arrivalBad (s : State) (m : Mods) (pt : BitVec 5) (x : Iss) (t : Nat) : List (Bool × Nat × Nat) :=
  if s.releaseReady x (x.passing m) 0 then pointBad pt x t else []

/-- Threads wait at a rendezvous point; the bundle goes on at once when none needs to. -/
def State.rzWait (s : State) (x : Iss) (z : Nat) (toks : List (Nat × Nat)) : State :=
  let s := s.modTeam x.k fun tm =>
    toks.foldl (fun tm p => tm.modThread p.1 fun th =>
      { th with wait := { kind := .rendezvous, word := x.off, token := p.2, point := z } }) tm
  let s := s.modBundle x.k x.idx fun b => { b with issued := true }
  (s.resumeWord x).settle x.k

/-- RZINIT (R275, R426). -/
def execRzinit (m : Mods) (a : RegNo) (pt : BitVec 5) (s : State) : Host.Outcome State Fault Refusal :=
  runWord s (.rzinit m a pt) nOf
    (fun x t =>
      let v := ((x.tm.thread t).get a.toNat).toNat
      [((x.tm.point pt.toNat).e != 0 || v == 0 || v / 2 ^ 16 != 0, 0x0024, pt.toNat)])
    fun x ts =>
      if ts = [] then s.advance x
      else
        (s.modTeam x.k fun tm =>
          tm.setPoint pt.toNat { tm.point pt.toNat with e := ((x.lead ts).get a.toNat).toNat }).advance x

/-- RZARV (R275): each passing thread arrives, after its team-scope release, and receives its token. -/
def execRzarv (m : Mods) (d : RegNo) (pt : BitVec 5) (s : State) : Host.Outcome State Fault Refusal :=
  runWord s (.rzarv m d pt) nOf (s.arrivalBad m pt) fun x ts =>
    if ts = [] then s.advance x
    else
      s.afterRelease x ts 0 fun s =>
        (s.modTeam x.k fun tm =>
          let (tm, toks) := tm.arriveAll pt.toNat (byLane ts)
          toks.foldl (fun tm p => tm.putRegs p.1 d.toNat p.2 1) tm).advance x

/-- RZWAIT (R275): the passing threads wait until the point has left the phase of the token of the lowest passing lane. -/
def execRzwait (m : Mods) (a : RegNo) (pt : BitVec 5) (s : State) : Host.Outcome State Fault Refusal :=
  runWord s (.rzwait m a pt) nOf (pointBad pt) fun x ts =>
    let tok := ((x.lead ts).get a.toNat).toNat % 2 ^ 16
    s.rzWait x pt.toNat (ts.map fun t => (t, tok))

/-- RZARW (R275): each passing thread arrives and then waits until the point has left its own phase. -/
def execRzarw (m : Mods) (d : RegNo) (pt : BitVec 5) (s : State) : Host.Outcome State Fault Refusal :=
  runWord s (.rzarw m d pt) nOf (s.arrivalBad m pt) fun x ts =>
    if ts = [] then s.advance x
    else
      s.afterRelease x ts 0 fun s =>
        match s.team? x.k with
        | none => s
        | some tm =>
          let (tm, toks) := tm.arriveAll pt.toNat (byLane ts)
          (s.setTeam x.k (toks.foldl (fun tm p => tm.putRegs p.1 d.toNat p.2 1) tm)).rzWait x pt.toNat toks

/-- The team key of the cluster member an RZCARV names; none at or beyond the cluster size (R56). -/
def Team.memberKey (tm : Team) (k i : Nat) : Option Nat :=
  if tm.cluster = [] then (if i = 0 then some k else none) else tm.cluster[i]?

/-- The team key of a cluster member that still holds its slot (R55, R56). -/
def State.member? (s : State) (tm : Team) (k i : Nat) : Option Nat :=
  match tm.memberKey k i with
  | none => none
  | some j =>
    if j = k then some j
    else match s.team? j with
      | some o => if o.cluster = tm.cluster ∧ o.member = i then some j else none
      | none => none

/-- RZCARV (R275, R426): each passing thread arrives at a point of a cluster member, after its cluster-scope release. -/
def execRzcarv (m : Mods) (a : RegNo) (pt : BitVec 5) (s : State) : Host.Outcome State Fault Refusal :=
  let z := pt.toNat
  runWord s (.rzcarv m a pt) nOf
    (fun x t =>
      let v := ((x.tm.thread t).get a.toNat).toNat
      if !s.releaseReady x (x.passing m) 1 then [] else
      match x.tm.memberKey x.k v with
      | none => [(true, 0x0026, v)]
      | some _ =>
        let e := match s.member? x.tm x.k v with | some k => (match s.team? k with | some o => (o.point z).e | none => 0) | none => 0
        [(decide (16 ≤ v), 0x0026, v), (e == 0, 0x0025, z + 256 * v)])
    fun x ts =>
      if ts = [] then s.advance x
      else
        s.afterRelease x ts 1 fun s =>
          match s.member? x.tm x.k ((x.lead ts).get a.toNat).toNat with
          | some k => (s.modTeam k fun o => o.arriveN z ts.length).advance x
          | none => s.advance x

/-- RZTEST (R275): the phase and whether it differs from the token; a result with bit 0 set is an acquire. -/
def execRztest (m : Mods) (d a : RegNo) (pt : BitVec 5) (s : State) : Host.Outcome State Fault Refusal :=
  runWord s (.rztest m d a pt) nOf (pointBad pt) fun x ts =>
    let z := x.tm.point pt.toNat
    let done := z.p != ((x.lead ts).get a.toNat).toNat % 2 ^ 16
    let s := s.putAll x.k ts d.toNat 1 (z.p * 2 ^ 16 + (if done then 1 else 0))
    let s := if done then s.modThreads x.k ts fun th => th.acquire (if z.marks.contains (((x.lead ts).get a.toNat).toNat % 2 ^ 16) then 1 else 0) s.dt else s
    s.advance x

/-! ### The grid barrier (R276) -/

/-- Whether a team's grid is cooperative. -/
def State.isCoop (s : State) (tm : Team) : Bool := Card.coop (s.teamCard tm)

/-- GBAR (R276, R426): after a device-scope release each passing thread arrives at its grid's barrier and waits. -/
def execGbar (m : Mods) (s : State) : Host.Outcome State Fault Refusal :=
  runWord s (.gbar m) nOf (fun x _ => [(!s.isCoop x.tm, 0x0027, 0)]) fun x ts =>
    if ts = [] then s.advance x
    else
      s.afterRelease x ts 2 fun s =>
        let s := s.modGrid x.tm.grid fun g => { g with barWait := g.barWait ++ ts.map fun t => (x.k, t) }
        (s.waitAt x ts (fun _ => { kind := .gbar, word := x.off }) true).barrier x.tm.grid

/-! ### Register allocation (R42, R277, R278) -/

/-- A thread joins its group's pending request, or is met at once when the request does not exceed n (R42). `d` is its destination. -/
def Team.grow (tm : Team) (clk off d m t : Nat) : Team :=
  let g := tm.groups.getD (t / 32) { n := 0 }
  let size := max m (g.req.getD 0)
  if size ≤ g.n then tm.putRegs t d g.n 1
  else
    let g' := if g.req.isSome then { g with req := some size } else { g with req := some size, waited := 0, mark := some clk }
    { tm with groups := tm.groups.set (t / 32) g' }.modThread t fun th => { th with wait := { kind := .vgrow, word := off, point := d, token := m } }

/-- VGROW (R42, R277). -/
def execVgrow (m : Mods) (d : RegNo) (cnt : BitVec 9) (s : State) : Host.Outcome State Fault Refusal :=
  runWord s (.vgrow m d cnt) nOf noExtra fun x ts =>
    let s := s.modTeam x.k fun tm => ts.foldl (fun tm t => tm.grow (s.clock (teamCol x.k)) x.off d.toNat cnt.toNat t) tm
    let s := s.modBundle x.k x.idx fun b => { b with issued := true }
    (s.resumeWord x).settle x.k

/-- A result for a register at or above `n` is dropped (R278). -/
def Dest.trim (d : Dest) (n : Nat) : Dest := { d with cnt := min d.cnt (n - d.reg) }

/-- A group's register count falls to `n` (R42, R278): registers at and above it are discarded. -/
def Team.shrink (tm : Team) (g n : Nat) : Team :=
  { tm with
    groups := tm.groups.modify g fun x => { x with n }
    threads := tm.threads.zipIdx.map fun p =>
      if p.2 / 32 = g then { p.1 with regs := p.1.regs.filter fun q => decide (q.1 < n), poison := p.1.poison.filter fun r => decide (r < n) }
      else p.1
    accesses := tm.accesses.map fun a => { a with dests := a.dests.map fun d => if d.thread / 32 = g then d.trim n else d } }

/-- The groups of some threads, each once. -/
def groupsOf (ts : List Nat) : List Nat := (ts.map (· / 32)).eraseDups

/-- VSHRK (R278): the destination is judged against the new n, and a guard register against the old one. -/
def execVshrk (m : Mods) (d : RegNo) (cnt : BitVec 9) (s : State) : Host.Outcome State Fault Refusal :=
  runWord s (.vshrk m d cnt) (fun x t => min (x.tm.n t) cnt.toNat) noExtra fun x ts =>
    let s := s.modTeam x.k fun tm => (groupsOf ts).foldl (fun tm g => tm.shrink g (min (tm.n (32 * g)) cnt.toNat)) tm
    (s.modTeam x.k fun tm => ts.foldl (fun tm t => tm.putRegs t d.toNat (tm.n t) 1) tm).advance x

/-! ### Special values (R279) -/

/-- The value of a special-value selector for a thread (R279). -/
def State.special (s : State) (k : Nat) (tm : Team) (t sel : Nat) : Nat :=
  let th := tm.thread t
  let card := s.teamCard tm
  let col := s.col (teamCol k)
  let ctrs := tm.resided s.dt
  match sel with
  | 0 => th.status.toNat
  | 1 => s.dt
  | 2 => t
  | 3 => tm.index
  | 4 => tm.n t
  | 5 => tm.threads.length
  | 6 => teamCol k + 2 ^ 8 * teamSlot k + 2 ^ 16 * tm.member + 2 ^ 20 * Card.crows card + 2 ^ 24 * Card.ccols card
  | 7 => Card.arg card
  | 8 => Card.rsz card
  | 9 => Card.rcnt card
  | 10 => s.cfgw.toNat
  | 11 => col.bnd.1 + 2 ^ 8 * col.bnd.2.1 + 2 ^ 16 * col.bnd.2.2 + 2 ^ 24 * col.part + (if col.bound then 2 ^ 27 else 0)
  | 12 => s.ctxId (s.teamCtx tm) + 2 ^ 12 * s.ctxPart (s.teamCtx tm) + (if s.teamPriv tm then 2 ^ 15 else 0)
  | 13 => th.horizon
  | 14 => th.floor
  | 15 => th.flags.toNat
  | 16 => ctrs.migCount
  | 17 => ctrs.migCycles
  | 18 => ctrs.res1
  | 19 => ctrs.res2
  | 20 => ctrs.res3
  | 21 => ctrs.res4
  | _ => ctrs.stakeBytes

/-- SRD (R279). -/
def execSrd (m : Mods) (d : RegNo) (sel : BitVec 9) (s : State) : Host.Outcome State Fault Refusal :=
  runWord s (.srd m d sel) nOf noExtra fun x ts =>
    let cnt := if srdWide sel.toNat then 2 else 1
    (s.modTeam x.k fun tm => ts.foldl (fun tm t => tm.putRegs t d.toNat (s.special x.k x.tm t sel.toNat) cnt) tm).advance x

/-- SWR (R279): the status word; its reserved bits ignore writes (R229). -/
def execSwr (m : Mods) (a : RegNo) (sel : BitVec 9) (s : State) : Host.Outcome State Fault Refusal :=
  runWord s (.swr m a sel) nOf noExtra fun x ts =>
    (s.modThreads x.k ts fun th => { th with status := (x.lead ts).get a.toNat &&& 0x3F }).advance x

/-! ### Traps, events and freezing (R281 to R283) -/

/-- TRAP (R281, R432): takes the software trap; the resume point lies after it. -/
def execTrap (m : Mods) (a : RegNo) (s : State) : Host.Outcome State Fault Refusal :=
  runWord s (.trap m a) nOf noExtra fun x ts =>
    if ts = [] then s.advance x
    else
      let ck := s.teamCtx x.tm
      let r : Rec := { code := 0x002E, src := 0, thread := lowLane ts, pc := x.pc, word := x.off,
                       info := ((x.lead ts).get a.toNat).toNat }
      let s := (s.report ck (teamRec x.k x.tm r)).freezeTeam x.k 0x002E
      let s :=
        if x.last then s.endClause x fun _ => none
        else
          let off := match x.b.clause with
            | some c => (match c.slots[x.b.pos + 1]? with | some sl => sl.off | none => 0)
            | none => 0
          let s := s.modThreads x.k x.b.threads fun th => { th with wait := { kind := .stopped, word := off } }
          s.modBundle x.k x.idx fun b => { b with pos := b.pos + 1, issued := false }
      s.settle x.k

/-- EVPOST (R282, R415): after a device-scope release the record is copied and posted, and 1 returned; 0 when the queue is full. -/
def execEvpost (m : Mods) (d a : RegNo) (s : State) : Host.Outcome State Fault Refusal :=
  runWord s (.evpost m d a) nOf
    (fun x t => let th := x.tm.thread t; [(th.addr a % 64 != 0, 0x002F, (th.get a.toNat).toNat)])
    fun x ts =>
      let l := x.lead ts
      if ts = [] then s.advance x
      else if l.addrBad a then s.takeTrap x (lowLane ts) 0x1008 kLoad (l.addr a)
      else
        s.afterRelease x ts 2 fun s =>
          let ck := s.teamCtx x.tm
          match s.colRead (teamCol x.k) ck kLoad (s.teamPriv x.tm) (l.addr a) 64 with
          | (s, .error (code, info, va)) => s.wordFault x ts kLoad code info va
          | (s, .ok bs) =>
            let fn := ctxFn ck
            let room := s.evRoom fn
            let s := if room then s.postEvent fn (eventWords (s.ctxId ck) 1 x.tm.index ((bytesWords bs).drop 4)) else s
            (s.putAll x.k ts d.toNat 1 (if room then 1 else 0)).advance x

/-- A FREEZE event of a master that is not a team (R417). -/
def State.freezeEvent (s : State) (ck desc code : Nat) : State :=
  s.hwEvent (ctxFn ck) (eventWords (s.ctxId ck) 3 0xFFFFFFFF [nw desc, nw code])

/-- The context that serves inbound requests of a domain context: of several members with one DCTX, the first (R2, R394). -/
def State.servingCtx (s : State) (dctx : Nat) : Option Nat :=
  s.members.find? fun ck => s.rbits (kLk ck 8) 31 31 == 1 && s.rbits (kLk ck 8) 11 0 == dctx

/-- Freezes the copy engine, queue or peer device of a domain context that a descriptor names, with its one FREEZE event (R417); a freeze that meets a HALT
or SAVE in progress is held until the command ends. Above its 32 bits, `desc` carries the CODE of the fault that caused the freeze, 0 for FRZ. -/
def State.freezeOther (s : State) (ck desc : Nat) : State :=
  let idx := desc / 2 ^ 16 % 64
  if (s.ctx ck).cmd.isSome then
    s.modCtx ck fun x => if x.freezes.contains desc then x else { x with freezes := x.freezes ++ [desc] }
  else
    match desc % 16 with
    | 2 =>
      if (s.col idx).frozenCopy.contains ck then s
      else (s.modCol idx fun x => { x with frozenCopy := ck :: x.frozenCopy }).freezeEvent ck desc (desc / 2 ^ 32)
    | 3 =>
      if (s.ctx ck).frozenQueues.contains idx then s
      else
        let s := s.modCtx ck fun x => { x with frozenQueues := idx :: x.frozenQueues }
        let s := if s.rbits (kQueue ck idx 0x14) 0 0 = 1 then s else (s.rset (kQueue ck idx 0x14) 1).raiseMsix (ctxFn ck) 50
        s.freezeEvent ck desc (desc / 2 ^ 32)
    | _ =>
      let r := kEr (if idx < 32 then 4 else 8)
      let m := (idx, desc / 2 ^ 4 % 2 ^ 12)
      if s.frozenPeers.contains m then s
      else { s.rset r (s.rget r ||| (1#32 <<< (idx % 32))) with frozenPeers := m :: s.frozenPeers }.freezeEvent ck desc (desc / 2 ^ 32)

/-- Takes the freeze request of a descriptor (R283): whether the master it names exists in the task's partition. DESIGN CHOICE: for KIND 4 a device number of
no peer, or the device's own, names a master all the same where the domain context is served by a context of the partition; the spec does not say. -/
def State.frzRequest (s : State) (part desc : Nat) : Option State :=
  let idx := desc / 2 ^ 16 % 64
  let id := desc / 2 ^ 4 % 2 ^ 12
  if desc % 16 = 4 then ((s.servingCtx id).filter fun ck => s.ctxPart ck == part).map fun ck => s.freezeOther ck desc
  else
    match s.ctxOfId id with
    | none => none
    | some ck =>
      if s.ctxPart ck ≠ part then none
      else
        match desc % 16 with
        | 1 =>
          let k := teamKey idx (desc / 2 ^ 22 % 32)
          match s.team? k with
          | some tm => if s.teamCtx tm = ck then some ((s.freezeTeam k 0).settle k) else none
          | none => none
        | 2 => if idx < s.ncol then some (s.freezeOther ck desc) else none
        | _ => some (s.freezeOther ck desc)

/-- FRZ (R283, R417, R426): a privileged event task asks that a master be frozen. -/
def execFrz (m : Mods) (d a : RegNo) (s : State) : Host.Outcome State Fault Refusal :=
  runWord s (.frz m d a) nOf
    (fun x t =>
      let th := x.tm.thread t
      let v := (th.get a.toNat).toNat
      let kind := v % 16
      [(!s.teamPriv x.tm || kind == 0 || decide (4 < kind) || v / 2 ^ 27 != 0 || th.get (a.toNat + 1) != 0, 0x002D, v)])
    fun x ts =>
      if ts = [] then s.advance x
      else
        let r := s.frzRequest (s.ctxPart (s.teamCtx x.tm)) ((x.lead ts).get a.toNat).toNat
        let s := (r.getD s).putAll x.k ts d.toNat 1 (if r.isSome then 1 else 0)
        (s.advance x).settle x.k

end Sys2Proof.Machine
end

