-- ==== Sys2Proof/Machine/LaneMem.lean ====
section
/-! DEFINITION. Group collectives (R38, R39, R325 to R328), loads, stores and prefetch (R329 to R332), fences and promotion (R335 to R337, R196),
and atomics with the group aggregator (R338 to R342). -/

namespace Sys2Proof.Machine

/-- Orders threads by index. -/
def byThread (ts : List Nat) : List Nat := ts.foldr ins []
where ins (t : Nat) : List Nat → List Nat
  | [] => [t]
  | u :: rest => if t ≤ u then t :: u :: rest else u :: ins t rest

/-! ### Group collectives -/

/-- An active thread of a collective: its lane, and its registers. -/
abbrev Active := List (Nat × Thread)

/-- The lane LXCH reads (R326): none for `.first` of an empty segment. -/
def lxchLane (m : Mods) (act : Active) (l b : Nat) : Option Nat :=
  let w := 32 / 2 ^ (m.xm.extractLsb' 2 2).toNat
  let seg := l - l % w
  match (m.xm.extractLsb' 0 2).toNat with
  | 0 => some (seg + b % w)
  | 1 => some (seg + (l - seg + b) % w)
  | 2 => some (l ^^^ (b % w))
  | _ => (act.find? fun p => decide (seg ≤ p.1 ∧ p.1 < seg + w)).map Prod.fst

/-- The thread on a lane, if active. -/
def Active.on (act : Active) (l : Nat) : Option Thread := (act.find? fun p => p.1 = l).map Prod.snd

/-- Bits set for the active lanes that satisfy a condition. -/
def laneMask (act : Active) (p : Thread → Bool) : Nat := act.foldl (fun a q => if p q.2 then a + 2 ^ q.1 else a) 0

/-- Canon of R328. -/
def gCanon (ty a : Nat) : Nat × Flags :=
  if ty = 14 then (match fdecode F32 a with | .nan sn => (F32.nan, if sn then flNV else 0) | _ => (a, 0)) else (a, 0)

/-- Op of R328. -/
def gOp (op ty r a : Nat) : Nat × Flags :=
  match op with
  | 0 => if ty = 14 then faddV F32 0 (fdecode F32 r) (fdecode F32 a) else ((r + a) % 2 ^ 32, 0)
  | 1 => if ty = 14 then fminmax F32 false r a else (if intVal r ty ≤ intVal a ty then r else a, 0)
  | 2 => if ty = 14 then fminmax F32 true r a else (if intVal r ty ≤ intVal a ty then a else r, 0)
  | 3 => (r &&& a, 0)
  | 4 => (r ||| a, 0)
  | _ => (r ^^^ a, 0)

/-- Identity of R328. -/
def gIdentity (op ty : Nat) : Nat :=
  match op with
  | 0 => if ty = 14 then 0x80000000 else 0
  | 1 => if ty = 14 then 0x7F800000 else if ty = 8 then 0xFFFFFFFF else 0x7FFFFFFF
  | 2 => if ty = 14 then 0xFF800000 else if ty = 8 then 0 else 0x80000000
  | 3 => 0xFFFFFFFF
  | _ => 0

/-- Scan of R328 over the values of the lanes that come before, in lane order. -/
def gScan (op ty : Nat) : List Nat → Nat × Flags
  | [] => (gIdentity op ty, 0)
  | a :: rest =>
    rest.foldl (fun r b => let (v, f) := gOp op ty r.1 b; (v, r.2 ||| f)) (gCanon ty a)

/-- The type of a reduction (R328). -/
def gType (m : Mods) (op : Nat) : Nat := if m.ty = 0 then (if op < 3 then 7 else 9) else m.ty.toNat

/-- The destination, register count and result of each lane of a collective, and the flags it raises (R326 to R328). -/
def collectiveOf (i : Instr) (act : Active) : Option (Nat × Nat × (Nat → Nat) × Flags) :=
  let val (a : RegNo) (l : Nat) : Nat := match act.on l with | some th => (th.get a.toNat).toNat | none => 0
  match i with
  | .lxch m d a b =>
    let cnt := tyRegs m.ty.toNat
    let own (l : Nat) : Nat := match act.on l with | some th => th.getN a.toNat cnt | none => 0
    some (d.toNat, cnt, fun l =>
      match lxchLane m act l (val b l) with
      | some sl => (match act.on sl with | some th => th.getN a.toNat cnt | none => own l)
      | none => own l, 0)
  | .vote _ d a mode =>
    let set := act.filter fun p => p.2.get a.toNat != 0
    let r := match mode.toNat with
      | 0 => if set.length = act.length then 1 else 0
      | 1 => if set = [] then 0 else 1
      | 2 => if act.all fun p => (p.2.get a.toNat).toNat == val a ((act.headD (0, {})).1) then 1 else 0
      | _ => set.length
    some (d.toNat, 1, fun _ => r, 0)
  | .ball _ d a mode =>
    some (d.toNat, 1, fun l =>
      match mode.toNat with
      | 0 => laneMask act fun th => th.get a.toNat != 0
      | 1 => laneMask act fun th => (th.get a.toNat).toNat == val a l
      | _ => laneMask act fun _ => true, 0)
  | .gred m d a _ op =>
    let r := gScan op.toNat (gType m op.toNat) (act.map fun p => (p.2.get a.toNat).toNat)
    some (d.toNat, 1, fun _ => r.1, r.2)
  | .gscn m d a excl op =>
    let at_ (l : Nat) : Nat × Flags :=
      gScan op.toNat (gType m op.toNat)
        ((act.filter fun p => decide (p.1 < l) || (!excl && p.1 == l)).map fun p => (p.2.get a.toNat).toNat)
    some (d.toNat, 1, fun l => (at_ l).1, act.foldl (fun f p => f ||| (at_ p.1).2) 0)
  | _ => none

/-- The word a thread waits at: the bundle's next word. -/
def Team.wordOf (tm : Team) (t : Nat) : Option Instr :=
  match tm.bundles.find? fun b => b.threads.contains t with
  | some b => (match b.clause with | some c => c.slots[b.pos]?.map Slot.ins | none => none)
  | none => none

/-- Executes the collective at which every non-exited thread of a group waits (R38, R39, R325); the team unchanged while one has not
arrived. -/
def Team.converge (tm : Team) (g : Nat) : Team :=
  let live := ((List.range 32).map (32 * g + ·)).filter fun t => decide (t < tm.threads.length) && !(tm.thread t).exited
  match live with
  | [] => tm
  | t0 :: _ =>
    let w0 := (tm.thread t0).wait
    let here (t : Nat) : Bool :=
      let w := (tm.thread t).wait
      w.kind == .collective && w.word == w0.word && (tm.thread t).pc == (tm.thread t0).pc
    if live.all here then
      match tm.wordOf t0 with
      | none => tm
      | some i =>
        match Sys2Proof.form i with
        | none => tm
        | some f =>
          let act : Active := (live.filter fun t => (tm.thread t).passes f.m).map fun t => (t % 32, tm.thread t)
          let tm := match collectiveOf i act with
            | some (d, cnt, val, fl) =>
              act.foldl (fun tm p => (tm.putRegs (32 * g + p.1) d (val p.1) cnt).modThread (32 * g + p.1) fun th => th.raise fl) tm
            | none => tm
          live.foldl (fun tm t => tm.modThread t fun th => { th with wait := {} }) tm
    else tm

/-- A bundle reaches a group collective: each of its threads, guard passing or failing, waits for its group; a group that is complete executes it
(R38, R39). -/
def runCollective (s : State) (i : Instr) : Host.Outcome State Fault Refusal :=
  runWord s i nOf noExtra fun x _ =>
    let s := s.modTeam x.k fun tm =>
      let tm := x.b.threads.foldl (fun tm t => tm.modThread t fun th => { th with wait := { kind := .collective, word := x.off } }) tm
      (groupsOf x.b.threads).foldl Team.converge tm
    let s := s.modBundle x.k x.idx fun b => { b with issued := true }
    (s.resumeWord x).settle x.k

/-- LXCH (R326). -/
def execLxch (m : Mods) (d a b : RegNo) (s : State) : Host.Outcome State Fault Refusal := runCollective s (.lxch m d a b)
/-- VOTE (R327). -/
def execVote (m : Mods) (d a : RegNo) (mode : BitVec 2) (s : State) : Host.Outcome State Fault Refusal := runCollective s (.vote m d a mode)
/-- BALL (R327). -/
def execBall (m : Mods) (d a : RegNo) (mode : BitVec 2) (s : State) : Host.Outcome State Fault Refusal := runCollective s (.ball m d a mode)
/-- GRED (R328). -/
def execGred (m : Mods) (d a : RegNo) (excl : Bool) (op : BitVec 3) (s : State) : Host.Outcome State Fault Refusal :=
  runCollective s (.gred m d a excl op)
/-- GSCN (R328). -/
def execGscn (m : Mods) (d a : RegNo) (excl : Bool) (op : BitVec 3) (s : State) : Host.Outcome State Fault Refusal :=
  runCollective s (.gscn m d a excl op)

/-! ### Global accesses: addresses, faults and the order of a thread (R329, R434, R435, R438, R483) -/

/-- The scope and order codes of a memory word (R246). -/
def mScope (m : Mods) : Nat := (m.xm.extractLsb' 0 2).toNat
def mOrd (m : Mods) : Nat := (m.xm.extractLsb' 2 2).toNat
/-- System scope changes any access; the narrower scopes only an ordered one (R246). -/
def mSys (m : Mods) : Bool := mScope m == 3
def mAcq (m : Mods) : Bool := mOrd m % 2 == 1
def mRel (m : Mods) : Bool := decide (2 ≤ mOrd m)

/-- The effective address of a global form (R329). -/
def Thread.ea (th : Thread) (a : RegNo) (off : Int) (size : Nat) : Nat := ((th.get64 a.toNat + off * size : Int) % 2 ^ 64).toNat

/-- Whether a HOST page can take an atomic (R339). -/
def hostAtomic (op ty : Nat) : Bool := (op == 0 && ty != 14) || op == 6 || op == 7

/-- Whether a register pair holds no legal address: bits <31:20> of the odd register are not zero (R149). -/
def Thread.oddBad (th : Thread) (a : RegNo) : Bool := (th.get (a.toNat + 1)).toNat / 2 ^ 20 != 0

/-- The freeze fault a global access meets at issue (R434, R483): CODE and INFO. `odd` tells that the base is no legal address, or the sum leaves the
space; `at_` is the operation and type of an atomic. -/
def State.accFreeze (s : State) (c ck kind : Nat) (write priv sys : Bool) (at_ : Option (Nat × Nat)) (size ea : Nat) (odd : Bool) : Option (Nat × Nat) :=
  if ea % size ≠ 0 then some (0x1009, kind + 16 * Nat.log2 size)
  else if odd || decide (2 ^ 52 ≤ ea) then some (0x1008, kind)
  else
    let host : Option (Nat × Nat) :=
      match at_ with
      | some (op, ty) => if s.onHost (some c) ck ea && !hostAtomic op ty then some (0x100C, kind + 16 * op) else none
      | none => none
    match (s.xlate (some c) ck ea kind write priv sys).2 with
    | .error (code, info) => if freezeFate code then some (code, info) else if code < 2 ∨ code = 0x100D then host else none
    | .ok _ => host

/-- Whether an access overlaps a byte range. -/
def Access.overlaps (a : Access) (va size : Nat) : Bool := decide (a.va < va + size) && decide (va < a.va + a.size)

/-- Whether an access is to global memory. -/
def Access.global (a : Access) : Bool := match a.kind with | .window _ | .gather => false | _ => true

/-- Whether a global access reaches the location of a byte range, at its address or at another that is mapped to the same bytes (R178). -/
def State.meets (s : State) (c ck : Nat) (a : Access) (va size : Nat) : Bool :=
  a.overlaps va size ||
    (match s.keyOf (some c) ck a.va, s.keyOf (some c) ck va with
     | some k, some l => decide (k < l + size) && decide (l < k + a.size)
     | _, _ => false)

/-- Whether a thread has an access to the location, numbered below `id`, that has not been performed (R178, R190). -/
def State.older (s : State) (c ck : Nat) (tm : Team) (t id va size : Nat) : Bool :=
  tm.accesses.any fun a => a.of t && decide (a.id < id) && a.state != .ready && a.global && s.meets c ck a va size

/-- A side-log entry as an access on its way again (R439). -/
def SideEntry.access (e : SideEntry) : Access :=
  { id := e.id, kind := if e.red then .reduction e.aop (aopTyOf e.aop e.ty) e.data else .store e.data, va := e.va, size := e.size, ty := e.ty
    scope := e.scope, dests := [{ thread := e.thread, reg := 0, cnt := 0, flag := none }], state := .sent, logged := true, batch := e.batch
    pc := e.pc, word := e.word }

/-- Whether a thread has an entry in the side log in the 64 KiB region of an address (R438). -/
def State.sideRegion (s : State) (k t va : Nat) : Bool := (s.sideEntries k t).any fun e => e.va / 2 ^ 16 == va / 2 ^ 16

/-- Whether a thread has an entry in that region whose replay has begun and not been performed (R438, R439). -/
def State.replaying (s : State) (k t va : Nat) : Bool :=
  match s.team? k with
  | some tm => tm.accesses.any fun a => a.logged && a.of t && a.va / 2 ^ 16 == va / 2 ^ 16
  | none => false

/-- The live entries of a column's side log, those included that are being replayed (R437, R439). -/
def State.sideCount (s : State) (c : Nat) : Nat :=
  (s.col c).sideLog.length + ((s.col c).orphans.filter fun o => o.acc.logged).length
    + ((s.teamsOf c).map fun p => (p.2.accesses.filter fun a => a.logged).length).sum

/-- Whether an access that a thread issues now reads poison at once (R448, R483): nothing holds it at its home or before it, and no write waits there. -/
def State.poisonNow (s : State) (x : Iss) (t kind ea size : Nat) (write sys : Bool) : Bool :=
  let c := teamCol x.k
  let ck := s.teamCtx x.tm
  match (s.xlate (some c) ck ea kind write (s.teamPriv x.tm) sys).2 with
  | .ok tgt =>
    (match tgt.key? with
     | some key => s.isPoison (key / 128) && !s.lineHeld (key / 128) && (s.home (key / 128)).waiting.isEmpty
     | none => false)
      && !s.older c ck x.tm t s.idNext ea size && !s.sideRegion x.k t ea && !s.replaying x.k t ea
  | .error _ => false

/-- The first freeze fault of a word's accesses, in thread order (R422, R482): thread, CODE, INFO and address. `a` names the pair that holds the base;
`reads` tells that the word reads its data once it has issued, so that poison there is met now and the fault is precise (R435). DEDUCED: poison that comes
while the data is on its way is met by an access that has issued: it stays held, and its record names its word, until the release of its team. -/
def State.firstFreeze (s : State) (x : Iss) (a : RegNo) (kind : Nat) (write sys reads : Bool) (at_ : Option (Nat × Nat)) (size : Nat) :
    List (Nat × Nat) → Option (Nat × Nat × Nat × Nat)
  | [] => none
  | (t, ea) :: rest =>
    match s.accFreeze (teamCol x.k) (s.teamCtx x.tm) kind write (s.teamPriv x.tm) sys at_ size ea ((x.tm.thread t).oddBad a) with
    | some (code, info) => some (t, code, info, ea)
    | none =>
      if reads && s.poisonNow x t kind ea size write sys then some (t, 0x1040, kind, ea)
      else State.firstFreeze s x a kind write sys reads at_ size rest

/-- Adds an outstanding access to a team, with the next number. -/
def State.pushAccess (s : State) (k : Nat) (mk : Nat → Access) : State :=
  { s with idNext := s.idNext + 1 }.modTeam k fun tm => { tm with accesses := tm.accesses ++ [mk s.idNext] }

/-- Reports a repairable fault of a thread's access (R435, R442); CODE 0 and 1 wait without a record (R443). -/
def State.reportAccess (s : State) (x : Iss) (t kind code info va : Nat) : State :=
  if code < 2 then s
  else s.reportOnce (s.teamCtx x.tm) none kind (teamRec x.k x.tm { code, src := 0, thread := t, pc := x.pc, word := x.off, addr := va, info })

/-- The value a load of a type writes (R329). -/
def loadVal (ty v : Nat) : Nat := if ty = 1 ∨ ty = 4 then (intVal v ty % 2 ^ 32).toNat else v

/-- The hold of an acquire word over access `id` (R335). -/
def Thread.holdOn (th : Thread) (scope id : Nat) : Thread := { th with hold := some { acq := true, rel := false, scope, access := some id } }

/-! ### LD, ST and PRF (R330) -/

/-- Performs or sends one load: threads `ts'` receive it. Of 16 bytes that hit, the lower 8 are performed first (R177). -/
def State.loadOne (s : State) (x : Iss) (m : Mods) (d : RegNo) (fl : Option Nat) (ts' : List Nat) (ea : Nat) : State :=
  let ty := m.ty.toNat
  let size := memSize ty
  let c := teamCol x.k
  let ck := s.teamCtx x.tm
  let id := s.idNext
  let t0 := ts'.headD 0
  let acc (st : AccState) (v : Nat) : Access :=
    { id, kind := .load, va := ea, size, ty, scope := mScope m, state := st, value := v, pc := x.pc, word := x.off, acq := mAcq m
      dests := ts'.map fun t => { thread := t, reg := d.toNat, cnt := tyRegs ty, flag := fl } }
  let s := if mAcq m then s.modThreads x.k ts' fun th => th.holdOn (mScope m) id else s
  match s.xlate (some c) ck ea kLoad false (s.teamPriv x.tm) (mSys m) with
  | (s, .error (code, info)) => (s.reportAccess x t0 kLoad code info ea).pushAccess x.k fun _ => acc (if code = 0 then .sent else .held) 0
  | (s, .ok tgt) =>
    if ts'.any fun t => s.sideRegion x.k t ea then s.pushAccess x.k fun _ => acc .held 0
    else
      let hit : Option (List Byte) :=
        match tgt with
        | .hbm key =>
          if mSys m || (ts'.any fun t => s.older c ck x.tm t id ea size) || s.isPoison (key / 128) then none
          else s.colHit c key size (ts'.foldl (fun f t => max f (x.tm.thread t).floor) 0)
        | _ => none
      match hit with
      | some bs =>
        if size = 16 then s.pushAccess x.k fun _ => { acc .sent (leNat (bs.take 8)) with half := true }
        else s.pushAccess x.k fun _ => acc .ready (leNat bs)
      | none => s.pushAccess x.k fun _ => acc .sent 0

/-- A flagged word raises its flag and its destinations become pending in the passing threads (R235, R236). -/
def State.raisePend (s : State) (x : Iss) (ts : List Nat) (fl : Option Nat) (d cnt : Nat) : State :=
  (s.raiseFlags x.k fl ts).modThreads x.k ts fun th => th.addPend d cnt fl

/-- LD (R330). With U one access is made, at the lowest passing lane's address (R37). -/
def execLd (m : Mods) (u fs : Bool) (d a : RegNo) (off : BitVec 7) (s : State) : Host.Outcome State Fault Refusal :=
  let size := memSize m.ty.toNat
  runWord s (.ld m u fs d a off) nOf noExtra fun x ts =>
    if ts = [] then s.advance x
    else
      let fl := some (if fs then x.hdr.bf.toNat else x.hdr.af.toNat)
      let ea (t : Nat) : Nat := (x.tm.thread t).ea a off.toInt size
      let reqs : List (List Nat × Nat) := if u then [(byLane ts, ea (lowLane ts))] else (byLane ts).map fun t => ([t], ea t)
      let judged := if u then [(lowLane ts, ea (lowLane ts))] else (byThread ts).map fun t => (t, ea t)
      match s.firstFreeze x a kLoad false (mSys m) true none size judged with
      | some (t, code, info, va) => s.takeTrap x t code info va
      | none =>
        let s := reqs.foldl (fun s r => s.loadOne x m d fl r.1 r.2) s
        (s.raisePend x ts fl d.toNat (tyRegs m.ty.toNat)).advance x

/-- A store or reduction retires into the side log of its column when it has room (R436 to R438): an entry for each passing thread. -/
def State.sideLogs (s : State) (c : Nat) (es : List SideEntry) : Option State :=
  if s.sideCount c + es.length ≤ 256 then some (s.modCol c fun x => { x with sideLog := x.sideLog ++ es }) else none
def State.sideLog (s : State) (c : Nat) (e : SideEntry) : Option State := s.sideLogs c [e]

/-- Whether a store to a range must wait for earlier ones: of its thread (R190), or of the lanes below it in its word, which begins at access `b0`
(R330). -/
def State.storeWaits (s : State) (c ck : Nat) (k t b0 ea size : Nat) : Bool :=
  match s.team? k with
  | none => false
  | some tm => s.older c ck tm t s.idNext ea size || tm.accesses.any fun a => a.batch == some b0 && a.state != .ready && s.meets c ck a ea size

/-- Whether a lane below it in its word has logged a store to the location of one: it follows that store through the side log (R330, R437). -/
def State.logsAfter (s : State) (c ck b0 ea size : Nat) : Bool :=
  (s.col c).sideLog.any fun e => e.batch == some b0 && s.meets c ck e.access ea size

/-- One store or reduction of a thread: it waits in the load-store unit for its release, is performed in the column cache, is sent on its way, or
retires into the side log; with the log full it is held (R335, R436 to R438). A 16-byte store is performed in two parts (R177). -/
def State.storeOne (s : State) (x : Iss) (m : Mods) (b0 t ea size data : Nat) (red : Bool) : State :=
  let c := teamCol x.k
  let ck := s.teamCtx x.tm
  let ty := if red then aopTyOf (aop m) m.ty.toNat else if m.ty = 0 then 9 else m.ty.toNat
  let kind := if red then kRed else kStore
  let acc (st : AccState) (id : Nat) : Access :=
    { id, kind := if red then .reduction (aop m) ty data else .store data, va := ea, size, ty, scope := mScope m, state := st,
      pc := x.pc, word := x.off, rel := mRel m, dests := [{ thread := t, reg := 0, cnt := 0, flag := none }], batch := some b0 }
  let log (s : State) : State :=
    let e : SideEntry := { id := s.idNext, gen := s.gen ck, index := x.tm.index, grid := x.tm.grid, red, size, aop := if red then aop m else 0, ty, ord := mOrd m
                           scope := mScope m, ctx := ck, team := x.k, thread := t, va := ea, data, batch := some b0
                           pc := x.pc, word := x.off }
    match ({ s with idNext := s.idNext + 1 } : State).sideLog c e with
    | some s => s
    | none => s.pushAccess x.k (acc .held)
  if mRel m then s.pushAccess x.k (acc .unreleased)
  else if s.sideRegion x.k t ea || s.logsAfter c ck b0 ea size then log s
  else if s.replaying x.k t ea then s.pushAccess x.k fun id => { acc .sent id with logged := true }
  else
    match s.xlate (some c) ck ea kind true (s.teamPriv x.tm) (mSys m) with
    | (s, .error (code, info)) => if code = 0 then s.pushAccess x.k (acc .sent) else log (s.reportAccess x t kind code info ea)
    | (s, .ok tgt) =>
      match tgt with
      | .hbm key =>
        if red || mSys m || (s.home (key / 128)).move == .moving || s.storeWaits c ck x.k t b0 ea size then s.pushAccess x.k (acc .sent)
        else if size = 16 then
          ((s.colStore c (teamSlot x.k) key (leBytes data 8)).localWrite ck ea).pushAccess x.k fun id =>
            { acc .sent id with kind := .store (data / 2 ^ 64), va := ea + 8, size := 8 }
        else (s.colStore c (teamSlot x.k) key (leBytes data size)).localWrite ck ea
      | _ => s.pushAccess x.k (acc .sent)

/-- ST (R330): the passing threads' stores enter coherence order in ascending lane order. -/
def execSt (m : Mods) (d a : RegNo) (off : BitVec 7) (s : State) : Host.Outcome State Fault Refusal :=
  let size := memSize m.ty.toNat
  let b0 := s.idNext
  runWord s (.st m d a off) nOf noExtra fun x ts =>
    let ea (t : Nat) : Nat := (x.tm.thread t).ea a off.toInt size
    match s.firstFreeze x a kStore true (mSys m) false none size ((byThread ts).map fun t => (t, ea t)) with
    | some (t, code, info, va) => s.takeTrap x t code info va
    | none =>
      ((byLane ts).foldl (fun s t =>
        s.storeOne x m b0 t (ea t) size ((x.tm.thread t).getN d.toNat (tyRegs m.ty.toNat) % 2 ^ (8 * size)) false) s).advance x

/-- Merges a line from its home into the column cache: bytes written here stay (R179, R184). -/
def State.fill (s : State) (c line e : Nat) : State :=
  let l := s.cline c line
  let bytes := (List.range 128).map fun o => (o, if l.dirty.contains o then sget 0 l.data o else s.byteAt (line * 128 + o))
  s.setCline c line { l with data := bytes, lease := e, grant := s.dt }

/-- PRF of one address (R330): never a fault. -/
def State.prefetch (s : State) (c ck : Nat) (priv : Bool) (va : Nat) : State :=
  if 2 ^ 52 ≤ va then s
  else
    match s.xlate (some c) ck va kLoad false priv false with
    | (s, .ok (.hbm key)) =>
      let line := key / 128
      if (s.cline c line).data ≠ [] ∨ s.isPoison line = true ∨ (s.home line).move ≠ .unmoved ∨ s.fillable c line = false then s
      else
        match s.grant line with
        | (s, some e) => s.fill c line e
        | (s, none) => s
    | (s, _) => s

/-- PRF (R330). -/
def execPrf (m : Mods) (a : RegNo) (off : BitVec 7) (s : State) : Host.Outcome State Fault Refusal :=
  runWord s (.prf m a off) nOf noExtra fun x ts =>
    (ts.foldl (fun s t => s.prefetch (teamCol x.k) (s.teamCtx x.tm) (s.teamPriv x.tm) ((x.tm.thread t).ea a off.toInt 128)) s).advance x

/-! ### LDS, STS and LDC (R331, R332, R137, R138) -/

/-- The scratchpad offset of a form (R331). -/
def Thread.so (th : Thread) (a : RegNo) (off : Int) (size : Nat) : Nat := (((th.get a.toNat).toNat + off * size : Int) % 2 ^ 32).toNat

/-- The freeze fault of a scratchpad access's offset (R434, R483). -/
def Team.spadFault (tm : Team) (kind size o : Nat) : Option (Nat × Nat) :=
  if o % size ≠ 0 then some (0x1009, kind + 16 * Nat.log2 size)
  else if tm.spadLen < o + size then some (0x100A, kind)
  else none

/-- The first of a word's scratchpad reads, in thread order, that meets poison, which is judged when the data is read (R448, R483). -/
def Team.firstPoison (tm : Team) (l : List (Nat × Nat)) : Option (Nat × Nat) := l.find? fun p => tm.spadPoison.contains (p.2 / 64)

/-- The threads of a 16-byte scratchpad word have performed its lower 8 bytes, and have yet to perform the upper ones (R177); with no thread there is nothing to
perform. -/
def Iss.halfway (x : Iss) (ts : List Nat) : Bool := ts.isEmpty || ts.any fun t => (x.tm.thread t).wait.started

/-- The first freeze fault of a word's scratchpad accesses, in thread order. -/
def Team.firstSpad (tm : Team) (kind size : Nat) : List (Nat × Nat) → Option (Nat × Nat × Nat × Nat)
  | [] => none
  | (t, o) :: rest =>
    match tm.spadFault kind size o with
    | some (code, info) => some (t, code, info, o)
    | none => Team.firstSpad tm kind size rest

/-- Whether an access to scratchpad bytes stalls on a live range-scoreboard entry (R138): reads on W, writes on W and R. -/
def Team.sbStall (tm : Team) (write : Bool) (o size : Nat) : Bool :=
  tm.sb.any fun e => (e.write || write) && decide (e.lo ≤ (o + size - 1) / 64) && decide (o / 64 ≤ e.hi)

/-- The word waits for the range scoreboard and issues again (R60, R138). -/
def State.sbWait (s : State) (x : Iss) (ts : List Nat) : State :=
  s.waitAt x ts (fun th => { th.wait with kind := .scoreboard, word := x.off }) false

/-- The bundle's threads no longer stand at a wait of this word. -/
def State.go (s : State) (x : Iss) : State := s.clearWaits x

/-- The lower 8 bytes of a 16-byte scratchpad word have been performed; a thread keeps what it has read (R177). -/
def State.waitHalf (s : State) (x : Iss) (ts : List Nat) (v : Nat → Nat) : State :=
  s.modTeam x.k fun tm => ts.foldl (fun tm t => tm.modThread t fun th => { th with wait := { word := x.off, started := true, token := v t } }) tm

/-- Bytes of a team's scratchpad. -/
def Team.spadGet (tm : Team) (o size : Nat) : Nat := leNat (tm.spad.getList o size)
def Team.spadPut (tm : Team) (o size v : Nat) : Team := { tm with spad := tm.spad.putList o (leBytes v size) }

/-- LDS (R331): performed in the column store, 16 bytes in two parts, the lower first (R177). -/
def execLds (m : Mods) (u : Bool) (d a : RegNo) (off : BitVec 7) (s : State) : Host.Outcome State Fault Refusal :=
  let ty := m.ty.toNat
  let size := memSize ty
  runWord s (.lds m u d a off) nOf noExtra fun x ts =>
    let so (t : Nat) : Nat := (x.tm.thread (if u then lowLane ts else t)).so a off.toInt size
    let js := (if u then (if ts = [] then [] else [lowLane ts]) else byThread ts).map fun t => (t, so t)
    match x.tm.firstSpad kLoad size js with
    | some (t, code, info, va) => s.takeTrap x t code info va
    | none =>
      if js.any fun p => x.tm.sbStall false p.2 size then s.sbWait x ts
      else
        match x.tm.firstPoison js with
        | some (t, o) => s.takeTrap x t 0x1040 kLoad o
        | none =>
          if size = 16 ∧ x.halfway ts = false then
            s.waitHalf x ts fun t => x.tm.spadGet (so t) 8
          else
            let v (t : Nat) : Nat := if size = 16 then (x.tm.thread t).wait.token + 2 ^ 64 * x.tm.spadGet (so t + 8) 8 else x.tm.spadGet (so t) size
            ((s.go x).modTeam x.k fun tm => ts.foldl (fun tm t => tm.putRegs t d.toNat (loadVal ty (v t)) (tyRegs ty)) tm).advance x

/-- Granules wholly covered by some writes lose their poison (R448). -/
def Team.cleanGranules (tm : Team) (ws : List (Nat × Nat)) : Team :=
  { tm with spadPoison := tm.spadPoison.filter fun g =>
      !((List.range 64).all fun j => ws.any fun w => decide (w.1 ≤ 64 * g + j) && decide (64 * g + j < w.1 + w.2)) }

/-- STS (R331): writes to the same byte follow ascending lane order; 16 bytes are written in two parts, the lower first (R177). -/
def execSts (m : Mods) (d a : RegNo) (off : BitVec 7) (s : State) : Host.Outcome State Fault Refusal :=
  let ty := m.ty.toNat
  let size := memSize ty
  runWord s (.sts m d a off) nOf noExtra fun x ts =>
    let so (t : Nat) : Nat := (x.tm.thread t).so a off.toInt size
    match x.tm.firstSpad kStore size ((byThread ts).map fun t => (t, so t)) with
    | some (t, code, info, va) => s.takeTrap x t code info va
    | none =>
      let data (t : Nat) : Nat := (x.tm.thread t).getN d.toNat (tyRegs ty)
      let put (s : State) (o n sh : Nat) : State := s.modTeam x.k fun tm => (byLane ts).foldl (fun tm t => tm.spadPut (so t + o) n (data t / 2 ^ sh)) tm
      if ts.any fun t => x.tm.sbStall true (so t) size then s.sbWait x ts
      else if size = 16 ∧ x.halfway ts = false then (put s 0 8 0).waitHalf x ts fun _ => 0
      else
        ((if size = 16 then put (s.go x) 8 8 64 else put (s.go x) 0 size 0).modTeam x.k fun tm => tm.cleanGranules (ts.map fun t => (so t, size))).advance x

/-- The freeze fault of a cluster-window read (R332, R434). -/
def State.windowFault (s : State) (x : Iss) (size o mem : Nat) : Option (Nat × Nat) :=
  if o % size ≠ 0 then some (0x1009, kLoad + 16 * Nat.log2 size)
  else
    match s.member? x.tm x.k mem with
    | none => some (0x100B, kLoad + 256 * (mem % 16))
    | some k =>
      match s.team? k with
      | none => some (0x100B, kLoad + 256 * (mem % 16))
      | some tm => if tm.spadLen < o + size then some (0x100B, kLoad + 256 * (mem % 16)) else none

/-- The first freeze fault of a word's cluster-window reads, in thread order. -/
def State.firstWindow (s : State) (x : Iss) (size : Nat) : List (Nat × Nat × Nat) → Option (Nat × Nat × Nat × Nat)
  | [] => none
  | (t, o, mem) :: rest =>
    match s.windowFault x size o mem with
    | some (code, info) => some (t, code, info, o)
    | none => State.firstWindow s x size rest

/-- LDC (R332): a read of a member's scratchpad travels over the weave and returns through the pending-write list. -/
def execLdc (m : Mods) (u fs : Bool) (d a : RegNo) (off : BitVec 7) (s : State) : Host.Outcome State Fault Refusal :=
  let ty := m.ty.toNat
  let size := memSize ty
  runWord s (.ldc m u fs d a off) nOf noExtra fun x ts =>
    if ts = [] then s.advance x
    else
      let fl := some (if fs then x.hdr.bf.toNat else x.hdr.af.toNat)
      let at_ (t : Nat) : Nat × Nat := ((x.tm.thread t).so a off.toInt size, ((x.tm.thread t).get (a.toNat + 1)).toNat)
      let low := lowLane ts
      let reqs : List (List Nat × Nat) := if u then [(byLane ts, low)] else (byLane ts).map fun t => ([t], t)
      let judged := (if u then [low] else byThread ts).map fun t => (t, (at_ t).1, (at_ t).2)
      match s.firstWindow x size judged with
      | some (t, code, info, va) => s.takeTrap x t code info va
      | none =>
        let s := reqs.foldl (fun s r => s.pushAccess x.k fun id =>
          { id, kind := .window (at_ r.2).2, va := (at_ r.2).1, size, ty, scope := 0, state := .sent, pc := x.pc, word := x.off
            dests := r.1.map fun t => { thread := t, reg := d.toNat, cnt := tyRegs ty, flag := fl } }) s
        (s.raisePend x ts fl d.toNat (tyRegs ty)).advance x

/-! ### FENCE and PRM (R336, R337, R196) -/

/-- FENCE (R336): its effect is taken at its hold. -/
def execFence (m : Mods) (kind scope : BitVec 2) (s : State) : Host.Outcome State Fault Refusal :=
  runWord s (.fence m kind scope) nOf noExtra fun x ts =>
    (s.modThreads x.k ts fun th =>
      { th with hold := some { acq := kind.getLsbD 0, rel := kind.getLsbD 1, scope := scope.toNat } }).advance x

/-- The lines one column writes back for a promotion of line `v` (R196 step 2). -/
def State.promoteLines (s : State) (v c : Nat) : List Nat :=
  let l := s.cline c v
  if l.dirty ≠ [] then
    ((s.col c).lines.filter fun p => !p.2.dirty.isEmpty && p.2.slots.any fun sl => l.slots.contains sl).map Prod.fst
  else s.dirtyAll c

/-- The columns a promotion recalls (R196 step 1). -/
def State.promoteCols (s : State) (v : Nat) : List Nat := if (s.home v).writers = [] then List.range s.ncol else (s.home v).writers

/-- Whether a promotion's write-backs reach no line that is held at its home (R169, R193). -/
def State.canPromote (s : State) (v : Nat) : Bool := (s.promoteCols v).all fun c => (s.promoteLines v c).all fun l => !s.lineHeld l

/-- The recall of one column for a promotion of line `v` (R196 step 2): the largest completion time of its write-backs and of its write-back
buffer. -/
def State.promoteCol (s : State) (v c : Nat) : State × Nat :=
  let (s, t) := s.writeBackAll c none (s.promoteLines v c)
  (s, max t (s.pendingMax c))

/-- Promotion of the line of a synchronisation variable (R196 steps 1 and 2). -/
def State.promote (s : State) (v : Nat) : State × Nat :=
  (s.promoteCols v).foldl (fun (p : State × Nat) c => let (s, t) := p.1.promoteCol v c; (s, max p.2 t)) (s, 0)

/-- The distinct values of a list, in order. -/
def distinct (l : List Nat) : List Nat := l.eraseDups

/-- PRM (R196, R197, R337): requests of one bundle for one line are merged. On a HOST page it is a FENCE.full at device scope whatever ATS grants, and there
is no kind of PRM that such a page cannot take (R197). While a line that it would write back is held at its home, the word does not issue. -/
def execPrm (m : Mods) (a : RegNo) (off : BitVec 7) (s : State) : Host.Outcome State Fault Refusal :=
  runWord s (.prm m a off) nOf noExtra fun x ts =>
    let c := teamCol x.k
    let ck := s.teamCtx x.tm
    let priv := s.teamPriv x.tm
    let ea (t : Nat) : Nat := (x.tm.thread t).ea a off.toInt 4
    match s.firstFreeze x a kLoad false false false none 4 ((byThread ts).map fun t => (t, ea t)) with
    | some (t, code, info, va) => s.takeTrap x t code info va
    | none =>
      let tgt (t : Nat) : Except (Nat × Nat) Target :=
        match (s.xlate (some c) ck (ea t) kLoad false priv false).2 with
        | .error (code, info) => if (code < 2 ∨ code = 0x100D) ∧ s.onHost (some c) ck (ea t) = true then .ok (.host (ea t)) else .error (code, info)
        | r => r
      match (byThread ts).find? fun t => s.sideRegion x.k t (ea t) || (match tgt t with | .error _ => true | .ok _ => false) with
      | some t =>
        match tgt t with
        | .error (code, info) => s.wordFault x ts kLoad code info (ea t)
        | .ok _ => s.waitAt x ts (fun _ => { kind := .memHeld, word := x.off, token := ea t, started := true }) false
      | none =>
        let line (t : Nat) : Option Nat := match tgt t with | .ok (.hbm key) => some (key / 128) | _ => none
        let far (t : Nat) : Option (Nat × Nat) := match tgt t with | .ok (.peer dev va) => some (dev, va / 128) | _ => none
        if (distinct (ts.filterMap line)).any fun ln => !s.canPromote ln then
          s.waitAt x ts (fun t => { kind := .memHeld, word := x.off, token := (t.ea a off.toInt 4), started := true }) false
        else
        let s := (s.go x).modThreads x.k ts fun th => { th with hold := some { acq := true, rel := true, scope := 2 } }
        let s := (distinct (ts.filterMap line)).foldl (fun s ln =>
          let (s, tmax) := s.promote ln
          s.modThreads x.k (ts.filter fun t => line t == some ln) fun th =>
            { th with horizon := max th.horizon tmax, hold := some { acq := true, rel := false, scope := 2, prm := true } }) s
        let s := (ts.filterMap far).eraseDups.foldl (fun s p =>
          let m : OutMsg := { dev := some p.1, addr := 128 * p.2, data := [], kind := .prm, dctx := s.rbits (kLk ck 8) 11 0 }
          ({ s with outbox := m :: s.outbox }).modThreads x.k (ts.filter fun t => far t == some p) fun th =>
            { th with peerOut := th.peerOut + 1, hold := some { acq := true, rel := false, scope := 3, prm := true } }) s
        s.advance x

/-! ### Atomics (R338 to R342) -/

/-- The requests of the group aggregator (R340) for lanes `ts` in ascending lane order: operand, and each lane's destination combination; `.cas`
sends one request per lane. -/
def aggregate (op ty : Nat) (b : Nat → Nat) : List Nat → Option Nat → List (Nat × Option Nat) × Nat
  | [], p => ([], p.getD 0)
  | t :: rest, p =>
    let p' := match p with | none => b t | some q => aopApply op ty q (b t) 0
    let (l, total) := aggregate op ty b rest (some p')
    ((t, p) :: l, total)

/-- The lanes of a word by address, in order of first appearance (R340). -/
def byAddress (ea : Nat → Nat) (ts : List Nat) : List (Nat × List Nat) :=
  (distinct (ts.map ea)).map fun e => (e, ts.filter fun t => ea t == e)

/-- The requests of a word: address, operand, compare's new value, and destinations (R340). -/
def atomRequests (op ty : Nat) (ea b c : Nat → Nat) (ts : List Nat) : List (Nat × Nat × Nat × List (Nat × Option Nat)) :=
  (byAddress ea (byLane ts)).flatMap fun p =>
    if op = 7 then p.2.map fun t => (p.1, b t, c t, [(t, none)])
    else let (l, total) := aggregate op ty b p.2 none; [(p.1, total, 0, l)]

/-- Sends one atomic request (R184, R335, R340). -/
def State.atomOne (s : State) (x : Iss) (m : Mods) (b0 : Nat) (d : RegNo) (fl : Option Nat) (ty size : Nat)
    (r : Nat × Nat × Nat × List (Nat × Option Nat)) : State :=
  let (ea, b, c, l) := r
  let id := s.idNext
  let ts := l.map Prod.fst
  let acc (st : AccState) : Access :=
    { id, kind := .atomic (aop m) ty b c, va := ea, size, ty := m.ty.toNat, scope := mScope m, state := st, pc := x.pc, word := x.off,
      rel := mRel m, acq := mAcq m, batch := some b0
      dests := l.map fun p => { thread := p.1, reg := d.toNat, cnt := size / 4, flag := fl, before := p.2 } }
  let s := if mAcq m then s.modThreads x.k ts fun th => th.holdOn (mScope m) id else s
  if mRel m then s.pushAccess x.k fun _ => acc .unreleased
  else
    match s.xlate (some (teamCol x.k)) (s.teamCtx x.tm) ea kAtomic true (s.teamPriv x.tm) (mSys m) with
    | (s, .error (code, info)) => (s.reportAccess x (ts.headD 0) kAtomic code info ea).pushAccess x.k fun _ => acc (if code = 0 then .sent else .held)
    | (s, .ok _) =>
      s.pushAccess x.k fun _ => acc (if ts.any fun t => s.sideRegion x.k t ea then .held else .sent)

/-- ATOM (R338 to R342). -/
def execAtom (m : Mods) (fs : Bool) (d a b : RegNo) (s : State) : Host.Outcome State Fault Refusal :=
  let ty := aopTyOf (aop m) m.ty.toNat
  let cnt := tyRegs m.ty.toNat
  let size := 4 * cnt
  let b0 := s.idNext
  runWord s (.atom m fs d a b) nOf noExtra fun x ts =>
    if ts = [] then s.advance x
    else
      let fl := some (if fs then x.hdr.bf.toNat else x.hdr.af.toNat)
      let ea (t : Nat) : Nat := (x.tm.thread t).ea a 0 size
      let judged := (byThread ts).map fun t => (t, ea t)
      match s.firstFreeze x a kAtomic true (mSys m) (!mRel m) (some (aop m, ty)) size judged with
      | some (t, code, info, va) => s.takeTrap x t code info va
      | none =>
        let reqs := atomRequests (aop m) ty ea (fun t => (x.tm.thread t).getN b.toNat cnt) (fun t => (x.tm.thread t).getN m.c.toNat cnt) ts
        let s := reqs.foldl (fun s r => s.atomOne x m b0 d fl ty size r) s
        (s.raisePend x ts fl d.toNat cnt).advance x

/-- Sends one aggregated reduction (R340), which keeps each thread's own operand and a number for each; with a fault, each of them enters the side log
(R437). -/
def State.redOne (s : State) (x : Iss) (m : Mods) (b0 ty size : Nat) (own : Nat → Nat) (r : Nat × Nat × Nat × List (Nat × Option Nat)) : State :=
  let (ea, b, _, l) := r
  let ts := l.map Prod.fst
  let whole : Bool := !mRel m && !(ts.any fun t => s.sideRegion x.k t ea)
    && (match (s.xlate (some (teamCol x.k)) (s.teamCtx x.tm) ea kRed true (s.teamPriv x.tm) (mSys m)).2 with | .ok _ => true | .error (code, _) => code == 0)
  if whole || mRel m then
    let s := s.pushAccess x.k fun id =>
      { id, kind := .reduction (aop m) ty b, va := ea, size, ty, scope := mScope m, state := if mRel m then .unreleased else .sent,
        pc := x.pc, word := x.off, rel := mRel m, batch := some b0
        dests := ts.map fun t => { thread := t, reg := 0, cnt := 0, flag := none, before := some (own t) } }
    { s with idNext := s.idNext + (ts.length - 1) }
  else ts.foldl (fun s t => s.storeOne x m b0 t ea size (own t) true) s

/-- RED (R338 to R342). -/
def execRed (m : Mods) (a b : RegNo) (s : State) : Host.Outcome State Fault Refusal :=
  let ty := aopTyOf (aop m) m.ty.toNat
  let cnt := tyRegs m.ty.toNat
  let size := 4 * cnt
  let b0 := s.idNext
  runWord s (.red m a b) nOf noExtra fun x ts =>
    let ea (t : Nat) : Nat := (x.tm.thread t).ea a 0 size
    let judged := (byThread ts).map fun t => (t, ea t)
    match s.firstFreeze x a kRed true (mSys m) (!mRel m) (some (aop m, ty)) size judged with
    | some (t, code, info, va) => s.takeTrap x t code info va
    | none =>
      let own (t : Nat) : Nat := (x.tm.thread t).getN b.toNat cnt
      ((atomRequests (aop m) ty ea own own ts).foldl (fun s r => s.redOne x m b0 ty size own r) s).advance x

/-- Performs one request of ATOMS in the column store (R339, R342). -/
def Team.atomsOne (tm : Team) (op ty : Nat) (d : RegNo) (r : Nat × Nat × Nat × List (Nat × Option Nat)) : Team :=
  let (o, b, c, l) := r
  let old := tm.spadGet o 4
  let tm := tm.spadPut o 4 (aopApply op ty old b c)
  l.foldl (fun tm p => tm.putRegs p.1 d.toNat (match p.2 with | none => old | some q => aopApply op ty old q 0) 1) tm

/-- ATOMS (R338 to R342): performed in the column store; its release, if any, comes first (R335). -/
def execAtoms (m : Mods) (d a b : RegNo) (s : State) : Host.Outcome State Fault Refusal :=
  let ty := aopTyOf (aop m) m.ty.toNat
  runWord s (.atoms m d a b) nOf noExtra fun x ts =>
    let so (t : Nat) : Nat := ((x.tm.thread t).get a.toNat).toNat
    match x.tm.firstSpad kAtomic 4 ((byThread ts).map fun t => (t, so t)) with
    | some (t, code, info, va) => s.takeTrap x t code info va
    | none =>
      let perform (s : State) : State :=
        match s.team? x.k with
        | none => s
        | some tm =>
          if ts.any fun t => tm.sbStall true (so t) 4 then s.sbWait x ts
          else
            match tm.firstPoison ((byThread ts).map fun t => (t, so t)) with
            | some (t, o) => s.takeTrap x t 0x1040 kAtomic o
            | none =>
            let own (r : RegNo) (t : Nat) : Nat := ((x.tm.thread t).get r.toNat).toNat
            let s := (s.go x).modTeam x.k fun tm =>
              (atomRequests (aop m) ty so (own b) (own m.c) ts).foldl (fun tm r => tm.atomsOne (aop m) ty d r) tm
            let s := if mAcq m then s.modThreads x.k ts fun th => { th with hold := some { acq := true, rel := false, scope := mScope m, returned := true } } else s
            s.advance x
      if mRel m then s.afterRelease x ts (mScope m) perform else perform s

end Sys2Proof.Machine
end

