-- ==== Sys2Proof/Machine/Engines.lean ====
section
/-! DEFINITION. Engine instructions of the lane pipe (R343 to R360, R427): what each checks, claims and requests at issue. -/

namespace Sys2Proof.Machine

/-! ### Requests -/

/-- A tile slot of a team (R139). -/
def Team.tile (tm : Team) (ts : Nat) : Tile := sget {} tm.tiles ts
/-- Changes a slot; MWTG sees the tag it watches, however briefly the slot holds it (R139). -/
def Team.setTile (tm : Team) (ts : Nat) (x : Tile) : Team :=
  { tm with tiles := sins tm.tiles ts x
            stream := if tm.stream.watch = some (ts, x.tag) then { tm.stream with seen := true } else tm.stream }
def Team.modTile (tm : Team) (ts : Nat) (f : Tile → Tile) : Team := tm.setTile ts (f (tm.tile ts))

/-- A request joins the queue of each slot listed, in order (R139, R347). -/
def Team.join (tm : Team) (id : Nat) (slots : List Nat) : Team :=
  slots.foldl (fun tm ts => tm.modTile ts fun x => { x with queue := x.queue ++ [id] }) tm

/-- Consecutive tile slots. -/
def slotRange (k n : Nat) : List Nat := (List.range n).map (k + ·)

/-- A request served by a column copy engine (R343). -/
def ReqKind.column : ReqKind → Bool
  | .copy | .cpyt | .gath | .scat | .tdset | .tdrd => true
  | _ => false

/-- Whether a copy engine request is a stream in flight: it has begun, has not moved all, and is not stopped (R64). -/
def Req.streaming (r : Req) : Bool := r.kind.column && r.begun && r.step != 2 && !r.stopped

/-- The stretches of a copy engine stream (R64, R131): between the base die and the four banks of the column store, or among the banks. -/
def Req.path (r : Req) : Path :=
  let up : Path := [1, 2, 3, 4].map fun x => (0, x)
  let down : Path := [1, 2, 3, 4].map fun x => (x, 0)
  let among : Path := [1, 2, 3, 4].flatMap fun x => ([1, 2, 3, 4] : List Nat).map fun y => (x, y)
  match r.kind with
  | .copy => if r.xm % 4 = 0 then (if r.xm / 4 = 0 then up ++ down else down) else if r.xm / 4 = 0 then up else among
  | .cpyt => if r.xm % 2 = 1 then down else up
  | .gath => up
  | .scat => down
  | .tdset | .tdrd => []
  | _ => []

/-! ### Where a request writes (R193, R348, R350, R353) -/

/-- The address of entry n of a context's tensor id table (R349). -/
def State.tdAddr (s : State) (ck n : Nat) : Nat := s.rbits (kTd ck 0) 31 14 * 2 ^ 14 + 2 ^ 32 * s.rbits (kTd ck 4) 19 0 + 64 * n
/-- TEN (R349). -/
def State.ten (s : State) (ck : Nat) : Bool := s.rbits (kTd ck 0) 0 0 == 1

/-- Fields of an entry (R350). -/
def tdFmt (e : List Word) : Nat := bits (wd e 0) 4 0
def tdNdim (e : List Word) : Nat := bits (wd e 0) 8 7 + 1
def tdBlock (e : List Word) : Nat := if bits (wd e 0) 9 9 = 0 then 16 else 32
def tdSdim (e : List Word) : Nat := bits (wd e 0) 11 10
def tdV (e : List Word) : Bool := bits (wd e 0) 15 15 == 1
def tdAper (e : List Word) : Nat := bits (wd e 0) 20 16
def tdBase (e : List Word) : Nat := addr52 (wd e 1) (wd e 2)
def tdScb (e : List Word) : Nat := addr52 (wd e 3) (wd e 4)
def tdDim (e : List Word) (k : Nat) : Nat := (wd e (5 + k)).toNat
def tdStr (e : List Word) (k : Nat) : Nat := if k = 0 then 0 else (wd e (8 + k)).toNat

/-- Elements per row of a tile type (R345). -/
def tileE (ty : Nat) : Nat := if ty = 1 ∨ ty = 17 ∨ ty = 18 ∨ ty = 22 then 128 else if ty = 15 ∨ ty = 16 then 64 else 32

/-- The width in bits of an element type (R243). -/
def elemWidth (ty : Nat) : Nat :=
  if ty = 19 then 6 else if ty = 20 then 4 else if ty = 22 then 2 else if ty = 1 ∨ ty = 17 ∨ ty = 18 then 8 else if ty = 15 ∨ ty = 16 then 16 else 32

/-- One address in each line of a byte range, the first byte of the range in it. -/
def lineAddrs (va len : Nat) : List Nat := (List.range ((va + len - 1) / 128 + 1 - va / 128)).map fun j => max va (128 * (va / 128 + j))

/-- One address for each line among some addresses. -/
def oneEach (l : List Nat) : List Nat := l.foldl (fun acc a => if acc.any fun b => b / 128 == a / 128 then acc else acc ++ [a]) []

/-- The indices of a gather or scatter, from the scratchpad (R348). -/
def Team.indices (tm : Team) (r : Req) : List Nat := (List.range (r.b / 2 ^ 23 + 1)).map fun j => tm.spadGet (r.b % 2 ^ 23 + 4 * j) 4

/-- The registers of one element of a tensor tile: slot, row and column of the tile, and the tensor indices (R353). -/
structure Elem where
  slot : Nat
  row : Nat
  e : Nat
  i : List Nat
  deriving DecidableEq, Repr

/-- Fields of a CPYT's vD (R352). -/
def Req.cpytW (r : Req) : Nat := if r.d / 2 ^ 12 % 256 = 0 then tileE r.ty else r.d / 2 ^ 12 % 256
def Req.cpytN (r : Req) : Nat := r.d / 2 ^ 8 % 16 + 1

/-- The tensor indices of element (row, e) of slot k + j (R353). -/
def Req.tdIndex (r : Req) (j row e : Nat) : List Nat :=
  [(wd r.quad 0).toNat + e, (wd r.quad 1).toNat + 32 * j + row, (wd r.quad 2).toNat, (wd r.quad 3).toNat]

/-- Whether an index is in bounds. -/
def tdIn (ent : List Word) (i : List Nat) : Bool := (List.range 4).all fun k => decide (i.getD k 0 < tdDim ent k)

/-- The first bit of an element (R350). -/
def tdBit (ent : List Word) (i : List Nat) : Nat :=
  8 * (tdBase ent + i.getD 1 0 * tdStr ent 1 + i.getD 2 0 * tdStr ent 2 + i.getD 3 0 * tdStr ent 3) + elemWidth (tdFmt ent) * i.getD 0 0

/-- The address of the scale of the block that holds an element (R350). -/
def tdScale (ent : List Word) (i : List Nat) : Nat :=
  let B := tdBlock ent
  let sd := tdSdim ent
  let ix (k : Nat) : Nat := if k = sd then i.getD k 0 / B else i.getD k 0
  let ex (k : Nat) : Nat := if k = sd then (tdDim ent k + B - 1) / B else tdDim ent k
  tdScb ent + (ix 0 + ex 0 * (ix 1 + ex 1 * (ix 2 + ex 2 * ix 3)))

/-- Whether a tensor's elements carry block scales. -/
def tdScaled (ent : List Word) : Bool := tdFmt ent == 19 || tdFmt ent == 20

/-- The elements of a slot of a CPYT that lie in bounds. -/
def Req.elems (r : Req) (j : Nat) : List Elem :=
  ((List.range 32).flatMap fun row => (List.range r.cpytW).map fun e => ({ slot := j, row, e, i := r.tdIndex j row e } : Elem)).filter fun x =>
    tdIn r.entry x.i

/-- One address in every line that the elements of some slots of a storing CPYT touch, or their scales (R353). -/
def Req.slotAddrs (r : Req) (js : List Nat) : List Nat :=
  let es := js.flatMap r.elems
  let w := elemWidth (tdFmt r.entry)
  let bytes := es.flatMap fun x => [tdBit r.entry x.i / 8, (tdBit r.entry x.i + w - 1) / 8]
  oneEach (bytes ++ if tdScaled r.entry then es.map fun x => tdScale r.entry x.i else [])

/-- One address in every line of a request's global destination, in ascending order of address (R193). -/
def Req.destAddrs (r : Req) (s : State) (tm : Option Team) : List Nat :=
  match r.kind with
  | .copy => if r.xm % 4 = 0 then lineAddrs r.d r.b else []
  | .cpyt => if r.xm % 2 = 0 then [] else oneEach (byThread (r.slotAddrs (List.range r.cpytN)))
  | .scat => (match tm with | some tm => oneEach (byThread ((tm.indices r).map fun i => r.a + i * r.ty)) | none => [])
  | .tdset => lineAddrs (s.tdAddr r.ctx (r.d % 256)) 64
  | .tdrd => lineAddrs r.d 64
  | .coll => lineAddrs r.d (4 * (r.b % 2 ^ 16))
  | _ => []

/-- The issuing column's copies of a request's destination lines are dropped at issue (R193); what it had written of them goes to their homes. -/
def State.dropCopies (s : State) (r : Req) : State :=
  (r.destAddrs s (s.team? r.team)).foldl (fun s va =>
    match s.keyOf (some r.col) r.ctx va with
    | some key => if winAt 0 ≤ key then s else (s.writeBack r.col (key / 128) none false).1
    | none => s) s

/-! ### Making requests -/

/-- Whether a column copy engine can accept `n` more requests of a context (R344, R417). -/
def State.accepts (s : State) (c ck n : Nat) : Bool :=
  decide ((s.reqs.filter fun r => r.kind.column && r.col == c).length + n ≤ 64) && !(s.col c).frozenCopy.contains ck

/-- The flag a flagged word names (R235). -/
def Iss.flagOf (x : Iss) (fs : Bool) : Nat := if fs then x.hdr.bf.toNat else x.hdr.af.toNat

/-- Makes a request: it takes its scoreboard entries and its places in tile queues, its flag rises (R235, R344, R347), and its column's copies of what it
writes are dropped. None when the scoreboard has no room for the entries, or owes its next ones to another word (R137). -/
def State.request (s : State) (x : Iss) (ts : List Nat) (fl : Option Nat) (entries : List (Bool × Nat × Nat)) (slots : List Nat)
    (mk : Nat → Req) : Option State :=
  let id := s.idNext
  match s.team? x.k with
  | none => none
  | some tm =>
    if !entries.isEmpty && (decide (16 < tm.sb.length + entries.length) || !(tm.sbWait.isEmpty || ts.contains (tm.sbWait.headD 0))) then none
    else
      let tm := { tm with sbWait := tm.sbWait.filter fun t => !ts.contains t
                          sb := tm.sb ++ entries.map fun (e : Bool × Nat × Nat) => ({ write := e.1, lo := e.2.1, hi := e.2.2, req := id } : SbEntry) }
      let s := ({ s with idNext := id + 1, reqs := s.reqs ++ [mk id] }).setTeam x.k (tm.join id slots)
      some ((s.raiseFlags x.k fl ts).dropCopies (mk id))

/-- The fields every request takes from its word. -/
def State.reqOf (s : State) (x : Iss) (kind : ReqKind) (ts : List Nat) (fl : Option Nat) (id : Nat) : Req :=
  { id, kind, ctx := s.teamCtx x.tm, col := teamCol x.k, team := x.k, age := x.tm.age, threads := ts, flag := fl, pc := x.pc, word := x.off,
    priv := s.teamPriv x.tm }

/-- The granules a byte range touches (R137). -/
def granules (o len : Nat) : Nat × Nat := (o / 64, (o + len - 1) / 64)

/-- Makes the requests of a word in order; the threads of those that find no scoreboard room wait (R60, R137). -/
def State.makeAll (s : State) (x : Iss) (make : State → List Nat → Option State) : List (List Nat) → State × List Nat
  | [] => (s, [])
  | ts :: rest =>
    match make s ts with
    | some s => State.makeAll (s.modThreads x.k ts fun th => { th with wait := {} }) x make rest
    | none => (s, (ts :: rest).flatten)

/-- The requests of a word are made, and the bundle goes on once all are. -/
def State.makeReqs (s : State) (x : Iss) (make : State → List Nat → Option State) (chunks : List (List Nat)) : State :=
  match s.makeAll x make chunks with
  | (s, []) => s.advance x
  | (s, rest) =>
    (s.modTeam x.k fun tm => { tm with sbWait := tm.sbWait ++ rest.filter fun t => !tm.sbWait.contains t }).waitAt x rest
      (fun _ => { kind := .scoreboard, word := x.off }) true

/-- The first memory fault judged at issue, in thread order. -/
def firstMem (f : Nat → Option (Nat × Nat × Nat)) : List Nat → Option (Nat × Nat × Nat × Nat)
  | [] => none
  | t :: rest =>
    match f t with
    | some (code, info, va) => some (t, code, info, va)
    | none => firstMem f rest

/-- Runs an engine word (R343, R344): issue faults, the release at issue, and one request for each passing thread, or one for the bundle. A column copy
engine accepts each request that is made. -/
def runEngine (s : State) (i : Instr) (extra : Iss → Nat → List (Bool × Nat × Nat)) (mem : Iss → Nat → Option (Nat × Nat × Nat))
    (scope : Option Nat) (column : Bool) (make : Iss → State → List Nat → Option State) : Host.Outcome State Fault Refusal :=
  match s.iss, form i with
  | some x, some f =>
    let make1 (s : State) (ts : List Nat) : Option State :=
      if column && !(s.accepts (teamCol x.k) (s.teamCtx x.tm) 1) then none else make x s ts
    .next
      (if x.b.issued then
         let ts := (byLane (x.passing f.m)).filter fun t => (x.tm.thread t).wait.kind == .scoreboard
         s.makeReqs x make1 (if f.once then [ts] else ts.map fun t => [t])
       else
         match x.firstFault f (nOf x) (extra x) (x.judged f) with
         | some (t, code, info) => s.takeTrap x t code info (x.faultAddr f t code)
         | none =>
           let ts := byLane (x.passing f.m)
           if ts = [] then s.advance x
           else
             match firstMem (mem x) (if f.once then [lowLane ts] else byThread ts) with
             | some (t, code, info, va) => s.takeTrap x t code info va
             | none =>
               if column && !(s.accepts (teamCol x.k) (s.teamCtx x.tm) ts.length) then s
               else
                 let go (s : State) : State := s.makeReqs x make1 (if f.once then [ts] else ts.map fun t => [t])
                 match scope with
                 | some sc => s.afterRelease x ts sc go
                 | none => go s)
  | _, _ => .fault .noBundle

/-- No memory fault is judged at issue. -/
def noMem (_ : Iss) (_ : Nat) : Option (Nat × Nat × Nat) := none

/-- The first slot of a list at or beyond TSL. -/
def Team.badSlot (tm : Team) (slots : List Nat) : Option Nat := slots.find? fun t => decide (tm.tsl ≤ t)

/-- CODE 0x0042 (R427). -/
def slotBad (x : Iss) (slots : List Nat) : Bool × Nat × Nat :=
  ((x.tm.badSlot slots).isSome, 0x0042, x.tm.tsl % 512 + 2 ^ 16 * ((x.tm.badSlot slots).getD 0 % 256))

/-- A freeze fault known from an engine word's operands alone: address bits or alignment of a global operand, or a scratchpad range beyond the
team's extent (R434). -/
def globalBad (kind va al : Nat) : Option (Nat × Nat × Nat) :=
  if va % al ≠ 0 then some (0x1009, kind + 16 * Nat.log2 al, va) else if 2 ^ 52 ≤ va then some (0x1008, kind, va) else none
def Iss.spadBad (x : Iss) (kind o len : Nat) : Option (Nat × Nat × Nat) := if x.tm.spadLen < o + len then some (0x100A, kind, o) else none

/-! ### CPY (R346, R347) -/

/-- The space codes of a copy. -/
def cpyD (m : Mods) : Nat := (m.xm.extractLsb' 0 2).toNat
def cpyS (m : Mods) : Nat := (m.xm.extractLsb' 2 2).toNat

/-- An operand of a copy in a space (R345). -/
def Thread.loc (th : Thread) (space : Nat) (r : RegNo) : Nat := if space = 0 then th.get64 r.toNat else (th.get r.toNat).toNat

/-- The slots of a tile operand of a copy. -/
def tileSlots (space o len : Nat) : List Nat := if space = 2 then slotRange (o % 256) (len / 4096) else []

/-- The issue faults of CPY (R427). -/
def cpyFaults (m : Mods) (d a b : RegNo) (x : Iss) (t : Nat) : List (Bool × Nat × Nat) :=
  let th := x.tm.thread t
  let D := cpyD m; let S := cpyS m
  let len := (th.get b.toNat).toNat
  let dv := th.loc D d; let av := th.loc S a
  let side (sp v : Nat) : Bool :=
    sp == 3 || (decide (sp < 2) && v % 4 != 0) || (sp == 2 && (len % 4096 != 0 || v / 256 != 0))
  let overlap : Bool :=
    D == S && (if D = 2 then (tileSlots 2 dv len).any fun k => (tileSlots 2 av len).contains k
               else decide (dv < av + len) && decide (av < dv + len))
  [(side D dv || side S av || decide (len < 4) || decide (2 ^ 24 < len) || len % 4 != 0 || (m.sat && S != 2),
    0x0040, m.xm.toNat + 256 * (len / 4 % 2 ^ 24)),
   (overlap, 0x0041, 0),
   slotBad x (tileSlots D dv len ++ tileSlots S av len)]

/-- CPY (R346, R347). -/
def execCpy (m : Mods) (fs : Bool) (d a b : RegNo) (s : State) : Host.Outcome State Fault Refusal :=
  let D := cpyD m; let S := cpyS m
  runEngine s (.cpy m fs d a b) (cpyFaults m d a b)
    (fun x t =>
      let th := x.tm.thread t
      let len := (th.get b.toNat).toNat
      let side (sp v kind : Nat) : Option (Nat × Nat × Nat) :=
        if sp = 0 then globalBad kind v 1 else if sp = 1 then x.spadBad kind v len else none
      (side D (th.loc D d) kEngW).or (side S (th.loc S a) kEngR))
    (some 0) true
    (fun x s ts =>
      let th := x.tm.thread (ts.headD 0)
      let len := (th.get b.toNat).toNat
      let dv := th.loc D d; let av := th.loc S a
      let fl := some (x.flagOf fs)
      let entries := (if D = 1 then [(true, granules dv len)] else []) ++ (if S = 1 then [(false, granules av len)] else [])
      s.request x ts fl (entries.map fun e => (e.1, e.2.1, e.2.2)) (tileSlots D dv len ++ tileSlots S av len) fun id =>
        { s.reqOf x .copy ts fl id with xm := m.xm.toNat, c := m.sat, d := dv, a := av, b := len })

/-! ### Tensor ids (R349 to R351, R481) -/

/-- Reads a tensor id entry at its home, through the translations of `cache`, with no refusal for PRIV (R155, R351). -/
def State.tdRead (s : State) (cache : Option Nat) (ck n : Nat) : State × Except (Nat × Nat × Nat) (List Word) :=
  match s.agentRead cache none ck kEngR true (s.tdAddr ck n) 64 with
  | (s, .ok bs) => (s, .ok (bytesWords bs))
  | (s, .error e) => (s, .error e)

/-- The element types of a tensor (R350). -/
def tdFmts : List Nat := [14, 15, 16, 17, 18, 19, 20, 1, 7, 22]

/-- Whether a record that sets V breaks R350. -/
def tdBad (e : List Word) : Bool :=
  bits (wd e 0) 31 21 != 0 || bits (wd e 0) 14 12 != 0 || bits (wd e 0) 6 5 != 0 || bits (wd e 2) 31 20 != 0 || bits (wd e 4) 31 20 != 0
    || wd e 12 != 0 || wd e 13 != 0 || bits (wd e 15) 31 16 != 0
    || !tdFmts.contains (tdFmt e) || !(tdAper e == 0 || (decide (4 ≤ tdAper e) && decide (tdAper e ≤ 16)))
    || (List.range 4).any (fun k => tdDim e k == 0 || (decide (tdNdim e ≤ k) && tdDim e k != 1))
    || [1, 2, 3].any fun k => tdStr e k % 4 != 0

/-- CODE 0x0043 of an id register. -/
def idBad (a : RegNo) (x : Iss) (t : Nat) : List (Bool × Nat × Nat) :=
  let v := ((x.tm.thread t).get a.toNat).toNat
  [(v / 256 != 0, 0x0043, v)]

/-- TDSET (R351). -/
def execTdset (m : Mods) (fs : Bool) (a b : RegNo) (s : State) : Host.Outcome State Fault Refusal :=
  runEngine s (.tdset m fs a b) (idBad a) (fun x t => globalBad kEngR ((x.tm.thread t).get64 b.toNat) 64) (some 0) true
    (fun x s ts =>
      let th := x.tm.thread (ts.headD 0)
      let fl := some (x.flagOf fs)
      s.request x ts fl [] [] fun id => { s.reqOf x .tdset ts fl id with d := th.nat a, a := th.get64 b.toNat })

/-- TDRD (R351). -/
def execTdrd (m : Mods) (fs : Bool) (a b : RegNo) (s : State) : Host.Outcome State Fault Refusal :=
  runEngine s (.tdrd m fs a b) (idBad a) (fun x t => globalBad kEngW ((x.tm.thread t).get64 b.toNat) 64) (some 0) true
    (fun x s ts =>
      let th := x.tm.thread (ts.headD 0)
      let fl := some (x.flagOf fs)
      s.request x ts fl [] [] fun id => { s.reqOf x .tdrd ts fl id with xm := m.xm.toNat, d := th.get64 b.toNat, a := th.nat a })

/-! ### CPYT (R352, R353) -/

/-- The pairs of tensor format and tile type that CPYT takes (R353). -/
def cpytPair (st : Bool) (fmt ty : Nat) : Bool :=
  fmt == ty ||
  (if st then (ty == 14 && [15, 16, 17, 18, 19, 20].contains fmt) || (ty == 7 && fmt == 1)
   else ((fmt == 19 || fmt == 20) && [16, 17, 18].contains ty) || (fmt == 14 && [15, 16, 17, 18].contains ty))

/-- The tile type of CPYT: TY 0 is f32. -/
def cpytTy (m : Mods) : Nat := if m.ty = 0 then 14 else m.ty.toNat

/-- The conditions of 0x0044 on an entry, in the order listed (R427): the number of the first that fails. -/
def cpytCheck (st c : Bool) (ty vd i0 : Nat) (e : Option (List Word)) : Option Nat :=
  let E := tileE ty
  let W := if vd / 2 ^ 12 % 256 = 0 then E else vd / 2 ^ 12 % 256
  let fmt := match e with | some e => tdFmt e | none => ty
  let blk : Bool := match e with
    | some e => (fmt == 19 || fmt == 20) && tdSdim e == 0 && (i0 % tdBlock e != 0 || W % tdBlock e != 0)
    | none => false
  let conds := [c && !st, vd / 2 ^ 20 != 0, decide (E < W), e.isSome && !cpytPair st fmt ty, e.isSome && i0 * elemWidth fmt % 8 != 0, blk]
  (conds.findIdx? fun b => b).map (· + 1)

/-- CPYT (R352, R353): the entry is read once, at issue; a memory fault of that read is met by the request (R481). -/
def execCpyt (m : Mods) (fs : Bool) (d a b : RegNo) (s : State) : Host.Outcome State Fault Refusal :=
  let st := m.xm.getLsbD 0
  let ty := cpytTy m
  let entry (s : State) (x : Iss) (id : Nat) : State × Option (List Word) :=
    match s.tdRead (some (teamCol x.k)) (s.teamCtx x.tm) (id % 256) with | (s, .ok e) => (s, some e) | (s, .error _) => (s, none)
  runEngine s (.cpyt m fs d a b)
    (fun x t =>
      let th := x.tm.thread t
      let vd := th.nat d; let id := th.nat a
      let e := (entry s x id).2
      let bad : Bool := !s.ten (s.teamCtx x.tm) || (match e with | some e => !tdV e | none => false)
      let f := cpytCheck st m.sat ty vd (th.nat b) e
      [slotBad x (slotRange (vd % 256) (vd / 256 % 16 + 1)), (id / 256 != 0 || bad, 0x0043, id), (f.isSome, 0x0044, f.getD 0)])
    noMem (some 0) true
    (fun x s ts =>
      let th := x.tm.thread (ts.headD 0)
      let fl := some (x.flagOf fs)
      let vd := th.nat d
      let (s, e) := entry s x (th.nat a)
      s.request x ts fl [] (slotRange (vd % 256) (vd / 256 % 16 + 1)) fun id =>
        { s.reqOf x .cpyt ts fl id with
          xm := m.xm.toNat, c := m.sat, ty, d := vd, a := th.nat a, quad := (List.range 4).map fun k => th.get (b.toNat + k)
          entry := e.getD [] })

/-! ### GATH and SCAT (R348) -/

/-- The element size of GATH and SCAT (R348). -/
def gathSize (m : Mods) : Nat := memSize m.ty.toNat

/-- The issue faults of GATH and SCAT (R426, R427). DEDUCED: of the two codes that R427 gives a misaligned operand, 0x0040 is the global base address's and
0x0045 the scratchpad's; a block of registers that runs past v127 is 0x0045 alone. -/
def gathFaults (m : Mods) (d a b : RegNo) (x : Iss) (t : Nat) : List (Bool × Nat × Nat) :=
  let th := x.tm.thread t
  let size := gathSize m
  let r := m.xm.getLsbD 0
  let v := th.nat b
  let n := v / 2 ^ 23 + 1
  let regs := n * size / 4
  let fits := r && decide (regs ≤ 8) && decide (d.toNat + regs ≤ 128)
  let pend := (List.range regs).find? fun j => th.pend.any fun p => p.1 == d.toNat + j
  let conds := [v % 4 != 0 || (!r && th.nat d % size != 0), r && decide (size < 4), r && (decide (8 < regs) || decide (128 < d.toNat + regs)),
    m.xm.extractLsb' 1 3 != 0]
  let f := (conds.findIdx? fun b => b).map (· + 1)
  [(fits && decide (x.tm.n t < d.toNat + regs), 0x0020, max (x.tm.n t) d.toNat + 256 * x.tm.n t),
   (fits && pend.isSome, 0x0022, d.toNat + pend.getD 0),
   (th.get64 a.toNat % 4 != 0, 0x0040, m.xm.toNat),
   (f.isSome, 0x0045, f.getD 0)]

/-- The memory faults of GATH and SCAT known at issue (R434). -/
def gathMem (m : Mods) (d a b : RegNo) (kindG kindS : Nat) (x : Iss) (t : Nat) : Option (Nat × Nat × Nat) :=
  let th := x.tm.thread t
  let size := gathSize m
  let v := th.nat b
  let n := v / 2 ^ 23 + 1
  (globalBad kindG (th.get64 a.toNat) size).or
    ((x.spadBad kEngR (v % 2 ^ 23) (4 * n)).or (if m.xm.getLsbD 0 then none else x.spadBad kindS (th.nat d) (n * size)))

/-- GATH (R348). -/
def execGath (m : Mods) (fs : Bool) (d a b : RegNo) (s : State) : Host.Outcome State Fault Refusal :=
  runEngine s (.gath m fs d a b) (gathFaults m d a b) (gathMem m d a b kEngR kEngW) (some 0) true
    (fun x s ts =>
      let t := ts.headD 0
      let th := x.tm.thread t
      let size := gathSize m
      let r := m.xm.getLsbD 0
      let v := th.nat b
      let n := v / 2 ^ 23 + 1
      let fl := some (x.flagOf fs)
      let entries := (false, granules (v % 2 ^ 23) (4 * n)) :: (if r then [] else [(true, granules (th.nat d) (n * size))])
      match s.request x ts fl (entries.map fun e => (e.1, e.2.1, e.2.2)) [] (fun id =>
          { s.reqOf x .gath ts fl id with xm := m.xm.toNat, ty := size, d := if r then d.toNat else th.nat d, a := th.get64 a.toNat, b := v }) with
      | some s =>
        let id := s.idNext - 1
        some (if r then
          (s.modThread x.k t fun th => th.addPend d.toNat (n * size / 4) fl).modTeam x.k fun tm =>
            let a : Access := { id, kind := .gather, va := 0, size := 0, ty := 0, scope := 0, state := .sent, pc := x.pc, word := x.off,
                                dests := [{ thread := t, reg := d.toNat, cnt := n * size / 4, flag := fl }] }
            { tm with accesses := tm.accesses ++ [a] }
        else s)
      | none => none)

/-- SCAT (R348). -/
def execScat (m : Mods) (fs : Bool) (d a b : RegNo) (s : State) : Host.Outcome State Fault Refusal :=
  runEngine s (.scat m fs d a b) (gathFaults m d a b) (gathMem m d a b kEngW kEngR) (some 0) true
    (fun x s ts =>
      let th := x.tm.thread (ts.headD 0)
      let size := gathSize m
      let r := m.xm.getLsbD 0
      let v := th.nat b
      let n := v / 2 ^ 23 + 1
      let fl := some (x.flagOf fs)
      let entries := (false, granules (v % 2 ^ 23) (4 * n)) :: (if r then [] else [(false, granules (th.nat d) (n * size))])
      s.request x ts fl (entries.map fun e => (e.1, e.2.1, e.2.2)) [] fun id =>
        { s.reqOf x .scat ts fl id with
          xm := m.xm.toNat, ty := size, d := if r then d.toNat else th.nat d, a := th.get64 a.toNat, b := v
          quad := if r then (List.range (n * size / 4)).map fun j => th.get (d.toNat + j) else [] })

/-! ### TTAG, JNEXT, COLL and PLMV (R354 to R357) -/

/-- TTAG (R354): the request joins the slot's queue; the thread does not wait. -/
def execTtag (m : Mods) (a b : RegNo) (s : State) : Host.Outcome State Fault Refusal :=
  runEngine s (.ttag m a b)
    (fun x t =>
      let th := x.tm.thread t
      [(th.nat a / 256 != 0 || decide (2 ≤ th.nat b), 0x0040, 0), slotBad x [th.nat a % 256]])
    noMem none false
    (fun x s ts =>
      let th := x.tm.thread (ts.headD 0)
      s.request x ts none [] [th.nat a] fun id => { s.reqOf x .ttag ts none id with d := th.nat a, a := th.nat b })

/-- JNEXT (R100, R355): one dealing request for the bundle, with a W entry for the 8 bytes it writes. -/
def execJnext (m : Mods) (fs : Bool) (a : RegNo) (s : State) : Host.Outcome State Fault Refusal :=
  runEngine s (.jnext m fs a)
    (fun x t => let v := (x.tm.thread t).nat a; [(v % 8 != 0, 0x0046, v)])
    (fun x t => x.spadBad kEngW ((x.tm.thread t).nat a) 8) none false
    (fun x s ts =>
      let fl := some (x.flagOf fs)
      let o := (x.lead ts).nat a
      s.request x ts fl [(true, granules o 8)] [] fun id => { s.reqOf x .jnext ts fl id with d := o })

/-- Whether a COLL word cannot join its group (R400, R427). -/
def State.collBad (s : State) (ck op v : Nat) : Bool :=
  let n := v % 2 ^ 16
  let g := v / 2 ^ 16 % 256
  let r (o : Nat) : Word := s.rget (key0 0 (0x181000 + 16 * g + o))
  let dev := s.rbits (key0 0 0x180000) 5 0
  n == 0 || decide (4096 < n) || op == 3 || v / 2 ^ 24 != 0 || decide (16 ≤ g) || bits (r 8) 31 31 == 0
    || !((r (if dev < 32 then 0 else 4)).getLsbD (dev % 32)) || bits (r 8) 11 0 != s.rbits (kLk ck 8) 11 0 || s.rbits (kLk ck 8) 31 31 == 0

/-- COLL (R356): after a device-scope release, the buffer joins the group's next collective. -/
def execColl (m : Mods) (fs : Bool) (a b : RegNo) (s : State) : Host.Outcome State Fault Refusal :=
  runEngine s (.coll m fs a b)
    (fun x t => let v := (x.tm.thread t).nat b; [(s.collBad (s.teamCtx x.tm) (m.xm.extractLsb' 0 2).toNat v, 0x0047, v)])
    (fun x t => globalBad kEngR ((x.tm.thread t).get64 a.toNat) 4) (some 2) false
    (fun x s ts =>
      let th := x.lead ts
      let fl := some (x.flagOf fs)
      s.request x ts fl [] [] fun id =>
        { s.reqOf x .coll ts fl id with
          xm := (m.xm.extractLsb' 0 2).toNat, ty := if m.ty = 0 then 7 else m.ty.toNat, d := th.get64 a.toNat, b := th.nat b })

/-- PLMV (R167, R357): after a device-scope release, a bulk engine is asked to re-stripe a page; it begins by translating the address (R445). -/
def execPlmv (m : Mods) (fs : Bool) (a b : RegNo) (s : State) : Host.Outcome State Fault Refusal :=
  runEngine s (.plmv m fs a b)
    (fun x t => [(b.toNat % 4 != 0 || (x.tm.thread t).get (b.toNat + 3) != 0, 0x0048, 0)])
    (fun x t => globalBad kEngR ((x.tm.thread t).get64 a.toNat) 1) (some 2) false
    (fun x s ts =>
      let th := x.tm.thread (ts.headD 0)
      let fl := some (x.flagOf fs)
      s.request x ts fl [] [] fun id =>
        { s.reqOf x .plmv ts fl id with d := th.get64 a.toNat, a := th.get64 b.toNat, b := th.nat (b + 2) })

/-! ### Holding the matrix engine (R358 to R360) -/

/-- The grant of R358: a range of 512 KiB of backing, when the core's engine is free for the team, and neither on its way there (R68) nor kept for a
successor that waits (R377). -/
def State.engineRoom (s : State) (k : Nat) (tm : Team) : Option (Nat × Nat) :=
  match tm.layer? with
  | none => none
  | some l =>
    let c := teamCol k
    let others := (s.teamsOf c).filter fun p => p.1 != k
    let baton := (s.col c).batons.any fun b => b.1 == l && b.2.1 != teamSlot k && decide (s.clock c < b.2.2)
    if (others.any fun p => (s.claims p.1 p.2 l || p.2.engAt == some l) && p.2.engine.isSome) || baton then none
    else
      let taken := tm.backing :: others.flatMap fun p => p.2.backing :: p.2.engBacking.toList
      freeExtent taken (2 ^ 19) (s.regions c (Card.part (s.teamCard tm))).1

/-- MXACQ (R358): 1 when the team holds the engine afterwards. DESIGN CHOICE (unsafe): a grant begins with a clear stream status, and with it no MAUD mark or
selection that the unit let pass is left from before; R367 does not say whether they outlast MXREL. -/
def execMxacq (m : Mods) (d : RegNo) (s : State) : Host.Outcome State Fault Refusal :=
  runWord s (.mxacq m d) nOf noExtra fun x ts =>
    if ts = [] then s.advance x
    else
      match x.tm.engine with
      | some e => (s.putAll x.k ts d.toNat 1 (if e.releasing.isSome then 0 else 1)).advance x
      | none =>
        match s.engineRoom x.k x.tm with
        | none => (s.putAll x.k ts d.toNat 1 0).advance x
        | some r =>
          let s := s.modCol (teamCol x.k) fun y => { y with batons := y.batons.filter fun b => !(b.2.1 == teamSlot x.k && x.tm.onCore b.1) }
          let s := s.modTeam x.k fun tm => { tm with engine := some {}, engBacking := some r, stream := {} }
          (s.putAll x.k ts d.toNat 1 1).advance x

/-- The engine a team holds and is not releasing. -/
def Team.eng? (tm : Team) : Option Engine := match tm.engine with | some e => if e.releasing.isSome then none else some e | none => none

/-- Stops a stream before its next M-word; ABT is set when it was running (R359). -/
def Stream.stop (st : Stream) : Stream :=
  if st.run then { st with run := false, wt := false, abt := true, token := none, ir := none, watch := none, held := false } else st

/-- MXREL (R359): the engine is released once its issued work has completed; the thread does not wait. -/
def execMxrel (m : Mods) (a : RegNo) (s : State) : Host.Outcome State Fault Refusal :=
  runWord s (.mxrel m a) nOf (fun x t => [((x.tm.thread t).nat a / 2 ^ 6 != 0, 0x0049, 4)]) fun x ts =>
    if ts = [] then s.advance x
    else
      (s.modTeam x.k fun tm =>
        match tm.eng? with
        | some e => (let tm := tm.unplace; { tm with engine := some { e with releasing := some ((x.lead ts).nat a) }, stream := tm.stream.stop })
        | none => tm).advance x

/-- The stream status (R360). -/
def Stream.status (st : Stream) : Nat :=
  st.flags.toNat + (if st.run then 2 ^ 8 else 0) + (if st.end_ then 2 ^ 9 else 0) + (if st.wt then 2 ^ 10 else 0) + (if st.abt then 2 ^ 11 else 0)

/-- The first condition of 0x0049 that fails for MXGO (R427). -/
def State.mxgoBad (s : State) (m : Mods) (a : RegNo) (x : Iss) (t : Nat) : Option Nat :=
  let st := m.xm.getLsbD 1
  let p := (x.tm.thread t).get64 a.toNat
  if x.tm.eng?.isNone then some 1
  else if m.xm.getLsbD 2 && !st then some 2
  else if !st && p % 4 != 0 then some 3
  else if !st && p == 0 && Card.msa (s.teamCard x.tm) == 0 then some 5
  else none

/-- MXGO (R360): starts the stream or reads its status; vD receives the status as it stood before. -/
def execMxgo (m : Mods) (d a b : RegNo) (s : State) : Host.Outcome State Fault Refusal :=
  runWord s (.mxgo m d a b) nOf
    (fun x t => [((s.mxgoBad m a x t).isSome, 0x0049, (s.mxgoBad m a x t).getD 0)])
    fun x ts =>
      if ts = [] then s.advance x
      else
        let old := x.tm.stream
        let th := x.lead ts
        let p := th.get64 a.toNat
        let s := s.modTeam x.k fun tm =>
          if m.xm.getLsbD 1 then (if m.xm.getLsbD 2 then { tm with stream := { tm.stream with flags := 0 } } else tm)
          else if old.run then tm
          else
            { tm with
              stream := { pos := if p = 0 then Card.msa (s.teamCard x.tm) else p, run := true, rcDefault := m.xm.getLsbD 0, audit := old.audit }
              mregs := sput 0 [] 0 (th.get b.toNat) }
        (s.putAll x.k ts d.toNat 1 old.status).advance x

end Sys2Proof.Machine
end

