-- ==== Sys2Proof/Machine/EngineEvents.lean ====
section
/-! DEFINITION. What the engines do after issue (R193 to R195, R347 to R356, R359, R428, R436, R448, R481): ownership, transfers, completions and
their faults. -/

namespace Sys2Proof.Machine

/-! ### Requests in progress -/

def State.req? (s : State) (id : Nat) : Option Req := s.reqs.find? fun r => r.id == id
def State.modReq (s : State) (id : Nat) (f : Req → Req) : State := { s with reqs := s.reqs.map fun r => if r.id = id then f r else r }

/-- The team that issued a request, while it holds its slot. -/
def State.reqTeam (s : State) (r : Req) : Option Team :=
  match s.team? r.team with
  | some tm => if tm.age = r.age then some tm else none
  | none => none

/-- Changes the team that issued a request. -/
def State.modReqTeam (s : State) (r : Req) (f : Team → Team) : State :=
  match s.reqTeam r with
  | some tm => s.setTeam r.team (f tm)
  | none => s

/-- SRC of a request's engine (R412). -/
def Req.src (r : Req) : Nat := match r.kind with | .coll => 4 | .plmv => 3 | _ => 2

/-- The translations a request's engine uses: its column's, or, from 64 upward, its own (R161). -/
def Req.column (r : Req) : Option Nat := some (if r.kind.column then r.col else 64 + r.src)

/-- The privilege of a request's writes: the tensor id table is never refused for PRIV (R155). -/
def Req.wpriv (r : Req) : Bool := r.priv || r.kind == .tdset

/-- The path of a transfer that a column has asked for and not begun (R64, R81): of a team that migrates, parks or is to be placed, or of a copy engine
request. -/
def State.askedPath (s : State) (c e : Nat) : Option Path :=
  if e < 32 then
    match s.team? (teamKey c e) with
    | none => none
    | some tm =>
      match tm.place with
      | .core l =>
        if s.migrating (teamKey c e) then (s.col c).migration.map fun m => [(l, m.dst)]
        else if s.toPark tm then some (toStore l) else none
      | .parked => if s.teamReady tm then (s.chooseCore c (teamKey c e) tm).map fromStore else none
      | .moving _ _ => none
  else (s.reqs.find? fun r => r.id == e - 32 && r.col == c && !r.begun).map Req.path

/-- Whether a transfer may start: no realignment holds its path, and none that was held before it is free to start (R81 step 4). -/
def State.mayTransfer (s : State) (c e : Nat) (p : Path) : Bool :=
  !s.pathHeld c p false && (((s.col c).heldX.takeWhile fun x => x != e).all fun x =>
    match s.askedPath c x with | some q => s.pathHeld c q false | none => true)

/-- A transfer that realignment holds keeps its place in the order of the held ones (R81 step 4). -/
def State.holdTransfer (s : State) (c e : Nat) : State :=
  s.modCol c fun x => if x.heldX.contains e then x else { x with heldX := x.heldX ++ [e] }

/-- A transfer starts. -/
def State.startTransfer (s : State) (c e : Nat) (p : Path) : State :=
  (s.startPath c p).modCol c fun x => { x with heldX := x.heldX.filter fun y => y != e }

/-- A copy engine request moves data: its stream begins unless realignment holds it, and pauses while its path is realigned (R64, R81). -/
def State.stream (s : State) (r : Req) (f : State → State) : State :=
  if r.begun then (if s.pathHeld r.col r.path true then s else f s)
  else if s.mayTransfer r.col (32 + r.id) r.path then f ((s.startTransfer r.col (32 + r.id) r.path).modReq r.id fun q => { q with begun := true })
  else s.holdTransfer r.col (32 + r.id)

/-- Runs a step of a request that is neither stopped nor to be discarded, whose engine is not frozen for its context (R417, R428, R436). -/
def State.onReq (s : State) (id : Nat) (kind : ReqKind) (f : Req → State) : State :=
  match s.req? id with
  | some r =>
    if r.kind == kind && !r.stopped && !r.discard && !(r.kind.column && (s.col r.col).frozenCopy.contains r.ctx) then f r else s
  | none => s

/-- Ends a request: its ownerships, scoreboard entries and tile places are freed, its flag falls in each issuing thread, and a completion time
joins their horizons (R195, R344, R428); what the return router forwards is counted (R75, R79). A slot it still holds HELD becomes EMPTY. -/
def State.endReq (s : State) (r : Req) (t : Nat) : State :=
  let s := { s with reqs := s.reqs.filter fun q => q.id != r.id }
  let s := if r.begun then s.markPath r.col r.path else s
  let s := r.owned.foldl (fun s l =>
    let d := s.home l.2
    if d.owner = some r.id then s.setHome l.2 { d with owner := none } else s) s
  match s.reqTeam r with
  | none => s
  | some tm =>
    let free (x : Tile) : Tile :=
      { x with tag := if x.queue.head? = some r.id ∧ x.tag = .held then .empty else x.tag, queue := x.queue.filter fun q => q != r.id }
    let moved := (r.routed && t != 0) || tm.accesses.any fun a => a.id == r.id && a.routed
    let tm := { tm with sb := tm.sb.filter fun e => e.req != r.id, accesses := tm.accesses.filter fun a => a.id != r.id }
    let tm := (tm.tiles.filter fun (p : Nat × Tile) => p.2.queue.contains r.id).foldl (fun tm p => tm.modTile p.1 free) tm
    let tm := if moved then { tm with counters := { tm.counters with stakeBytes := (tm.counters.stakeBytes + 256) % 2 ^ 64 } } else tm
    let th (x : Thread) : Thread := let x := x.dropFlag? r.flag; { x with horizon := max x.horizon t }
    let s := s.setTeam r.team (tm.modThreads th r.threads)
    if tm.threads.all fun th => th.exited then s.afterExit r.team else s

/-- The record of a fault of a request (R422, R435): PC and WORD of the issuing word, THREAD the issuing thread. -/
def State.reqRec (s : State) (r : Req) (code info va : Nat) : Rec :=
  let base : Rec := { code, src := r.src, thread := r.threads.headD 0xFFFF, pc := r.pc, word := r.word, addr := va, info }
  match s.reqTeam r with
  | some tm => teamRec r.team tm base
  | none => { base with col := r.col, slot := teamSlot r.team }

/-- A fault that freezes the issuing team; on release the request is discarded (R428, R435, R445, R481). -/
def State.reqFreeze (s : State) (r : Req) (code info va : Nat) : State :=
  let s := (s.report r.ctx (s.reqRec r code info va)).modReq r.id fun q => { q with discard := true }
  match s.reqTeam r with
  | some _ => (s.freezeTeam r.team code).settle r.team
  | none => s

/-- A memory fault of a request: a repairable one stops it until a notice, one of freeze fate freezes its team, CODE 0 waits without a record
(R435, R436). -/
def State.reqFault (s : State) (r : Req) (e : Nat × Nat × Nat) : State :=
  let (code, info, va) := e
  if code = 0 then s
  else if freezeFate code then s.reqFreeze r code info va
  else
    (s.reportOnce r.ctx (if r.kind.column then none else some r.src) (info % 16) (s.reqRec r code info va)).modReq r.id fun q =>
      { q with stopped := true, stopVa := va }

/-! ### Bytes an engine reads and writes -/

/-- The column whose written bytes a request's engine sees (R194). -/
def Req.own (r : Req) : Option Nat := if r.kind.column then some r.col else none

/-- The bytes of a global source up to the first that faults (R194). -/
def State.engBytes (s : State) (r : Req) (priv : Bool) (va n : Nat) : State × List (Target × PByte) × Option (Nat × Nat × Nat) :=
  s.agentBytes r.column r.own (some r.id) r.ctx kEngR priv va n

/-- The bytes of a global source, read whole, or the first fault. -/
def State.engRead (s : State) (r : Req) (priv : Bool) (va n : Nat) : State × Except (Nat × Nat × Nat) (List PByte) :=
  match s.engBytes r priv va n with
  | (s, _, some e) => (s, .error e)
  | (s, l, none) => (s.sendReads r.ctx l, .ok (l.map Prod.snd))

/-- Scratchpad bytes with the poison of their granules. -/
def Team.spadBytes (tm : Team) (o n : Nat) : List PByte :=
  (List.range n).map fun j => (tm.spad.get (o + j), tm.spadPoison.contains ((o + j) / 64))

/-- Bytes of a tile slot. -/
def Tile.bytes (x : Tile) (o n : Nat) : List PByte := (List.range n).map fun j => (sget 0 x.data (o + j), x.poison)

/-- Poison of a unit of `size` bytes after `bs` are written at offset `o` of it: poisoned bytes poison it, a write of the whole unit clears it
(R448). -/
def unitPoison (size : Nat) (old : Bool) (bs : List PByte) : Bool := bs.any Prod.snd || (old && decide (bs.length < size))

/-- The pieces of bytes that start at an address, cut at multiples of `size`; at most `fuel` pieces. -/
def chunks (size va : Nat) (bs : List PByte) : Nat → List (Nat × List PByte)
  | 0 => []
  | fuel + 1 =>
    if bs = [] then []
    else let n := size - va % size; (va, bs.take n) :: chunks size (va + n) (bs.drop n) fuel

/-- Writes a piece of one scratchpad granule. -/
def Team.spadPiece (tm : Team) (p : Nat × List PByte) : Team :=
  let g := p.1 / 64
  let bad := unitPoison 64 (tm.spadPoison.contains g) p.2
  { tm with spad := tm.spad.putList p.1 (p.2.map Prod.fst)
            spadPoison := if bad then (if tm.spadPoison.contains g then tm.spadPoison else g :: tm.spadPoison)
                          else tm.spadPoison.filter fun x => x != g }

/-- Writes scratchpad bytes as an engine does. -/
def Team.spadWrite (tm : Team) (o : Nat) (bs : List PByte) : Team := (chunks 64 o bs (bs.length + 1)).foldl Team.spadPiece tm

/-- The target of a byte of a request's global destination: its owned line, else by translation. -/
def State.reqTarget (s : State) (r : Req) (va : Nat) : State × Except (Nat × Nat × Nat) Target :=
  match r.owned.find? fun l => l.1 == va / 128 with
  | some l =>
    let key := l.2 * 128 + va % 128
    (s, .ok (if key < winAt 0 then .hbm key else .window (key - winAt 0)))
  | none =>
    if 2 ^ 52 ≤ va then (s, .error (0x1008, kEngW, va))
    else
      match s.xlate r.column r.ctx va kEngW true r.wpriv false with
      | (s, .ok t) => (s, if s.targetUp t then .ok t else .error (0, kEngW, va))
      | (s, .error (code, info)) => (s, .error (code, info, va))

/-- Bytes to write, by ascending address, each with its source address where that is poisoned: those of one line are one piece. -/
abbrev WSet := List (Nat × Byte × Option Nat)

/-- Bytes in a row from a source address, ready to be written. -/
def marked (src : Nat) (bs : List PByte) : List (Byte × Option Nat) := bs.zipIdx.map fun b => (b.1.1, if b.1.2 then some (src + b.2) else none)

/-- Adds bytes to those to be written, over what an earlier one of them wrote. -/
def WSet.put (w : WSet) (va : Nat) (bs : List (Byte × Option Nat)) : WSet := bs.zipIdx.foldl (fun w b => sins w (va + b.2) b.1) w

/-- The pieces of bytes to write: runs of addresses `near` each other. -/
def WSet.pieces (near : Nat → Nat → Bool) : WSet → List WSet
  | [] => []
  | b :: rest =>
    match WSet.pieces near rest with
    | (c :: p) :: ps => if near b.1 c.1 then (b :: c :: p) :: ps else [b] :: (c :: p) :: ps
    | ps => [b] :: ps

/-- The address of a piece, and the source address of its first poisoned byte. -/
def WSet.addr (p : WSet) : Nat := (p.headD (0, 0, none)).1
def WSet.poison (p : WSet) : Option Nat := p.findSome? fun b => b.2.2

/-- Writes a piece that leaves the device: a message for each run of bytes. Poison is written as zeros, with a record that names its source (R448). -/
def State.engOut (s : State) (r : Req) (dev : Option Nat) (addr : Nat) (p : WSet) : State :=
  let runs := p.pieces fun a b => a + 1 == b
  let s := runs.foldl (fun s q =>
    let m : OutMsg := { dev, addr := addr + (q.addr - p.addr), data := q.map fun b => if b.2.2.isSome then 0 else b.2.1,
                        dctx := s.rbits (kLk r.ctx 8) 11 0, translated := dev.isNone, relaxed := dev.isNone }
    { s with outbox := m :: s.outbox }) s
  let s := if dev.isSome then s.modReq r.id fun q => { q with peerOut := q.peerOut + runs.length } else s
  match p.poison with
  | some a => s.report r.ctx { s.reqRec r 0x1041 kEngW a with cls := 2 }
  | none => s

/-- Writes a piece of one line of a request's global destination, as one write at its home, with which its ownership of the line ends (R177, R193). -/
def State.engPiece (s : State) (r : Req) (p : WSet) : State × Option (Nat × Nat × Nat) :=
  match s.reqTarget r p.addr with
  | (s, .error e) => (s, some e)
  | (s, .ok tgt) =>
    (match tgt with
      | .host a => s.engOut r none a p
      | .peer dev a => s.engOut r (some dev) a p
      | .hbm key | .window key =>
        let line := (match tgt with | .hbm _ => key | _ => winAt key) / 128
        let (s, t) := s.homeArrive line
          { t := 0, op := .write (p.map fun b => (b.1 % 128, b.2.1)), req := some r.id, last := (s.home line).owner == some r.id, poison := p.poison.isSome }
        (s.modReq r.id fun q => { q with t := max q.t t, owned := q.owned.filter fun l => l.2 != line }).localWrite r.ctx p.addr, none)

/-- Writes the lines of a request's destination that are ready, in order of address, up to the first that faults (R177, R193). -/
def State.flushLines (s : State) (r : Req) : List WSet → State × Option (Nat × Nat × Nat)
  | [] => (s, none)
  | p :: rest =>
    match s.engPiece r p with
    | (s, some e) => (s, some e)
    | (s, none) => State.flushLines (s.modReq r.id fun q => { q with buf := q.buf.filter fun b => b.1 / 128 != p.addr / 128 }) r rest

/-- Writes the lines that no byte is still to come for; the first fault. -/
def State.flush (s : State) (r : Req) (coming : Nat → Bool) : State × Option (Nat × Nat × Nat) :=
  s.flushLines r (WSet.pieces (fun a b => a / 128 == b / 128) (r.buf.filter fun b => !coming (b.1 / 128)))

/-- A request has read all (R137): its R entries retire. -/
def Team.readAll (tm : Team) (id : Nat) : Team := { tm with sb := tm.sb.filter fun e => e.req != id || e.write }

/-- All of a request is read: what is left of it is written line by line, and then it waits until its writes have been applied and acknowledged (R195). -/
def State.finish (s : State) (r : Req) : State :=
  let s := (s.modReqTeam r fun tm => tm.readAll r.id).modReq r.id fun q => { q with step := 3 }
  match s.req? r.id with
  | none => s
  | some r =>
    match s.flush r fun _ => false with
    | (s, some e) => s.reqFault r e
    | (s, none) => s.modReq r.id fun q => { q with step := 2 }

/-- Ends a request whose writes have all been applied at their homes, and acknowledged by peers (R195). -/
def State.land (s : State) (r : Req) : State :=
  if r.step = 3 then s.finish r
  else if r.peerOut == 0 && (s.puts.all fun p => p.req != some r.id) && s.dir.all fun p => p.2.waiting.all fun w => w.req != some r.id then s.endReq r r.t
  else s

/-! ### The range scoreboard and tile queues of a request (R138, R139) -/

/-- Whether an older live entry holds back a request's read or write of scratchpad bytes. -/
def Team.sbOlder (tm : Team) (id : Nat) (write : Bool) (o len : Nat) : Bool :=
  tm.sb.any fun e => decide (e.req < id) && (e.write || write) && decide (e.lo ≤ (o + len - 1) / 64) && decide (o / 64 ≤ e.hi)

/-- Whether a request stands at the front of a slot's queue with the tag it needs. -/
def Team.frontAt (tm : Team) (id ts : Nat) (tag : Tag) : Bool := (tm.tile ts).queue.head? == some id && (tm.tile ts).tag == tag

/-- A reader in one step: the request leaves the queue, and with `.c` the slot becomes EMPTY (R139). -/
def Team.readDone (tm : Team) (ts : Nat) (c : Bool) : Team :=
  tm.modTile ts fun x => { x with queue := x.queue.drop 1, tag := if c then .empty else x.tag }

/-- A writer's last byte is in tile memory: the slot becomes VALID and the request leaves the queue (R139). -/
def Team.writeDone (tm : Team) (ts : Nat) (bs : List PByte) : Team :=
  tm.modTile ts fun x =>
    { data := bs.zipIdx.foldl (fun l b => sput 0 l b.2 b.1.1) [], tag := .valid, queue := x.queue.drop 1, poison := bs.any Prod.snd }

/-! ### Ownership (R193) -/

/-- The lines of a list of addresses, translated for an engine write; the first fault. -/
def State.ownLines (s : State) (r : Req) : List Nat → State × Except (Nat × Nat × Nat) (List (Nat × Nat))
  | [] => (s, .ok [])
  | va :: rest =>
    if 2 ^ 52 ≤ va then (s, .error (0x1008, kEngW, va))
    else
      match s.xlate r.column r.ctx va kEngW true r.wpriv false with
      | (s, .error (code, info)) => (s, .error (code, info, va))
      | (s, .ok tgt) =>
        match State.ownLines s r rest with
        | (s, .error e) => (s, .error e)
        | (s, .ok l) => (s, .ok (match tgt.line with | some line => (va / 128, line) :: l | none => l))

/-- Reads the tensor id entry a CPYT could not read at issue, and makes the checks of 0x0043 and 0x0044 (R481). -/
def State.resolve (s : State) (r : Req) : State × Option Req :=
  if r.kind != .cpyt || r.entry != [] then (s, some r)
  else
    match s.tdRead r.column r.ctx (r.a % 256) with
    | (s, .error e) => (s.reqFault r e, none)
    | (s, .ok ent) =>
      if !s.ten r.ctx || !tdV ent then (s.reqFreeze r 0x0043 (r.a % 256) 0, none)
      else
        match cpytCheck (r.xm % 2 == 1) r.c r.ty r.d (wd r.quad 0).toNat (some ent) with
        | some i => (s.reqFreeze r 0x0044 i 0, none)
        | none => (s.modReq r.id fun q => { q with entry := ent }, some { r with entry := ent })

/-- Whether an older request of the same column has yet to take a line: the requests of one column reach a home in the order sent (R193). -/
def State.takesFirst (s : State) (r : Req) (line : Nat) : Bool :=
  s.reqs.any fun q => decide (q.id < r.id) && q.kind.column && r.kind.column && q.col == r.col && q.step == 0 && !q.stopped && !q.discard
    && !(q.owned.any fun l => l.2 == line) && (q.destAddrs s (s.reqTeam q)).any fun va => (s.keyOf q.column q.ctx va).map (· / 128) == some line

/-- A request takes its lines in order of address (R193): at each home it waits for the owner before it, dirty copies are recalled and written, its
column's copy is dropped, and the home records the owner. The lines taken, up to the first that is not free. -/
def State.takeLines (s : State) (r : Req) : List (Nat × Nat) → State × List (Nat × Nat)
  | [] => (s, [])
  | l :: rest =>
    if (s.home l.2).owner = some r.id then
      let (s, t) := State.takeLines s r rest
      (s, l :: t)
    else if s.lineHeld l.2 || s.takesFirst r l.2 then (s, [])
    else
      let s := s.recallDirty l.2
      let s := if r.kind.column then (s.writeBack r.col l.2 none false).1 else s
      if (s.home l.2).waiting.isEmpty then
        let (s, t) := State.takeLines (s.setHome l.2 { s.home l.2 with owner := some r.id }) r rest
        (s, l :: t)
      else (s, [])

/-- Whether a request's scratchpad claims let it read its index list, which names the lines of a scatter (R138, R348). -/
def State.listReady (s : State) (r : Req) : Bool :=
  r.kind != .scat || (match s.reqTeam r with | some tm => !tm.sbOlder r.id false (r.b % 2 ^ 23) (4 * (r.b / 2 ^ 23 + 1)) | none => true)

/-- The step an ownership request takes at the homes of its lines (R193). -/
def State.ownership (s : State) (r : Req) : State :=
  match s.resolve r with
  | (s, none) => s
  | (s, some r) =>
    if s.listReady r = false then s
    else
      match s.ownLines r (r.destAddrs s (s.reqTeam r)) with
      | (s, .error e) => s.reqFault r e
      | (s, .ok lines) =>
        let (s, taken) := s.takeLines r lines
        s.modReq r.id fun q => { q with owned := taken, step := if taken.length = lines.length then 1 else 0 }

/-- ENGINE_OWNERSHIP_REQUEST (R193). A request without a global destination owns nothing. -/
def execEngineOwnershipRequest (req : Nat) (s : State) : Host.Outcome State Fault Refusal :=
  .next (match s.req? req with
    | some r =>
      if r.step = 0 ∧ [ReqKind.copy, .cpyt, .scat, .tdset, .tdrd, .coll].contains r.kind then s.onReq req r.kind fun r => s.ownership r else s
    | none => s)

/-- Whether a request with a global destination owns every line of it (R193). -/
def Req.owns (r : Req) : Bool := r.step == 1

/-! ### CPY (R347) -/

/-- Source bytes of a copy from offset `o`, up to the first that faults. -/
def State.cpySource (s : State) (r : Req) (tm : Team) (o n : Nat) : State × List PByte × Option (Nat × Nat × Nat) :=
  match r.xm / 4 % 4 with
  | 0 => let (s, l, e) := s.engBytes r r.priv (r.a + o) n; (s.sendReads r.ctx l, l.map Prod.snd, e)
  | 1 => (s, tm.spadBytes (r.a + o) n, none)
  | _ => (s, (tm.tile (r.a % 256 + o / 4096)).bytes (o % 4096) n, none)

/-- The source address of offset `o` of a copy: a global address, an offset of the scratchpad, or, DEDUCED, one of the tile memory (R448). -/
def Req.cpyAddr (r : Req) (o : Nat) : Nat := if r.xm / 4 % 4 = 2 then r.a % 256 * 4096 + o else r.a + o

/-- Takes bytes of a copy for offset `o` of its destination, which is no tile: of global memory the lines that are whole are written. -/
def State.cpyDest (s : State) (r : Req) (o : Nat) (bs : List PByte) : State × Option (Nat × Nat × Nat) :=
  if r.xm % 4 = 0 then
    let r := { r with buf := WSet.put r.buf (r.d + o) (marked (r.cpyAddr o) bs) }
    (s.modReq r.id fun q => { q with buf := r.buf }).flush r fun line =>
      (List.range 128).any fun i => decide (r.d ≤ 128 * line + i ∧ 128 * line + i < r.d + r.b) && !shas r.buf (128 * line + i)
  else (s.modReqTeam r fun tm => tm.spadWrite (r.d + o) bs, none)

/-- Whether a copy's claims let it transfer. -/
def Team.cpyReady (tm : Team) (r : Req) : Bool :=
  (match r.xm % 4 with | 0 => r.owns | 1 => !tm.sbOlder r.id true r.d r.b | _ => true)
    && (match r.xm / 4 % 4 with | 1 => !tm.sbOlder r.id false r.a r.b | _ => true)

/-- A copy has moved all its bytes: one to global memory waits for its writes (R195), another is complete. -/
def State.cpyEnd (s : State) (r : Req) : State := if r.xm % 4 = 0 then s.finish r else s.endReq r 0

/-- A copy without a tile operand: the bytes up to the first that faults are transferred. -/
def State.cpyPlain (s : State) (r : Req) (tm : Team) : State :=
  let (s, bs, e) := s.cpySource r tm r.done (r.b - r.done)
  let (s, e') := s.cpyDest r r.done bs
  let s := s.modReq r.id fun q => { q with done := r.done + bs.length }
  match e.or e' with
  | some e => if r.done + bs.length = r.b then (s.cpyEnd r) else s.reqFault r e
  | none => s.cpyEnd r

/-- Slot `j` of a copy's tile operand can move: as a writer's, it is at the front and EMPTY or already held; as a reader's, at the front and
VALID. -/
def Team.cpySlot (tm : Team) (r : Req) (j : Nat) : Bool :=
  (r.xm % 4 != 2 || tm.frontAt r.id (r.d % 256 + j) .empty || tm.frontAt r.id (r.d % 256 + j) .held)
    && (r.xm / 4 % 4 != 2 || tm.frontAt r.id (r.a % 256 + j) .valid)

/-- A copy with a tile operand moves one slot: a destination slot becomes HELD first, and then takes its bytes (R139, R347). -/
def State.cpyTile (s : State) (r : Req) (tm : Team) : State :=
  let n := r.b / 4096
  let toTile := r.xm % 4 == 2
  match (List.range n).find? fun j => !r.lines.contains j && tm.cpySlot r j with
  | none =>
    match (List.range n).find? fun j => toTile && !r.lines.contains j && tm.frontAt r.id (r.d % 256 + j) .empty with
    | some j => s.setTeam r.team (tm.modTile (r.d % 256 + j) fun x => { x with tag := .held })
    | none => s
  | some j =>
    if toTile && tm.frontAt r.id (r.d % 256 + j) .empty then s.setTeam r.team (tm.modTile (r.d % 256 + j) fun x => { x with tag := .held })
    else
      match s.cpySource r tm (4096 * j) 4096 with
      | (s, _, some e) => s.reqFault r e
      | (s, bs, none) =>
        let (s, e) := if toTile then (s.modReqTeam r fun tm => tm.writeDone (r.d % 256 + j) bs, none) else s.cpyDest r (4096 * j) bs
        let s := if r.xm / 4 % 4 = 2 then s.modReqTeam r fun tm => tm.readDone (r.a % 256 + j) r.c else s
        let lines := j :: r.lines
        let s := s.modReq r.id fun q => { q with lines }
        if lines.length = n then s.cpyEnd r else match e with | some e => s.reqFault r e | none => s

/-- COPY_COMPLETE (R347). -/
def execCopyComplete (req : Nat) (s : State) : Host.Outcome State Fault Refusal :=
  .next (s.onReq req .copy fun r =>
    match s.reqTeam r with
    | none => s
    | some tm =>
      if 2 ≤ r.step then s.land r
      else if tm.cpyReady r then s.stream r fun s => if r.xm % 4 = 2 ∨ r.xm / 4 % 4 = 2 then s.cpyTile r tm else s.cpyPlain r tm
      else s)

/-! ### Tensor id entries and their counts (R350, R351, R481) -/

/-- The other member devices of a collective group, in ascending order (R400). -/
def State.collOthers (s : State) (g : Nat) : List Nat :=
  let mask := (s.rget (key0 0 (0x181000 + 16 * g))).toNat + 2 ^ 32 * (s.rget (key0 0 (0x181000 + 16 * g + 4))).toNat
  let dev := s.rbits (key0 0 0x180000) 5 0
  (List.range 64).filter fun d => mask.testBit d && d != dev

/-- Whether a COLL joins its domain context's collectives: one of a context that shares the DCTX of a member before it does not, and waits (R2, R394). -/
def State.collJoins (s : State) (r : Req) : Bool :=
  match s.servingCtx (s.rbits (kLk r.ctx 8) 11 0) with | some ck => ck == r.ctx | none => true

/-- Whether a COLL is the oldest of its group on this device (R356, R400). -/
def State.collFirst (s : State) (r : Req) : Bool :=
  s.collJoins r && !s.reqs.any fun q => q.kind == .coll && s.collJoins q && q.b / 2 ^ 16 % 256 == r.b / 2 ^ 16 % 256 && decide (q.id < r.id)

/-- Updates a word of a tensor id entry as an atomic at its home. A memory fault leaves it unmade, with a record that names the engine (R481). -/
def State.tdUpdate (s : State) (ck : Nat) (rec_ : Rec) (n k : Nat) (op : CountOp) (req : Option Nat := none) : State :=
  s.makePut ck (.count (s.tdAddr ck n + 4 * k) op) (.count rec_) req

/-- TENSOR_ID_WRITE_COMPLETE (R351, R428): the record is read and, when it keeps R350, written to the entry. -/
def execTensorIdWriteComplete (req : Nat) (s : State) : Host.Outcome State Fault Refusal :=
  .next (s.onReq req .tdset fun r =>
    if 2 ≤ r.step then s.land r
    else if r.owns = false then s
    else
      match s.engRead r r.priv r.a 64 with
      | (s, .error e) => s.reqFault r e
      | (s, .ok bs) =>
        let ent := bytesWords (bs.map Prod.fst)
        if tdV ent && tdBad ent then s.reqFreeze r 0x0050 (r.d % 256) 0
        else
          let buf := WSet.put [] (s.tdAddr r.ctx (r.d % 256)) (marked r.a bs)
          (s.modReq r.id fun q => { q with buf }).finish r)

/-- TENSOR_ID_READ_COMPLETE (R351): the entry is copied out; `.clr` then subtracts the counts read. -/
def execTensorIdReadComplete (req : Nat) (s : State) : Host.Outcome State Fault Refusal :=
  .next (s.onReq req .tdrd fun r =>
    if 2 ≤ r.step then s.land r
    else if r.owns = false then s
    else
      let n := r.a % 256
      match s.engRead r true (s.tdAddr r.ctx n) 64 with
      | (s, .error e) => s.reqFault r e
      | (s, .ok bs) =>
        let s := (s.modReq r.id fun q => { q with buf := WSet.put [] r.d (marked (s.tdAddr r.ctx n) bs) }).finish r
        let ent := bytesWords (bs.map Prod.fst)
        let rec_ := s.reqRec r 0 0 0
        if r.xm % 2 = 1 then
          (s.tdUpdate r.ctx rec_ n 14 (.sub (wd ent 14).toNat) (some r.id)).tdUpdate r.ctx rec_ n 15 (.subLow ((wd ent 15).toNat % 2 ^ 16)) (some r.id)
        else s)

/-- Whether another member device issued the collective that a COLL joins with another count, operation or type (R428). -/
def State.collDiffers (s : State) (r : Req) : Bool :=
  let g := r.b / 2 ^ 16 % 256
  (s.collOthers g).any fun d => Config.collMember g (s.rget (key0 0 (0x181000 + 16 * g + 12))).toNat d != (r.b % 2 ^ 16, r.xm, r.ty)

/-- ENGINE_FAULT (R428): a bad TDSET record, or a collective whose members do not agree, freezes the issuing team. -/
def execEngineFault (req : Nat) (s : State) : Host.Outcome State Fault Refusal :=
  .next (match s.req? req with
    | some r =>
      if r.kind = .coll then
        s.onReq req .coll fun r => if s.collFirst r && r.step == 1 && s.collDiffers r then s.reqFreeze r 0x0051 (r.b / 2 ^ 16 % 256) 0 else s
      else
        s.onReq req .tdset fun r =>
          match s.engRead r r.priv r.a 64 with
          | (s, .error e) => s.reqFault r e
          | (s', .ok bs) =>
            let ent := bytesWords (bs.map Prod.fst)
            if decide (r.step < 2) && tdV ent && tdBad ent then s'.reqFreeze r 0x0050 (r.d % 256) 0 else s
    | none => s)

/-! ### CPYT (R352, R353) -/

/-- The number of the low `w` bits from a bit address in a list of bytes whose first lies at byte `base`. -/
def bitsAt (bs : List Byte) (base bit w : Nat) : Nat := leNat ((bs.drop (bit / 8 - base)).take (w / 8 + 2)) / 2 ^ (bit % 8) % 2 ^ w

/-- An element converted into a tile by `.ld` (R212, R215, R353): the code and whether it counts in CONVX. -/
def ldElem (fmt ty : Nat) (scale : Nat) (c : Nat) : Nat × Bool :=
  if fmt = ty then (c, false)
  else if fmt = 19 ∨ fmt = 20 then
    (if x8Val scale = -128 then ((fmtOf ty).zero false, false) else cvtEngine ((fdecode (fmtOf fmt) c).scale (x8Val scale)) (fmtOf ty))
  else cvtEngine (fdecode F32 c) (fmtOf ty)

/-- An element converted out of a tile by `.st` (R212, R216, R353). -/
def stElem (fmt ty : Nat) (scale : Int) (c : Nat) : Nat × Bool :=
  if fmt = ty then (c, false)
  else if fmt = 1 then
    let v := intVal c 7
    let r := max (-128) (min 127 v)
    ((r % 256).toNat, r != v)
  else if fmt = 19 ∨ fmt = 20 then
    (if scale = -128 then cvtEngine (fdecode F32 c) (fmtOf fmt) else cvtEngine ((fdecode F32 c).scale (-scale)) (fmtOf fmt))
  else cvtEngine (fdecode F32 c) (fmtOf fmt)

/-- The byte offset and bit shift of element e of a row in a tile, and its width (R345). -/
def tileBit (ty row e : Nat) : Nat := 1024 * row + elemWidth ty * e

/-- What is read of one element of a tensor: its code, its scale byte, its poison, and the bytes read. -/
structure TdElem where
  code : Nat
  scale : Nat := 0
  poison : Bool
  read : List (Target × PByte)

/-- Reads one element of a tensor and its scale. -/
def State.tdElem (s : State) (r : Req) (i : List Nat) : State × Except (Nat × Nat × Nat) TdElem :=
  let w := elemWidth (tdFmt r.entry)
  let bit := tdBit r.entry i
  match s.engBytes r r.priv (bit / 8) ((bit + w - 1) / 8 + 1 - bit / 8) with
  | (s, _, some e) => (s, .error e)
  | (s, l, none) =>
    let x : TdElem := { code := bitsAt (l.map fun b => b.2.1) (bit / 8) bit w, poison := l.any fun b => b.2.2, read := l }
    if tdScaled r.entry then
      match s.engBytes r r.priv (tdScale r.entry i) 1 with
      | (s, _, some e) => (s, .error e)
      | (s, m, none) =>
        (s, .ok { x with scale := leNat (m.map fun b => b.2.1), poison := x.poison || m.any fun b => b.2.2, read := l ++ m })
    else (s, .ok x)

/-- A tile being filled: its bits as a number, the exceptions counted, poison, the bytes read. -/
structure Fill where
  bits : Nat := 0
  exc : Nat := 0
  poison : Bool := false
  read : List (Target × PByte) := []

/-- Loads the elements of a slot (R353). -/
def State.ldElems (s : State) (r : Req) (f : Fill) : List Elem → State × Except (Nat × Nat × Nat) Fill
  | [] => (s, .ok f)
  | x :: rest =>
    match s.tdElem r x.i with
    | (s, .error e) => (s, .error e)
    | (s, .ok y) =>
      let (v, exc) := ldElem (tdFmt r.entry) r.ty y.scale y.code
      State.ldElems s r { bits := f.bits + v * 2 ^ tileBit r.ty x.row x.e, exc := f.exc + (if exc then 1 else 0), poison := f.poison || y.poison
                          read := y.read.reverse ++ f.read } rest

/-- Counts conversion exceptions of a request in its tensor id (R350, R481). -/
def State.countConvx (s : State) (r : Req) (n : Nat) : State :=
  if n = 0 then s else s.tdUpdate r.ctx (s.reqRec r 0 0 0) (r.a % 256) 15 (.addSat n)

/-- The code of an element in a tile. -/
def Tile.elem (x : Tile) (ty row e : Nat) : Nat :=
  let bit := tileBit ty row e
  bitsAt ((x.bytes (bit / 8) 5).map Prod.fst) (bit / 8) bit (elemWidth ty)

/-- The block scale of the elements that share one (R216): over their finite values. -/
def scaleOf (fmt : Nat) (cs : List Nat) : Int :=
  let mags := cs.filterMap fun c => match fdecode F32 c with | .fin _ m e => if m = 0 then none else some (m, e) | _ => none
  match mags with
  | [] => -128
  | p :: rest =>
    let mx := rest.foldl (fun (a : Nat × Int) b =>
      let lo := min a.2 b.2
      if a.1 * 2 ^ (a.2 - lo).toNat ≤ b.1 * 2 ^ (b.2 - lo).toNat then b else a) p
    blockScaleFor fmt mx.1 mx.2

/-- A byte of a request's destination as it stands: among those to be written, else at its home. -/
def State.destByte (s : State) (r : Req) (w : WSet) (va : Nat) : Byte :=
  if shas w va then (sget (0, none) w va).1
  else
    match (s.reqTarget r va).2 with
    | .ok (.hbm key) => s.byteAt key
    | .ok (.window key) => s.byteAt (winAt key)
    | .ok (.host a) | .ok (.peer _ a) => Config.outside s.cyc a
    | .error _ => 0

/-- Adds the low `n` bits of a number, at a bit address of a request's destination, to the bytes to be written; the other bits of its bytes stay. -/
def State.engBits (s : State) (r : Req) (w : WSet) (bit n v : Nat) (poison : Option Nat) : WSet :=
  let b0 := bit / 8
  let m := (bit + n - 1) / 8 + 1 - b0
  let o := if bit % 8 = 0 ∧ n % 8 = 0 then 0 else leNat ((List.range m).map fun j => s.destByte r w (b0 + j))
  let sh := bit % 8
  w.put b0 ((leBytes (o - o / 2 ^ sh % 2 ^ n * 2 ^ sh + v * 2 ^ sh) m).map fun b => (b, poison))

/-- The bytes that stored elements add to those to be written, with the exceptions counted (R353): code, scale and poison of each element. -/
def State.stElems (s : State) (r : Req) (es : List (Elem × Nat × Int × Option Nat)) : WSet × Nat :=
  es.foldl (fun (w : WSet × Nat) (x : Elem × Nat × Int × Option Nat) =>
    let fmt := tdFmt r.entry
    let (v, exc) := stElem fmt r.ty x.2.2.1 x.2.1
    let l := s.engBits r w.1 (tdBit r.entry x.1.i) (elemWidth fmt) v x.2.2.2
    let l := if tdScaled r.entry then s.engBits r l (8 * tdScale r.entry x.1.i) 8 (x.2.2.1 % 256).toNat x.2.2.2 else l
    (l, w.2 + if exc then 1 else 0)) (r.buf, 0)

/-- Loads slot `j` of a CPYT: the slot becomes HELD first, and then takes its elements. -/
def State.cpytLoad (s : State) (r : Req) (tm : Team) (j : Nat) : State :=
  let ts := r.d % 256 + j
  if tm.frontAt r.id ts .empty then s.setTeam r.team (tm.modTile ts fun x => { x with tag := .held })
  else
    match s.ldElems r {} (r.elems j) with
    | (s, .error e) => s.reqFault r e
    | (s, .ok f) =>
      let s := (s.sendReads r.ctx f.read.reverse).modReqTeam r fun tm => tm.writeDone ts ((leBytes f.bits 4096).map fun b => (b, f.poison))
      let s := s.countConvx r f.exc
      let lines := j :: r.lines
      if lines.length = r.cpytN then s.endReq r 0 else s.modReq r.id fun q => { q with lines }

/-- Stores the listed slots of a CPYT. The scale of a block is taken over the elements stored together. -/
def State.cpytStore (s : State) (r : Req) (tm : Team) (js : List Nat) : State :=
  let code (x : Elem) : Nat := (tm.tile (r.d % 256 + x.slot)).elem r.ty x.row x.e
  let es := js.flatMap r.elems
  let scale (x : Elem) : Int :=
    if tdScaled r.entry then
      scaleOf (tdFmt r.entry) ((es.filter fun y => tdScale r.entry y.i == tdScale r.entry x.i).map code)
    else 0
  let src (x : Elem) : Option Nat :=
    if (tm.tile (r.d % 256 + x.slot)).poison then some (4096 * (r.d % 256 + x.slot) + tileBit r.ty x.row x.e / 8) else none
  let (w, n) := s.stElems r (es.map fun x => (x, code x, scale x, src x))
  let s := s.modReqTeam r fun tm => js.foldl (fun tm j => tm.readDone (r.d % 256 + j) r.c) tm
  let s := s.countConvx r n
  let lines := js ++ r.lines
  let r := { r with buf := w, lines }
  let s := s.modReq r.id fun q => { q with buf := w, lines }
  if lines.length = r.cpytN then s.finish r
  else
    let rest := r.slotAddrs ((List.range r.cpytN).filter fun j => !lines.contains j)
    match s.flush r fun line => rest.any fun a => a / 128 == line with
    | (s, some e) => s.reqFault r e
    | (s, none) => s

/-- Whether the blocks of a store may span slots, so that they are stored together. -/
def Req.together (r : Req) : Bool := tdScaled r.entry && tdSdim r.entry == 1

/-- CPYT_COMPLETE (R353): one slot moves; a store whose scale blocks run along dimension 1 moves every slot at once. -/
def execCpytComplete (req : Nat) (s : State) : Host.Outcome State Fault Refusal :=
  .next (s.onReq req .cpyt fun r =>
    if 2 ≤ r.step then s.land r else s.stream r fun s =>
    match s.resolve r with
    | (s, none) => s
    | (s, some r) =>
      match s.reqTeam r with
      | none => s
      | some tm =>
        let js := (List.range r.cpytN).filter fun j => !r.lines.contains j
        let slot (j : Nat) : Nat := r.d % 256 + j
        if r.xm % 2 = 0 then
          match js.find? fun j => tm.frontAt r.id (slot j) .empty || tm.frontAt r.id (slot j) .held with
          | some j => s.cpytLoad r tm j
          | none => s
        else if r.owns = false then s
        else if r.together then (if js.all fun j => tm.frontAt r.id (slot j) .valid then s.cpytStore r tm js else s)
        else
          match js.find? fun j => tm.frontAt r.id (slot j) .valid with
          | some j => s.cpytStore r tm [j]
          | none => s)

/-! ### GATH and SCAT (R348) -/

/-- Reads indexed elements: their bytes in order, up to the first that faults. -/
def State.gathRead (s : State) (r : Req) : List Nat → State × List PByte × Option (Nat × Nat × Nat)
  | [] => (s, [], none)
  | i :: rest =>
    match s.engRead r r.priv (r.a + i * r.ty) r.ty with
    | (s, .error e) => (s, [], some e)
    | (s, .ok bs) =>
      let (s, l, e) := State.gathRead s r rest
      (s, bs ++ l, e)

/-- GATHER_COMPLETE (R348). -/
def execGatherComplete (req : Nat) (s : State) : Host.Outcome State Fault Refusal :=
  .next (s.onReq req .gath fun r =>
    match s.reqTeam r with
    | none => s
    | some tm =>
      let n := r.b / 2 ^ 23 + 1
      let regs := r.xm % 2 == 1
      if tm.sbOlder r.id false (r.b % 2 ^ 23) (4 * n) || (!regs && tm.sbOlder r.id true r.d (n * r.ty)) then s
      else s.stream r fun s =>
        let (s, bs, e) := s.gathRead r ((tm.indices r).drop r.done)
        let o := r.done * r.ty
        let s :=
          if regs then
            s.modReqTeam r fun tm =>
              match tm.accesses.find? fun a => a.id == r.id with
              | some a =>
                (a.dests.foldl (fun tm d =>
                  (bs.zipIdx.filter fun b => b.2 % 4 == 0).foldl (fun tm b =>
                    let j := (o + b.2) / 4
                    if j < d.cnt && !(tm.thread d.thread).exited then tm.putRegs d.thread (d.reg + j) (leNat (((bs.drop b.2).take 4).map Prod.fst)) 1 else tm) tm) tm)
              | none => tm
          else s.modReqTeam r fun tm => tm.spadWrite (r.d + o) bs
        match e with
        | some e => (s.modReq r.id fun q => { q with done := r.done + bs.length / r.ty }).reqFault r e
        | none => s.endReq r 0)

/-- The bytes that indexed elements write, in order, the later over the earlier (R348). -/
def Req.scatBytes (r : Req) : List Nat → List (Byte × Option Nat) → WSet → WSet
  | [], _, w => w
  | i :: rest, bs, w => r.scatBytes rest (bs.drop r.ty) (w.put (r.a + i * r.ty) (bs.take r.ty))

/-- SCATTER_COMPLETE (R348). -/
def execScatterComplete (req : Nat) (s : State) : Host.Outcome State Fault Refusal :=
  .next (s.onReq req .scat fun r =>
    match s.reqTeam r with
    | none => s
    | some tm =>
      let n := r.b / 2 ^ 23 + 1
      let regs := r.xm % 2 == 1
      if 2 ≤ r.step then s.land r
      else if r.owns = false || (!regs && tm.sbOlder r.id false r.d (n * r.ty)) then s
      else s.stream r fun s =>
        let bs := if regs then marked 0 ((wordsBytes r.quad).map fun b => (b, false)) else marked r.d (tm.spadBytes r.d (n * r.ty))
        (s.modReq r.id fun q => { q with buf := r.scatBytes (tm.indices r) bs [] }).finish r)

/-! ### Tags, dealing and collectives (R354 to R356) -/

/-- TTAG_APPLY (R354): at the front of the queue, with the slot not HELD, the tag takes the value. -/
def execTtagApply (req : Nat) (s : State) : Host.Outcome State Fault Refusal :=
  .next (s.onReq req .ttag fun r =>
    match s.reqTeam r with
    | none => s
    | some tm =>
      let x := tm.tile r.d
      if x.queue.head? = some r.id ∧ x.tag ≠ .held then
        (s.setTeam r.team (tm.setTile r.d { x with tag := if r.a = 1 then .valid else .empty, queue := x.queue.drop 1 })).endReq r 0
      else s)

/-- One dealing (R99): the first index and the count. -/
def deal (card : Card) (x resident : Nat) : Nat × Nat :=
  let rem := card.rcnt - x
  if rem = 0 then (card.rcnt, 0)
  else
    let d := if card.div = 0 then 2 * max 1 resident else card.div
    (x, min rem (max card.minch ((rem + d - 1) / d)))

/-- Whether an older request of the grid has not been dealt (R99): the distributor serves them in order of arrival, which is that of issue. -/
def State.jnextFirst (s : State) (grid : Nat) (r : Req) : Bool :=
  s.reqs.all fun q => q.kind != .jnext || decide (r.id ≤ q.id) || q.step != 0 || q.discard
    || (match s.reqTeam q with | some tm => tm.grid != grid | none => true)

/-- JNEXT_SERVE (R99, R100): the request is dealt in its turn, and its result is written once the scoreboard lets it. -/
def execJnextServe (req : Nat) (s : State) : Host.Outcome State Fault Refusal :=
  .next (s.onReq req .jnext fun r =>
    match s.reqTeam r with
    | none => s
    | some tm =>
      match sfind s.grids tm.grid with
      | none => s
      | some g =>
        if r.step = 0 ∧ s.jnextFirst tm.grid r = false then s
        else
          let card : Card := g.card
          let resident := (s.teams.filter fun p => p.2.grid = tm.grid).length
          let (first, count) := if r.step ≠ 0 then (r.a, r.b) else if card.persist then deal card g.next resident else (card.rcnt, 0)
          let s := if r.step ≠ 0 then s else s.modGrid tm.grid fun g => { g with next := g.next + count }
          if tm.sbOlder r.id true r.d 8 then s.modReq r.id fun q => { q with step := 1, a := first, b := count }
          else (s.modReqTeam r fun tm => tm.spadPut r.d 8 (first + 2 ^ 32 * count)).endReq r 0)

/-- Adds each contribution of the further devices into the lowest-numbered one's, element by element (R356). -/
def combine (aop ty : Nat) : List (List Word) → List Word
  | [] => []
  | l :: rest =>
    rest.foldl (fun acc m => acc.zipWith (fun a b => nw (aopApply aop ty a.toNat b.toNat 0)) m)
      (if ty = 14 then l.map fun a => nw (gCanon 14 a.toNat).1 else l)

/-- COLLECTIVE_COMPLETE (R356, R400): `contributions` are the buffers of the other members, in ascending order of device. The oldest COLL of the
group on this device joins the collective. Poison of an element of the local buffer goes on to the result (R448). -/
def execCollectiveComplete (req : Nat) (contributions : List (List Word)) (s : State) : Host.Outcome State Fault Refusal :=
  .next (s.onReq req .coll fun r =>
    let g := r.b / 2 ^ 16 % 256
    let n := r.b % 2 ^ 16
    let seq := key0 0 (0x181000 + 16 * g + 12)
    let others := s.collOthers g
    if 2 ≤ r.step then s.land r
    else if !s.collFirst r || r.owns = false || contributions.length != others.length then s
    else if s.collDiffers r || contributions.any (fun l => l.length != n) then s.reqFreeze r 0x0051 g 0
    else
      match s.engRead r r.priv r.d (4 * n) with
      | (s, .error e) => s.reqFault r e
      | (s, .ok bs) =>
        let own := bytesWords (bs.map Prod.fst)
        let below := (others.filter fun d => decide (d < s.rbits (key0 0 0x180000) 5 0)).length
        let res := combine r.xm r.ty (contributions.take below ++ [own] ++ contributions.drop below)
        let buf := WSet.put [] r.d (marked r.d ((wordsBytes res).zip (bs.map Prod.snd)))
        ((s.rset seq (s.rget seq + 1)).modReq r.id fun q => { q with buf }).finish r)

/-! ### Releasing the matrix engine (R359) -/

/-- MXREL_COMPLETE (R359): the engine is scrubbed and released, its backing freed, and a baton kept for the team slot named. -/
def execMxrelComplete (col slot : Nat) (s : State) : Host.Outcome State Fault Refusal := .next (s.releaseEngine (teamKey col slot))

/-- BATON_EXPIRY (R359): an unused reservation ends. -/
def execBatonExpiry (col layer : Nat) (s : State) : Host.Outcome State Fault Refusal :=
  .next (s.modCol col fun x => { x with batons := x.batons.filter fun b => b.1 != layer || decide (s.clock col < b.2.2) })

end Sys2Proof.Machine
end

