-- ==== Sys2Proof/Machine/MatrixArith.lean ====
section
/-! DEFINITION. The arithmetic of the matrix engine: operand elements (R345), k-steps (R217 to R219), classical and recombined order (R221 to R226),
accumulator addition and stores (R365), and the audit recomputation (R227). -/

namespace Sys2Proof.Machine

/-! ### Operands -/

/-- The element width in bits of an operand type code of R255. -/
def opWidth (ty : Nat) : Nat := if ty = 2 ∨ ty = 3 then 16 else if ty = 5 then 2 else 8
/-- The format of a floating operand type code. -/
def opFmt (ty : Nat) : Fmt := if ty = 0 then F8E else if ty = 1 then F8M else if ty = 2 then BF16 else F16
/-- The A and B operand types of an MMA type code (R255). -/
def mmaTypes (ty : Nat) : Nat × Nat :=
  match ty with
  | 0 => (0, 0) | 1 => (0, 1) | 2 => (1, 0) | 3 => (1, 1) | 4 => (2, 2) | 5 => (3, 3) | 6 => (4, 4) | _ => (5, 4)
/-- Whether an MMA type accumulates in S32 (R217). -/
def mmaInt (ty : Nat) : Bool := ty == 6 || ty == 7

/-- The 4 096 bytes of a loaded operand. -/
def Operand.bytes (o : Operand) : Array Byte := o.data.foldl (fun l p => l.setIfInBounds p.1 p.2) (Array.replicate 4096 0)

/-- The code of element e of a row of an operand's bytes (R345). -/
def elemCode (ty : Nat) (o : Array Byte) (row e : Nat) : Nat :=
  let w := opWidth ty
  let bit := 1024 * row + w * e
  (o.getD (bit / 8) 0).toNat / 2 ^ (bit % 8) % 2 ^ (min w 8) + (if w = 16 then 256 * (o.getD (bit / 8 + 1) 0).toNat else 0)

/-- An element as a floating value. -/
def elemF (ty : Nat) (o : Array Byte) (row e : Nat) : FVal := fdecode (opFmt ty) (elemCode ty o row e)
/-- An element as an integer. -/
def elemI (ty : Nat) (o : Array Byte) (row e : Nat) : Int := if ty = 5 then t2Val (elemCode ty o row e) else intVal (elemCode ty o row e) 1

/-! ### k-steps (R217 to R219) -/

/-- The exact sum of the products of one k-step, as a value, and the flags it raises (R218). A sum of zero is −0 when every product is −0. -/
def kstep (l : List (FVal × FVal)) : FVal × Flags :=
  let ps := l.map fun p => fmulX p.1 p.2
  if ps.any Option.isNone then (.nan false, flNV)
  else
    let vs := ps.filterMap id
    let pos := vs.any fun v => v.isInf && !v.neg
    let neg := vs.any fun v => v.isInf && v.neg
    if pos && neg then (.nan false, flNV)
    else if pos || neg then (.inf neg, 0)
    else
      let (m, e) := vs.foldl (fun (a : Int × Int) v =>
        match v with | .fin s m e => dyAdd a.1 a.2 (smant s m) e | _ => a) (0, 0)
      (.fin (if m = 0 then vs.all FVal.neg else decide (m < 0)) m.natAbs e, 0)

/-- Cuts a list into pieces of n. -/
def pieces {α : Type} (n : Nat) (l : List α) : Nat → List (List α)
  | 0 => []
  | fuel + 1 => if l.isEmpty then [] else l.take n :: pieces n (l.drop n) fuel

/-- F32 accumulation of products, `n` in a k-step, in ascending order of the reduction index (R217, R218). -/
def accF (n : Nat) (acc : Nat) (l : List (FVal × FVal)) : Nat × Flags :=
  (pieces n l l.length).foldl (fun (a : Nat × Flags) p =>
    let (k, f) := kstep p
    let (v, g) := faddV F32 0 (fdecode F32 a.1) k
    (v, a.2 ||| f ||| g)) (acc, 0)

/-- The S32 write of R219, wrapping or saturating. -/
def accInt (sat : Bool) (acc : Nat) (x : Int) : Nat × Flags := fitInt (intVal acc 7 + x) 7 sat

/-- S32 accumulation (R219). -/
def accI (n : Nat) (sat : Bool) (acc : Nat) (l : List (Int × Int)) : Nat × Flags :=
  (pieces n l l.length).foldl (fun (a : Nat × Flags) p =>
    let (v, g) := accInt sat a.1 (p.foldl (fun x q => x + q.1 * q.2) 0)
    (v, a.2 ||| g)) (acc, 0)

/-- The products of a k-step (R217). -/
def perStep (ty : Nat) : Nat := if ty = 7 then 16 else if ty = 4 ∨ ty = 5 then 4 else 8
/-- The reduction extent of a slot (R364). -/
def extent (ty : Nat) : Nat := if ty = 4 ∨ ty = 5 then 64 else 128

/-- One element of a block in classical order. -/
def mmaElem (ty : Nat) (sat : Bool) (A B : Array Byte) (acc r j : Nat) : Nat × Flags :=
  let ks := List.range (extent ty)
  let (ta, tb) := mmaTypes ty
  if mmaInt ty then accI (perStep ty) sat acc (ks.map fun k => (elemI ta A r k, elemI tb B j k))
  else accF (perStep ty) acc (ks.map fun k => (elemF ta A r k, elemF tb B j k))

/-- A block of 32 × 32 elements from a value for each. -/
def blockOf (f : Nat → Nat × Flags) : List (Nat × Word) × Flags :=
  let l := (List.range 1024).map fun i => (i, f i)
  (l.filterMap fun p => if p.2.1 = 0 then none else some (p.1, nw p.2.1), l.foldl (fun fl p => fl ||| p.2.2) 0)

/-- One 32 × 32 block in classical order. -/
def mmaBlock (ty : Nat) (sat : Bool) (A B : Operand) (C : Accum) : List (Nat × Word) × Flags :=
  let a := A.bytes
  let b := B.bytes
  blockOf fun i => mmaElem ty sat a b (sget 0 C.data i).toNat (i / 32) (i % 32)

/-! ### Recombined order (R221 to R223) -/

/-- The guard format of an operand type (R222). -/
def guardFmt (ty : Nat) : Fmt :=
  if ty = 0 then ⟨6, 4, 31, .ieee⟩ else if ty = 1 then ⟨5, 5, 15, .ieee⟩ else if ty = 2 then ⟨9, 9, 255, .ieee⟩ else ⟨6, 12, 31, .ieee⟩

/-- A side of a product of R221: one quadrant, and perhaps a second added to or subtracted from it. -/
abbrev Side := Nat × Option (Bool × Nat)

/-- The A sides of M1 to M7 (R221); quadrants are 11, 12, 21, 22. -/
def sidesA : List Side :=
  [(11, some (false, 22)), (21, some (false, 22)), (11, none), (22, none), (11, some (false, 12)), (21, some (true, 11)), (12, some (true, 22))]
/-- The B sides of M1 to M7. -/
def sidesB : List Side :=
  [(11, some (false, 22)), (11, none), (12, some (true, 22)), (21, some (true, 11)), (22, none), (11, some (false, 12)), (21, some (false, 22))]

/-- A pre-addition in the guard format (R222); it raises no flag. -/
def sideF (ty : Nat) (q : Nat → FVal) (x : Side) : FVal :=
  match x.2 with
  | none => q x.1
  | some (neg, y) =>
    let G := guardFmt ty
    fdecode G (faddV G 0 (q x.1) (if neg then (q y).negate else q y)).1
/-- A pre-addition of S8 operands, exact. -/
def sideI (q : Nat → Int) (x : Side) : Int :=
  match x.2 with
  | none => q x.1
  | some (neg, y) => if neg then q x.1 - q y else q x.1 + q y

/-- The post-additions of the blocks C11, C12, C21 and C22: product and sign (R223). -/
def postAdds : List (List (Nat × Bool)) :=
  [[(0, false), (3, false), (4, true), (6, false)], [(2, false), (4, false)], [(1, false), (3, false)],
   [(0, false), (1, true), (2, false), (5, false)]]

/-- The half-chunk width (R221). -/
def halfChunk (ty : Nat) : Nat := if ty = 4 ∨ ty = 5 then 16 else 32

/-- Element row and reduction index of quadrant q at local (x, k) in a chunk from `base`: which operand, and where. A's first index names the row
half and the second the reduction half; for B the reduction half comes first, and its second index names the column half. -/
def quadA {α : Type} (at_ : Nat → Nat → Nat → α) (h base r k q : Nat) : α := at_ (q / 10 - 1) r (base + (q % 10 - 1) * h + k)
def quadB {α : Type} (at_ : Nat → Nat → Nat → α) (h base j k q : Nat) : α := at_ (q % 10 - 1) j (base + (q / 10 - 1) * h + k)

/-- Product Mp of one element over a half-chunk: an F32 code with its flags (R221). -/
def prodF (ty : Nat) (A B : List (Array Byte)) (base r j p : Nat) : Nat × Flags :=
  let h := halfChunk ty
  let (ta, tb) := mmaTypes ty
  let a (i row e : Nat) : FVal := match A[i]? with | some o => elemF ta o row e | none => .nan false
  let b (i row e : Nat) : FVal := match B[i]? with | some o => elemF tb o row e | none => .nan false
  accF (perStep ty) 0 ((List.range h).map fun k =>
    (sideF ta (quadA a h base r k) (sidesA.getD p (11, none)), sideF tb (quadB b h base j k) (sidesB.getD p (11, none))))
/-- Product Mp of one element, S8. -/
def prodI (ty : Nat) (A B : List (Array Byte)) (base r j p : Nat) : Int :=
  let h := halfChunk ty
  let (ta, tb) := mmaTypes ty
  let a (i row e : Nat) : Int := match A[i]? with | some o => elemI ta o row e | none => 0
  let b (i row e : Nat) : Int := match B[i]? with | some o => elemI tb o row e | none => 0
  (List.range h).foldl (fun x k =>
    x + sideI (quadA a h base r k) (sidesA.getD p (11, none)) * sideI (quadB b h base j k) (sidesB.getD p (11, none))) 0

/-- One element of block `blk` over one chunk. -/
def rcChunk (ty : Nat) (sat : Bool) (A B : List (Array Byte)) (base blk r j : Nat) (acc : Nat × Flags) : Nat × Flags :=
  (postAdds.getD blk []).foldl (fun a p =>
    if mmaInt ty then
      let x := prodI ty A B base r j p.1
      let (v, f) := accInt sat a.1 (if p.2 then -x else x)
      (v, a.2 ||| f)
    else
      let (m, f) := prodF ty A B base r j p.1
      let x := fdecode F32 m
      let (v, g) := faddV F32 0 (fdecode F32 a.1) (if p.2 then x.negate else x)
      (v, a.2 ||| f ||| g)) acc

/-- Block `blk` of a 2 × 2 MMA in recombined order: the chunks of the slot in ascending order (R221, R364). -/
def rcBlock (ty : Nat) (sat : Bool) (A B : List Operand) (blk : Nat) (C : Accum) : List (Nat × Word) × Flags :=
  let a := A.map Operand.bytes
  let b := B.map Operand.bytes
  blockOf fun i =>
    let one (base : Nat) := rcChunk ty sat a b base blk (i / 32) (i % 32)
    one (2 * halfChunk ty) (one 0 ((sget 0 C.data i).toNat, 0))

/-! ### Whole accumulators (R365) -/

/-- MADC of one element. -/
def madcElem (int sat : Bool) (x y : Nat) : Nat × Flags :=
  if int then accInt sat x (intVal y 7) else faddV F32 0 (fdecode F32 x) (fdecode F32 y)

/-- The element width in bits of an MSTC type code (R255, R345). -/
def stWidth (ty : Nat) : Nat := if ty = 0 ∨ ty = 5 then 32 else if ty = 1 ∨ ty = 2 then 16 else 8
def stFmt (ty : Nat) : Fmt := if ty = 1 then BF16 else if ty = 2 then F16 else if ty = 3 then F8E else if ty = 4 then F8M else F32

/-- One element stored by MSTC: its code, flags, and whether it is a conversion event: never where the type is the accumulator's own (R365). `sc` is the X8
scale of `.sc`. DESIGN CHOICE (unsafe): the scale −128 makes the element +0 before it is converted, so that one that is NaN or infinite is no conversion
event; R365 does not say whether its `before conversion` is before the scaling. -/
def mstcElem (int : Bool) (ty : Nat) (sc : Option Nat) (a : Nat) : Nat × Flags × Bool :=
  if int then
    if ty = 6 then let (v, f) := fitInt (intVal a 7) 1 true; (v, f, f != 0)
    else if ty = 0 then let (v, f) := cvtIF F32 0 (intVal a 7); (v, f, false)
    else (a, 0, false)
  else
    match sc with
    | none =>
      if ty = 0 then (a, 0, false)
      else
        let (v, f) := cvtFF F32 (stFmt ty) 0 a
        (v, f, !(match fdecode F32 a with | .fin .. => true | _ => false) || (f &&& flOF) != 0)
    | some s =>
      if x8Val s = -128 then (0, 0, false)
      else
        let D := stFmt ty
        match (fdecode F32 a).scale (x8Val s) with
        | .fin n m e => let (v, f) := if m = 0 then (D.zero n, 0) else fround D 0 n m e; (v, f, ty != 0 && (f &&& flOF) != 0)
        | _ => let (v, f) := cvtFF F32 D 0 a; (v, f, ty != 0)

/-- The kinds an MSTC type may store (R365): with kind none, every type. -/
def mstcOk (kind : AccumKind) (ty : Nat) (sc : Bool) : Bool :=
  match kind with
  | .none => true
  | .f32 => decide (ty ≤ 4)
  | .s32 => (ty == 0 || ty == 5 || ty == 6) && !sc

/-- The tile an MSTC writes, its flags and its conversion events. -/
def mstcTile (C : Accum) (ty : Nat) (sc : Option Nat) : List Byte × Flags × Nat :=
  let int := C.kind == .s32 || (C.kind == .none && decide (5 ≤ ty))
  let l := (List.range 1024).map fun i => (i, mstcElem int ty sc (sget 0 C.data i).toNat)
  let n := l.foldl (fun x p => x + p.2.1 * 2 ^ (1024 * (p.1 / 32) + stWidth ty * (p.1 % 32))) 0
  (leBytes n 4096, l.foldl (fun f p => f ||| p.2.2.1) 0, (l.filter fun p => p.2.2.2).length)

/-! ### Audit recomputation (R227) -/

/-- The element of an accumulator as the audit keeps it. -/
def auditVal (kind : AccumKind) (x : Word) : Int := if kind = .s32 then intVal x.toNat 7 else x.toNat

/-- The value an audit captures of an accumulator. -/
def Accum.captured (C : Accum) : Watch := { kind := C.kind, data := C.data.map fun p => (p.1, auditVal C.kind p.2) }

/-- Changes every element of a watched value. -/
def Watch.map (w : Watch) (kind : AccumKind) (f : Nat → Int → Int) : Watch :=
  { kind, data := (List.range 1024).filterMap fun i => let v := f i (sget 0 w.data i); if v = 0 then none else some (i, v) }

/-- One element of an MMA recomputed: one rounding per product in ascending order, or exactly (R227 step 3). -/
def auditElem (ty : Nat) (A B : Array Byte) (r j : Nat) (y : Int) : Int :=
  let (ta, tb) := mmaTypes ty
  (List.range (extent ty)).foldl (fun y k =>
    if mmaInt ty then y + elemI ta A r k * elemI tb B j k
    else
      let p := match fmulX (elemF ta A r k) (elemF tb B j k) with | some p => p | none => .nan false
      ((faddV F32 0 (fdecode F32 y.toNat) p).1 : Int)) y

/-- UlpF32's exponent and the deviation of one F32 pair in ulps, rounded up (R227 step 4). -/
def ulpDev (x y : Nat) : Nat :=
  match fdecode F32 x, fdecode F32 y with
  | .nan _, .nan _ => 0
  | .inf s, .inf t => if s = t then 0 else 0xFFFFFFFF
  | .fin s m e, .fin t n f =>
    let (d, de) := dyAdd (smant s m) e (-(smant t n)) f
    let sh := de - ulpF32Exp n f
    let v := if 0 ≤ sh then d.natAbs * 2 ^ sh.toNat else (d.natAbs + 2 ^ (-sh).toNat - 1) / 2 ^ (-sh).toNat
    min 0xFFFFFFFF v
  | _, _ => 0xFFFFFFFF

/-- The deviation of a tile (R227 step 4). -/
def deviation (C : Accum) (w : Watch) : Nat :=
  (List.range 1024).foldl (fun d i =>
    let x := sget 0 C.data i
    let y := sget 0 w.data i
    max d (if C.kind = .s32 then min 0xFFFFFFFF (intVal x.toNat 7 - y).natAbs else ulpDev x.toNat y.toNat)) 0

end Sys2Proof.Machine
end

