-- ==== Sys2Proof/Machine/Matrix.lean ====
section
/-! DEFINITION. The M-words of the matrix stream (R361 to R366), its faults (R429, R430), and audit with the telemetry ring (R367, R368, R462). -/

namespace Sys2Proof.Machine

/-! ### Running an M-word -/

/-- Runs an M-word of the stream that holds the step: the team's slot, the team and its engine. -/
def runM (s : State) (act : Nat → Team → Engine → State) : Host.Outcome State Fault Refusal :=
  match s.cur with
  | some (.stream k) =>
    match s.team? k with
    | some tm => (match tm.eng? with | some e => if tm.stream.run then .next (act k tm e) else .fault .noStream | none => .fault .noStream)
    | none => .fault .noStream
  | _ => .fault .noStream

/-- Register m`k` of a stream. -/
def Team.mreg (tm : Team) (k : Nat) : Word := sget 0 tm.mregs k
def Team.setM (tm : Team) (k : Nat) (v : Word) : Team := { tm with mregs := sins tm.mregs k v }

/-- The slot a field stands for (R362). -/
def Team.slotOf (tm : Team) (ts : BitVec 8) (xi : Bool) (mx : Nat) : Nat :=
  if xi then (ts.toNat + (tm.mreg mx).toNat % 256) % 256 else ts.toNat

/-- The M-word ends; the stream stands at `pos` (R253). -/
def Team.mEnd (tm : Team) (pos : Nat) : Team :=
  { tm with stream := { tm.stream with pos := pos % 2 ^ 52, ir := none, wt := false, token := none, place := none, watch := none,
                                       seen := false, held := false } }
/-- The M-word ends and the next one follows. -/
def Team.mNext (tm : Team) : Team := tm.mEnd (tm.stream.pos + 4)
def State.mNext (s : State) (k : Nat) (tm : Team) : State := s.setTeam k tm.mNext

/-- Raises sticky flags of the stream status (R218). -/
def Team.mRaise (tm : Team) (f : Flags) : Team := { tm with stream := { tm.stream with flags := tm.stream.flags ||| f } }

/-- CODE 0x0062: the first slot at or beyond TSL (R429); INFO holds eight bits of it. -/
def State.mSlotFault (s : State) (k : Nat) (tm : Team) (slots : List Nat) (go : State) : State :=
  match tm.badSlot slots with
  | some t => s.takeStreamFault k tm 0x0062 (tm.tsl % 512 + 2 ^ 16 * (t % 256)) 0
  | none => go

/-- The stream joins the queues of some slots, or keeps the place it has, and waits with WT set (R139, R362). -/
def State.mJoin (s : State) (tm : Team) (slots : List Nat) : State × Team × Nat :=
  match tm.stream.place with
  | some id => (s, tm, id)
  | none =>
    let id := s.idNext
    let tm := tm.join id slots
    ({ s with idNext := id + 1 }, { tm with stream := { tm.stream with place := some id, wt := true } }, id)

/-- The operand read from a slot. -/
def Tile.operand (x : Tile) (slot ty : Nat) : Operand := { slot, ty, data := x.data }

/-! ### MLDA and MLDB (R363) -/

/-- The row-buffer entry an MLDA fills. -/
def Engine.rowFor (e : Engine) (ts : Nat) : Nat :=
  match e.rows.findIdx? fun o => match o with | some o => o.slot == ts | none => false with
  | some i => i
  | none =>
    match e.rows.findIdx? Option.isNone with
    | some i => i
    | none =>
      let rank (i : Nat) : Nat := match e.rows[i]? with | some (some o) => o.rank | _ => 0
      [1, 2, 3].foldl (fun b i => if rank i < rank b then i else b) 0

/-- MLDA (R363). -/
def execMlda (ts : BitVec 8) (cl : Bool) (ty : BitVec 4) (xi : Bool) (mx : BitVec 4) (s : State) : Host.Outcome State Fault Refusal :=
  runM s fun k tm _ =>
    let sl := tm.slotOf ts xi mx.toNat
    s.mSlotFault k tm [sl]
      (let (s, tm, id) := s.mJoin tm [sl]
       if tm.frontAt id sl .valid then
         if (tm.tile sl).poison then (s.setTeam k tm).takeStreamFault k tm 0x1040 kEngR 0
         else
           match tm.engine with
           | none => s
           | some e =>
             let o : Operand := { (tm.tile sl).operand sl ty.toNat with rank := e.rank + 1 }
             let e := { e with rows := e.rows.set (e.rowFor sl) (some o), rank := e.rank + 1 }
             s.mNext k { tm.readDone sl cl with engine := some e }
       else s.setTeam k tm)

/-- MLDB (R363). With `.rc` its two slots are read together, once both are readable, so that a poisoned one leaves the word without effect (R430, R448). -/
def execMldb (ts : BitVec 8) (sub : BitVec 4) (cl rc : Bool) (ty : BitVec 4) (xi : Bool) (mx : BitVec 4) (s : State) :
    Host.Outcome State Fault Refusal :=
  runM s fun k tm _ =>
    let sl := tm.slotOf ts xi mx.toNat
    let slots := if rc then [sl, sl + 1] else [sl]
    s.mSlotFault k tm slots
      (if rc && (sub != 15 || sl % 2 != 0 || ty == 5) then
         s.takeStreamFault k tm 0x0064 (encWord (.mldb ts sub cl rc ty xi mx)).toNat 0
       else
         let (s, tm, id) := s.mJoin tm slots
         if !slots.all fun t => tm.frontAt id t .valid then s.setTeam k tm
         else if slots.any fun t => (tm.tile t).poison then (s.setTeam k tm).takeStreamFault k tm 0x1040 kEngR 0
         else
           match tm.engine with
           | none => s
           | some e =>
             let pick (i : Nat) : Operand := let t := if rc then sl + i % 2 else sl; { (tm.tile t).operand t ty.toNat with rc }
             let macros := e.macros.zipIdx.map fun m => if sub.getLsbD m.2 then some (pick m.2) else m.1
             s.mNext k { slots.foldl (fun tm t => tm.readDone t cl) tm with engine := some { e with macros } })

/-! ### MMA, MZRO and MADC (R364, R365) -/

/-- The A slot offset and the macro of sub-array s (R364). -/
def fusion (fus s : Nat) : Nat × Nat :=
  match fus with
  | 0 => (0, s)
  | 1 => (s / 2, s % 2)
  | 2 => (s, 0)
  | _ => (s, s)

def Engine.acc (e : Engine) (k : Nat) : Accum := sget {} e.accs k
def Engine.setAcc (e : Engine) (k : Nat) (a : Accum) : Engine := { e with accs := sins e.accs k a }
/-- The row-buffer entry that holds a slot. -/
def Engine.row (e : Engine) (ts : Nat) : Option Operand := e.rows.findSome? fun o => o.filter fun o => o.slot == ts
def Engine.macro_ (e : Engine) (k : Nat) : Option Operand := (e.macros[k]?).join

/-- The operands of the four sub-arrays, where each is present with the types of the type code. -/
def Engine.operands (e : Engine) (base fus ty : Nat) : Option (List (Operand × Operand)) :=
  let (ta, tb) := mmaTypes ty
  (List.range 4).mapM fun i =>
    let (a, b) := fusion fus i
    match e.row (base + a), e.macro_ b with
    | some x, some y => if x.ty = ta ∧ y.ty = tb then some (x, y) else none
    | _, _ => none

/-- Whether one MLDB `.rc` loaded the macros (R364): a later MLDB marks what it loads. -/
def Engine.rcLoaded (e : Engine) : Bool := (List.range 4).all fun i => match e.macro_ i with | some o => o.rc | none => false

/-- Changes a stream's audit. -/
def Team.modAudit (tm : Team) (f : Audit → Audit) : Team := { tm with stream := { tm.stream with audit := f tm.stream.audit } }

/-- Whether the audit unit of a column is busy (R228): it watches a selection, or works on the tile of one. -/
def State.auditBusy (s : State) (c : Nat) : Bool :=
  (s.col c).audited || (s.teamsOf c).any fun p => p.2.stream.audit.watch.isSome

/-- A selection is made (R227 step 1): the unit begins to watch, or, busy, watches it once it is free. DESIGN CHOICE: of two selections that one counted tile
would serve, such as two MAUDs in a row, the later one counts: the watch begins anew. -/
def State.auditSelect (s : State) (k key : Nat) : State :=
  let busy := s.auditBusy (teamCol k)
  s.modTeam k fun tm => tm.modAudit fun au =>
    if (match au.watch with | some p => p.1 == key | none => false) || !busy then { au with watch := some (key, []) }
    else { au with waits := if au.waits.contains key then au.waits else au.waits ++ [key] }

/-- Changes the watched copy of an accumulator, captured first if it was not yet written since the selection (R227). -/
def Team.audit (tm : Team) (k : Nat) (before : Accum) (f : Watch → Watch) : Team :=
  tm.modAudit fun au =>
    { au with watch := au.watch.map fun p =>
        (p.1, sins p.2 k (f (match sfind p.2 k with | some w => w | none => before.captured))) }

/-- The audit unit may have become free, a free value; the oldest selection of the stream that waits then begins to watch (R227 step 1, R228). -/
def State.auditStep (s : State) (k : Nat) : State :=
  let c := teamCol k
  let s := if (s.col c).audited then let (s, v) := s.free; s.modCol c fun x => { x with audited := v.getLsbD 0 } else s
  if s.auditBusy c then s
  else s.modTeam k fun tm => tm.modAudit fun au => match au.waits with | key :: rest => { au with waits := rest, watch := some (key, []) } | [] => au

/-- MMA (R364). -/
def execMma (acc : BitVec 6) (ts : BitVec 8) (fus ord : BitVec 2) (ty : BitVec 4) (sat xi : Bool) (s : State) : Host.Outcome State Fault Refusal :=
  runM s fun k tm e =>
    let base := tm.slotOf ts xi 15
    let J := acc.toNat
    let t := ty.toNat
    let kind : AccumKind := if mmaInt t then .s32 else .f32
    let info := (encWord (.mma acc ts fus ord ty sat xi)).toNat
    let rcOk := fus == 1 && t != 7 && e.rcLoaded
    s.mSlotFault k tm ((List.range 4).map fun i => base + (fusion fus.toNat i).1)
      (if J % 4 ≠ 0 ∨ (sat = true ∧ kind = .f32) ∨ ((List.range 4).any fun i => (e.acc (J + i)).kind != .none && (e.acc (J + i)).kind != kind) = true then
         s.takeStreamFault k tm 0x0063 info 0
       else
         match e.operands base fus.toNat t with
         | none => s.takeStreamFault k tm 0x0063 info 0
         | some ops =>
           if ord == 1 && !rcOk then s.takeStreamFault k tm 0x0064 info 0
           else
             let rc := rcOk && (ord == 1 || (ord == 0 && tm.stream.rcDefault))
             let A2 := [ops[0]?, ops[2]?].filterMap fun o => o.map Prod.fst
             let B2 := [ops[0]?, ops[1]?].filterMap fun o => o.map Prod.snd
             let block (i : Nat) : List (Nat × Word) × Flags :=
               match ops[i]? with
               | some (A, B) => if rc then rcBlock t sat A2 B2 i (e.acc (J + i)) else mmaBlock t sat A B (e.acc (J + i))
               | none => ([], 0)
             let bad (i : Nat) : Bool := (e.acc (J + i)).poison || (match ops[i]? with | some (_, B) => B.poison | none => false)
               || (rc && ops.any fun o => o.2.poison)
             let blocks := (List.range 4).map block
             let e' := blocks.zipIdx.foldl (fun e' b => e'.setAcc (J + b.2) { kind, data := b.1.1, poison := bad b.2 }) e
             let tm := (List.range 4).foldl (fun tm i =>
               match ops[i]? with
               | some (A, B) =>
                 let a := A.bytes
                 let b := B.bytes
                 tm.audit (J + i) (e.acc (J + i)) fun w => w.map kind fun x y => auditElem t a b (x / 32) (x % 32) y
               | none => tm) tm
             let tm := tm.mRaise (blocks.foldl (fun f b => f ||| b.2) 0)
             s.mNext k { tm with engine := some e' })

/-- MZRO (R365). -/
def execMzro (acc cnt : BitVec 6) (s : State) : Host.Outcome State Fault Refusal :=
  runM s fun k tm e =>
    if 63 < acc.toNat + cnt.toNat then s.takeStreamFault k tm 0x0065 (encWord (.mzro acc cnt)).toNat 0
    else
      let ks := slotRange acc.toNat (cnt.toNat + 1)
      let tm := ks.foldl (fun tm j => tm.audit j (e.acc j) fun _ => {}) tm
      s.mNext k { tm with engine := some (ks.foldl (fun e j => e.setAcc j {}) e) }

/-- MADC (R365). -/
def execMadc (acc src : BitVec 6) (sat : Bool) (s : State) : Host.Outcome State Fault Refusal :=
  runM s fun k tm e =>
    let J := acc.toNat
    let a := e.acc J
    let b := e.acc src.toNat
    if a.kind ≠ .none ∧ b.kind ≠ .none ∧ a.kind ≠ b.kind then s.takeStreamFault k tm 0x0063 (encWord (.madc acc src sat)).toNat 0
    else
      let kind := if a.kind = .none then b.kind else a.kind
      let bad := a.poison || b.poison
      if kind = .none then s.mNext k { tm with engine := some (e.setAcc J { a with poison := bad }) }
      else
        let int := kind == .s32
        let (data, fl) := blockOf fun i => madcElem int sat (sget 0 a.data i).toNat (sget 0 b.data i).toNat
        let tm := tm.audit J a fun w => w.map kind fun i y =>
          let x := (sget 0 b.data i).toNat
          if int then intVal (fitInt (y + intVal x 7) 7 sat).1 7 else ((faddV F32 0 (fdecode F32 y.toNat) (fdecode F32 x)).1 : Int)
        s.mNext k { tm.mRaise fl with engine := some (e.setAcc J { kind, data, poison := bad }) }

/-! ### Audit and the telemetry ring (R227, R367, R368, R462) -/

/-- The place of a stream's record: SRC 1, THREAD 0xFFFF, PC the M-word (R422, R462). -/
def streamRec (k : Nat) (tm : Team) (code info va : Nat) : Rec := teamRec k tm { code, src := 1, pc := tm.stream.pos, addr := va, info }

/-- Offers a telemetry-ring entry (R368). -/
def State.telemetry (s : State) (k : Nat) (tm : Team) (ws : List Word) : State :=
  let ck := s.teamCtx tm
  let size := 2 ^ (s.rbits (kTd ck 0x0C) 31 28 + 4)
  let wr := s.rget (kTd ck 0x10) + nw (s.putsOf fun p => p.ck == ck && (match p.end_ with | .telemetry _ => true | _ => false))
  if (wr - s.rget (kTd ck 0x14)).toNat < size then
    let base := s.rbits (kTd ck 8) 31 5 * 32 + 2 ^ 32 * s.rbits (kTd ck 0x0C) 19 0
    s.makePut ck (.bytes (base + 32 * (wr.toNat % size)) (wordsBytes (ws ++ [nw s.dt, nw (s.dt / 2 ^ 32)]))) (.telemetry (streamRec k tm 0 0 0))
  else s.telemetryLost ck

/-- Audits a tile with the accumulators a selection has watched (R227 steps 4 and 5, R462). The deviation of a poisoned accumulator goes to the ring as zero,
with a record; DEDUCED: ADDR then names the tile slot that was stored, in the tile memory (R448). -/
def State.auditTile (s : State) (k : Nat) (tm : Team) (j sl : Nat) (C : Accum) (td : Nat) (ws : List (Nat × Watch)) : State :=
  let ck := s.teamCtx tm
  let w := match sfind ws j with | some w => w | none => C.captured
  let dev := deviation C w
  let w0 := (if C.kind = .s32 then 2 ^ 27 else 0) + teamSlot k * 2 ^ 22 + teamCol k * 2 ^ 16 + td * 2 ^ 8 + 1
  let pos := tm.stream.pos
  let s := s.modCol (teamCol k) fun x => { x with audited := true }
  let s := s.telemetry k tm [nw w0, nw (if C.poison then 0 else dev), tm.mreg 13, nw tm.index, nw pos, nw (pos / 2 ^ 32)]
  let s := if C.poison then s.report ck (streamRec k tm 0x1041 kEngW (4096 * sl)) else s
  if (s.rget (kTd ck 0x1C)).toNat < dev then s.report ck (streamRec k tm 0x2030 dev 0) else s

/-- ACNT of a tensor id as the next update of it finds it at its home: after those that wait there (R182, R367). -/
def State.acnt (s : State) (c ck td : Nat) (ent : List Word) : Nat :=
  match s.keyOf (some c) ck (s.tdAddr ck td + 56) with
  | some key => leNat ((s.applyAll (key / 128)).bytesAt key 4)
  | none => (wd ent 14).toNat

/-- Counts a stored tile for audit (R227, R228, R367): `ent` is the tensor id entry as it reads now. A selected tile is audited when the unit watches one of the
selections that it serves, or is free; else the selection passes. A count short of P − 1 shows that a tile of another stream has taken the selection that is
watched here. -/
def State.auditCount (s : State) (k : Nat) (tm : Team) (j sl : Nat) (C : Accum) (td : Nat) (ent : List Word) : State :=
  let ck := s.teamCtx tm
  if tdAper ent = 0 then s
  else
    let au := tm.stream.audit
    let P := 2 ^ tdAper ent
    let acnt := s.acnt (teamCol k) ck td ent
    let due := acnt == P - 1
    let sel := au.force || due
    let used (key : Nat) : Bool := key == td || (au.force && key == 256) || (au.pass && key == 257)
    let ws : Option (List (Nat × Watch)) := au.watch.bind fun p => if used p.1 then some p.2 else none
    let s := s.tdUpdate ck (streamRec k tm 0 0 0) td 14 (if sel then .set 0 else .add 1)
    let s := s.modTeam k fun tm => tm.modAudit fun au =>
      { waits := au.waits.filter fun key => !used key, watch := au.watch.filter fun p => !used p.1 }
    let s :=
      if sel || au.pass then
        match ws with
        | some ws => s.auditTile k tm j sl C td ws
        | none =>
          if s.auditBusy (teamCol k) then (s.modTeam k fun tm => tm.modAudit fun au => { au with pass := true }).auditSelect k 257
          else s.auditTile k tm j sl C td []
      else s
    if !sel && acnt + 2 == P then s.auditSelect k td else s

/-- Reads the tensor id entry an M-word names; a fault makes the stream wait or freeze, an invalid entry is 0x0067 (R429, R481). -/
def State.mEntry (s : State) (k : Nat) (tm : Team) (td : Nat) : State × Option (List Word) :=
  let ck := s.teamCtx tm
  if !s.ten ck then (s.takeStreamFault k tm 0x0067 td 0, none)
  else
  match s.tdRead (some (teamCol k)) ck td with
  | (s, .error (code, info, va)) =>
    (if code ≠ 0 ∧ freezeFate code = true then s.takeStreamFault k tm code info va
     else
       let s := s.setTeam k { tm with stream := { tm.stream with wt := true, held := decide (code ≠ 0), heldVa := va } }
       if code = 0 then s else s.reportOnce ck none kEngR (streamRec k tm code info va), none)
  | (s, .ok ent) => if tdV ent then (s, some ent) else (s.takeStreamFault k tm 0x0067 td 0, none)

/-- MSTC (R365): a writer of its slot, which is HELD and VALID again within the step. -/
def execMstc (acc : BitVec 6) (ts : BitVec 8) (ty : BitVec 4) (sc xi : Bool) (mx : BitVec 4) (s : State) : Host.Outcome State Fault Refusal :=
  runM s fun k tm e =>
    let sl := tm.slotOf ts xi mx.toNat
    let C := e.acc acc.toNat
    let m12 := (tm.mreg 12).toNat
    let td := m12 % 256
    let named := m12 / 256 % 2 == 1
    s.mSlotFault k tm [sl]
      (if mstcOk C.kind ty.toNat sc then
         let store (s : State) (ent : Option (List Word)) : State :=
           let (s, tm, id) := s.mJoin tm [sl]
           if tm.frontAt id sl .empty then
             let (bytes, fl, n) := mstcTile C ty.toNat (if sc then some ((tm.mreg 14).toNat % 256) else none)
             let tm := (tm.writeDone sl (bytes.map fun b => (b, C.poison))).mRaise fl
             match ent with
             | none => s.mNext k tm
             | some ent =>
               let s := if n = 0 then s else s.tdUpdate (s.teamCtx tm) (streamRec k tm 0 0 0) td 15 (.addSat n)
               let s := (s.setTeam k tm).auditCount k tm acc.toNat sl C td ent
               match s.team? k with | some tm => s.mNext k tm | none => s
           else s.setTeam k tm
         if named then (match s.mEntry k tm td with | (s, some ent) => store s (some ent) | (s, none) => s) else store s none
       else s.takeStreamFault k tm 0x0063 (encWord (.mstc acc ts ty sc xi mx)).toNat 0)

/-- MAUD (R366, R367): the next counted tile is selected. -/
def execMaud (td : BitVec 8) (s : State) : Host.Outcome State Fault Refusal :=
  runM s fun k tm _ =>
    match s.mEntry k tm td.toNat with
    | (s, none) => s
    | (s, some _) =>
      let s := (s.setTeam k ((tm.setM 12 (nw (0x100 + td.toNat))).modAudit fun au => { au with force := true })).auditSelect k 256
      match s.team? k with | some tm => s.mNext k tm | none => s

/-! ### The remaining M-words (R366) -/

/-- MNOP. -/
def execMnop (s : State) : Host.Outcome State Fault Refusal := runM s fun k tm _ => s.mNext k tm

/-- MEND: END is set and RUN cleared. -/
def execMend (s : State) : Host.Outcome State Fault Refusal :=
  runM s fun k tm _ => let tm := tm.mNext; s.setTeam k { tm with stream := { tm.stream with run := false, end_ := true } }

/-- CODE 0x0066: a point above 23 or not initialised (R429). -/
def Team.mPointBad (tm : Team) (z : Nat) : Bool := decide (23 < z) || (tm.point z).e == 0

/-- MRZA: one arrival. -/
def execMrza (z : BitVec 5) (s : State) : Host.Outcome State Fault Refusal :=
  runM s fun k tm _ =>
    if tm.mPointBad z.toNat then s.takeStreamFault k tm 0x0066 z.toNat 0
    else s.mNext k (tm.setPoint z.toNat ((tm.point z.toNat).arrive false).1)

/-- MRZW: one arrival, and then a wait until the phase differs from its token. -/
def execMrzw (z : BitVec 5) (s : State) : Host.Outcome State Fault Refusal :=
  runM s fun k tm _ =>
    if tm.mPointBad z.toNat then s.takeStreamFault k tm 0x0066 z.toNat 0
    else
      let (tm, tok) := match tm.stream.token with
        | some tok => (tm, tok)
        | none => let (p, tok) := (tm.point z.toNat).arrive false; (tm.setPoint z.toNat p, tok)
      if (tm.point z.toNat).p ≠ tok then s.mNext k tm
      else s.setTeam k { tm with stream := { tm.stream with token := some tok, wt := true } }

/-- The tag of a code (R139). -/
def tagOf (c : BitVec 2) : Tag := if c = 0 then .empty else if c = 1 then .valid else .held

/-- MWTG: watches the slot from outside its queue. -/
def execMwtg (ts : BitVec 8) (tag : BitVec 2) (xi : Bool) (mx : BitVec 4) (s : State) : Host.Outcome State Fault Refusal :=
  runM s fun k tm _ =>
    let sl := tm.slotOf ts xi mx.toNat
    s.mSlotFault k tm [sl]
      (if (tm.tile sl).tag = tagOf tag ∨ (tm.stream.watch = some (sl, tagOf tag) ∧ tm.stream.seen = true) then s.mNext k tm
       else s.setTeam k { tm with stream := { tm.stream with wt := true, watch := some (sl, tagOf tag), seen := false } })

/-- MSET. -/
def execMset (mk : BitVec 4) (imm : BitVec 22) (s : State) : Host.Outcome State Fault Refusal :=
  runM s fun k tm _ => s.mNext k (tm.setM mk.toNat (imm.setWidth 32))

/-- MADD. -/
def execMadd (mk ms : BitVec 4) (imm : BitVec 18) (s : State) : Host.Outcome State Fault Refusal :=
  runM s fun k tm _ => s.mNext k (tm.setM mk.toNat (tm.mreg ms.toNat + imm.signExtend 32))

/-- MLOP: the register falls by one, and the stream continues at the label while it is not zero. -/
def execMlop (mk : BitVec 4) (disp : BitVec 22) (s : State) : Host.Outcome State Fault Refusal :=
  runM s fun k tm _ =>
    let v := tm.mreg mk.toNat - 1
    let tm := tm.setM mk.toNat v
    if v = 0 then s.mNext k tm
    else s.setTeam k (tm.mEnd ((BitVec.ofNat 52 tm.stream.pos + disp.signExtend 52 * 4#52).toNat))

/-! ### Fetching M-words (R253, R430, R436) -/

/-- Fetches the stream's next M-word, and judges it (R429): a repairable fault makes the stream wait, others stop it. -/
def State.fetchM (s : State) (k : Nat) (tm : Team) : State :=
  let ck := s.teamCtx tm
  let pos := tm.stream.pos
  if 2 ^ 52 ≤ pos then s.takeStreamFault k tm 0x1008 kStream pos
  else
  match s.colRead (teamCol k) ck kStream (s.teamPriv tm) pos 4 with
  | (s, .error (code, info, va)) =>
    if code ≠ 0 ∧ freezeFate code = true then s.takeStreamFault k tm code info va
    else
      let s := s.modTeam k fun tm => { tm with stream := { tm.stream with wt := true, held := decide (code ≠ 0), heldVa := va } }
      if code = 0 then s else s.reportOnce ck none kStream (streamRec k tm code info va)
  | (s, .ok bs) =>
    let w := nw (leNat bs)
    match decodeM w with
    | .error e => s.takeStreamFault k tm e.code w.toNat 0
    | .ok _ => s.modTeam k fun tm => { tm with stream := { tm.stream with ir := some w, wt := false } }

end Sys2Proof.Machine
end

