-- ==== Sys2Proof/Machine/Launch.lean ====
section
/-! DEFINITION. Host queues (R89 to R94, R413), the stack scheduler (R95, R96), grid signals (R97), successor launch (R103 to R105), the event queue's
handler cards (R415) and grid-barrier admission (R114). -/

namespace Sys2Proof.Machine

/-! ### Queue registers (R90, R91, R413) -/

/-- LOGSZ of a queue. -/
def State.logsz (s : State) (ck q : Nat) : Nat := s.rbits (kQueue ck q 8) 4 0

/-- QUEUE_CONTROL_WRITE (R90): LOGSZ changes only while EN = 0, to a value from 4 to 16. -/
def execQueueControlWrite (fn c q : Nat) (v : Word) (s : State) : Host.Outcome State Fault Refusal :=
  let k := kQueue (ctxKey fn c) q 8
  let keep := s.rbits k 7 7 = 1 ∨ bits v 4 0 < 4 ∨ 16 < bits v 4 0
  .next (s.rwrite k (nw (bits v 7 5 * 32 + if keep then s.rbits k 4 0 else bits v 4 0)))

/-- Stops a queue (R413): STOP is set and MSI-X vector 50 is raised (R418). -/
def State.stopQueue (s : State) (ck q : Nat) : State := (s.rset (kQueue ck q 0x14) 1).raiseMsix (ctxFn ck) 50

/-- DOORBELL (R91, R413): a TAIL that breaks R91 is ignored, and stops the queue. -/
def execDoorbell (fn c q : Nat) (tail : Word) (s : State) : Host.Outcome State Fault Refusal :=
  let ck := ctxKey fn c
  let size := 2 ^ s.logsz ck q
  let head := s.rget (kQueue ck q 0x10)
  let prev := s.rget (kQueue ck q 0x0C)
  .next (if size < (tail - head).toNat ∨ size < (tail - prev).toNat then
      (s.report ck { code := 0x3002, src := 8, team := q, info := tail.toNat }).stopQueue ck q
    else s.rset (kQueue ck q 0x0C) tail)

/-- STOP_CLEAR (R413): intake resumes from HEAD; a queue frozen by FRZ is released (R417). -/
def execStopClear (fn c q : Nat) (s : State) : Host.Outcome State Fault Refusal :=
  let s := s.rset (kQueue (ctxKey fn c) q 0x14) 0
  .next (if (s.ctx (ctxKey fn c)).frozenQueues.contains q then
      s.modCtx (ctxKey fn c) fun x => { x with frozenQueues := x.frozenQueues.filter fun y => y != q }
    else s)

/-! ### Intake (R89, R91, R117, R415) -/

/-- Whether intake of a queue is held by a pre-emption command (R117), a hard trip (R466) or a fatal error (R408). Queue 64 stands for the event
queue of the context's function. -/
def State.intakeHeld (s : State) (ck q : Nat) : Bool :=
  let x := s.ctx ck
  let cmd := match x.cmd with | some c => c.op == 2 || c.op == 3 | none => false
  let held := s.cstate ck != 0 || cmd
  s.fatal || !s.powered || s.hardTrip.isSome || (if q < 64 then s.qhalt ck q || held else held && !x.spared)

/-- The handler-card copy for a record (R415). -/
def handlerCard (s : State) (ck : Nat) (ws : List Word) (rec_ : Nat) : Card :=
  let w4 := nw ((wd ws 4).toNat - bits (wd ws 4) 18 18 * 2 ^ 18)
  let w8 := nw (bits (wd ws 8) 31 16 * 2 ^ 16 + 64)
  let w10 := nw (bits (wd ws 10) 31 31 * 2 ^ 31 + s.ctxPart ck * 2 ^ 28 + s.ctxId ck * 2 ^ 16 + bits (wd ws 10) 15 0)
  (((((ws.set 4 w4).set 6 (nw rec_)).set 7 (nw (rec_ / 2 ^ 32))).set 8 w8).set 9 1).set 10 w10

/-- Replaces the entry at an index of an intake. -/
def State.setCard (s : State) (ck q i : Nat) (x : CardIn) : State := s.setIntake ck q (((s.ctx ck).intake q).set i x)

/-- Takes in the handler card of the oldest posted record whose task has not been taken in. A rejected one stays until EVEN is rewritten: it is
marked as held (R415). -/
def State.takeHandler (s : State) (ck : Nat) : State :=
  let fn := ctxFn ck
  let l := (s.ctx ck).intake 64
  match l.findIdx? fun x => x.words.isEmpty && !x.held with
  | none => s
  | some i =>
    match l[i]? with
    | none => s
    | some x =>
      let addr := s.rbits (kEv fn 0x18) 31 7 * 128 + 2 ^ 32 * s.rbits (kEv fn 0x1C) 19 0
      match s.virtRead ck kEngR true addr 128 with
      | (s, .error (code, _, _)) =>
        if code = 0 then s
        else (s.report ck { code := 0x3003, src := 8, team := 64, addr, info := code }).setCard ck 64 i { x with held := true }
      | (s, .ok bs) =>
        let w := handlerCard s ck (bytesWords bs) x.addr
        match s.cardCheck ck w false false with
        | some j => (s.report ck { code := 0x3001, src := 8, team := 64, addr, info := j }).setCard ck 64 i { x with held := true }
        | none => s.setCard ck 64 i { x with words := w, addr := addr }

/-- CARD_INTAKE (R91, R413): one card is copied from the ring, and HEAD advances. -/
def execCardIntake (fn c q : Nat) (s : State) : Host.Outcome State Fault Refusal :=
  let ck := ctxKey fn c
  .next (if s.intakeHeld ck q then s
    else if 64 ≤ q then s.takeHandler ck
    else if s.rbits (kQueue ck q 8) 7 7 = 0 ∨ s.rbits (kQueue ck q 0x14) 0 0 = 1 ∨ s.rget (kQueue ck q 0x0C) = s.rget (kQueue ck q 0x10)
        ∨ 16 ≤ ((s.ctx ck).intake q).length then s
    else
      let head := s.rget (kQueue ck q 0x10)
      let base := s.rbits (kQueue ck q 0) 31 7 * 128 + 2 ^ 32 * s.rbits (kQueue ck q 4) 19 0
      let addr := base + 128 * (head.toNat % 2 ^ s.logsz ck q)
      match s.countAcquire ck with
      | none => s
      | some s =>
        match s.virtRead ck kEngR true addr 128 with
        | (s, .error (code, _, _)) =>
          if code = 0 then s else (s.report ck { code := 0x3003, src := 8, team := q, addr, info := code }).stopQueue ck q
        | (s, .ok bs) =>
          ((s.intakePush ck q { words := bytesWords bs, addr, launch := false }).rset (kQueue ck q 0x10) (head + 1)).capture
            1 ck addr 128 q s.acqn bs)

/-! ### Dependence waits and eligibility (R93, R94, R413) -/

/-- The card at the front of an intake leaves it. -/
def State.popCard (s : State) (ck q : Nat) : State := s.setIntake ck q (((s.ctx ck).intake q).drop 1)

/-- A card becomes eligible (R93): its grid starts to exist, with DT as its age. DESIGN CHOICE: its effective priority is fixed then, so that a PRICAP written
later does not change it; R95 does not say. -/
def State.eligible (s : State) (ck q : Nat) (x : CardIn) : State :=
  let w : Card := x.words
  let pri := if x.launch ∨ 64 ≤ q then w.pri else min w.pri (s.rbits (kQueue ck q 8) 6 5)
  let g : Grid :=
    { ctx := ck, card := w, cardAddr := x.addr, queue := if q < 64 then some q else none, age := s.dt, pri, priv := x.event.isSome, event := x.event }
  ({ (s.popCard ck q) with grids := sins s.grids s.gridNext g, gridNext := s.gridNext + 1 }).completeGrids (s.grids.length + 1)

/-- Reads waits of a card in order: those met, and those that fault, with CODE and address. -/
def State.readWaits (s : State) (ck : Nat) (priv : Bool) (w : Card) : List Nat → State × List Nat × List (Nat × Nat × Nat)
  | [] => (s, [], [])
  | i :: rest =>
    match s.virtRead ck kEngR priv (w.waddr i) 8 with
    | (s, .error (code, _, va)) => let (s, l, e) := State.readWaits s ck priv w rest; (s, l, (i, code, va) :: e)
    | (s, .ok bs) => let (s, l, e) := State.readWaits s ck priv w rest; (s, if w.wval i ≤ leNat bs then i :: l else l, e)

/-- The reads of dependence counters are counted acquires, one each (R476). -/
def State.countReads (s : State) (ck : Nat) : Nat → Option State
  | 0 => some s
  | n + 1 => (s.countAcquire ck).bind fun s => State.countReads s ck n

/-- DEPENDENCE_COUNTER_READ (R93, R94): the unmet waits of the front card are read, but for those that a memory fault holds; a fault is reported once for
each card and GEN (R413), one of freeze fate before others; a repeat within the GEN is counted alone (R418). -/
def execDependenceCounterRead (fn c q : Nat) (s : State) : Host.Outcome State Fault Refusal :=
  let ck := ctxKey fn c
  .next (if s.intakeHeld ck q then s
    else
      match (s.ctx ck).intake q with
      | [] => s
      | x :: _ =>
        let w : Card := x.words
        let unmet := [0, 1, 2, 3].filter fun i => w.wv i && !x.met.contains i && !x.stuck.contains i
        if x.words = [] then s
        else
          match s.countReads ck unmet.length with
          | none => s
          | some s =>
          let (s, met, faults) := s.readWaits ck x.event.isSome w unmet
          let faults := faults.filter fun e => e.2.1 != 0
          let x := { x with met := x.met ++ met, stuck := x.stuck ++ faults.map Prod.fst }
          match (faults.find? fun e => freezeFate e.2.1).or faults.head? with
          | none => if [0, 1, 2, 3].all fun i => !w.wv i || x.met.contains i then s.eligible ck q x else s.setCard ck q 0 x
          | some (_, code, va) =>
              let s' := if x.gen = some (s.gen ck) then s.countError 9 else s.report ck { code := 0x3004, src := 8, team := q, addr := va, info := code }
              if freezeFate code then
                (if x.event.isSome then s'.setCard ck q 0 { x with words := [], met := [], stuck := [], held := true } else s'.popCard ck q)
              else s'.setCard ck q 0 { x with gen := some (s.gen ck) })

/-- Whether the atomic of a grid's signal is due at its home (R94). -/
def State.signalDue (s : State) (now : Nat) : Bool := s.dir.any fun p => p.2.waiting.any fun w => w.signal && decide (w.t ≤ now)

/-- Re-reads the unmet counters of every card at the front of an intake (R94). -/
def State.rereadWaits (s : State) : State :=
  (s.ctxs.flatMap fun p => p.2.intakes.map fun i => (p.1, i.1)).foldl (fun s p =>
    match execDependenceCounterRead (ctxFn p.1) (ctxLoc p.1) p.2 s with | .next s => s | _ => s) s

/-! ### Placement (R95, R96) -/

/-- What a team reserves in its column (R135), or, of a successor that waits, is to reserve: bytes of backing and of scratchpad, and tile slots. -/
def State.reserves (s : State) (tm : Team) : Nat × Nat × Nat :=
  let w : Card := s.teamCard tm
  let eng := match tm.engBacking with | some e => e.2 | none => 0
  let now := (tm.backing.2 + eng, tm.extent.2, tm.tsl)
  if tm.successor then (max now.1 (backingReserve w.thr w.n + eng), max now.2.1 (spadExtent w.spad), max now.2.2 w.tsl) else now

/-- Whether a new team of a card leaves the space that successors waiting in its column need (R104): the reservations of all fit the regions. -/
def State.sparesSuccessors (s : State) (w : Card) (c : Nat) : Bool :=
  let teams := s.teamsOf c
  let (bk, sp, ts) := s.regions c w.part
  let sum (f : Nat × Nat × Nat → Nat) : Nat := teams.foldl (fun n p => n + f (s.reserves p.2)) 0
  !(teams.any fun p => p.2.successor)
    || (decide (sum Prod.fst + backingReserve w.thr w.n ≤ bk) && decide (sum (fun r => r.2.1) + spadExtent w.spad ≤ sp)
      && decide (sum (fun r => r.2.2) + w.tsl ≤ ts))

/-- Whether a column takes a new team of a card: its extents and a slot, beside the space that successors which wait there need (R95, R104). -/
def State.columnTakes (s : State) (w : Card) (c : Nat) : Option ((Nat × Nat) × (Nat × Nat) × Nat) :=
  if s.ncol ≤ c ∨ s.sparesSuccessors w c = false then none
  else
    match s.room c noTeam w, s.freeSlot c with
    | some (b, e), some sl => some (b, e, sl)
    | _, _ => none

/-- Whether a context has a live base-scratchpad window. -/
def State.hasWindow (s : State) (ck : Nat) : Bool := s.wins.any fun w => w.ctx == ck && w.live && w.size != 0

/-- Places the members of one cluster, or one team: columns and member numbers. -/
def State.placeMembers (s : State) (id : Nat) (g : Grid) (idx : Nat) (keys : List Nat) : List (Nat × Nat) → Option State
  | [] => some s
  | (c, i) :: rest =>
    let w : Card := g.card
    match s.columnTakes w c with
    | none => none
    | some (b, e, sl) =>
      let s := s.bind c w.part
      let tm := newTeam w id (idx + i) i s.cyc s.dt (if keys.length ≤ 1 then [] else keys) b e
      State.placeMembers (s.startTeam (teamKey c sl) tm) id g idx keys rest

/-- Places the next team or cluster of a grid with its first column at `c` (R95). -/
def State.placeAt (s : State) (id : Nat) (g : Grid) (c : Nat) : Option State :=
  let w : Card := g.card
  let cols := rectangle c w.crows w.ccols
  let slots := cols.map fun x => s.columnTakes w x
  if !rectFits s.ncol c w.crows w.ccols || slots.any Option.isNone || (w.bsp && !s.hasWindow g.ctx) then none
  else
    let keys := (cols.zip slots).filterMap fun p => p.2.map fun r => teamKey p.1 r.2.2
    (s.placeMembers id g g.placed keys (cols.zipIdx)).map fun s =>
      s.modGrid id fun g => { g with placed := g.placed + w.csize }

/-- The steps between two columns of the weave, by row and column of the logical grid (R17, R96). -/
def weaveSteps (a b : Nat) : Nat := (max (a / 8) (b / 8) - min (a / 8) (b / 8)) + (max (a % 8) (b % 8) - min (a % 8) (b % 8))

/-- The columns in the order in which the card's hint prefers them (R96): by the teams of the grid they hold, or by their distance from PCOL. -/
def State.preferred (s : State) (id : Nat) (w : Card) : List Nat :=
  let held (c : Nat) : Nat := ((s.teamsOf c).filter fun p => p.2.grid == id).length
  let rank (c : Nat) : Nat :=
    match w.plk with
    | 1 => held c
    | 2 => 32 - held c
    | 3 => if w.pcol < s.ncol then weaveSteps c w.pcol else 0
    | _ => 0
  (List.range s.ncol).mergeSort fun a b => decide (rank a ≤ rank b)

/-- How many more teams of a card a column takes (R95). -/
def State.capacity (s : State) (w : Card) (c : Nat) : Nat → Nat
  | 0 => 0
  | fuel + 1 =>
    match s.columnTakes w c with
    | some (b, e, sl) => 1 + State.capacity ((s.bind c w.part).setTeam (teamKey c sl) (newTeam w 0 0 0 s.cyc s.dt [] b e)) w c fuel
    | none => 0

/-- First columns for `n` clusters of an r × c shape in columns that take the teams listed (R95 step 3): at each column in order as many as fit, and, of shapes
with several rows, fewer where that leaves too little. -/
def packClusters (N r c : Nat) : Nat → List Nat → List Nat → Nat → Option (List Nat)
  | 0, _, _, _ => none
  | _ + 1, _, _, 0 => some []
  | _ + 1, _, [], _ + 1 => none
  | fuel + 1, caps, o :: os, n + 1 =>
    let cells := rectangle o r c
    if caps.sum < (n + 1) * r * c then none
    else if rectFits N o r c && cells.all fun x => decide (0 < caps.getD x 0) then
      match packClusters N r c fuel (cells.foldl (fun l x => l.modify x (· - 1)) caps) (o :: os) n with
      | some l => some (o :: l)
      | none => if r = 1 then none else packClusters N r c fuel caps os (n + 1)
    else packClusters N r c fuel caps os (n + 1)

/-- Places the teams of a grid at the first columns listed. -/
def State.placeList (s : State) (id : Nat) : List Nat → Option State
  | [] => some s
  | c :: rest =>
    match sfind s.grids id with
    | none => none
    | some g => (s.placeAt id g c).bind fun s => State.placeList s id rest

/-- Places every remaining team of a grid in order, each at the first preferred column that takes it (R95, R96). -/
def State.placeHinted (s : State) (id : Nat) : Nat → Option State
  | 0 => none
  | fuel + 1 =>
    match sfind s.grids id with
    | none => none
    | some g =>
      if Card.total g.card ≤ g.placed then some s
      else ((s.preferred id g.card).findSome? fun c => s.placeAt id g c).bind fun s => State.placeHinted s id fuel

/-- Places every remaining team of a grid in one step, or none (R57, R95, R96): as its hint prefers, or, since a hint delays nothing, as they fit. -/
def State.placeWhole (s : State) (id : Nat) (g : Grid) : Option State :=
  let w : Card := g.card
  (s.placeHinted id (w.total + 1)).or
    (let n := (w.total - g.placed) / max 1 w.csize
     ((packClusters s.ncol w.crows w.ccols (n + s.ncol + 1) ((List.range s.ncol).map fun c => s.capacity w c 32) (List.range s.ncol) n).bind
        fun l => s.placeList id l))

/-- Whether a grid has teams left for the scheduler to place. -/
def Grid.pending (g : Grid) : Bool := g.pred.isNone && !g.complete && !g.halted && decide (g.placed < Card.total g.card)

/-- The scheduler's next placement of a grid, its first team or cluster at column `c` (R95 steps 2 to 5). -/
def State.placeGrid (s : State) (id : Nat) (g : Grid) (c : Nat) : Option State :=
  if Card.coop g.card then s.placeWhole id g else s.placeAt id g c

/-- Whether a grid precedes another in card order (R95 step 1). DESIGN CHOICE: of two of one priority and age, the one whose card became eligible in an
earlier step of the model; R95 does not say. -/
def Grid.before (g h : Grid) (gid hid : Nat) : Bool :=
  decide (h.pri < g.pri) || (g.pri == h.pri && (decide (g.age < h.age) || (g.age == h.age && decide (gid < hid))))

/-- Whether a cooperative guard stands for a grid (R95 step 3): it has been eligible and unplaced for 1 ms. -/
def State.guards (s : State) (id : Nat) (g : Grid) : Bool :=
  Card.coop g.card && g.pending && (s.coopGuard.contains id || decide (g.age + 1000000 ≤ s.dt))

/-- Whether a cooperative guard keeps a grid from being placed (R95 step 3). DESIGN CHOICE: of two grids of one priority that both have a guard, the first
in card order is not kept by that of the other; by the letter of R95 each would wait for the other. -/
def State.guarded (s : State) (id : Nat) (g : Grid) : Bool :=
  s.grids.any fun p => p.1 != id && s.guards p.1 p.2 && decide (g.pri ≤ p.2.pri) && !(s.guards id g && g.before p.2 id p.1)

/-- Whether a grid can be placed now at some column. -/
def State.placeable (s : State) (id : Nat) (g : Grid) : Bool :=
  g.pending && !s.guarded id g
    && (if Card.coop g.card then (s.placeWhole id g).isSome else (List.range s.ncol).any fun c => (s.placeAt id g c).isSome)

/-- TEAM_PLACEMENT (R95): the grid's next team or cluster, when no card before it in order can be placed. -/
def execTeamPlacement (grid col : Nat) (s : State) : Host.Outcome State Fault Refusal :=
  .next (match sfind s.grids grid with
    | none => s
    | some g =>
      if !g.pending || s.guarded grid g || s.fatal || !s.powered || s.hardTrip.isSome
          || s.grids.any (fun p => p.1 != grid && p.2.before g p.1 grid && s.placeable p.1 p.2) then s
      else
        match s.placeGrid grid g col with
        | some t => { t with coopGuard := t.coopGuard.filter fun q => q != grid }
        | none => s)

/-- COOPERATIVE_GUARD (R95 step 3): a cooperative card has been eligible and unplaced for 1 ms. -/
def execCooperativeGuard (grid : Nat) (s : State) : Host.Outcome State Fault Refusal :=
  .next (match sfind s.grids grid with
    | some g =>
      if Card.coop g.card && g.pending && decide (g.age + 1000000 ≤ s.dt) && !s.coopGuard.contains grid then
        { s with coopGuard := grid :: s.coopGuard }
      else s
    | none => s)

/-! ### Grid signals (R97) -/

/-- Whether every access of a grid's retired teams has been performed, what they left at held lines has been applied, and its horizons have been waited
out. -/
def State.gridReleased (s : State) (id : Nat) (g : Grid) : Bool :=
  decide (g.horizon + 2 ≤ s.dt) && g.peerOut == 0 && (g.owed.all fun l => (s.home l.1).waiting.all fun w => decide (l.2 < w.t))
    && s.cols.all fun p => (p.2.orphans.all fun o => o.grid != id) && p.2.sideLog.all fun e => e.grid != id

/-- GRID_SIGNAL (R97, R413): SINC is added to the counter as one system-scope atomic. -/
def execGridSignal (grid : Nat) (s : State) : Host.Outcome State Fault Refusal :=
  .next (match sfind s.grids grid with
    | none => s
    | some g =>
      if !g.complete || g.signalled || g.signalHeld || !s.gridReleased grid g then s
      else
        let w : Card := g.card
        let va := w.saddr
        let done (s : State) : State := s.modGrid grid fun g => { g with signalled := true }
        let m (dev : Option Nat) (a : Nat) : OutMsg :=
          { dev, addr := a, data := leBytes w.sinc 8, aop := some (0, 11), dctx := s.rbits (kLk g.ctx 8) 11 0 }
        let fault (s : State) (code : Nat) : State :=
          if code = 0 then s
          else
            let s := if g.signalGen = some (s.gen g.ctx) then s.countError 9
              else s.report g.ctx { code := 0x3005, src := 8, team := g.queue.getD 64, addr := va, info := code }
            if freezeFate code then done s
            else s.modGrid grid fun g => { g with signalHeld := true, signalGen := some (s.gen g.ctx) }
        match s.xlateAgent none g.ctx va kAtomic true g.priv true with
        | (s, .error (code, _)) => fault s code
        | (s, .ok tgt) =>
          if !s.targetUp tgt then s
          else if s.poisoned tgt then fault s 0x1040
          else
            match tgt with
            | .hbm key =>
              if s.lineHeld (key / 128) then s
              else done ((s.homeArrive (key / 128) { t := 0, op := .atomic (key % 128) 8 0 11 w.sinc 0, signal := true }).1.localWrite g.ctx va)
            | .window _ => fault s 0x1012
            | .host a => done { s with outbox := { m none a with translated := true } :: s.outbox }
            | .peer d a => done { s with outbox := m (some d) a :: s.outbox })

/-! ### Successor launch (R103 to R105) -/

/-- Whether the waits of step 3 and step 5 of R103 are over: flags zero, nothing outstanding, the scoreboard empty, and no engine release in
progress. -/
def State.drained (s : State) (k : Nat) (tm : Team) : Bool :=
  tm.threads.all (fun th => th.flags == 0) && tm.accesses.isEmpty && tm.sb.isEmpty
    && ((s.col (teamCol k)).sideLog.all fun e => e.team != k)
    && (s.reqs.all fun r => r.team != k || r.age != tm.age || r.kind == .ttag || r.kind == .coll || r.kind == .plmv)
    && (match tm.engine with | some e => e.releasing.isNone | none => true)

/-- Applies the tag requests a team still has, in order. -/
def State.applyTags (s : State) (k age : Nat) : State :=
  (s.reqs.filter fun r => r.kind == .ttag && r.team == k && r.age == age).foldl (fun s r =>
    match execTtagApply r.id s with | .next s => s | _ => s) s

/-- The successor grid of a card started by the teams of a grid, made if it does not exist (R105). DESIGN CHOICE: two RETS name one card where the address
and the words read there are the same; R105 does not say whether a card that has been rewritten between them is another. DESIGN CHOICE: the successor grid of
an event task's grid is no grid of the event queue: its teams are not privileged, and no command spares it; R280 does not say. -/
def State.successorGrid (s : State) (old : Nat) (g : Grid) (h : Handover) : State × Nat :=
  match s.grids.find? fun p => p.2.pred == some old && p.2.cardAddr == h.card && p.2.card == h.words with
  | some p => (s, p.1)
  | none =>
    let x : Grid := { ctx := g.ctx, card := h.words, cardAddr := h.card, queue := g.queue, age := s.dt, pri := Card.pri h.words, pred := some old }
    ({ s with grids := sins s.grids s.gridNext x, gridNext := s.gridNext + 1 }, s.gridNext)

/-- Whether member `i` of a team's cluster has begun its hand-over to the same card: its checks have passed, or its successor is there (R104). -/
def State.memberReady (s : State) (tm : Team) (h : Handover) (m i : Nat) : Bool :=
  (match s.team? m with
   | some o => o.grid == tm.grid && o.index + tm.member == tm.index + i
      && (match o.handover with | some q => q.card == h.card && !q.failed && decide (3 ≤ q.step) | none => false)
   | none => false)
  || s.grids.any fun p => p.2.pred == some tm.grid && p.2.cardAddr == h.card && p.2.came.contains (tm.index - tm.member + i)

/-- HANDOVER_DRAIN_COMPLETE (R103 steps 3 to 6): the stream stops, the predecessor retires, and its successor holds the slot, not yet started. A member of a
cluster keeps its slot until every member has begun its hand-over to the same card (R104); its threads count as exited meanwhile. DEDUCED: its stream and its
state stay as they are until then, since a member that exits makes its check fail, and nothing of steps 3 to 6 has then happened (R431). -/
def execHandoverDrainComplete (col slot : Nat) (s : State) : Host.Outcome State Fault Refusal :=
  let k := teamKey col slot
  .next (match s.team? k with
    | none => s
    | some tm =>
      match tm.handover, sfind s.grids tm.grid with
      | some h, some g =>
        if 3 ≤ h.step ∧ s.drained k tm = true ∧ g.halted = false ∧ tm.frozen = none ∧ tm.freezing = none ∧ tm.halting = false then
          if 1 < Card.csize h.words ∧ (tm.cluster.zipIdx.all fun m => s.memberReady tm h m.1 m.2) = false then
            if h.step = 3 then (s.setTeam k { tm with handover := some { h with step := 6 } }).barrier tm.grid else s
          else
            let tm := tm.unplace
            let s := (s.setTeam k { tm with stream := tm.stream.stop }).applyTags k tm.age
            let tm := (s.team? k).getD tm
            let (s, id) := s.successorGrid tm.grid g h
            let succ := tm.successorOf h.words h.mask id s.cyc s.dt
            let s := s.modGrid id fun x => { x with started := x.started + 1, placed := x.placed + 1, came := tm.index :: x.came }
            let s := s.retire k false
            (s.setTeam k { succ with place := .parked, bundles := [], engAt := if succ.engine.isSome then tm.layer? else none }).barrier tm.grid
        else s
      | _, _ => s)

/-- SUCCESSOR_START (R104): the successor's reservations fit, and a core meets the engine condition; every cluster member has begun its hand-over. -/
def execSuccessorStart (col slot : Nat) (s : State) : Host.Outcome State Fault Refusal :=
  let k := teamKey col slot
  .next (match s.team? k with
    | none => s
    | some tm =>
      match sfind s.grids tm.grid with
      | none => s
      | some g =>
        let free (l : Nat) : Bool :=
          (s.teamsOf col).all fun p => p.1 == k || p.2.engine.isNone || !(s.claims p.1 p.2 l || p.2.engAt == some l)
        if !tm.successor || g.halted || tm.frozen.isSome || tm.freezing.isSome || !(tm.engine.isNone || [1, 2, 3, 4].any free) then s
        else
          match s.room col k g.card with
          | none => s
          | some (b, e) =>
            s.startTeam k
              { tm with successor := false, backing := b, extent := e, age := s.cyc, since := s.dt
                        threads := tm.threads.map fun th => { th with floor := s.dt } })

/-! ### Grid-barrier admission (R114) -/

/-- GBAR_ADMISSION_WINDOW (R114): the teams of a grid whose admission cycle has come go on, one that moves once it has moved (R72). -/
def execGbarAdmissionWindow (grid : Nat) (s : State) : Host.Outcome State Fault Refusal :=
  let mine (q : Nat × Nat) : Bool := decide (q.1 ≤ s.cyc) && (match s.team? q.2 with | some tm => tm.grid == grid && tm.waitsEnd | none => true)
  let due := s.admits.filter mine
  .next (due.foldl (fun s q =>
      s.modTeam q.2 fun tm =>
        if tm.admitting then
          let tm := tm.leaveBarrier s.dt
          { tm with bundles := tm.bundles.map fun b => { b with stamp := s.cyc } }
        else tm)
    { s with admits := s.admits.filter fun q => !mine q })

end Sys2Proof.Machine
end

