-- ==== Sys2Proof/Machine/Preempt.lean ====
section
/-! DEFINITION. Clause starts and bundle formation (R32, R108, R110, R233), group collectives (R38), register requests (R43, R44), parking and placing
(R48), SLEEP (R273), and the halts and releases of pre-emption (R117, R122 to R124). -/

namespace Sys2Proof.Machine

/-! ### Readiness (R60, R108, R110) -/

/-- The bundles of one slice of a core: team key, bundle index, team and bundle. -/
def State.sliceBundles (s : State) (c l sl : Nat) : List (Nat × Nat × Team × Bundle) :=
  (s.teamsOf c).flatMap fun p =>
    if p.2.layer? = some l then
      (p.2.bundles.zipIdx.filter fun q => q.1.slice = sl).map fun q => (p.1, q.2, p.2, q.1)
    else []

/-- Whether a team may start clauses: it executes, and no halt or freeze stands (R72, R117, R417). -/
def Team.starts (tm : Team) : Bool :=
  tm.layer?.isSome && tm.frozen.isNone && tm.freezing.isNone && !tm.halting && !tm.halted && !tm.parking && !tm.successor

/-- The threads of a bundle at a clause header that wait at nothing but, perhaps, its wait mask (R60, R335, R436). -/
def Team.standing (tm : Team) (b : Bundle) : List Nat :=
  if b.clause.isNone && !b.yielded then b.threads.filter fun t => (tm.thread t).stands && !tm.heldAt t else []

/-- The program counter of a bundle (R31). -/
def Team.pcOf (tm : Team) (b : Bundle) : Nat := (tm.thread (b.threads.headD 0)).pc.toNat

/-- A directed move pending for a team is missed, unless it has triggered: its migration goes on (R71, R124). -/
def State.dmMiss (s : State) (k : Nat) : State :=
  match s.team? k with
  | none => s
  | some tm =>
    if (s.col (teamCol k)).migration.any (fun m => m.directed && m.slot == teamSlot k) then s
    else if s.dmPending (teamCol k) && s.rbits (kCol (teamCol k) 8) 20 16 == teamSlot k && s.rbits (kCol (teamCol k) 8) 11 0 == s.ctxId (s.teamCtx tm)
    then s.dmEnd (teamCol k) 3 else s

/-- Whether a bundle of a team reaches the header at which a directed move triggers: it does not start the clause (R71). -/
def State.dmStops (s : State) (k : Nat) (tm : Team) (pc : Nat) : Bool :=
  let w := s.rget (kCol (teamCol k) 8)
  s.dmPending (teamCol k) && bits w 12 12 == 1 && bits w 20 16 == teamSlot k && bits w 11 0 == s.ctxId (s.teamCtx tm)
    && pc == s.rbits (kCol (teamCol k) 0x0C) 31 2 * 4 + 2 ^ 32 * s.rbits (kCol (teamCol k) 0x10) 19 0

/-- Reads `n` bytes of code at an address for a team. -/
def State.fetch (s : State) (k : Nat) (tm : Team) (pc n : Nat) : State × Except (Nat × Nat × Nat) (List Byte) :=
  s.colRead (teamCol k) (s.teamCtx tm) kFetch (s.teamPriv tm) pc n

/-- The threads of a bundle that can start the clause at whose header they stand: those that wait at nothing and whose wait mask is clear (R60, R233). A header
that cannot be read or decoded keeps none of them: its fault is the clause start's. -/
def State.goers (s : State) (k : Nat) (tm : Team) (b : Bundle) : List Nat :=
  match (s.fetch k tm (tm.pcOf b) 4).2 with
  | .error _ => tm.standing b
  | .ok bs =>
    match decodeHeader (nw (leNat bs)) with
    | .error _ => tm.standing b
    | .ok h => (tm.standing b).filter fun t => (tm.thread t).waitClear h.wait

/-- Whether a bundle is ready at its clause header (R108): some of its threads can start the clause, and the header needs no wait without a record. -/
def State.headerReady (s : State) (k : Nat) (tm : Team) (b : Bundle) : Bool :=
  tm.starts && !(s.goers k tm b).isEmpty && !s.dmStops k tm (tm.pcOf b)
    && match (s.fetch k tm (tm.pcOf b) 4).2 with | .error (code, _, _) => code != 0 | .ok _ => true

/-- A bundle parts at a clause header: the threads `ts` start the clause, and the others stay at the header (R60). DEDUCED: R60 lets a thread that waits at
nothing issue its next instruction whatever the threads beside it wait at, and a clause header is where bundles part (R33). The part that goes on takes the
place. -/
def Team.part (tm : Team) (idx : Nat) (b : Bundle) (ts : List Nat) : Team :=
  if b.threads.all fun t => ts.contains t then tm
  else
    { tm with bundles := tm.bundles.set idx { b with threads := ts } ++ [{ b with threads := b.threads.filter fun t => !ts.contains t, active := false }] }

/-- Whether a bundle is inside a clause and none of its threads waits. -/
def Team.inside (tm : Team) (b : Bundle) : Bool := b.clause.isSome && b.threads.all fun t => (tm.thread t).wait.kind == .none

/-- Whether a bundle may issue its next word: its team is not frozen and has not halted to move, no memory fault holds it, and a halt finds it inside a clause
with nothing to wait for (R72, R117, R423, R436). -/
def Team.mayIssue (tm : Team) (b : Bundle) : Bool :=
  tm.frozen.isNone && !tm.still
    && (b.threads.all fun t => ((tm.thread t).wait.kind != .memHeld || (tm.thread t).wait.started) && (tm.thread t).wait.kind != .stopped)
    && !((tm.halting || tm.halted) && b.threads.any fun t => (tm.thread t).wait.kind != .none)

/-- The next word of a bundle inside a clause. -/
def Bundle.next? (b : Bundle) : Option Slot := b.clause.bind fun c => c.slots[b.pos]?

/-- Whether a bundle is older than another (R109). -/
def olderBundle (k : Nat) (b : Bundle) (j : Nat) (c : Bundle) : Bool :=
  let low (x : Bundle) : Nat := x.threads.foldl min (x.threads.headD 0)
  decide (b.stamp < c.stamp) || (b.stamp == c.stamp && (decide (teamSlot k < teamSlot j) || (teamSlot k == teamSlot j && decide (low b < low c))))

/-- Whether a bundle goes before another: those of teams that halt for a command first, then the older (R108, R109, R117). -/
def State.bundleFirst (s : State) (k : Nat) (tm : Team) (b : Bundle) (j : Nat) (um : Team) (c : Bundle) : Bool :=
  let x := s.rushed tm
  let y := s.rushed um
  (x && !y) || (x == y && olderBundle k b j c)

/-! ### The clause start (R233 to R236, R421, R436) -/

/-- A fault of a clause fetch: a repairable one holds the bundle at the header, recorded as WAIT 8; one of freeze fate freezes the team
(R435, R436). -/
def State.fetchFault (s : State) (k : Nat) (tm : Team) (b : Bundle) (code info va : Nat) : State :=
  let ck := s.teamCtx tm
  let r := teamRec k tm { code, src := 0, thread := b.threads.foldl min (b.threads.headD 0), pc := tm.pcOf b, addr := va, info }
  if code ≠ 0 ∧ freezeFate code = true then ((s.report ck r).freezeTeam k code).settle k
  else
    let s := s.modThreads k b.threads fun th => { th with wait := { kind := .memHeld, token := va, started := code == 0 } }
    let s := if code = 0 then s else s.reportOnce ck none kFetch r
    s.settle k

/-- Starts the clause a bundle stands at: its words are fetched and decoded whole, the pending state of the registers its WAIT names ends,
and the words are latched (R233, R236, R421, R482). -/
def State.startClause (s : State) (k idx : Nat) (tm : Team) (b : Bundle) : State :=
  let pc := tm.pcOf b
  let s := s.modThreads k b.threads fun th => { th with wait := {} }
  match s.fetch k tm pc 4 with
  | (s, .error (code, info, va)) => s.fetchFault k tm b code info va
  | (s, .ok hb) =>
    let h := nw (leNat hb)
    match decodeHeader h with
    | .error e => s.takeDecodeTrap k tm b pc e.code 0 h.toNat
    | .ok hd =>
      if b.threads.any fun t => !(tm.thread t).waitClear hd.wait then s
      else
        match s.fetch k tm ((pc + 4) % 2 ^ 52) (4 * hd.len) with
        | (s, .error (code, info, va)) => s.fetchFault k tm b code info va
        | (s, .ok ws) =>
          match decodeClause h (bytesWords ws) with
          | .error e => s.takeDecodeTrap k tm b pc e.err.code e.off e.info.toNat
          | .ok c =>
            (s.modThreads k b.threads fun th => th.endPend hd.wait).modBundle k idx fun b =>
              { b with clause := some c, pos := 0, issued := false, active := true, yielded := false }

/-- The migrations of a team that ended before it issued again: their cycles end (R79). -/
def Team.closeMoves (tm : Team) (clk : Nat) : Team :=
  { tm with migDone := []
            counters := { tm.counters with migCycles := tm.migDone.foldl (fun n c => (n + (clk - c)) % 2 ^ 64) tm.counters.migCycles } }

/-- A team issues for the first time on the core it has moved to: its migration's cycles end, and its residence begins (R79). DESIGN CHOICE: where it has moved
on before it issued, the cycles of each of its moves run to its next issue; where it is saved before it issues, to its save. The spec speaks of neither. -/
def Team.firstIssue (tm : Team) (now clk : Nat) : Team :=
  if tm.migDone = [] then tm else { tm.closeMoves clk with resFrom := now }

/-- Whether a word makes memory requests that its core holds until they are performed (R17, R18). -/
def asksMemory : Instr → Bool
  | .ld .. | .st .. | .ldc .. | .atom .. | .red .. => true
  | _ => false

/-- Whether a word's accesses cross the stake bus at once: those to scratchpad and to rendezvous points (R64). -/
def asksColumn : Instr → Bool
  | .lds .. | .sts .. | .atoms .. | .rzinit .. | .rzarv .. | .rzwait .. | .rzarw .. | .rzcarv .. | .rztest .. => true
  | _ => false

/-- The memory requests of the teams of a core that are outstanding. -/
def State.outstanding (s : State) (c l : Nat) : Nat :=
  ((s.teamsOf c).filter fun p => p.2.layer? == some l).foldl (fun n p => n + p.2.accesses.length) 0

/-- Whether the next word of a bundle cannot be taken up: its column copy engine cannot accept its requests (R344), its core has no room for its memory
requests among 1536 (R17, R18), or a realignment stops its demand accesses (R64, R80). The bundle is not ready. -/
def State.stalled (s : State) (k : Nat) (tm : Team) (b : Bundle) : Bool :=
  match b.next?, tm.layer? with
  | some sl, some l =>
    (match sl.ins, form sl.ins with
     | .cpy .., some f | .cpyt .., some f | .gath .., some f | .scat .., some f | .tdset .., some f | .tdrd .., some f =>
       let n := (b.threads.filter fun t => (tm.thread t).passes f.m).length
       !b.issued && n != 0 && !s.accepts (teamCol k) (s.teamCtx tm) n
     | _, _ => false)
    || (asksMemory sl.ins && !b.issued && decide (1536 < s.outstanding (teamCol k) l + b.threads.length))
    || (asksColumn sl.ins && s.pathHeld (teamCol k) (demandPath l) true)
  | _, _ => false

/-- Whether an active bundle is ready (R108). A bundle that waits inside a clause keeps its place only once its wait has ended (R110). -/
def State.activeReady (s : State) (k : Nat) (tm : Team) (b : Bundle) : Bool :=
  if b.clause.isNone then s.headerReady k tm b else tm.mayIssue b && !s.stalled k tm b

/-- Whether a bundle of the active set that is ready goes before a bundle of its slice (R108, R117). -/
def State.outranked (s : State) (k : Nat) (tm : Team) (b : Bundle) : Bool :=
  match tm.layer? with
  | none => true
  | some l => (s.sliceBundles (teamCol k) l b.slice).any fun p =>
      p.2.2.2.active && s.bundleFirst p.1 p.2.2.1 p.2.2.2 k tm b && s.activeReady p.1 p.2.2.1 p.2.2.2

/-- Whether a bundle has the issue slot of its slice: a place in the active set, and no ready bundle of the set goes before it (R108, R111). -/
def State.hasPlace (s : State) (k : Nat) (tm : Team) (b : Bundle) : Bool := b.active && !s.outranked k tm b

/-- CLAUSE_START (R233): a bundle that stands at a header, whose turn it is in its slice's active set, starts its clause, with those of its threads that can
(R60). -/
def execClauseStart (col slot bundle : Nat) (s : State) : Host.Outcome State Fault Refusal :=
  let k := teamKey col slot
  .next (match s.team? k with
    | none => s
    | some tm =>
      match tm.bundles[bundle]? with
      | none => s
      | some b =>
        let ts := s.goers k tm b
        if tm.starts && !ts.isEmpty && !s.dmStops k tm (tm.pcOf b) && s.hasPlace k tm b then
          let tm := tm.part bundle b ts
          ((s.setTeam k tm).startClause k bundle tm { b with threads := ts }).modTeam k fun um =>
            let um := um.firstIssue s.dt (s.clock col)
            if um.bundles.any fun c => c.clause.isSome then { um with fresh := false, engAt := none } else um
        else s)

/-! ### Formation points (R32, R237) -/

/-- The rank of a thread among the candidates of its lane. -/
def laneRank (ts : List Nat) (t : Nat) : Nat := (ts.filter fun u => u % 32 == t % 32 && decide (u < t)).length

/-- The bundles formed from the candidates `ts` of one entry, the k-th candidate on each lane going to the k-th bundle; `src` are the bundles they
came from. It takes the active place of the oldest of those that held one; a place goes to one formed bundle (R32). -/
def formFrom (src : List Bundle) (ts : List Nat) (used : List Nat) : Nat → Nat → List Bundle × List Nat
  | _, 0 => ([], used)
  | r, fuel + 1 =>
    let mine := ts.filter fun t => laneRank ts t == r
    match mine with
    | [] => ([], used)
    | t0 :: _ =>
      let from_ := src.zipIdx.filter fun p => p.1.threads.any fun t => mine.contains t
      let stamp := (from_.map fun p => p.1.stamp).foldl min ((from_.map fun p => p.1.stamp).headD 0)
      let held := from_.filter fun p => p.1.active && !used.contains p.2
      let place := held.find? fun p => held.all fun q => q.2 == p.2 || olderBundle 0 p.1 0 q.1
      let b : Bundle := { threads := mine, slice := t0 / 32 % 4, stamp, active := place.isSome }
      let used := match place with | some p => p.2 :: used | none => used
      let (rest, used) := formFrom src ts used (r + 1) fuel
      (b :: rest, used)

/-- Whether the threads of a bundle are candidates of a formation point (R32): they stand at a clause header. Threads that wait in RETS do not: they stand at
the word (R101). -/
def Team.forms (tm : Team) (b : Bundle) : Bool := b.clause.isNone && b.threads.all fun t => (tm.thread t).wait.kind != .rets

/-- Rebuilds the bundles of a team on a slice at the entries listed (R32). -/
def Team.reform (tm : Team) (sl : Nat) (pcs : List Nat) : Team :=
  let cand (b : Bundle) : Bool := b.slice == sl && tm.forms b && pcs.contains (tm.pcOf b)
  let src := tm.bundles.filter cand
  let ts := (List.range tm.threads.length).filter fun t => src.any fun b => b.threads.contains t
  let pc (t : Nat) : Nat := (tm.thread t).pc.toNat
  let keys := (ts.map pc).eraseDups
  let formed := keys.foldl (fun (acc : List Bundle × List Nat) key =>
    let (bs, used) := formFrom src (ts.filter fun t => pc t == key) acc.2 0 32
    (acc.1 ++ bs, used)) ([], [])
  { tm with bundles := (tm.bundles.filter fun b => !cand b) ++ formed.1 }

/-- The entries of a slice's PC table: team, program counter and greatest age. -/
def pcTable (bs : List (Nat × Nat × Team × Bundle)) : List (Nat × Nat × Nat) :=
  bs.foldl (fun l p =>
    let pc := p.2.2.1.pcOf p.2.2.2
    let st := p.2.2.2.stamp
    if l.any fun e => e.1 == p.1 && e.2.1 == pc then
      l.map fun e => if e.1 == p.1 && e.2.1 == pc then (e.1, e.2.1, min e.2.2 st) else e
    else l ++ [(p.1, pc, st)]) []

/-- Whether an entry is formed before another when more than 64 exist (R32 step 4). -/
def entryBefore (a b : Nat × Nat × Nat) : Bool :=
  decide (a.2.2 < b.2.2) || (a.2.2 == b.2.2 && (decide (teamSlot a.1 < teamSlot b.1) || (teamSlot a.1 == teamSlot b.1 && decide (a.2.1 < b.2.1))))

/-- FORMATION_POINT (R32): a slice rebuilds its bundles; those that yielded are ready again (R237). -/
def execFormationPoint (col layer slice : Nat) (s : State) : Host.Outcome State Fault Refusal :=
  let table := pcTable ((s.sliceBundles col layer slice).filter fun p => p.2.2.1.forms p.2.2.2)
  let chosen := table.filter fun e => decide ((table.filter fun f => entryBefore f e).length < 64)
  .next ((s.teamsOf col).foldl (fun s p =>
    if p.2.layer? = some layer then
      s.modTeam p.1 fun tm =>
        let tm := tm.reform slice ((chosen.filter fun e => e.1 == p.1).map fun e => e.2.1)
        { tm with bundles := tm.bundles.map fun b => if b.slice = slice ∧ b.clause = none then { b with yielded := false } else b }
    else s) s)

/-- GROUP_COLLECTIVE_CONVERGENCE (R38): a group whose every non-exited thread waits at one collective executes it, in a team that executes or is parked and
ready to be placed (R48). -/
def execGroupCollectiveConvergence (col slot group : Nat) (s : State) : Host.Outcome State Fault Refusal :=
  .next (s.modTeam (teamKey col slot) fun tm =>
    if tm.waitsEnd && tm.frozen.isNone && !tm.halted && (tm.layer?.isSome || tm.place == .parked) then tm.converge group else tm)

/-- SLEEP_EXPIRY (R273): a thread whose DT count has run out goes on. -/
def execSleepExpiry (col slot thread : Nat) (s : State) : Host.Outcome State Fault Refusal :=
  .next (s.modTeam (teamKey col slot) fun tm => if tm.waitsEnd then tm.modThread thread fun th =>
    if th.wait.kind = .sleep ∧ th.wait.until_ ≤ s.dt then { th with wait := {} } else th
    else tm)

/-! ### Register requests (R42 to R45) -/

/-- The pending requests on a slice of a core: team key, age, group and its state. -/
def State.requests (s : State) (c l sl : Nat) : List (Nat × Nat × Nat × Group) :=
  (s.teamsOf c).flatMap fun p =>
    if p.2.layer? = some l then
      (p.2.groups.zipIdx.filter fun g => g.1.req.isSome && g.2 % 4 == sl).map fun g => (p.1, p.2.age, g.2, g.1)
    else []

/-- The order of grants (R43): team age, team slot, group. -/
def reqBefore (a b : Nat × Nat × Nat × Group) : Bool :=
  decide (a.2.1 < b.2.1) || (a.2.1 == b.2.1 && (decide (a.1 < b.1) || (a.1 == b.1 && decide (a.2.2.1 < b.2.2.1))))

/-- The registers per lane in use on a slice of a core (R41). -/
def State.sliceUse (s : State) (c l sl : Nat) : Nat :=
  ((s.teamsOf c).filter fun p => s.claims p.1 p.2 l).foldl (fun a p => a + p.2.sliceRegs sl) 0

/-- Whether a group's pending request can be granted now: it is first in its slice's order, and the slice has room (R42, R43). -/
def State.grantable (s : State) (k g : Nat) : Bool :=
  match s.team? k with
  | none => false
  | some tm =>
    match tm.layer?, tm.groups[g]? with
    | some l, some gr =>
      match gr.req with
      | none => false
      | some m =>
        let me := (k, tm.age, g, gr)
        tm.waitsEnd && (decide (m ≤ gr.n) ||
          ((s.requests (teamCol k) l (g % 4)).all fun r => !reqBefore r me)
            && decide (s.sliceUse (teamCol k) l (g % 4) + m ≤ 512 + gr.n))
    | _, _ => false

/-- Ends the request of a group: every waiting thread receives `v`, and its wait is over (R42). -/
def Team.endRequest (tm : Team) (g v : Nat) : Team :=
  let tm := { tm with groups := tm.groups.modify g fun x => { x with req := none, waited := 0, mark := none } }
  (List.range 32).foldl (fun tm i =>
    let t := 32 * g + i
    let w := (tm.thread t).wait
    if w.kind = .vgrow then (tm.putRegs t w.point v 1).modThread t fun th => { th with wait := {} } else tm) tm

/-- Grants a group's request (R42): n becomes its size, and the new registers read zero. -/
def Team.grant (tm : Team) (g : Nat) : Team :=
  match tm.groups[g]? with
  | some x =>
    match x.req with
    | some m => ({ tm with groups := tm.groups.modify g fun x => { x with n := max x.n m } }).endRequest g (max x.n m)
    | none => tm
  | none => tm

/-- VGROW_GRANT (R42, R43). -/
def execVgrowGrant (col slot group : Nat) (s : State) : Host.Outcome State Fault Refusal :=
  let k := teamKey col slot
  .next (if s.grantable k group then s.modTeam k fun tm => tm.grant group else s)

/-- Whether a group is finished, or stuck in a request (R44). -/
def Team.finishedOrStuck (tm : Team) (g : Nat) : Bool :=
  let live := ((List.range 32).map (32 * g + ·)).filter fun t => decide (t < tm.threads.length) && !(tm.thread t).exited
  live.isEmpty || ((tm.groups.getD g { n := 0 }).req.isSome && live.all fun t => (tm.thread t).wait.kind == .vgrow)

/-- VGROW_DENIAL_ALL_WAITING (R44): with every group of a core finished or stuck, and no request that can be met, every request of the youngest
team that holds one is denied. -/
def execVgrowDenialAllWaiting (col layer : Nat) (s : State) : Host.Outcome State Fault Refusal :=
  let teams := (s.teamsOf col).filter fun p => p.2.layer? = some layer
  let asks (p : Nat × Team) : List Nat := (p.2.groups.zipIdx.filter fun g => g.1.req.isSome).map Prod.snd
  let stuck := teams.all fun p => (List.range p.2.groups.length).all fun g => p.2.finishedOrStuck g
  let met := teams.any fun p => (asks p).any fun g => s.grantable p.1 g
  let holders := teams.filter fun p => !(asks p).isEmpty
  let young := holders.find? fun p => holders.all fun q => q.1 == p.1 || decide (q.2.age < p.2.age) || (q.2.age == p.2.age && decide (q.1 < p.1))
  .next (match young with
    | some p => if stuck && !met && p.2.waitsEnd then s.modTeam p.1 fun tm => (asks p).foldl (fun tm g => tm.endRequest g 0) tm else s
    | none => s)

/-- VGROW_DENIAL_TOO_LONG (R44): a request pending for 65 536 cycles of its core is denied; of a team that migrates, on the target (R78). -/
def execVgrowDenialTooLong (col slot group : Nat) (s : State) : Host.Outcome State Fault Refusal :=
  let k := teamKey col slot
  .next (match s.team? k with
    | none => s
    | some tm =>
      match tm.layer?, tm.groups[group]? with
      | some _, some g =>
        if s.migrating k = false ∧ g.req.isSome ∧ 65536 ≤ g.cycles (s.clock col) ∧ s.grantable k group = false then s.modTeam k fun tm => tm.endRequest group 0
        else s
      | _, _ => s)

/-! ### Parking and placing (R47, R48) -/

/-- The executing team a column parks to make room (R48): one with no ready thread, waiting longest; else the one executing longest, after
50 µs. -/
def State.victim (s : State) (c : Nat) : Option Nat :=
  let ex := (s.teamsOf c).filter fun p => p.2.starts && !s.migrating p.1
  let best (l : List (Nat × Team)) (at_ : Team → Nat) : Option Nat :=
    (l.find? fun p => l.all fun q => decide (at_ p.2 < at_ q.2) || (at_ p.2 == at_ q.2 && decide (p.1 ≤ q.1))).map Prod.fst
  match best (ex.filter fun p => !p.2.anyReady) (fun tm => tm.readyAt) with
  | some k => some k
  | none => best (ex.filter fun p => decide (p.2.placedAt + 50000 ≤ s.dt)) (fun tm => tm.placedAt)

/-- PARKED_TEAM_PLACE (R48): the first ready parked team of a column starts its way to the coolest core with room; without room the column
begins to park another. -/
def execParkedTeamPlace (col slot : Nat) (s : State) : Host.Outcome State Fault Refusal :=
  let k := teamKey col slot
  .next (match s.team? k with
    | none => s
    | some tm =>
      let ready (p : Nat × Team) : Bool := p.2.place == .parked && s.teamReady p.2
      let first := (s.teamsOf col).all fun p => !ready p || p.1 == k || decide (tm.readyAt < p.2.readyAt) || (tm.readyAt == p.2.readyAt && decide (k < p.1))
      if !ready (k, tm) || !first then s
      else
        match s.chooseCore col k tm with
        | some l =>
          if s.mayTransfer col slot (fromStore l) then (s.startTransfer col slot (fromStore l)).setTeam k { tm with place := .moving 0 l }
          else s.holdTransfer col slot
        | none =>
          if (s.teamsOf col).any fun p => p.2.parking then s
          else
            match s.victim col with
            | some v => s.modTeam v fun tm => { tm with parking := true, haltAt := s.cyc }
            | none => s)

/-- PARKING_PLACING_COMPLETE (R47, R49, R64): a transfer ends, unless a realignment pauses it. A placed team may issue, and a parked team's state is in
the register backing; a team chosen for parking, halted for a command or frozen, which no migration moves and whose bundles have halted, starts its way
there (R117, R417). -/
def execParkingPlacingComplete (col slot : Nat) (s : State) : Host.Outcome State Fault Refusal :=
  let k := teamKey col slot
  .next (match s.team? k with
    | none => s
    | some tm =>
      match tm.place with
      | .moving 0 l =>
        if s.pathHeld col (fromStore l) true then s
        else ((s.markPath col (fromStore l)).setTeam k (tm.onto l s.dt s.cyc (s.clock col))).settle k
      | .moving l 0 =>
        if s.pathHeld col (toStore l) true then s
        else ((s.markPath col (toStore l)).setTeam k { tm with place := .parked, parking := false, readyAt := s.dt }).settle k
      | .core l =>
        if s.toPark tm && s.mayPark tm && !s.migrating k then
          if s.mayTransfer col slot (toStore l) then
            (s.startTransfer col slot (toStore l)).setTeam k (tm.leave s.dt (s.clock col) (.moving l 0))
          else s.holdTransfer col slot
        else s
      | _ => s)

/-! ### Halts (R116, R117, R124) -/

/-- The grids a command affects (R117): those of a queue, successors included, or those of a context, without the event queue's where it spares
them (R280). -/
def State.affected (s : State) (ck : Nat) (q : Option Nat) (spare : Bool) : List Nat :=
  (s.grids.filter fun p => p.2.ctx == ck && !p.2.complete &&
    match q with
    | some q => p.2.queue == some q
    | none => !(spare && p.2.priv)).map Prod.fst

/-- BUSY, CMDERR, CSTATE and QHALT of a context (R116). -/
def State.setBusy (s : State) (ck b : Nat) : State := s.rsetBits (kPre ck 4) 31 31 b
def State.setCmdErr (s : State) (ck : Nat) : State := s.rsetBits (kPre ck 4) 30 30 1
def State.setCstate (s : State) (ck v : Nat) : State := s.rsetBits (kPre ck 4) 29 28 v
def State.setQhalt (s : State) (ck q v : Nat) : State :=
  if q < 32 then s.rsetBits (kPre ck 0x14) q q v else s.rsetBits (kPre ck 0x18) (q - 32) (q - 32) v
def State.clearQhalt (s : State) (ck : Nat) : State := (s.rset (kPre ck 0x14) 0).rset (kPre ck 0x18) 0

/-- A team receives a halt request (R117, R124): a team that a grid-barrier generation has released and not yet admitted is halted as
released. -/
def Team.requestHalt (tm : Team) (now cyc : Nat) : Team :=
  let tm := if tm.admitting then tm.passBarrier now cyc else tm
  if tm.place = .parked then tm else { tm with halting := true, haltAt := cyc }

/-- Steps 1 to 3 of R117: the affected grids take no more placements, and every affected team receives a halt request. -/
def State.startHalt (s : State) (ck : Nat) (q : Option Nat) (cmd : Command) (spare : Bool) : State :=
  let gs := s.affected ck q spare
  let s := { s with grids := s.grids.map fun (p : Nat × Grid) => (p.1, if gs.contains p.1 then { p.2 with halted := true } else p.2) }
  let ks := (s.teams.filter fun p => gs.contains p.2.grid).map Prod.fst
  let s := ks.foldl (fun s k => (s.modTeam k fun tm => tm.requestHalt s.dt s.cyc).dmMiss k) s
  let s := { s with admits := s.admits.filter fun a => !ks.contains a.2 }
  (s.modCtx ck fun x => { x with cmd := some cmd, spared := spare }).setBusy ck 1

/-- The command's queue, for a queue command. -/
def Command.q? (c : Command) : Option Nat := if c.op = 1 then some c.queue else none

/-- Whether every affected team has halted and been parked, after its migration, parking or placing (R78, R117 step 4, R124). -/
def State.haltedAll (s : State) (gs : List Nat) : Bool := s.teams.all fun p => !gs.contains p.2.grid || p.2.place == .parked

/-- The halt of the teams of some grids has ended (R117 step 4): they are not placed again until they are released. -/
def State.parkAll (s : State) (gs : List Nat) : State :=
  { s with teams := s.teams.map fun ((k, tm) : Nat × Team) =>
      (k, if gs.contains tm.grid then { tm with halting := false, parking := false, halted := true } else tm) }

/-- The end of a command: BUSY clears, and freezes that waited for it are made (R116, R417). -/
def State.endCommand (s : State) (ck : Nat) : State :=
  let fr := (s.ctx ck).freezes
  let s := (s.modCtx ck fun x => { x with cmd := none, freezes := [] }).setBusy ck 0
  let s := fr.foldl (fun s d => s.freezeOther ck d) s
  ((s.teams.filter fun p => s.teamCtx p.2 == ck && p.2.freezing.isSome).map Prod.fst).foldl State.settle s

/-! ### Releases in place (R122, R123, R417) -/

/-- The words a halt stopped issue again: a card copy held at its word, and, of a team that no trap has stopped, the word after a barrier (R124, R271). -/
def Team.reissue (tm : Team) : Team :=
  let trap := tm.frozen.isSome || tm.freezing.isSome
  tm.bundles.foldl (fun tm b =>
    if b.clause.isNone then tm
    else tm.modThreads (fun th => if th.wait.kind = .memHeld ∨ (th.wait.kind = .stopped ∧ trap = false) then { th with wait := {} } else th) b.threads) tm

/-- Releases the halted teams and cards of some grids in place; a hand-over that was to begin begins (R101, R122). -/
def State.releaseGrids (s : State) (gs : List Nat) : State :=
  let s := { s with grids := s.grids.map fun (p : Nat × Grid) => (p.1, if gs.contains p.1 then { p.2 with halted := false } else p.2) }
  ((s.teams.filter fun p => gs.contains p.2.grid && p.2.halted).map Prod.fst).foldl (fun s k =>
    (s.modTeam k fun tm => { tm.reissue with halted := false, readyAt := s.dt }).beginHandover k) s

/-- Releases a frozen team (R417, R423): requests an engine fault left are discarded and their flags fall (R428, R445, R481); a team whose hand-over has
failed retires (R431), and a hand-over that the freeze kept from beginning begins (R101). -/
def State.releaseTeam (s : State) (k : Nat) : State :=
  match s.team? k with
  | none => s
  | some tm =>
    if tm.frozen.isNone && tm.freezing.isNone then s
    else
      let s := s.modTeam k fun tm => { tm.release.reissue with halting := s.migrating k, readyAt := s.dt }
      let s := (s.reqs.filter fun r => r.discard && r.team == k && r.age == tm.age).foldl (fun s r => s.endReq r 0) s
      match tm.handover with
      | some h => if h.failed then s.retireAbandoned k else s
      | none => s.beginHandover k

/-- Releases every team and copy engine of a context frozen under R417; a command of a privileged event task spares the teams of the event queue
(R280). -/
def State.releaseFrozen (s : State) (ck : Nat) (spare : Bool) : State :=
  let s := { s with cols := s.cols.map fun (p : Nat × Column) => (p.1, { p.2 with frozenCopy := p.2.frozenCopy.filter fun x => x != ck }) }
  ((s.teams.filter fun p => s.teamCtx p.2 == ck && !(spare && s.teamPriv p.2)).map Prod.fst).foldl State.releaseTeam s

/-- Whether a command may start: with one in progress it is ignored and CMDERR set (R116, R124). -/
def State.command (s : State) (ck : Nat) (act : State → State) : Host.Outcome State Fault Refusal :=
  .next (if (s.ctx ck).cmd.isSome then s.setCmdErr ck else act s)

/-- Starts a HALT queue, as the register write or a privileged task does (R117, R123). -/
def State.haltQueue (s : State) (ck q : Nat) : State :=
  if s.cstate ck = 2 then s.setCmdErr ck
  else if s.cstate ck = 1 ∨ s.qhalt ck q = true then s.setQhalt ck q 1
  else (s.setQhalt ck q 1).startHalt ck (some q) { op := 1, queue := q, step := 0, start := s.dt } false

/-- HALT_QUEUE (R117, R123). -/
def execHaltQueue (fn c q : Nat) (s : State) : Host.Outcome State Fault Refusal :=
  s.command (ctxKey fn c) fun s => s.haltQueue (ctxKey fn c) q

/-- Starts a HALT context; `spare` where a privileged event task gives it (R123, R280). -/
def State.haltContext (s : State) (ck : Nat) (spare : Bool) : State :=
  if s.cstate ck = 2 then s.setCmdErr ck
  else if s.cstate ck = 1 then s
  else s.startHalt ck none { op := 2, queue := 0, step := 0, start := s.dt } spare

/-- HALT_CONTEXT (R117, R123). -/
def execHaltContext (fn c : Nat) (s : State) : Host.Outcome State Fault Refusal :=
  s.command (ctxKey fn c) fun s => s.haltContext (ctxKey fn c) false

/-- RESUME queue (R123). -/
def State.resumeQueue (s : State) (ck q : Nat) : State :=
  if s.cstate ck ≠ 0 then s.setCmdErr ck
  else if s.qhalt ck q then (s.setQhalt ck q 0).releaseGrids (s.affected ck (some q) false)
  else s

/-- RESUME_QUEUE (R122, R123). -/
def execResumeQueue (fn c q : Nat) (s : State) : Host.Outcome State Fault Refusal :=
  s.command (ctxKey fn c) fun s => s.resumeQueue (ctxKey fn c) q

/-- RESUME context in place (R122, R123, R417): with CSTATE 0 it releases the halted queues, with CSTATE 1 the whole context. A SLEEP, a barrier or a
hand-over goes on where it stood. `spare` where a privileged event task gives it (R280). -/
def State.resumeInPlace (s : State) (ck : Nat) (spare : Bool) : State :=
  let gs := s.affected ck none spare
  let gs := if s.cstate ck = 0 then gs.filter fun g => match sfind s.grids g with | some x => x.halted | none => false else gs
  let s := (s.releaseGrids gs).releaseFrozen ck spare
  ((s.modCtx ck fun x => { x with spared := false }).clearQhalt ck).setCstate ck 0

end Sys2Proof.Machine
end

