-- ==== Sys2Proof/Machine/Save.lean ====
section
/-! DEFINITION. The context save area (R125 to R129), SAVE and RESUME (R121, R122, R460, R461), and the ends of halts (R117). -/

namespace Sys2Proof.Machine

/-! ### Bytes of the area -/

/-- Pads a section to 256 bytes (R125). -/
def pad256 (bs : List Byte) : List Byte := bs ++ List.replicate ((256 - bs.length % 256) % 256) 0
/-- A list cut or filled with zero to `n` bytes. -/
def fit (n : Nat) (bs : List Byte) : List Byte := bs.take n ++ List.replicate (n - bs.length) 0
/-- Word `k` of some bytes. -/
def wordAt (bs : List Byte) (o : Nat) : Nat := leNat ((bs.drop o).take 4)
/-- The 64-bit value at an offset. -/
def dwordAt (bs : List Byte) (o : Nat) : Nat := leNat ((bs.drop o).take 8)
def byteOf (bs : List Byte) (o : Nat) : Nat := (bs.getD o 0).toNat
/-- Whether `n` bytes from an offset are all zero. -/
def zeroAt (bs : List Byte) (o n : Nat) : Bool := ((bs.drop o).take n).all fun b => b == 0

/-! ### Thread control (R129) -/

/-- The WAIT code of a wait (R129). -/
def waitCode : WaitKind → Nat
  | .none => 0 | .rendezvous => 1 | .collective => 2 | .vgrow => 3 | .gbar => 4 | .sleep => 5 | .scoreboard => 6 | .rets => 7 | .memHeld => 8
  | .stopped => 9 | .release => 10 | .csr => 11

/-- WAIT, WORD and PC of a halted thread (R129). A thread of a waiting bundle that does not wait itself stands at the word, or, when the word
has acted, at the word after it; one at a header whose load a memory fault holds waits there (R436). -/
def Team.control (tm : Team) (t : Nat) : Nat × Nat × Nat :=
  let th := tm.thread t
  let pc := th.pc.toNat
  let header (pc : Nat) : Nat × Nat × Nat :=
    if th.wait.kind = .none ∧ tm.heldAt t = true then (8, 0, pc) else (waitCode th.wait.kind, th.wait.word, pc)
  match tm.bundles.find? fun b => b.threads.contains t with
  | none => (waitCode th.wait.kind, th.wait.word, pc)
  | some b =>
    match b.clause with
    | none => header pc
    | some c =>
      let at_ (p : Nat) : Nat × Nat × Nat :=
        match c.slots[p]? with
        | some sl => (9, sl.off, pc)
        | none => header ((pc + 4 * (c.hdr.len + 1)) % 2 ^ 52)
      if th.wait.kind = .none then at_ (if b.issued then b.pos + 1 else b.pos)
      else (waitCode th.wait.kind, th.wait.word, pc)

/-- The 64-byte record of a thread (R129). -/
def Team.controlBytes (tm : Team) (now t : Nat) : List Byte :=
  let th := tm.thread t
  let (w, word, pc) := tm.control t
  let tok := if th.wait.kind = .rendezvous then th.wait.token else 0
  let pt := if th.wait.kind = .rendezvous then th.wait.point else 0
  let left := if th.wait.kind = .sleep then th.wait.until_ - now else 0
  wordsBytes [nw pc, nw (w * 2 ^ 28 + word * 2 ^ 24 + pc / 2 ^ 32 % 2 ^ 20), th.status, nw th.flags.toNat,
    nw (tok % 2 ^ 16 * 2 ^ 16 + th.flags.toNat / 2 ^ 32 % 2 ^ 16), nw pt, nw th.horizon, nw (th.horizon / 2 ^ 32), nw th.floor,
    nw (th.floor / 2 ^ 32), nw left, nw (left / 2 ^ 32), 0, 0, 0, 0]

/-! ### The team image (R128) -/

/-- The slot number and type code of an operand. -/
def operandTag : Option Operand → List Byte
  | some x => [BitVec.ofNat 8 x.slot, BitVec.ofNat 8 x.ty]
  | none => [0, 0]

/-- The mask of the operands present. -/
def presentMask (l : List (Option Operand)) : Nat := l.zipIdx.foldl (fun a p => if p.1.isSome then a + 2 ^ p.2 else a) 0

/-- The load rank of each row-buffer entry, the earliest 0. -/
def ranks (l : List (Option Operand)) : Nat :=
  l.zipIdx.foldl (fun a p =>
    match p.1 with
    | some x => a + (l.filter fun q => match q with | some y => decide (y.rank < x.rank) | none => false).length % 4 * 4 ^ p.2
    | none => a) 0

/-- The team block, 512 bytes. -/
def State.teamBlock (s : State) (k : Nat) (tm : Team) : List Byte :=
  let rows := match tm.engine with | some e => e.rows | none => []
  let macros := match tm.engine with | some e => e.macros | none => []
  let grp (g : Nat) : Group := tm.groups.getD g { n := 0 }
  let tags (n : Nat) (l : List (Option Operand)) : List Byte := fit n (l.flatMap operandTag)
  fit 512 (((List.range 32).map fun g => BitVec.ofNat 8 (grp g).n)
    ++ ((List.range 32).flatMap fun g => leBytes ((grp g).req.getD 0 + 2 ^ 8 * ((grp g).cycles (s.clock (teamCol k)) % 2 ^ 24)) 4)
    ++ ((List.range 16).flatMap fun i => leBytes (sget 0 tm.mregs i).toNat 4)
    ++ leBytes tm.stream.pos 8
    ++ [BitVec.ofNat 8 (presentMask macros), if tm.stream.rcDefault then 1 else 0, 0, 0]
    ++ leBytes tm.stream.status 4
    ++ tags 8 rows ++ [BitVec.ofNat 8 (presentMask rows), BitVec.ofNat 8 (ranks rows)]
    ++ tags 8 macros ++ [if (match tm.engine with | some e => e.rcLoaded | none => false) then 1 else 0])

/-- The entries of a pending-write list that the save writes: those of the halt but the withdrawn loads (R121, R128). -/
def Team.listed (tm : Team) : List Dest :=
  tm.pw.filter fun d => !(tm.accesses.any fun a => a.state == .held && a.dests.contains d)

/-- An entry of the list, marked done. The spec fixes its contents and not its bits: thread <9:0>, register <16:10>, count <20:17>, flag <24:21>,
done <31>. -/
def entryBytes (d : Dest) : List Byte :=
  leBytes (d.thread % 2 ^ 10 + 2 ^ 10 * (d.reg % 2 ^ 7) + 2 ^ 17 * (d.cnt % 2 ^ 4) + 2 ^ 21 * (d.flag.getD 15 % 2 ^ 4) + 2 ^ 31) 8

/-- The registers section: groups ascending, threads ascending, v0 to v(n − 1). -/
def Team.regBytes (tm : Team) : List Byte :=
  (List.range tm.threads.length).flatMap fun t => (List.range (tm.n t)).flatMap fun r => leBytes ((tm.thread t).get r).toNat 4

/-- An accumulator's 4 KiB by row (R361). -/
def Accum.bytes (a : Accum) : List Byte := (List.range 1024).flatMap fun i => leBytes (sget 0 a.data i).toNat 4

/-- The data of an operand, to `n` bytes. DESIGN CHOICE: the spec gives the section of a macro its size and not its layout (R128); here the tile stands first,
and after it, of a macro that an MLDB `.rc` loaded, free bytes for its recombined operands, else zeros. -/
def operandBytes (n : Nat) (x : Option Operand) : List Byte :=
  match x with
  | some o =>
    let rest := if o.rc then (List.range (n - 4096)).map fun i => Config.recombined o.data i else []
    fit n ((List.range 4096).map (fun i => sget 0 o.data i) ++ rest)
  | none => []

/-- The image of a team (R128). -/
def State.image (s : State) (k : Nat) (tm : Team) : List Byte :=
  let T := tm.threads.length
  let c := tm.counters
  let eng := match tm.engine with
    | some e =>
      pad256 ((List.range 64).flatMap fun i => (sget {} e.accs i).bytes)
        ++ (e.macros.flatMap fun m => pad256 (operandBytes 65536 m)) ++ e.rows.flatMap fun m => pad256 (operandBytes 4096 m)
    | none => []
  s.teamBlock k tm
    ++ pad256 ((List.range 24).flatMap fun z => let p := tm.point z; leBytes p.e 2 ++ leBytes p.a 2 ++ leBytes p.p 2 ++ [0, 0])
    ++ pad256 (tm.listed.flatMap entryBytes)
    ++ pad256 ((List.range T).flatMap fun t => tm.controlBytes s.dt t)
    ++ pad256 tm.regBytes
    ++ pad256 ([c.migCount, c.migCycles, c.res1, c.res2, c.res3, c.res4, c.stakeBytes].flatMap fun v => leBytes v 8)
    ++ eng
    ++ pad256 (tm.spad.getList 0 tm.spadLen)
    ++ pad256 (((List.range tm.tsl).flatMap fun i => (List.range 4096).map fun j => sget 0 (sget {} tm.tiles i).data j)
        ++ (List.range tm.tsl).map fun i => if (sget {} tm.tiles i).tag = .valid then 1 else 0)

/-! ### The area (R125 to R127) -/

/-- Whether a grid belongs to the save of a context: a privileged event task's SAVE spares the grids of the event queue (R280). -/
def State.saves (s : State) (ck : Nat) (g : Grid) : Bool := g.ctx == ck && !((s.ctx ck).spared && g.priv)

/-- Whether a team belongs to the save of a context. -/
def State.savesTeam (s : State) (ck : Nat) (tm : Team) : Bool := match sfind s.grids tm.grid with | some g => s.saves ck g | none => false

/-- Whether a request belongs to the save of a context. -/
def State.savesReq (s : State) (ck : Nat) (r : Req) : Bool := r.ctx == ck && !((s.ctx ck).spared && r.priv)

/-- The grids of a save, in order of age: table index, id and grid (R126). -/
def State.saveGrids (s : State) (ck : Nat) : List (Nat × Grid) :=
  let gs := s.grids.filter fun p => s.saves ck p.2 && !p.2.complete
  let before (a b : Nat × Grid) : Bool := decide (a.2.age < b.2.age) || (a.2.age == b.2.age && decide (a.1 < b.1))
  (List.range gs.length).filterMap fun i => gs.find? fun p => (gs.filter fun q => before q p).length == i

/-- The teams of a save, in order of column and slot. -/
def State.saveTeams (s : State) (ck : Nat) : List (Nat × Team) := s.teams.filter fun p => s.savesTeam ck p.2

/-- A grid-table entry (R126). DESIGN CHOICE: a grid of the event queue entered through none of the 64 queues, and the spec gives its source-queue field
no value; the model writes 0. -/
def gridEntry (g : Grid) : List Byte :=
  let fl := g.queue.getD 0 % 64 + (if g.pred.isSome then 2 ^ 6 else 0) + (if g.pred.isNone && g.placed == 0 then 2 ^ 7 else 0)
  fit 128 (wordsBytes g.card) ++ fit 128 (wordsBytes [nw g.age, nw (g.age / 2 ^ 32), nw g.next, nw g.retired, nw fl])

/-- A queue block of the intake section (R126). -/
def intakeBlock (l : List CardIn) : List Byte :=
  (List.range 16).flatMap fun i =>
    match l[i]? with
    | some x => fit 128 (wordsBytes x.words)
    | none => fit 128 (wordsBytes [0, 0xFFFFFFFF])

/-- A team-directory entry (R127). -/
def dirEntry (k : Nat) (tm : Team) (off len grid : Nat) : List Byte :=
  let w1 := tm.member * 2 ^ 20 + teamSlot k * 2 ^ 15 + teamCol k * 2 ^ 9 + (tm.threads.length / 32 - 1) * 2 ^ 4
    + (if tm.engine.isSome then 8 else 0) + (if tm.successor || tm.fresh then 4 else 0)
  fit 64 (wordsBytes [nw tm.index, nw w1, nw off, nw len, nw tm.listed.length, nw (tm.tsl * 2 ^ 14 + tm.spadLen / 1024), nw grid])

/-- The directory and images of some teams, with images from offset `off` on. -/
def State.imagesFrom (s : State) (grids : List (Nat × Grid)) : List (Nat × Team) → Nat → List Byte × List Byte
  | [], _ => ([], [])
  | (k, tm) :: rest, off =>
    let img := s.image k tm
    let (ds, is) := State.imagesFrom s grids rest (off + img.length / 256)
    (dirEntry k tm off (img.length / 256) ((grids.findIdx? fun p => p.1 == tm.grid).getD 0) ++ ds, img ++ is)

/-- The whole area of a save: header state, and the bytes of its sections after page 0 (R125). -/
def State.area (s : State) (ck state : Nat) (cmd : Command) : List Byte :=
  let gs := s.saveGrids ck
  let ts := s.saveTeams ck
  let gridOff := 16
  let intkOff := gridOff + gs.length
  let dirOff := intkOff + 512
  let imgOff := dirOff + (64 * ts.length + 255) / 256
  let (dir, imgs) := s.imagesFrom gs ts imgOff
  let body := (gs.flatMap fun p => gridEntry p.2) ++ ((List.range 64).flatMap fun q => intakeBlock ((s.ctx ck).intake q)) ++ pad256 dir ++ imgs
  let len := gridOff + body.length / 256
  let now := s.dt
  fit 4096 (wordsBytes [nw ((s.ctx ck).saveSeq % 2 ^ 24 * 2 ^ 8 + state), nw (s.ctxPart ck * 2 ^ 28 + s.ctxId ck * 2 ^ 16 + cmd.reason * 2 ^ 8 + 1),
    nw cmd.start, nw (cmd.start / 2 ^ 32), nw now, nw (now / 2 ^ 32), nw ts.length, nw gs.length, s.cfgw, nw dirOff, nw gridOff, nw intkOff, nw len])
    ++ body

/-- The pages a save needs (R460). -/
def State.pagesNeeded (s : State) (ck : Nat) (cmd : Command) : Nat := ((s.area ck 2 cmd).length + 4095) / 4096

/-- The base of a context's save area (R116). -/
def State.saveBase (s : State) (ck : Nat) : Nat := s.rbits (kPre ck 8) 31 12 * 4096 + 2 ^ 32 * s.rbits (kPre ck 0x0C) 19 0

/-! ### SAVE (R121, R460) -/

/-- A record of the pre-emption block. R412 names no source for it: its SRC is a free value. -/
def State.preRecord (s : State) (ck code info : Nat) : State :=
  let (s, v) := s.free
  s.report ck { code, src := v.toNat % 12, info }

/-- A write or read of the save area met a fault: an engine access of the context, retried at a notice (R460). -/
def State.areaFault (s : State) (ck kind : Nat) (e : Nat × Nat × Nat) : State :=
  let s := s.modCtx ck fun x => { x with cmd := x.cmd.map fun c => { c with held := decide (e.1 ≠ 0), heldVa := e.2.2 } }
  if e.1 = 0 then s
  else
    let (s, v) := s.free
    s.reportOnce ck (some 8) kind { code := e.1, src := v.toNat % 12, addr := e.2.2, info := e.2.1 }

/-- The size check before step 2 of a SAVE (R460): too small an area ends the command. -/
def State.saveCheck (s : State) (ck : Nat) (cmd : Command) : State :=
  let need := s.pagesNeeded ck cmd
  if s.rbits (kPre ck 0x10) 31 0 < need then (((s.setCstate ck 1).setCmdErr ck).preRecord ck 0x2021 need).endCommand ck
  else (s.setCstate ck 1).modCtx ck fun x => { x with cmd := some { cmd with step := 1 } }

/-- Whether a context's column-store copies, dealing writes and tag requests have ended (R121 step 1); what a release will discard does not
count. -/
def State.copiesDone (s : State) (ck : Nat) : Bool := s.reqs.all fun r => !s.savesReq ck r || r.discard

/-- Whether every access of the context has been performed but loads that a memory fault holds, so that a release of its teams covers it (R121, R187,
R438). -/
def State.savePerformed (s : State) (ck : Nat) : Bool :=
  ((s.saveTeams ck).all fun p =>
    p.2.accesses.all fun a => a.state == .held && (match a.kind with | .load | .atomic .. => true | _ => false))
    && s.cols.all fun p =>
      let other (ctx grid : Nat) : Bool := ctx != ck || (match sfind s.grids grid with | some g => !s.saves ck g | none => false)
      (p.2.sideLog.all fun e => other e.ctx e.grid) && p.2.orphans.all fun o => other o.ctx o.grid

/-- Whether step 4's releases can be made now: earlier accesses have been performed, and no dirty line of the teams is owned by an engine (R187, R193). -/
def State.saveCanRelease (s : State) (ck : Nat) : Bool := s.savePerformed ck && (s.saveTeams ck).all fun p => s.canRelease p.1 2

/-- Step 4 of R121: every team makes a device-scope release. -/
def State.saveRelease (s : State) (ck : Nat) (cmd : Command) : State :=
  let s := (s.saveTeams ck).foldl (fun s p => (List.range p.2.threads.length).foldl (fun s t => s.startRelease p.1 t 2) s) s
  s.modCtx ck fun x => { x with cmd := some { cmd with step := 4 } }

/-- Whether every write that a context's save has made is visible at system scope. -/
def State.saveWritten (s : State) (ck : Nat) : Bool := s.putsOf (fun p => p.ck == ck && p.end_ == .save) == 0

/-- Makes a write of a save, which goes on at step `step`; a memory fault holds it (R460). -/
def State.saveWrite (s : State) (ck off : Nat) (bs : List Byte) (cmd : Command) (step : Nat) : State :=
  match s.virtWrite ck (s.saveBase ck + off) bs .save with
  | (s, some e) => s.areaFault ck kEngW e
  | (s, none) => s.modCtx ck fun x => { x with cmd := some { cmd with step, held := false } }

/-- Step 2 of R121: the header reads INCOMPLETE under a new SEQ. DESIGN CHOICE: a context's first save after a device reset writes SEQ 1, one more than the
counter's 0; the spec gives SEQ no value to begin with. -/
def State.saveBegin (s : State) (ck : Nat) (cmd : Command) : State :=
  let u := s.modCtx ck fun x => { x with saveSeq := (x.saveSeq + 1) % 2 ^ 24 }
  let t := u.saveWrite ck 0 ((u.area ck 1 cmd).take 52) cmd 2
  if (match (t.ctx ck).cmd with | some c => c.step == 2 | none => false) then t
  else t.modCtx ck fun x => { x with saveSeq := (s.ctx ck).saveSeq }

/-- The entries an access has on the pending-write list: one for each thread it delivers to, and one for each register of a gather (R73). -/
def Access.entries (a : Access) : List Dest :=
  if a.kind = .gather then a.dests.flatMap fun d => (List.range d.cnt).map fun j => { d with reg := d.reg + j, cnt := 1 }
  else a.dests.filter fun d => d.flag.isSome

/-- The pending-write list of a team (R73). -/
def Team.pendingWrites (tm : Team) : List Dest := tm.accesses.flatMap Access.entries

/-- Ends the halt of a command in progress: the affected teams are parked (R117 step 4); a SAVE goes on to its check and its steps. -/
def State.haltDone (s : State) (ck : Nat) (cmd : Command) : State :=
  let gs := s.affected ck cmd.q? (s.ctx ck).spared
  let s := s.parkAll gs
  match cmd.op with
  | 1 => s.endCommand ck
  | 2 => (s.setCstate ck 1).endCommand ck
  | _ =>
    let s := { s with teams := s.teams.map fun ((k, tm) : Nat × Team) =>
      (k, if gs.contains tm.grid then { tm.closeMoves (s.clock (teamCol k)) with pw := tm.pendingWrites } else tm) }
    s.saveCheck ck cmd

/-! ### RESUME (R122, R461) -/

/-- A parsed team-directory entry, with its image. -/
structure Saved where
  tidx : Nat
  member : Nat
  slot : Nat
  col : Nat
  thr : Nat
  eng : Bool
  succ : Bool
  npw : Nat
  tsl : Nat
  spad : Nat
  grid : Nat
  img : List Byte
  deriving DecidableEq, Repr

/-- Sizes of the image sections of a team: where each begins (R128). -/
structure Layout where
  rz : Nat
  pw : Nat
  tc : Nat
  regs : Nat
  ctr : Nat
  acc : Nat
  mac : Nat
  row : Nat
  spad : Nat
  tile : Nat
  end_ : Nat
  deriving DecidableEq, Repr

def up256 (n : Nat) : Nat := (n + 255) / 256 * 256

/-- The number of bits of a mask among its low four. -/
def pop4 (x : Nat) : Nat := ((List.range 4).filter fun i => x.testBit i).length

/-- The layout of a saved team (R128). -/
def Saved.layout (v : Saved) : Layout :=
  let n (g : Nat) : Nat := byteOf v.img g
  let regs := (List.range (v.thr / 32)).foldl (fun a g => a + 32 * 4 * n g) 0
  let rz := 512
  let pw := rz + 256
  let tc := pw + up256 (8 * v.npw)
  let rg := tc + up256 (64 * v.thr)
  let ctr := rg + up256 regs
  let acc := ctr + 256
  let mac := acc + (if v.eng then 2 ^ 18 else 0)
  let row := mac + (if v.eng then 2 ^ 16 * pop4 (byteOf v.img 232) else 0)
  let spad := row + (if v.eng then 4096 * pop4 (byteOf v.img 248) else 0)
  let tile := spad + up256 (1024 * v.spad)
  { rz, pw, tc, regs := rg, ctr, acc, mac, row, spad, tile, end_ := tile + up256 (4097 * v.tsl) }

/-- A parsed save area. -/
structure Area where
  hdr : List Byte
  grids : List (List Byte)
  intake : List Byte
  dir : List (List Byte)
  teams : List Saved
  deriving DecidableEq, Repr

/-- Parses an area of `bytes` (R125 to R127). -/
def parseArea (bytes : List Byte) : Area :=
  let w (k : Nat) : Nat := wordAt bytes (4 * k)
  let cut (o n : Nat) : List Byte := (bytes.drop o).take n
  let dir := (List.range (w 6)).map fun i => cut (256 * w 9 + 64 * i) 64
  { hdr := cut 0 4096
    grids := (List.range (w 7)).map fun i => cut (256 * (w 10 + i)) 256
    intake := cut (256 * w 11) (2 ^ 17)
    dir
    teams := dir.map fun d =>
      let f (k : Nat) : Word := nw (wordAt d (4 * k))
      { tidx := (f 0).toNat, member := bits (f 1) 23 20, slot := bits (f 1) 19 15, col := bits (f 1) 14 9, thr := 32 * (bits (f 1) 8 4 + 1)
        eng := bits (f 1) 3 3 == 1, succ := bits (f 1) 2 2 == 1, npw := bits (f 4) 15 0, tsl := bits (f 5) 22 14, spad := bits (f 5) 13 0
        grid := (f 6).toNat, img := cut (256 * (f 2).toNat) (256 * (f 3).toNat) } }

/-- The fields of a thread-control record. -/
structure Control where
  wait : Nat
  word : Nat
  pc : Nat
  rec_ : List Byte
  deriving DecidableEq, Repr

def Saved.control (v : Saved) (t : Nat) : Control :=
  let r := (v.img.drop (v.layout.tc + 64 * t)).take 64
  let w1 := nw (wordAt r 4)
  { wait := bits w1 31 28, word := bits w1 27 24, pc := wordAt r 0 + 2 ^ 32 * bits w1 19 0, rec_ := r }

/-- The clause at an address of a context; none where it cannot be fetched or decoded. -/
def State.clauseAt (s : State) (ck pc : Nat) : Option Clause :=
  match (s.virtRead ck kFetch true pc 4).2 with
  | .error _ => none
  | .ok hb =>
    let h := nw (leNat hb)
    match decodeHeader h with
    | .error _ => none
    | .ok hd =>
      match (s.virtRead ck kFetch true ((pc + 4) % 2 ^ 52) (4 * hd.len)).2 with
      | .error _ => none
      | .ok ws => match decodeClause h (bytesWords ws) with | .error _ => none | .ok c => some c

/-- The index in a clause of the word at an offset. -/
def wordIndex (c : Clause) (off : Nat) : Option Nat := c.slots.findIdx? fun sl => sl.off == off

/-- What a save kept of a team beside its image. -/
def Ctx.kept (x : Ctx) (v : Saved) : Option Team :=
  (x.savedTeams.find? fun p => p.1 == v.grid && p.2.1 == v.tidx).map fun p => p.2.2

/-- Check 2 of R461: reserved fields and offsets. -/
def areaShape (a : Area) (limit : Nat) : Option Nat :=
  let w (k : Nat) : Nat := wordAt a.hdr (4 * k)
  let len := w 12
  let out (o n : Nat) : Bool := decide (len < o + n)
  if limit < len || bits (nw (w 1)) 31 31 != 0 || !zeroAt a.hdr 52 4044 || out (w 9) ((64 * w 6 + 255) / 256) || out (w 10) (w 7) || out (w 11) 512
      || a.grids.any (fun g => wordAt g 144 / 2 ^ 8 != 0 || !zeroAt g 148 108) then some 0
  else
    (a.dir.zip a.teams).findIdx? fun p =>
      let f (k : Nat) : Word := nw (wordAt p.1 (4 * k))
      let v := p.2
      bits (f 1) 31 24 != 0 || bits (f 1) 1 0 != 0 || bits (f 4) 31 16 != 0 || bits (f 5) 31 23 != 0 || !zeroAt p.1 28 36
        || decide (w 7 ≤ v.grid) || out (f 2).toNat (f 3).toNat || decide (v.img.length < v.layout.end_)
        || !zeroAt v.img 234 2 || !zeroAt v.img 259 253 || byteOf v.img 258 / 2 != 0 || byteOf v.img 248 / 16 != 0
        || wordAt v.img 236 / 2 ^ 12 != 0 || wordAt v.img 236 / 2 ^ 6 % 4 != 0
        || (List.range 24).any (fun z => !zeroAt v.img (v.layout.rz + 8 * z + 6) 2)
        || (List.range v.thr).any fun t =>
             let c := v.control t
             bits (nw (wordAt c.rec_ 4)) 23 20 != 0 || wordAt c.rec_ 20 / 32 != 0 || !zeroAt c.rec_ 48 16

/-- Check 3 of R461: the wait of a thread. -/
def State.waitOk (s : State) (ck : Nat) (c : Control) : Bool :=
  if 11 < c.wait then false
  else if c.wait = 0 then c.word == 0
  else if c.word = 0 then decide (c.wait < 9)
  else match s.clauseAt ck c.pc with | some cl => (wordIndex cl c.word).isSome | none => false

/-- Check 4 of R461: register counts, scratchpad and tile slots. -/
def State.sizeOk (s : State) (ck : Nat) (v : Saved) : Bool :=
  let n (g : Nat) : Nat := byteOf v.img g
  let (_, sp, ts) := s.template (s.ctxPart ck)
  ((List.range (v.thr / 32)).all fun g => n g % 8 == 0 && decide (8 ≤ n g) && decide (n g ≤ 128))
    && ((List.range 4).all fun sl =>
      decide ((((List.range (v.thr / 32)).filter fun g => g % 4 == sl).foldl (fun a g => a + n g) 0) ≤ 512))
    && decide (v.tsl ≤ ts) && decide (v.tsl ≤ 256) && decide (spadExtent v.spad ≤ sp) && decide (v.spad ≤ 8192)

/-- The count of a flag in a saved thread. -/
def Control.flag (c : Control) (i : Nat) : Nat := (wordAt c.rec_ 12 + 2 ^ 32 * (wordAt c.rec_ 16 % 2 ^ 16)) / 16 ^ i % 16

/-- Check 5 of R461: every list entry is done, and a flag stays raised only for a load recorded as a held wait (R129) or a request its release
discards. -/
def flagsOk (x : Ctx) (v : Saved) : Bool :=
  let held (t i : Nat) : Nat :=
    (match x.kept v with
     | some tm => (tm.accesses.filter fun a => a.state == .held && a.dests.any fun d => d.thread == t && d.flag == some i).length
     | none => 0)
    + (x.heldReqs.filter fun r => r.1 == v.grid && r.2.1 == v.tidx && r.2.2.1.contains t && r.2.2.2 == some i).length
  ((List.range v.npw).all fun j => (nw (wordAt v.img (v.layout.pw + 8 * j))).getLsbD 31)
    && (List.range v.thr).all fun t =>
      ((v.control t).wait == 8 && (v.control t).word == 0) || (List.range 12).all fun i => (v.control t).flag i == held t i

/-- The first check of R461 that an area fails: directory index and number. -/
def State.resumeCheck (s : State) (ck : Nat) (a : Area) : Option (Nat × Nat) :=
  let w (k : Nat) : Nat := wordAt a.hdr (4 * k)
  let w1 := nw (w 1)
  if w 0 % 256 ≠ 2 ∨ bits w1 27 16 ≠ s.ctxId ck ∨ bits w1 7 0 ≠ 1 then some (0, 1)
  else
    let fail (n : Nat) (p : Saved → Bool) : Option (Nat × Nat) := (a.teams.findIdx? fun v => !p v).map fun i => (i, n)
    ((areaShape a (16 * s.rbits (kPre ck 0x10) 31 0)).map fun i => (i, 2)).or
      ((fail 3 fun v => (List.range v.thr).all fun t => s.waitOk ck (v.control t)).or
        ((fail 4 (s.sizeOk ck)).or (fail 5 (flagsOk (s.ctx ck)))))

/-- The wait a restored thread resumes with, the index in its clause, and whether its word has acted (R122, R129): none for a thread at a
header. Words that had not acted issue again; a thread of a group whose request is pending, by `asked`, waits for it on. -/
def Control.place (c : Control) (cl : Option Clause) (now : Nat) (asked : Bool) : Option (Clause × Nat × Wait × Bool) :=
  match cl with
  | none => none
  | some cl =>
    match wordIndex cl c.word with
    | none => none
    | some p =>
      if c.word = 0 then none
      else
        match c.wait with
        | 1 => some (cl, p, { kind := .rendezvous, word := c.word, token := wordAt c.rec_ 16 / 2 ^ 16, point := wordAt c.rec_ 20 % 32 }, true)
        | 3 =>
          match cl.slots[p]? with
          | some ⟨_, .vgrow _ d cnt⟩ =>
            if asked then some (cl, p, { kind := .vgrow, word := c.word, point := d.toNat, token := cnt.toNat }, true) else some (cl, p, {}, false)
          | _ => some (cl, p, {}, false)
        | 4 => some (cl, p, { kind := .gbar, word := c.word }, true)
        | 5 => some (cl, p, { kind := .sleep, word := c.word, until_ := now + dwordAt c.rec_ 40 }, true)
        | 11 => if p + 1 < cl.slots.length then some (cl, p + 1, {}, false) else none
        | 0 => none
        | _ => some (cl, p, {}, false)

/-- A restored thread (R122, R128, R129). `kept` is what the save kept beside the image: whether the thread has exited, its pending registers, its hold, its
poison marks and its peer accesses. -/
def State.restoreThread (s : State) (ck : Nat) (v : Saved) (kept : Option Team) (ro t n : Nat) : Thread × Option (Clause × Nat × Bool) :=
  let c := v.control t
  let old : Thread := match kept with | some tm => tm.thread t | none => {}
  let regs := (List.range n).foldl (fun l r => sput 0 l r (nw (wordAt v.img (ro + 4 * r)))) []
  let cl := if c.word = 0 ∨ c.wait = 0 then none else s.clauseAt ck c.pc
  let pl := c.place cl s.dt (wordAt v.img (32 + 4 * (t / 32)) % 256 != 0)
  let pc := match c.wait, cl, pl with | 11, some k, none => (c.pc + 4 * (k.hdr.len + 1)) % 2 ^ 52 | _, _, _ => c.pc
  let fl := BitVec.ofNat 48 (wordAt c.rec_ 12 + 2 ^ 32 * (wordAt c.rec_ 16 % 2 ^ 16))
  ({ pc := BitVec.ofNat 52 pc, regs, status := nw (wordAt c.rec_ 8) &&& 0x3F, flags := fl, horizon := dwordAt c.rec_ 24, floor := s.dt
     wait := match pl with | some p => p.2.2.1 | none => {}
     pend := old.pend, poison := old.poison.filter (fun r => sget 0 regs r == old.get r), exited := old.exited
     hold := match old.hold, kept with
       | some h, some tm => if tm.accesses.any fun a => a.state == .held && h.access == some a.id then some h else none
       | _, _ => none },
   pl.map fun p => (p.1, p.2.1, p.2.2.2))

/-- Adds a restored thread to the bundles of its team: threads that stand at one place of one clause on one slice share a bundle, one to a
lane (R31). -/
def joinBundle (now : Nat) (ths : List Thread) (bs : List Bundle) (t : Nat) (pl : Option (Clause × Nat × Bool)) : List Bundle :=
  let th : Thread := ths.getD t {}
  let same (b : Bundle) : Bool :=
    let u : Thread := ths.getD (b.threads.headD 0) {}
    b.slice == t / 32 % 4 && (b.threads.all fun x => x % 32 != t % 32) && u.pc == th.pc && u.wait.kind == th.wait.kind && u.wait.word == th.wait.word
      && u.hold == th.hold
      && (match pl with
          | some p => b.clause == some p.1 && b.pos == p.2.1 && b.issued == p.2.2
          | none => b.clause.isNone)
  match bs.findIdx? same with
  | some i => bs.modify i fun b => { b with threads := b.threads ++ [t] }
  | none =>
    bs ++ [match pl with
      | some p => { threads := [t], slice := t / 32 % 4, stamp := now, active := false, clause := some p.1, pos := p.2.1, issued := p.2.2 }
      | none => { threads := [t], slice := t / 32 % 4, stamp := now, active := false }]

/-- A restored operand of the row buffer or of a macro. -/
def Saved.operand (v : Saved) (kept : Option Operand) (tagAt dataAt rank : Nat) (rc : Bool) : Operand :=
  { slot := byteOf v.img tagAt, ty := byteOf v.img (tagAt + 1), rank, rc
    data := (List.range 4096).foldl (fun l i => sput 0 l i (v.img.getD (dataAt + i) 0)) []
    poison := match kept with | some o => o.poison | none => false }

/-- The operands a mask marks, in order, each `size` bytes of data on from `base`. -/
def Saved.operands (v : Saved) (kept : List (Option Operand)) (mask tags base size : Nat) (rank : Nat → Nat) (rc : Bool) : List (Option Operand) :=
  (List.range 4).map fun i =>
    if mask.testBit i then
      some (v.operand (kept.getD i none) (tags + 2 * i) (base + size * ((List.range i).filter fun j => mask.testBit j).length) (rank i) rc)
    else none

/-- The restored engine of a team that held it (R122). -/
def Saved.engine (v : Saved) (kept : Option Engine) : Engine :=
  let l := v.layout
  let old : Engine := kept.getD {}
  let acc (i : Nat) : Accum :=
    let o : Accum := sget {} old.accs i
    { kind := o.kind, poison := o.poison
      data := (List.range 1024).foldl (fun m j => sput 0 m j (nw (wordAt v.img (l.acc + 4096 * i + 4 * j)))) [] }
  { accs := (List.range 64).foldl (fun m i => sput {} m i (acc i)) []
    rows := v.operands old.rows (byteOf v.img 248) 240 l.row 4096 (fun i => byteOf v.img 249 / 4 ^ i % 4) false
    macros := v.operands old.macros (byteOf v.img 232) 250 l.mac 65536 (fun _ => 0) (byteOf v.img 258 % 2 == 1)
    rank := 4 }

/-- The restored team (R122): parked, its bundles at their saved places. -/
def State.restoreTeam (s : State) (ck : Nat) (v : Saved) (grid : Nat) (cluster : List Nat) (backing extent : Nat × Nat) : Team :=
  let l := v.layout
  let kept := (s.ctx ck).kept v
  let n (g : Nat) : Nat := byteOf v.img g
  let regOff (t : Nat) : Nat := l.regs + ((List.range (t / 32)).foldl (fun a g => a + 128 * n g) 0) + t % 32 * 4 * n (t / 32)
  let rt := (List.range v.thr).map fun t => s.restoreThread ck v kept (regOff t) t (n (t / 32))
  let ths := rt.map Prod.fst
  let bundles := (List.range v.thr).foldl (fun bs t =>
    if (ths.getD t {}).exited then bs else joinBundle s.cyc ths bs t ((rt.map Prod.snd).getD t none)) []
  let groups := (List.range (v.thr / 32)).map fun g =>
    let x := wordAt v.img (32 + 4 * g)
    { n := n g, req := if x % 256 = 0 then none else some (x % 256), waited := x / 256 : Group }
  let ctr (i : Nat) : Nat := dwordAt v.img (l.ctr + 8 * i)
  let st := nw (wordAt v.img 236)
  let pos := dwordAt v.img 224
  let oldSt : Stream := match kept with | some tm => tm.stream | none => {}
  let stream : Stream :=
    { pos, flags := st.setWidth 6, run := st.getLsbD 8, end_ := st.getLsbD 9, wt := st.getLsbD 10, abt := st.getLsbD 11
      rcDefault := byteOf v.img 233 % 2 == 1, audit := oldSt.audit
      ir := if oldSt.pos = pos ∧ oldSt.token.isSome then oldSt.ir else none
      token := if oldSt.pos = pos then oldSt.token else none }
  let oldRz (z : Nat) : RzPoint := match kept with | some tm => tm.point z | none => {}
  let rz := (List.range 24).foldl (fun m z =>
    let h (j : Nat) : Nat := leNat ((v.img.drop (l.rz + 8 * z + 2 * j)).take 2)
    sput {} m z { e := h 0, a := h 1, p := h 2, cluster := (oldRz z).cluster, marks := (oldRz z).marks }) []
  let oldTile (i : Nat) : Tile := match kept with | some tm => tm.tile i | none => {}
  let tiles := (List.range v.tsl).foldl (fun m i =>
    sput {} m i { data := (List.range 4096).foldl (fun d j => sput 0 d j (v.img.getD (l.tile + 4096 * i + j) 0)) []
                  tag := if byteOf v.img (l.tile + 4096 * v.tsl + i) = 1 then .valid else .empty, poison := (oldTile i).poison }) []
  { grid, index := v.tidx, member := v.member, cluster, place := .parked, age := s.cyc, since := s.dt, groups, threads := ths
    bundles := if v.succ then [] else bundles
    accesses := match kept with
      | some tm => (tm.accesses.filter fun a => a.state == .held).map fun a => { a with state := .sent }
      | none => []
    spadLen := 1024 * v.spad
    spad := Memory.putList [] 0 ((v.img.drop l.spad).take (1024 * v.spad))
    spadPoison := match kept with | some tm => tm.spadPoison | none => []
    tsl := v.tsl, tiles, rz
    engine := if v.eng then some (v.engine (match kept with | some tm => tm.engine | none => none)) else none
    mregs := (List.range 16).foldl (fun m i => sput 0 m i (nw (wordAt v.img (160 + 4 * i)))) []
    stream
    counters := { migCount := ctr 0, migCycles := ctr 1, res1 := ctr 2, res2 := ctr 3, res3 := ctr 4, res4 := ctr 5, stakeBytes := ctr 6 }
    backing, extent, successor := v.succ, fresh := v.succ, readyAt := s.dt }

/-- A restored grid (R126). What the image has no place for comes from what the save kept, or else is as a plain grid of the card has it. -/
def State.restoreGrid (s : State) (ck i resident : Nat) (e : List Byte) : Grid :=
  let card := bytesWords (e.take 128)
  let fl := nw (wordAt e 144)
  let kept := ((s.ctx ck).savedGrids.find? fun p => p.1 == i && p.2.card == card).map Prod.snd
  let q := bits fl 5 0
  let succ := bits fl 6 6 == 1
  let retired := wordAt e 140
  let base : Grid :=
    { ctx := ck, card, cardAddr := 0, queue := some q, age := dwordAt e 128, pri := if succ then Card.pri card else min (Card.pri card) (s.rbits (kQueue ck q 8) 6 5) }
  let g := kept.getD base
  { g with ctx := ck, age := dwordAt e 128, next := wordAt e 136, retired, placed := if succ then resident + retired else min (Card.total card) (resident + retired)
           started := resident + retired, halted := false, complete := false, barWait := []
           pred := if succ then (match g.pred with | some p => some p | none => some (2 ^ 32)) else none }

/-- The clusters of a directory: the indices of the entries that share one rectangle, each list in member order. A team of a card with one member
stands alone. -/
def clustersOf (cards : Nat → Card) : List (Nat × Saved) → List (List (Nat × Saved))
  | [] => []
  | p :: rest =>
    let base (v : Saved) : Nat × Nat :=
      let c := max 1 (cards v.grid).ccols
      (v.tidx - v.member, v.col - (8 * (v.member / c) + v.member % c))
    let acc := clustersOf cards rest
    if (cards p.2.grid).csize ≤ 1 then [p] :: acc
    else
      match acc.findIdx? fun l => match l with
          | q :: _ => decide (1 < (cards q.2.grid).csize) && base q.2 == base p.2
          | [] => false with
      | some i => acc.modify i fun l => p :: l
      | none => [p] :: acc

/-- Places the listed members of a cluster with its first column at `c0`: the keys they would take. -/
def State.placeSaved (s : State) (cards : Nat → Card) (c0 : Nat) : List (Nat × Saved) → Option (List (Nat × Nat × ((Nat × Nat) × (Nat × Nat))))
  | [] => some []
  | (i, v) :: rest =>
    let w := cards v.grid
    let col := if w.csize ≤ 1 then c0 else (rectangle c0 w.crows w.ccols).getD v.member 48
    match s.columnTakes w col, State.placeSaved s cards c0 rest with
    | some (b, e, sl), some l => some ((i, teamKey col sl, b, e) :: l)
    | _, _ => none

/-- Restores one cluster or team at its place: it is on its way to a core, a transfer (R64, R457), or parks (R95 step 5, R122). A team that held the engine
takes its backing range again. -/
def State.restoreCluster (s : State) (ck : Nat) (cards ids : Nat → Nat × Card) (ms : List (Nat × Saved)) (c0 : Nat) : Option State :=
  let card (g : Nat) : Card := (cards g).2
  let w := card ((ms.map fun p => p.2.grid).headD 0)
  if 1 < w.csize ∧ rectFits s.ncol c0 w.crows w.ccols = false then none
  else
    match s.placeSaved card c0 ms with
    | none => none
    | some places =>
      let keyOf (m : Nat) : Nat :=
        match ms.find? fun p => p.2.member == m with
        | some p => (match places.find? fun q => q.1 == p.1 with | some q => q.2.1 | none => teamKey 48 0)
        | none => teamKey 48 0
      let cluster := if w.csize ≤ 1 then [] else (List.range w.csize).map keyOf
      ms.foldl (fun acc p =>
        match acc, places.find? fun q => q.1 == p.1 with
        | some s, some (_, k, b, e) =>
          let v := p.2
          let s := s.bind (teamCol k) (card v.grid).part
          let tm := s.restoreTeam ck v (ids v.grid).1 cluster b e
          let eb : Option (Option (Nat × Nat)) :=
            if v.eng then
              (freeExtent (b :: (s.teamsOf (teamCol k)).flatMap fun q => q.2.backing :: q.2.engBacking.toList) (2 ^ 19)
                (s.regions (teamCol k) (card v.grid).part).1).map some
            else some none
          match eb with
          | none => none
          | some eb =>
            let tm := { tm with engBacking := eb }
            let c := teamCol k
            let s := match (if v.succ then none else s.chooseCore c k tm) with
              | some l =>
                if s.mayTransfer c (teamSlot k) (fromStore l) then (s.startTransfer c (teamSlot k) (fromStore l)).setTeam k { tm with place := .moving 0 l }
                else (s.setTeam k tm).holdTransfer c (teamSlot k)
              | none => s.setTeam k tm
            let waits := (List.range tm.threads.length).filter fun t => (tm.thread t).wait.kind == .gbar
            let s := s.modGrid (ids v.grid).1 fun g => { g with barWait := g.barWait ++ waits.map fun t => (k, t) }
            let (dead, keep) := (s.ctx ck).heldReqs.partition fun r => r.1 == v.grid && r.2.1 == v.tidx
            let s := s.modCtx ck fun x => { x with heldReqs := keep }
            some (dead.foldl (fun s r => s.modThreads k r.2.2.1 fun th => th.dropFlag? r.2.2.2) s)
        | _, _ => none) (some s)

/-- Restores every cluster of an area, each at the first column that takes it. -/
def State.restoreAll (s : State) (ck : Nat) (cards ids : Nat → Nat × Card) : List (List (Nat × Saved)) → Option State
  | [] => some s
  | ms :: rest =>
    match (List.range s.ncol).findSome? fun c => s.restoreCluster ck cards ids ms c with
    | none => none
    | some s => State.restoreAll s ck cards ids rest

/-- The cards of a saved queue block: metadata of a card that still stands in the intake is kept. -/
def restoreIntake (intake : List Byte) (old : List CardIn) (q : Nat) : List CardIn :=
  let slot (i : Nat) : List Word := bytesWords ((intake.drop (2048 * q + 128 * i)).take 128)
  ((List.range 16).filter fun i => wd (slot i) 1 != 0xFFFFFFFF).map fun i =>
    match old[i]? with
    | some x => if x.words = slot i then x else { words := slot i, addr := 0, launch := false }
    | none => { words := slot i, addr := 0, launch := false }

/-- Restores an area that has passed the checks (R122 steps 2 to 5); none while some team finds no room. -/
def State.restoreArea (s : State) (ck : Nat) (a : Area) : Option State :=
  let base := s.gridNext
  let N := a.grids.length
  let resident (i : Nat) : Nat := (a.teams.filter fun v => v.grid == i).length
  let one (p : List Byte × Nat) : Nat × Grid :=
    let g := s.restoreGrid ck p.2 (resident p.2) p.1
    (base + p.2, { g with pred := g.pred.map fun q => base + min q N })
  let gs : List (Nat × Grid) := a.grids.zipIdx.map one
  let s := { s with grids := gs.foldl (fun l (p : Nat × Grid) => sins l p.1 p.2) s.grids, gridNext := base + N + 1 }
  let look (i : Nat) : Nat × Card := match gs[i]? with | some p => (p.1, p.2.card) | none => (base + N, [])
  (s.restoreAll ck look look (clustersOf (fun i => (look i).2) (a.teams.zipIdx.map fun (p : Saved × Nat) => (p.2, p.1)))).map fun (s : State) =>
    (List.range 64).foldl (fun (s : State) q => s.setIntake ck q (restoreIntake a.intake ((s.ctx ck).intake q) q)) s

/-- What the restored context discards: hand-overs that had failed are abandoned, and their teams retire (R431). -/
def State.abandonHandovers (s : State) (ck : Nat) (old : List (Nat × Nat × Team)) (ids : Nat → Nat) : State :=
  ((s.saveTeams ck).map Prod.fst).foldl (fun s k =>
    match s.team? k with
    | none => s
    | some tm =>
      let bad := old.any fun p => ids p.1 == tm.grid && p.2.1 == tm.index && (match p.2.2.handover with | some h => h.failed | none => false)
      let rets (b : Bundle) : Bool := match b.clause with
        | some c => (match c.slots[b.pos]? with | some sl => (match sl.ins with | .rets .. => true | _ => false) | none => false)
        | none => false
      if bad && tm.bundles.all rets then s.retireAbandoned k else s) s

/-- Whether a context with CSTATE 0 has a save area and neither a grid nor a card. DEDUCED: its area may hold the image of a save before a device reset, which
a RESUME takes up from a header that reads COMPLETE (R468), though CSTATE reads 0 after a reset. -/
def State.idle (s : State) (ck : Nat) : Bool :=
  s.cstate ck == 0 && s.rbits (kPre ck 0x10) 31 0 != 0 && s.grids.all (fun p => p.2.ctx != ck) && (s.ctx ck).intakes.all fun p => p.2.isEmpty

/-- Tries the restore of a saved context (R122, R461); `spare` where a privileged event task has asked for it (R280). Where no save has set CSTATE, and the
header cannot be read or does not read COMPLETE, there is nothing to restore (R123). -/
def State.resumeSaved (s : State) (ck : Nat) (spare : Bool) : State :=
  let base := s.saveBase ck
  let none_ (s : State) : State := (s.resumeInPlace ck spare).endCommand ck
  let wait (s : State) : State :=
    (s.modCtx ck fun x => { x with cmd := some (match x.cmd with | some c => c | none => { op := 5, queue := 0, step := 3, start := s.dt }), spared := spare }).setBusy ck 1
  let refuse (s : State) (i n : Nat) : State := ((s.setCmdErr ck).preRecord ck 0x2022 (i % 2 ^ 16 * 2 ^ 8 + n)).endCommand ck
  match s.virtRead ck kEngR true base 4096 with
  | (s, .error e) => if s.cstate ck ≠ 2 ∧ e.1 ≠ 0 then none_ s else (wait s).areaFault ck kEngR e
  | (s, .ok hdr) =>
    let len := min (wordAt hdr 48) (16 * s.rbits (kPre ck 0x10) 31 0)
    if wordAt hdr 0 % 256 ≠ 2 then if s.cstate ck = 2 then refuse s 0 1 else none_ s
    else
      match s.virtRead ck kEngR true base (256 * len) with
      | (s, .error e) => (wait s).areaFault ck kEngR e
      | (s, .ok bytes) =>
        let a := parseArea bytes
        match s.resumeCheck ck a with
        | some (i, n) => refuse s i n
        | none =>
          let old := (s.ctx ck).savedTeams
          let first := s.gridNext
          match s.restoreArea ck a, s.virtWrite ck base (leBytes (wordAt hdr 0 / 256 * 256) 4) .save with
          | none, _ => wait s
          | _, (s, some e) => (wait s).areaFault ck kEngW e
          | some _, (s, none) =>
            let s := (s.restoreArea ck a).getD s
            let s := s.modCtx ck fun x => { x with savedGrids := [], savedTeams := [], heldReqs := [], spared := false }
            let s := ((s.clearQhalt ck).setCstate ck 0).releaseFrozen ck spare
            (s.abandonHandovers ck old fun i => first + i).endCommand ck

/-- RESUME context as the register write or a privileged task gives it (R123, R468). -/
def State.resumeContext (s : State) (ck : Nat) (spare : Bool) : State :=
  if s.cstate ck = 2 ∨ s.idle ck = true then s.resumeSaved ck spare else s.resumeInPlace ck spare

/-- RESUME_CONTEXT (R122, R123, R461). -/
def execResumeContext (fn c : Nat) (s : State) : Host.Outcome State Fault Refusal :=
  s.command (ctxKey fn c) fun s => s.resumeContext (ctxKey fn c) false

/-- SAVE context (R121, R123), with its REASON; `spare` where a privileged event task gives it (R280). -/
def State.saveContext (s : State) (ck reason : Nat) (spare : Bool) : State :=
  let cmd : Command := { op := 3, queue := 0, step := 0, start := s.dt, reason }
  if s.cstate ck = 2 then s.setCmdErr ck else s.startHalt ck none cmd spare

/-- SAVE_CONTEXT (R121). -/
def execSaveContext (fn c : Nat) (s : State) : Host.Outcome State Fault Refusal :=
  s.command (ctxKey fn c) fun s => s.saveContext (ctxKey fn c) 0 false

/-- HALT_COMPLETE (R117, R121 steps 1, 2 and 4): every affected bundle has halted, and the teams are parked; a SAVE whose copies have ended writes its header,
makes it visible at system scope, and then makes its releases; a RESUME that found no room is tried again. -/
def execHaltComplete (fn c : Nat) (s : State) : Host.Outcome State Fault Refusal :=
  let ck := ctxKey fn c
  .next (match (s.ctx ck).cmd with
    | none => s
    | some cmd =>
      match cmd.step with
      | 0 => if s.haltedAll (s.affected ck cmd.q? (s.ctx ck).spared) then s.haltDone ck cmd else s
      | 1 => if !cmd.held && s.copiesDone ck then s.saveBegin ck cmd else s
      | 2 => if s.saveWritten ck && s.saveCanRelease ck then s.saveRelease ck cmd else s
      | 3 => if cmd.held then s else s.resumeSaved ck (s.ctx ck).spared
      | _ => s)

/-- Whether everything a save waits for has drained (R121 step 5): pending-write lists hold at most loads held by a fault, no side-log entry or
unacknowledged peer access of the context is left, and the horizons have passed. -/
def State.saveDrained (s : State) (ck : Nat) : Bool :=
  s.savePerformed ck
    && (s.saveTeams ck).all fun p => p.2.threads.all fun th => decide (th.horizon + 2 ≤ s.dt) && th.peerOut == 0

/-- Step 6 of R121: freezes that the save has held are made (R417, R424), slots, regions and engines are freed, and CSTATE is 2. -/
def State.saveEnd (s : State) (ck : Nat) : State :=
  let s := s.modCtx ck fun x => { x with cmd := none }
  let s := ((s.saveTeams ck).map Prod.fst).foldl State.settle s
  let gs := s.saveGrids ck
  let ts := s.saveTeams ck
  let gi (g : Nat) : Nat := (gs.findIdx? fun p => p.1 == g).getD 0
  let savedGrids := gs.zipIdx.map fun p => (p.2, { p.1.2 with pred := p.1.2.pred.map fun q => (gs.findIdx? fun r => r.1 == q).getD gs.length })
  let savedTeams := ts.map fun p => (gi p.2.grid, p.2.index, p.2)
  let heldReqs := (s.reqs.filter (s.savesReq ck)).filterMap fun r =>
    (s.reqTeam r).map fun tm => (gi tm.grid, tm.index, r.threads, r.flag)
  let s := (s.reqs.filter (s.savesReq ck)).foldl (fun s r => s.endReq r 0) s
  let s := ts.foldl (fun s p => s.freeTeam p.1) s
  let s := { s with grids := s.grids.filter fun p => !s.saves ck p.2 || p.2.complete }
  ((s.modCtx ck fun x => { x with savedGrids, savedTeams, heldReqs }).setCstate ck 2).endCommand ck

/-- SAVE_COMPLETE (R121 steps 3 to 6): once all has drained the sections are written; once they are visible at system scope, COMPLETE; and after it the context
is freed. -/
def execSaveComplete (fn c : Nat) (s : State) : Host.Outcome State Fault Refusal :=
  let ck := ctxKey fn c
  .next (match (s.ctx ck).cmd with
    | none => s
    | some cmd =>
      if cmd.held then s
      else
        match cmd.step with
        | 4 => if s.saveDrained ck && s.copiesDone ck then s.saveWrite ck 0 (s.area ck 1 cmd) cmd 5 else s
        | 5 => if s.saveWritten ck then s.saveWrite ck 0 ((s.area ck 2 cmd).take 52) cmd 6 else s
        | 6 => if s.saveWritten ck then s.saveEnd ck else s
        | _ => s)

end Sys2Proof.Machine
end

