-- ==== Sys2Proof/Machine/Homes.lean ====
section
/-! DEFINITION. Global accesses after issue: their service at home slices, column stores, the host and peers (R176 to R184, R338 to R342), releases,
acquires and holds (R187 to R191, R335, R476), delivery (R73, R75, R235), and the column cache's write-backs (R184). -/

namespace Sys2Proof.Machine

/-! ### Performing an access (R176) -/

/-- What an access meets where it is performed. -/
inductive Perf where
  /-- it is held at its home, or waits for a link -/
  | wait
  | fault (code info va : Nat)
  /-- a load or atomic: the value and the completion time -/
  | value (v t : Nat)
  /-- it waits at its home for completion time `t` -/
  | home (t : Nat)
  /-- a store or reduction, with its completion time -/
  | done (t : Nat)
  /-- a store that a peer, or a reduction that a peer or the host acknowledges -/
  | peer
  deriving DecidableEq, Repr

/-- The access kind of R434. -/
def AccKind.code : AccKind → Nat
  | .store _ => kStore
  | .atomic .. => kAtomic
  | .reduction .. => kRed
  | _ => kLoad

/-- Bytes another agent supplies in this cycle. -/
def State.outsideBytes (s : State) (a n : Nat) : List Byte := (List.range n).map fun i => Config.outside s.cyc (a + i)

/-- The outgoing message of an access, with its context's domain context and its scope (R166). -/
def Access.message (a : Access) (dctx : Nat) (dev : Option Nat) (va : Nat) : OutMsg :=
  let m : OutMsg := { dev, addr := va, data := [], dctx, scope := a.scope, translated := dev.isNone
                      relaxed := dev.isNone && (match a.kind with | .store _ => true | _ => false) }
  match a.kind with
  | .store v => { m with data := leBytes v a.size }
  | .atomic op ty b c => { m with data := leBytes b a.size ++ leBytes c a.size, aop := some (op, ty) }
  | .reduction op ty b => { m with data := leBytes b a.size, aop := some (op, ty) }
  | _ => { m with kind := .read a.size }

/-- The part of an access that is performed next: a 16-byte access is performed in two parts, the lower first (R177). -/
def Access.part (a : Access) : Access :=
  if a.size != 16 then a
  else
    let va := if a.half then a.va + 8 else a.va
    match a.kind with
    | .store v => { a with va, size := 8, kind := .store (if a.half then v / 2 ^ 64 else v % 2 ^ 64) }
    | _ => { a with va, size := 8 }

/-- An access arrives at the home slice of its line to write: its column first gives up the line (R182, R184). -/
def State.performWrite (s : State) (c ck : Nat) (who : Option (Nat × Nat)) (a : Access) (line : Nat) (op : HomeOp) : State × Perf :=
  let (s, _) := s.writeBack c line none false
  let (s, t) := s.homeArrive line { t := 0, op, team := who.map Prod.fst, access := who.map Prod.snd }
  (s.localWrite ck a.va, .home t)

/-- What an access does at the home slice of its line other than to load: a line held there holds it, and poison refuses an atomic (R169, R182, R193,
R448). -/
def State.performHome (s : State) (c ck : Nat) (who : Option (Nat × Nat)) (a : Access) (key : Nat) : State × Perf :=
  let line := key / 128
  let o := key % 128
  let atomic (op ty b c' : Nat) : State × Perf :=
    if s.isPoison line then (s, .fault 0x1040 a.kind.code a.va) else s.performWrite c ck who a line (.atomic o a.size op ty b c')
  if s.lineHeld line then (s, .wait)
  else
    match a.kind with
    | .store v => s.performWrite c ck who a line (.write ((leBytes v a.size).zipIdx.map fun (b, i) => (o + i, b)))
    | .atomic op ty b c' => atomic op ty b c'
    | .reduction op ty b => atomic op ty b 0
    | _ => (s, .wait)

/-- A load performed at the home of an HBM or BASE line (R160, R176, R179). With system scope it passes the column cache by: bytes written there go to
the home first, so that it returns nothing older than its thread's own stores (R178); a load waits likewise for bytes that its column has given up and the home
has not applied. The upper half of a load whose lower half hit hits too, for lease floor `floor` (R177). -/
def State.performLoad (s : State) (c floor : Nat) (a : Access) (key : Nat) : State × Perf :=
  let line := key / 128
  let hit := if a.half ∧ a.scope ≠ 3 then s.colHit c key a.size floor else none
  if s.isPoison line && !s.lineHeld line then (s, .fault 0x1040 kLoad a.va)
  else if hit.isSome then (s, .value (leNat (hit.getD [])) 0)
  else if s.lineHeld line then (s, .wait)
  else if a.scope = 3 then
    if (List.range a.size).any fun i => (s.ownByte c (key + i)).isSome || s.ownWait c (key + i) then
      (if (s.cline c line).dirty = [] then s else (s.writeBack c line none false).1, .wait)
    else (s, .value (leNat (s.bytesAt key a.size)) 0)
  else if (List.range a.size).any fun i => s.ownWait c (key + i) then (s, .wait)
  else
    let v := leNat (s.colBytes c key a.size)
    if s.fillable c line = false then (s, .value v 0)
    else
      match s.grant line with
      | (s, some e) => (s.fill c line e, .value v 0)
      | (s, none) => (s, .value v 0)

/-- Performs an access to an HBM or BASE page: a load, a plain store in the column cache, or what its home does (R176, R184). `who` is the team and
access that a completion answers. -/
def State.performHbm (s : State) (c slot ck floor : Nat) (who : Option (Nat × Nat)) (a : Access) (key : Nat) : State × Perf :=
  match a.kind with
  | .store v =>
    if a.scope = 3 then s.performHome c ck who a key
    else if (s.home (key / 128)).move = .moving then (s, .wait)
    else ((s.colStore c slot key (leBytes v a.size)).localWrite ck a.va, .done 0)
  | .atomic .. | .reduction .. => s.performHome c ck who a key
  | _ => s.performLoad c floor a key

/-- Performs an access to a base-scratchpad window, at its slice with no lease (R144, R176). -/
def State.performWin (s : State) (c ck : Nat) (who : Option (Nat × Nat)) (a : Access) (key : Nat) : State × Perf :=
  match a.kind with
  | .store _ | .atomic .. | .reduction .. => s.performHome c ck who a (winAt key)
  | _ =>
    if s.lineHeld (winAt key / 128) then (s, .wait)
    else if s.isPoison (winAt key / 128) then (s, .fault 0x1040 kLoad a.va)
    else (s, .value (leNat (s.bytesAt (winAt key) a.size)) (s.dt + 1))

/-- Sends an access to the host, or to a peer device (R165, R166, R189). What a read or an atomic returns is the other agent's. A reduction to the host is an
AtomicOp request, whose completion acknowledges it (R339, R342); a store to it is posted. -/
def State.performOut (s : State) (ck : Nat) (a : Access) (dev : Option Nat) (va : Nat) : State × Perf :=
  let up := match dev with | some d => s.peerUp d | none => s.hostUp
  if !up then (s, .wait)
  else
    let v := leNat (s.outsideBytes va a.size)
    let s := { s with outbox := a.message (s.rbits (kLk ck 8) 11 0) dev va :: s.outbox }
    match a.kind with
    | .store _ => (s, if dev.isSome then .peer else .done 0)
    | .reduction .. => (s, .peer)
    | .atomic .. => (s, .value v s.dt)
    | _ => (s, .value v 0)

/-- Performs an access that reads through the cluster window, in the member's column store (R138, R332). A member that no longer holds its slot
supplies a free value. -/
def State.performMember (s : State) (k : Nat) (tm : Team) (a : Access) (mem : Nat) : State × Perf :=
  match (s.member? tm k mem).bind s.team? with
  | none => let (s, w) := s.free; (s, .value (w.toNat % 2 ^ (8 * a.size)) 0)
  | some m =>
    if m.sbStall false a.va a.size then (s, .wait)
    else if (List.range a.size).any fun j => m.spadPoison.contains ((a.va + j) / 64) then (s, .fault 0x1040 kLoad a.va)
    else (s, .value (m.spadGet a.va a.size) 0)

/-- Translates and performs a global access (R151, R176), for a thread with this lease floor. -/
def State.performAt (s : State) (c slot ck floor : Nat) (priv : Bool) (who : Option (Nat × Nat)) (a : Access) : State × Perf :=
  let kind := a.kind.code
  match s.xlate (some c) ck a.va kind (kind != kLoad) priv (a.scope == 3) with
  | (s, .error (code, info)) =>
    match a.kind with
    | .atomic op ty _ _ | .reduction op ty _ =>
      if (code < 2 ∨ code = 0x100D) ∧ s.onHost (some c) ck a.va = true ∧ hostAtomic op ty = false then (s, .fault 0x100C (kind + 16 * op) a.va)
      else (s, .fault code info a.va)
    | _ => (s, .fault code info a.va)
  | (s, .ok (.hbm key)) => s.performHbm c slot ck floor who a key
  | (s, .ok (.window key)) => s.performWin c ck who a key
  | (s, .ok (.host va)) =>
    match a.kind with
    | .atomic op ty _ _ | .reduction op ty _ => if hostAtomic op ty then s.performOut ck a none va else (s, .fault 0x100C (kind + 16 * op) a.va)
    | _ => s.performOut ck a none va
  | (s, .ok (.peer dev va)) => s.performOut ck a (some dev) va

/-! ### HOME_READ (R176, R179, R436, R437) -/

def State.modAccess (s : State) (k id : Nat) (f : Access → Access) : State :=
  s.modTeam k fun tm => { tm with accesses := tm.accesses.map fun a => if a.id = id then f a else a }

/-- A completion time, or what a peer has yet to acknowledge, joins the threads of an access (R183, R187, R189). -/
def Team.accJoin (tm : Team) (a : Access) (t : Nat) (peer : Bool) : Team :=
  let red := match a.kind with | .reduction .. => true | _ => false
  { tm with threads := a.dests.foldl (fun l d => l.modify d.thread fun th =>
      { th with horizon := max th.horizon t, peerOut := th.peerOut + if peer then 1 else 0, redOut := th.redOut || (peer && red) }) tm.threads }

/-- A store or reduction has been performed: it leaves the list, and its completion time joins the horizons of its threads (R183). -/
def State.accDone (s : State) (k : Nat) (a : Access) (t : Nat) (peer : Bool) : State :=
  s.modTeam k fun tm => { tm.accJoin a t peer with accesses := tm.accesses.filter fun x => x.id != a.id }

/-- The side-log entry of a thread of an access (R437). -/
def State.sideEntry (s : State) (ck grid index team thread : Nat) (a : Access) : SideEntry :=
  let (red, op, v) : Bool × Nat × Nat := match a.kind with | .reduction op _ b => (true, op, b) | .store v => (false, 0, v) | _ => (false, 0, 0)
  { id := a.id, gen := s.gen ck, index, batch := a.batch, pc := a.pc, word := a.word, grid, red, size := a.size, aop := op, ty := a.ty, ord := if a.rel then 2 else 0, scope := a.scope, ctx := ck, team, thread
    va := a.va, data := v }

/-- The side-log entries of an access, one for each of its threads, with that thread's own operand (R437). -/
def State.entriesOf (s : State) (ck grid index team : Nat) (a : Access) : List SideEntry :=
  a.dests.zipIdx.map fun (d, i) =>
    let e := s.sideEntry ck grid index team d.thread a
    { e with id := a.id + i, data := d.before.getD e.data }

/-- Discards a side-log entry (R440). -/
def State.discardEntry (s : State) (c : Nat) (e : SideEntry) : State :=
  let w0 := e.gen % 256 * 2 ^ 24 + (if e.red then 2 else 1) * 2 ^ 22 + Nat.log2 e.size * 2 ^ 19 + e.aop * 2 ^ 16 + e.ty * 2 ^ 11 + e.ord * 2 ^ 9 + e.scope * 2 ^ 7
  let r : Rec := { code := 0x1070, src := 0, col := c, slot := e.team % 32, thread := e.thread, addr := e.va, pc := e.pc, word := e.word
                   team := e.index
                   info := w0 / 256 * 256 + if e.red then kRed else kStore }
  s.report e.ctx r

/-- The thread that the record of an access names: the first of its destinations (R422). -/
def Access.thread (a : Access) : Nat := (a.dests.headD { thread := 0, reg := 0, cnt := 0, flag := none }).thread

/-- An access leaves its team's list. -/
def State.dropAccess (s : State) (k id : Nat) : State := s.modTeam k fun tm => { tm with accesses := tm.accesses.filter fun x => x.id != id }

/-- What a repairable fault does to an access on its way (R436): a load or atomic is held, and a store or reduction moves into the side log, or, with the
log full, is held. -/
def State.suspend (s : State) (k : Nat) (tm : Team) (a : Access) : State :=
  let hold := s.modAccess k a.id fun x => { x with state := .held }
  if a.kind.code = kStore ∨ a.kind.code = kRed then
    ((s.dropAccess k a.id).sideLogs (teamCol k) (s.entriesOf (s.teamCtx tm) tm.grid tm.index k a)).getD hold
  else hold

/-- A fault of an access that is being performed: a freeze fault freezes the team, and the access stays held for its release; a repairable one suspends the
access (R435 to R437, R442). A freeze fault of an entry's replay discards it (R440). CODE 0: it waits for a
translation where it is; CODE 1: it is suspended without a record (R165, R443). -/
def State.accFault (s : State) (k : Nat) (tm : Team) (a : Access) (code info va : Nat) : State :=
  let r := teamRec k tm { code, src := 0, thread := a.thread, pc := a.pc, word := a.word, addr := va, info }
  let ck := s.teamCtx tm
  if code = 0 then s
  else if code = 1 then s.suspend k tm a
  else if freezeFate code then
    let s := s.report ck r
    let s := if a.logged then (s.dropAccess k a.id).discardEntry (teamCol k) (s.sideEntry ck tm.grid tm.index k a.thread a)
      else s.modAccess k a.id fun x => { x with state := .held }
    (s.freezeTeam k code).settle k
  else (s.reportOnce ck none a.kind.code r).suspend k tm a

/-- Whether an earlier access holds one back at its location: of one of its threads (R190), of a lane before it in its word (R330), or, of a thread
whose stores of the 64 KiB region are being replayed, a replay (R438, R439). -/
def State.holdsBack (s : State) (c ck : Nat) (a b : Access) : Bool :=
  let shared := a.dests.any fun d => b.of d.thread
  decide (b.id < a.id) && b.state != .ready
    && ((shared && b.logged && b.va / 2 ^ 16 == a.va / 2 ^ 16) || ((shared || (a.batch.isSome && a.batch == b.batch)) && s.meets c ck b a.va a.size))

/-- Whether an access may be performed now. -/
def State.mayPerform (s : State) (c : Nat) (tm : Team) (a : Access) : Bool :=
  a.state == .sent && (!a.global || tm.accesses.all fun b => !b.global || !s.holdsBack c (s.teamCtx tm) a b)

/-- The lower part of a 16-byte access has been performed (R177). -/
def State.halfDone (s : State) (k : Nat) (a : Access) (p : Perf) : State :=
  match p with
  | .value v t => s.modAccess k a.id fun x => { x with half := true, value := v, t }
  | .peer => (s.modTeam k fun tm => tm.accJoin a 0 true).modAccess k a.id fun x => { x with half := true }
  | .home t | .done t => (s.modTeam k fun tm => tm.accJoin a t false).modAccess k a.id fun x => { x with half := true }
  | _ => s

/-- Performs an access of a team, or a part of it: the state, and whether it went on its way. -/
def State.performAccess (s : State) (k : Nat) (tm : Team) (a : Access) : State × Bool :=
  let lower := a.size == 16 && !a.half
  let (s, p) := match a.kind with
    | .window mem => s.performMember k tm a.part mem
    | _ => s.performAt (teamCol k) (teamSlot k) (s.teamCtx tm) (a.dests.foldl (fun f (d : Dest) => max f (tm.thread d.thread).floor) 0) (s.teamPriv tm) (if lower then none else some (k, a.id)) a.part
  match p with
  | .wait => (s, false)
  | .fault code info va => (s.accFault k tm a code info va, false)
  | p =>
    if lower then (s.halfDone k a p, false)
    else
      match p with
      | .value v t => (s.modAccess k a.id fun x => { x with state := .ready, value := if a.half then a.value + 2 ^ 64 * v else v, t := max x.t t }, true)
      | .home t => (s.modAccess k a.id fun x => { x with state := .atHome, t }, true)
      | .done t => (s.accDone k a t false, true)
      | .peer => (s.accDone k a 0 true, true)
      | _ => (s, false)

/-- The accesses that take their places together with one: the compares of a word at one address, in the order of their lanes (R340, R341). -/
def Team.lanesOf (tm : Team) (a : Access) : List Access :=
  match a.kind with
  | .atomic 7 .. => if a.batch.isNone then [a] else tm.accesses.filter fun b => b.batch == a.batch && b.va == a.va
  | _ => [a]

/-- Whether an access may be performed with those that take their places together with it (R341). -/
def State.mayLanes (s : State) (k : Nat) (tm : Team) (a : Access) : Bool :=
  let l := tm.lanesOf a
  l.all fun b => s.mayPerform (teamCol k) { tm with accesses := tm.accesses.filter fun b => !l.any fun x => x.id == b.id } b

/-- Performs an access of a team with those that take their places together with it (R341): the state, and whether they went on their way. -/
def State.performLanes (s : State) (k : Nat) (tm : Team) (a : Access) : State × Bool :=
  (tm.lanesOf a).foldl (fun p b => let (s, ok) := p.1.performAccess k tm b; (s, p.2 && ok)) (s, true)

/-- Whether an access belongs to a counted acquire that has not been granted (R476): it is performed when the acquire is granted. -/
def State.gated (s : State) (tm : Team) (a : Access) : Bool := a.acq && a.scope == 3 && s.counted (s.teamCtx tm)

/-- The accesses of a retired team that take their places together with one (R341). -/
def Column.lanesOf (x : Column) (o : Orphan) : List Orphan :=
  match o.acc.kind with
  | .atomic 7 .. =>
    if o.acc.batch.isNone then [o]
    else x.orphans.filter fun p => p.grid == o.grid && p.index == o.index && p.acc.batch == o.acc.batch && p.acc.va == o.acc.va
  | _ => [o]

/-- Whether an access of a retired team may be performed: its release is complete, and no earlier one of its thread to the location remains, but those of
`with_`. -/
def State.orphanReady (s : State) (c : Nat) (with_ : List Orphan) (o : Orphan) : Bool :=
  let mine (p : Orphan) : Bool := p.grid == o.grid && p.index == o.index && decide (p.acc.id < o.acc.id)
    && o.acc.dests.any fun d => p.acc.of d.thread
  let older := (s.col c).orphans.filter mine
  let logged (e : SideEntry) : Bool := e.grid == o.grid && e.index == o.index && decide (e.id < o.acc.id) && o.acc.of e.thread
  match o.acc.state with
  | .unreleased => older.isEmpty && !(s.col c).sideLog.any logged && decide (o.horizon + 2 ≤ s.dt)
      && (o.acc.scope != 3 || (match sfind s.grids o.grid with | some g => g.peerOut == 0 | none => true))
  | .sent => (s.col c).orphans.all fun p => (with_.any fun q => q.acc.id == p.acc.id) ||
      !(p.grid == o.grid && p.index == o.index) || !p.acc.global || !s.holdsBack c o.ctx o.acc p.acc
  | _ => false

/-- The line that a plain store of a retired team writes in the column cache. -/
def State.orphanLine (s : State) (c : Nat) (o : Orphan) : Option Nat :=
  match o.acc.kind with
  | .store _ => if o.acc.scope = 3 then none else (s.keyOf (some c) o.ctx o.acc.part.va).bind fun key => if key < winAt 0 then some (key / 128) else none
  | _ => none

/-- Performs an access of a retired team (R106, R269): it has full effect, and delivers nothing. Its completion time joins the grid's, and a line it
writes in the column cache is written back at once, so that the grid's release covers it (R97). -/
def State.performOrphan (s : State) (c : Nat) (o : Orphan) : State :=
  let rest (s : State) : State := s.modCol c fun x => { x with orphans := x.orphans.filter fun p => p.acc.id != o.acc.id }
  let t0 := o.acc.thread
  let half (s : State) : State := s.modCol c fun x => { x with orphans := x.orphans.map fun p =>
    if p.acc.id = o.acc.id then { p with acc := { p.acc with half := true } } else p }
  let done (s : State) (t : Nat) (peer : Bool) : State :=
    let (s, u) := match s.orphanLine c o with | some line => s.writeBack c line none true | none => (s, 0)
    let t := max t u
    let s := (if o.acc.size == 16 && !o.acc.half then half s else rest s).modGrid o.grid fun g =>
      { g with horizon := max g.horizon t, peerOut := g.peerOut + if peer then 1 else 0 }
    s.modCol c fun x => { x with orphans := x.orphans.map fun p =>
      if p.grid = o.grid ∧ p.index = o.index then { p with horizon := max p.horizon t } else p }
  if (match s.orphanLine c o with | some line => s.lineHeld line | none => false) then s else
  let (s, p) := s.performAt c o.slot o.ctx 0 o.priv none o.acc.part
  match p with
  | .wait => s
  | .value _ t | .home t | .done t => done s t false
  | .peer => done s 0 true
  | .fault code info va =>
    let r : Rec := { code, src := 0, col := c, slot := o.slot, thread := t0, team := o.index, pc := o.acc.pc, word := o.acc.word, addr := va, info }
    let hold (s : State) : State := s.modCol c fun x =>
      { x with orphans := x.orphans.map fun p => if p.acc.id = o.acc.id then { p with acc := { p.acc with state := .held } } else p }
    if code = 0 then s
    else if freezeFate code then
      let s := rest (s.report o.ctx r)
      if o.acc.logged then s.discardEntry c (s.sideEntry o.ctx o.grid o.index (noTeam + teamKey c o.slot) t0 o.acc) else s
    else
      let s := if code = 1 then s else s.reportOnce o.ctx none o.acc.kind.code r
      match o.acc.kind with
      | .store _ | .reduction .. =>
        ((rest s).sideLogs c (s.entriesOf o.ctx o.grid o.index (noTeam + teamKey c o.slot) o.acc)).getD (hold s)
      | _ => hold s

/-- The stretches that a demand access of a team takes to its home, and its answer back (R64): none of a team that no core executes. -/
def Team.outPath (tm : Team) : Path := match tm.layer? with | some l => [(l, 0)] | none => []
def Team.backPath (tm : Team) : Path := match tm.layer? with | some l => [(0, l)] | none => []

/-- HOME_READ (R176, R179): an access on its way is performed where R176 says: at its home, with a lease for a load that misses, in a member's
column store, at the host or at a peer. `entry` is the access's number. A realignment of its way down pauses it (R80). -/
def execHomeRead (col slot entry : Nat) (s : State) : Host.Outcome State Fault Refusal :=
  let k := teamKey col slot
  .next (match (s.col col).orphans.find? fun o => o.acc.id == entry with
    | some o =>
      let l := (s.col col).lanesOf o
      if l.all fun p => s.orphanReady col l p then l.foldl (fun s p => s.performOrphan col p) s else s
    | none =>
      match s.team? k with
      | none => s
      | some tm =>
        match tm.accesses.find? fun a => a.id == entry && a.kind != .gather with
        | some a =>
          if s.gated tm a || s.pathHeld col tm.outPath true || !s.mayLanes k tm a then s
          else ((s.demand col tm.outPath).performLanes k tm a).1
        | none => s)

/-- HOME_WRITE_APPLY (R182): the waiting writes of a line whose completion time has come are applied at its home. -/
def execHomeWriteApply (line : Nat) (s : State) : Host.Outcome State Fault Refusal := .next (s.applyDue line)

/-! ### Releases and holds (R187 to R191, R335) -/

/-- Moves the first access of a thread that the load-store unit holds one step on: its release starts, or, complete, lets it leave (R335). -/
def State.releaseStep (s : State) (k t : Nat) : State :=
  match (s.team? k).bind fun tm => tm.accesses.find? fun a => a.state == .unreleased && a.of t with
  | none => s
  | some a =>
    let ts := a.dests.map Dest.thread
    if a.started = false then
      if s.canRelease k a.scope && ts.all fun u => s.teamReleased k u a.id then
        (ts.foldl (fun s u => s.startRelease k u a.scope) s).modAccess k a.id fun x => { x with started := true }
      else s
    else if ts.all fun u => s.released k u a.scope a.id then s.modAccess k a.id fun x => { x with state := .sent }
    else s

/-- Whether what a hold's acquire waits for has returned: its access, or, of a FENCE, every earlier load and atomic (R191). -/
def Team.acquireReady (tm : Team) (t : Nat) (h : Hold) (now : Nat) : Bool :=
  match h.access with
  | some id => tm.accesses.all fun a => a.id != id
  | none =>
    if h.returned then true
    else if h.prm then decide ((tm.thread t).horizon + 2 ≤ now) && (h.scope != 3 || (tm.thread t).peerOut == 0)
    else tm.accesses.all fun a => !a.of t || (match a.kind with | .store _ | .reduction .. => true | _ => false)

/-- Whether a hold's acquire is a counted one (R476). -/
def State.countedHold (s : State) (tm : Team) (h : Hold) : Bool := h.acq && h.scope == 3 && !h.prm && s.counted (s.teamCtx tm)

/-- Moves a thread's hold one step on: the release starts, the release completes, the acquire completes (R188, R191, R196, R336). -/
def State.holdStep (s : State) (k t : Nat) : State :=
  match s.team? k with
  | none => s
  | some tm =>
    match (tm.thread t).hold with
    | none => s
    | some h =>
      let set (s : State) (h : Option Hold) : State := s.modThread k t fun th => { th with hold := h }
      if h.rel then
        if h.started = false then
          if s.canRelease k h.scope && s.teamReleased k t s.idNext then set (s.startRelease k t h.scope) (some { h with started := true }) else s
        else if s.released k t h.scope s.idNext then set s (if h.acq then some { h with rel := false } else none)
        else s
      else if tm.acquireReady t h s.dt && (!s.countedHold tm h || h.granted) then
        s.modThread k t fun th => { th.acquire h.scope s.dt with hold := none }
      else s

/-- HORIZON_WAIT_END (R183, R335): releases of a thread, and its hold, go as far as the horizon lets them. -/
def execHorizonWaitEnd (col slot thread : Nat) (s : State) : Host.Outcome State Fault Refusal :=
  let k := teamKey col slot
  .next ((s.releaseStep k thread).holdStep k thread)

/-- Grants counted acquires one at a time, each with its capture record (R475, R476). -/
def State.grantAcquires (s : State) (ck addr : Nat) : Nat → Option State
  | 0 => some s
  | n + 1 =>
    match s.countAcquire ck with
    | none => none
    | some s => State.grantAcquires (s.capture 5 ck addr 0 0 s.acqn []) ck addr n

/-- COUNTED_ACQUIRE_GRANT (R476, R477): the counted acquire of a thread's hold is granted; its access is performed with it, and those of the lanes that take
their places together with it (R341). -/
def execCountedAcquireGrant (col slot thread : Nat) (s : State) : Host.Outcome State Fault Refusal :=
  let k := teamKey col slot
  .next (match s.team? k with
    | none => s
    | some tm =>
      let ck := s.teamCtx tm
      match (tm.thread thread).hold with
      | none => s
      | some h =>
        if !s.countedHold tm h || h.granted || h.rel then s
        else
          match h.access with
          | none =>
            if tm.acquireReady thread h s.dt then
              (match s.grantAcquires ck 0 1 with
               | some s => s.modThread k thread fun th => { th with hold := some { h with granted := true } }
               | none => s)
            else s
          | some id =>
            match tm.accesses.find? fun a => a.id == id with
            | none => s
            | some a =>
              let l := tm.lanesOf a
              if s.pathHeld col tm.outPath true || !s.mayLanes k tm a then s
              else
                match s.grantAcquires ck a.va (l.map fun b => b.dests.length).sum with
                | none => s
                | some g =>
                  match g.performLanes k tm a with
                  | (g, true) =>
                    g.modThreads k (l.flatMap fun b => b.dests.map Dest.thread) fun th => { th with hold := th.hold.map fun h => { h with granted := true } }
                  | (_, false) => (s.performLanes k tm a).1)

/-- An acknowledgement reaches a thread, and the time of its receipt joins its horizon. One that the return router forwards counts among the demand bytes of the
stake bus (R75, R79). -/
def Thread.acknowledge (th : Thread) (now : Nat) : Thread :=
  { th with peerOut := th.peerOut - 1, redOut := th.redOut && th.peerOut != 1, routedPeer := th.routedPeer - 1, horizon := max th.horizon now }

/-- The stretches of the stake bus that a forwarded return takes (R75): to the core a team moves to, or has moved to. -/
def Team.returnPath (tm : Team) : Path :=
  match tm.place with
  | .moving a b => [(a, b)]
  | .core l => demandPath l
  | .parked => []

/-- PEER_ACKNOWLEDGEMENT (R189, R195): an acknowledgement arrives, and the time of its receipt joins the requester's horizon: that of a thread's access, of
an engine request it issued, of a write of the S4's own, or, of a retired requester, the grid's. Those of a thread count as answering its reductions last.
DEDUCED: those of a thread that was moved are taken in the order of their accesses, so that the ones that the return router forwards come first; a realignment
of their way pauses them (R75, R80). -/
def execPeerAcknowledgement (col slot thread : Nat) (s : State) : Host.Outcome State Fault Refusal :=
  let k := teamKey col slot
  .next (match (s.team? k).map fun tm => (tm, (tm.thread thread).peerOut) with
    | some (tm, _ + 1) =>
      if (tm.thread thread).routedPeer = 0 then s.modThread k thread fun th => th.acknowledge s.dt
      else if s.pathHeld col tm.returnPath true then s
      else (s.demand col tm.returnPath).modTeam k fun tm =>
        { tm.modThread thread (fun th => th.acknowledge s.dt) with
          counters := { tm.counters with stakeBytes := (tm.counters.stakeBytes + 256) % 2 ^ 64 } }
    | _ =>
      match s.reqs.find? fun r => r.team == k && r.threads.contains thread && r.peerOut != 0 with
      | some r => { s with reqs := s.reqs.map fun (q : Req) => if q.id = r.id then { q with peerOut := q.peerOut - 1, t := max q.t s.dt } else q }
      | none =>
        match s.grids.find? fun g => g.2.peerOut != 0 with
        | some g => s.modGrid g.1 fun g => { g with peerOut := g.peerOut - 1, horizon := max g.horizon s.dt }
        | none =>
          match s.puts.find? fun p => p.peerOut != 0 with
          | some p => s.modPut p.id fun p => { p with peerOut := p.peerOut - 1, t := max p.t s.dt }
          | none => s)

/-! ### Delivery (R73, R75, R119, R235, R340) -/

/-- Writes the result of a returned access into its registers; each flag falls by one. -/
def Team.deliverAll (tm : Team) (a : Access) : Team :=
  let v (d : Dest) : Nat :=
    match a.kind, d.before with
    | .atomic op ty _ _, some q => aopApply op ty a.value q 0
    | .atomic .., none => a.value
    | _, _ => loadVal a.ty a.value
  let put (tm : Team) (d : Dest) : Team :=
    (tm.putRegs d.thread d.reg (v d) d.cnt).modThread d.thread fun th => { th.dropFlag? d.flag with horizon := max th.horizon a.t }
  a.dests.foldl put { tm with accesses := tm.accesses.filter fun x => x.id != a.id }

/-- A returned result is written to its registers, and its flag falls, from its completion time on (R182, R342). A result of poisoned data writes nothing, and
freezes the team (R448). -/
def State.deliver (s : State) (k id : Nat) : State :=
  match s.team? k with
  | none => s
  | some tm =>
    match tm.accesses.find? fun a => a.id == id && a.state == .ready && decide (a.t ≤ s.dt) with
    | none => s
    | some a =>
      if a.poison then (s.modAccess k a.id fun x => { x with poison := false }).accFault k tm a 0x1040 a.kind.code a.va
      else s.setTeam k (tm.deliverAll a)

/-- PENDING_WRITE_DELIVERY (R75, R119, R235): a returned result is written to its registers, wherever the team then is; one that the return router has to
forward waits for that, one forwarded during the move for its end, and any for the end of a realignment of its way up (R80). `entry` is the access's number. -/
def execPendingWriteDelivery (col slot entry : Nat) (s : State) : Host.Outcome State Fault Refusal :=
  let k := teamKey col slot
  .next (match s.team? k with
    | none => s
    | some tm =>
      match tm.accesses.find? fun a => a.id == entry && a.state == .ready with
      | none => s
      | some a =>
        if a.routed || (a.forwarded && tm.layer?.isNone) || s.pathHeld col tm.backPath true then s else (s.demand col tm.backPath).deliver k a.id)

/-! ### The column cache (R140, R180, R184) -/

/-- COLUMN_CACHE_WRITE_BACK (R184): a line is evicted; its dirty bytes go to its home, unless an engine owns it there or it is moving. -/
def execColumnCacheWriteBack (col line : Nat) (s : State) : Host.Outcome State Fault Refusal :=
  .next (if (s.cline col line).dirty ≠ [] ∧ s.lineHeld line = true then s else s.evict col line)

/-- WRITE_BACK_BUFFER_RELEASE (R184): an evicted line leaves the write-back buffer from T + 2. -/
def execWriteBackBufferRelease (col line : Nat) (s : State) : Host.Outcome State Fault Refusal :=
  .next (s.modCol col fun x => { x with wbuf := x.wbuf.filter fun e => e.1 != line || decide (s.dt < e.2.2 + 2) })

/-- LEASECFG_WRITE (R180): LMAX takes a value from 5 to 9; another is ignored. -/
def execLeasecfgWrite (v : Word) (s : State) : Host.Outcome State Fault Refusal :=
  .next (if 5 ≤ bits v 3 0 ∧ bits v 3 0 ≤ 9 then s.rset (key0 0 0x150000) (nw (bits v 3 0)) else s)

end Sys2Proof.Machine
end

