-- ==== Sys2Proof/Machine/Migrate.lean ====
section
/-! DEFINITION. The migration governor and migrations (R65 to R79), realignment and background testing of the stake bus (R80 to R85, R453 to R457), wear
(R469, R470), and the fatal state (R408). -/

namespace Sys2Proof.Machine

/-! ### Fatal errors (R408, R418) -/

/-- The contexts whose fault buffer is enabled. -/
def State.enabledBuffers (s : State) : List Nat :=
  s.csr.filterMap fun (p : Nat × Word) =>
    let o := p.1 % 2 ^ 32
    if 2 ^ 28 ≤ o ∧ o < 2 ^ 28 + 0x4000 ∧ o % 64 = 0 ∧ p.2.getLsbD 0 = true then some (ctxKey (p.1 / 2 ^ 32) ((o - 2 ^ 28) / 64)) else none

/-- A fatal error (R408, R418, R452): FAT and, for the first, FCAUSE; vector 49 of every function; a record in every enabled fault buffer. -/
def State.goFatal (s : State) (code src : Nat) : State :=
  let s := if s.rbits (kEr 0) 31 31 = 1 then s else s.rset (kEr 0) (nw (2 ^ 31 + code % 256))
  let s := (List.range 9).foldl (fun s fn => s.raiseMsix fn 49) s
  let s := s.enabledBuffers.foldl (fun s ck => s.report ck { code, cls := 3, src }) s
  { s with fatal := true }

/-! ### Giving a migration up, and wear (R469 to R471) -/

/-- Gives a migration up: halted bundles resume in place, and a directed move is missed (R72 step 3, R457). -/
def State.abandonMigration (s : State) (c : Nat) : State :=
  match (s.col c).migration with
  | none => s
  | some m =>
    let k := teamKey c m.slot
    match s.team? k with
    | none => s.modCol c fun x => { x with migration := none }
    | some tm =>
      match tm.place with
      | .moving _ _ => s
      | _ =>
        let s := s.modCol c fun x => { x with migration := none }
        let held := (match sfind s.grids tm.grid with | some g => g.halted | none => false) || tm.freezing.isSome
        let s := s.modTeam k fun tm => { tm with halting := held, migFrom := none, still := false }
        (if m.directed then s.dmEnd c 3 else s).settle k

/-- Closes a core to placement and evacuates it (R70, R457, R464, R470): a migration to it whose first flit has not gone is abandoned. -/
def State.closeCore (s : State) (c l : Nat) : State :=
  let s := s.modCol c fun x =>
    { x with closed := if x.closed.contains l then x.closed else x.closed ++ [l], evac := if x.evac.contains l then x.evac else x.evac ++ [l] }
  match (s.col c).migration with
  | some m => if m.dst = l then s.abandonMigration c else s
  | none => s

/-- Posts what R470 posts for a worn part: SPARE_INVOKED where a spare is left, else a FAULT event. -/
def State.reportWorn (s : State) (kind index : Nat) (worn : List Nat) (spare : Bool) : State :=
  if spare then s.pfEvent 7 [nw kind, nw (Config.spare kind worn)]
  else
    let (s, w) := s.free
    s.pfFault { code := 0x2051, cls := 0, src := w.toNat % 12, info := kind + 2 ^ 8 * index }

/-- A column site is worn, by the core of layer `l` (R469, R470): the core closes until reset, and the site is marked. -/
def State.wearSite (s : State) (c l : Nat) : State :=
  let w := s.worn
  if s.ncol ≤ c then s
  else
    let p := s.siteOf c
    let s := (s.modCol c fun x => { x with wornCores := if x.wornCores.contains l then x.wornCores else l :: x.wornCores }).closeCore c l
    if w.wornSites.contains p then s
    else { s with worn := { w with wornSites := p :: w.wornSites } }.reportWorn 0 p (p :: w.wornSites) (decide (s.ncol + w.wornSites.length < 56))

/-- A physical slice is worn. NXCFG and the wear registers follow from the marks (R471). -/
def State.wearSlice (s : State) (i : Nat) : State :=
  let w := s.worn
  if 136 ≤ i ∨ w.wornSlices.contains i then s
  else { s with worn := { w with wornSlices := i :: w.wornSlices } }.reportWorn 1 i (i :: w.wornSlices) (decide (s.nslc + w.wornSlices.length < 136))

/-- A stack is worn. -/
def State.wearStack (s : State) (i : Nat) : State :=
  let w := s.worn
  if 8 ≤ i ∨ w.wornStacks.contains i then s
  else { s with worn := { w with wornStacks := i :: w.wornStacks } }.reportWorn 3 i (i :: w.wornStacks) false

/-! ### Lane groups of the stake bus (R63, R453 to R456) -/

/-- Disables a lane group (R455). A direction with fewer than 28 that work marks the site worn (R469), and the last of a direction is fatal (R456). DESIGN
CHOICE: the core concerned is that of the layer above the boundary; R469 does not say which of the column's it is. -/
def State.disableLane (s : State) (c b d g : Nat) : State :=
  let works (i : Nat) : Bool := !(s.lane (s.laneKey c b d i)).disabled && i != g
  let n := ((List.range 32).filter works).length
  let s := s.countError 4
  let s := if n < 28 then s.wearSite c (b + 1) else s
  let s := s.setLane (s.laneKey c b d g) { s.lane (s.laneKey c b d g) with disabled := true, remap := [] }
  if n = 0 then s.goFatal 0x20F1 10 else s

/-- A signal is remapped to a spare of its lane group, and SPARE_INVOKED is posted; with no spare left the group is disabled (R453 to R455). -/
def State.remapLane (s : State) (c b d g signal : Nat) : State :=
  let k := s.laneKey c b d g
  let x := s.lane k
  if x.disabled then s
  else if x.spares = 0 then s.disableLane c b d g
  else
    (s.setLane k { x with spares := x.spares - 1, remap := x.remap.filter fun i => i != signal, failed := x.failed.filter fun f => f.1 != signal }).pfEvent 7
      [2, nw k]

/-- Whether a transfer is in flight in a direction of a boundary: a team on its way, or a copy engine stream that has begun (R64). -/
def State.transferIn (s : State) (c b d : Nat) : Bool :=
  ((s.teamsOf c).any fun p => match p.2.place with | .moving x y => (movePath x y).crosses b d | _ => false)
    || s.reqs.any fun r => r.col == c && r.streaming && r.path.crosses b d

/-- Begins a scheduled realignment: the signals that wait for their remap are remapped (R454). DESIGN CHOICE: R80 does not say whether the 10 ms to the group's
next one run from the start or from the end of the last; here they run from its start, with those of a realignment that R453 makes at once. -/
def State.beginRealign (s : State) (o : StakeOp) : State :=
  let k := s.laneKey o.col o.boundary o.direction o.group
  let s := s.setLane k { s.lane k with aligned := some s.dt }
  let s := { s with stakeOps := s.stakeOps.map fun x => if x = o then { x with running := true, at_ := s.dt } else x }
  (s.lane k).remap.foldl (fun s i => s.remapLane o.col o.boundary o.direction o.group i) s

/-- Whether a lane group may fall due now: 10 ms after its last realignment, and 312.5 µs after the last of its direction fell due (R80). -/
def State.mayFallDue (s : State) (c b d g : Nat) : Bool :=
  (match (s.lane (s.laneKey c b d g)).aligned with | some t => decide (t + 10000000 ≤ s.dt) | none => true)
    && (match sfind s.dueAt (s.laneKey c b d 0) with | some t => decide (t + 312500 ≤ s.dt) | none => true)

/-- REALIGNMENT_DUE (R80, R81): a lane group falls due; with the direction idle it realigns at once. -/
def execRealignmentDue (col boundary direction group : Nat) (s : State) : Host.Outcome State Fault Refusal :=
  .next (if s.ncol ≤ col ∨ 4 ≤ boundary ∨ 2 ≤ direction ∨ 32 ≤ group ∨ (s.lane (s.laneKey col boundary direction group)).disabled = true
      ∨ s.mayFallDue col boundary direction group = false
      ∨ s.stakeOps.any (fun o => !o.test && o.col == col && o.boundary == boundary && o.direction == direction && o.group == group) = true then s
    else
      let s := match s.testOp with
        | some o => if o.col == col && o.boundary == boundary && o.direction == direction && o.group == group then s.relinquish o else s
        | none => s
      let o : StakeOp := { col, boundary, direction, group, at_ := s.dt, running := false }
      let s := { s with stakeOps := s.stakeOps ++ [o], dueAt := sins s.dueAt (s.laneKey col boundary direction 0) s.dt }
      if s.transferIn col boundary direction || s.stakeOps.any fun x => !x.test && x.running && x.col == col && x.boundary == boundary && x.direction == direction
      then s else s.beginRealign o)

/-- The oldest realignment of a direction that is due and has not started. -/
def State.dueOp (s : State) (c b d : Nat) : Option StakeOp :=
  s.stakeOps.find? fun o => !o.test && !o.running && o.col == c && o.boundary == b && o.direction == d

/-- The realignment a direction undergoes. -/
def State.runningOp (s : State) (c b d : Nat) : Option StakeOp :=
  s.stakeOps.find? fun o => !o.test && o.running && o.col == c && o.boundary == b && o.direction == d

/-- REALIGNMENT_START (R81): no transfer is in flight in the direction. -/
def execRealignmentStart (col boundary direction : Nat) (s : State) : Host.Outcome State Fault Refusal :=
  .next (match s.dueOp col boundary direction with
    | some o => if s.transferIn col boundary direction || (s.runningOp col boundary direction).isSome then s else s.beginRealign o
    | none => s)

/-- REALIGNMENT_FORCED (R81): 40 µs after the due time, transfers pause at their next flit. -/
def execRealignmentForced (col boundary direction : Nat) (s : State) : Host.Outcome State Fault Refusal :=
  .next (match s.dueOp col boundary direction with
    | some o => if o.at_ + 40000 ≤ s.dt ∧ (s.runningOp col boundary direction).isNone = true then s.beginRealign o else s
    | none => s)

/-- REALIGNMENT_END (R80, R81, R455): after 2 µs it ends; one that has not locked is tried again, up to three times. DEDUCED: the third failure that disables
the lane group is the third of a retry, since the bounds of R82 grow by three times 2 µs. -/
def execRealignmentEnd (col boundary direction : Nat) (locked : Bool) (s : State) : Host.Outcome State Fault Refusal :=
  .next (match s.runningOp col boundary direction with
    | none => s
    | some o =>
      if s.dt < o.at_ + 2000 then s
      else
        let k := s.laneKey col boundary direction o.group
        let x := s.lane k
        let drop (s : State) : State := { s with stakeOps := s.stakeOps.filter fun y => y != o }
        if locked then drop (s.setLane k { x with fails := 0 })
        else if 3 ≤ x.fails then (drop (s.setLane k { x with fails := 0 })).disableLane col boundary direction o.group
        else
          { s.setLane k { x with fails := x.fails + 1 } with
            stakeOps := s.stakeOps.map fun y => if y = o then { y with at_ := s.dt } else y })

/-- STAKE_PARITY_REPLAY (R453): a flit that a signal has failed on is replayed and counted; a signal that has failed on 4 flits within 1 µs is remapped in a
realignment made at once, outside the schedule. -/
def execStakeParityReplay (col boundary direction group signal : Nat) (s : State) : Host.Outcome State Fault Refusal :=
  .next (if s.ncol ≤ col ∨ 4 ≤ boundary ∨ 2 ≤ direction ∨ 32 ≤ group then s
    else
      let s := s.countError 4
      let k := s.laneKey col boundary direction group
      let x := s.lane k
      let failed := (signal, s.dt) :: x.failed.filter fun f => decide (s.dt ≤ f.2 + 1000)
      if x.disabled then s
      else if (failed.filter fun f => f.1 == signal).length < 4 then s.setLane k { x with failed }
      else
        let here (o : StakeOp) : Bool := o.col == col && o.boundary == boundary && o.direction == direction && o.group == group
        let s := match s.testOp with | some o => if here o then s.relinquish o else s | none => s
        let s := s.remapLane col boundary direction group signal
        let y := s.lane k
        if y.disabled then s
        else
          let op : StakeOp := { col, boundary, direction, group, at_ := s.dt, running := true }
          { s.setLane k { y with aligned := some s.dt } with stakeOps := (s.stakeOps.filter fun o => !here o) ++ [op] })

/-- Whether a lane group may be quiesced for its test now: not within 10 µs of the last time, and after 64 interruptions in a row only once its boundary
has been idle for 4096 cycles (R84). -/
def State.mayTest (s : State) (c b d g : Nat) : Bool :=
  let x := s.lane (s.laneKey c b d g)
  decide (x.quietAt ≤ s.dt)
    && (decide (x.tries < 64) || (!s.transferIn c b 0 && !s.transferIn c b 1
      && match sfind s.busyAt (4 * c + b) with | some t => decide (t + 4096 ≤ s.cyc) | none => true))

/-- BACKGROUND_TEST_START (R83, R84): a lane group that is neither due nor realigning, in a direction that no transfer uses, is quiesced. -/
def execBackgroundTestStart (col boundary direction group : Nat) (s : State) : Host.Outcome State Fault Refusal :=
  .next (if s.ncol ≤ col ∨ 4 ≤ boundary ∨ 2 ≤ direction ∨ 32 ≤ group ∨ s.testOp.isSome = true ∨ s.mayTest col boundary direction group = false
      ∨ s.transferIn col boundary direction = true ∨ (s.lane (s.laneKey col boundary direction group)).disabled = true
      ∨ s.stakeOps.any (fun o => o.col == col && o.boundary == boundary && o.direction == direction && o.group == group) = true then s
    else { s with stakeOps := s.stakeOps ++ [{ col, boundary, direction, group, at_ := s.dt, running := true, test := true }] })

/-- BACKGROUND_TEST_RELINQUISH (R84): traffic takes the lane group back; the run is tried again 10 µs later at the earliest. -/
def execBackgroundTestRelinquish (s : State) : Host.Outcome State Fault Refusal :=
  .next (match s.testOp with
    | none => s
    | some o => s.relinquish o)

/-- BACKGROUND_TEST_COMPLETE (R83, R454): after 4096 cycles; an open bond schedules a remap at the group's next scheduled realignment. Which signal has it is a
free value. -/
def execBackgroundTestComplete (openBond : Bool) (s : State) : Host.Outcome State Fault Refusal :=
  .next (match s.testOp with
    | none => s
    | some o =>
      if s.cyc < 2 * o.at_ + 4096 then s
      else
        let s := { s with stakeOps := s.stakeOps.filter fun o => !o.test }
        let k := s.laneKey o.col o.boundary o.direction o.group
        let x := { s.lane k with quietAt := o.at_ + 10000, tries := 0 }
        if openBond then
          let (s, v) := s.free
          s.setLane k { x with remap := if x.remap.contains v.toNat then x.remap else x.remap ++ [v.toNat] }
        else s.setLane k x)

/-! ### The governor (R65 to R71) -/

def State.thi (s : State) : Nat := s.rbits (key0 0 0x160000) 31 24
def State.tlo (s : State) : Nat := s.rbits (key0 0 0x160000) 23 16
def State.phi (s : State) : Nat := s.rbits (key0 0 0x160000) 15 8
def State.plo (s : State) : Nat := s.rbits (key0 0 0x160000) 7 0

/-- A layer's share of the column power estimate. -/
def Column.share (x : Column) (l : Nat) : Nat := x.power.getD (l - 1) 0

/-- Whether a team is ending: it hands over, one of its threads has executed RETS, or its last thread has exited (R69). -/
def Team.ending (tm : Team) : Bool :=
  tm.handover.isSome || (tm.threads.any fun th => !th.exited && th.wait.kind == .rets) || tm.threads.all fun th => th.exited

/-- Whether a team may be chosen for migration (R69): it executes, and is neither ending, parking, halting, being pre-empted nor frozen. -/
def State.movable (s : State) (tm : Team) : Bool :=
  tm.starts && !tm.ending && match sfind s.grids tm.grid with | some g => !g.halted | none => true

/-- The ERR bit of GOVRES (R389). -/
def State.govErr (s : State) : State := s.rsetBits (key0 0 0x160004) 31 31 1

/-- Starts a migration: the halt request reaches the source core (R72 step 1). -/
def State.startMigration (s : State) (k dst : Nat) (directed : Bool) : State :=
  let s := s.modCol (teamCol k) fun x => { x with migration := some { slot := teamSlot k, dst, directed } }
  s.modTeam k fun tm => { tm with halting := true, haltAt := s.cyc, migFrom := some (s.clock (teamCol k), s.dt), still := false }

/-- A free activity estimate for each team listed: the spec does not say how a team's activity is formed. -/
def State.activities (s : State) : List (Nat × Team) → State × List (Nat × Nat)
  | [] => (s, [])
  | p :: rest =>
    let (s, v) := s.free
    let (s, l) := State.activities s rest
    (s, (p.1, v.toNat) :: l)

/-- The team with the highest activity, the lower slot among equals (R67). -/
def State.mostActive (s : State) (ts : List (Nat × Team)) : State × Option Nat :=
  let (s, l) := s.activities ts
  (s, (l.find? fun p => l.all fun q => decide (q.2 < p.2) || (q.2 == p.2 && decide (p.1 ≤ q.1))).map Prod.fst)

/-- The target core of R67 for a team that leaves layer `l`; an evacuation leaves the thresholds out (R70). -/
def State.target (s : State) (c l k : Nat) (tm : Team) (evac : Bool) : Option Nat :=
  s.coolest c ([1, 2, 3, 4].filter fun x => x != l && s.coreRoom c x k tm
    && (evac || (decide (s.temp c x < s.tlo) && decide ((s.col c).share x < s.plo))))

/-- The teams of a core that may move; with `res`, only those that have served their minimum residence (R67). -/
def State.candidates_ (s : State) (c l : Nat) (res : Bool) : List (Nat × Team) :=
  (s.teamsOf c).filter fun p => p.2.layer? == some l && s.movable p.2
    && (!res || decide (p.2.since + 1000 * s.rbits (key0 0 0x160004) 15 0 ≤ s.dt))

/-- One evacuation step of a core (R70): its chosen team moves to a core with room, or is to be parked. -/
def State.evacuate (s : State) (c l : Nat) : State :=
  match s.mostActive (s.candidates_ c l false) with
  | (s, none) => s
  | (s, some k) =>
    match s.team? k with
    | none => s
    | some tm =>
      match s.target c l k tm true with
      | some d => s.startMigration k d false
      | none => s.modTeam k fun tm => { tm with parking := true, haltAt := s.cyc }

/-- Triggers a directed move (R71): missed without room, done on the same layer. DESIGN CHOICE: one that names a slot with no team, a team of another context,
or a team that R69 keeps from being chosen is reported missed; the spec does not say what becomes of it. -/
def State.dmTrigger (s : State) (c : Nat) : State :=
  let w := s.rget (kCol c 8)
  let k := teamKey c (bits w 20 16)
  match s.team? k with
  | none => s.dmEnd c 3
  | some tm =>
    if s.ctxId (s.teamCtx tm) ≠ bits w 11 0 then s.dmEnd c 3
    else if tm.layer? = some (bits w 25 24 + 1) then s.dmEnd c 2
    else if !s.movable tm || !s.coreRoom c (bits w 25 24 + 1) k tm then s.dmEnd c 3
    else s.startMigration k (bits w 25 24 + 1) true

/-- Whether a bundle of the team a directed move names stands at its header. DESIGN CHOICE: with no team in the slot the move triggers at once, and is reported
missed. -/
def State.dmReached (s : State) (c : Nat) : Bool :=
  let k := teamKey c (s.rbits (kCol c 8) 20 16)
  match s.team? k with
  | none => true
  | some tm => tm.bundles.any fun b => b.clause.isNone && s.dmStops k tm (tm.pcOf b)

/-- The number of evaluations in a row a layer's share has been at or above PHI (R66). -/
def Column.countHot (x : Column) (phi : Nat) : Column :=
  { x with hotRun := [1, 2, 3, 4].foldl (fun l i => sput 0 l i (if phi ≤ x.share i then sget 0 x.hotRun i + 1 else 0)) [] }

/-- The layers whose hot-spot or power trigger holds (R66). -/
def State.hotLayers (s : State) (c : Nat) : List Nat :=
  let x := s.col c
  [1, 2, 3, 4].filter fun l => decide (s.thi ≤ s.temp c l) || decide (4 ≤ sget 0 x.hotRun l)

/-- Starts a migration from the first of some layers that has an eligible team with a target (R67). -/
def State.coolLayers (s : State) (c : Nat) : List Nat → State
  | [] => s
  | l :: rest =>
    match s.mostActive (s.candidates_ c l true) with
    | (s, none) => State.coolLayers s c rest
    | (s, some k) =>
      match (s.team? k).bind fun tm => s.target c l k tm false with
      | some d => s.startMigration k d false
      | none => State.coolLayers s c rest

/-- TMAX of the management block: the hottest of the latest readings (R406). -/
def State.setTmax (s : State) : State :=
  let t := (List.range s.ncol).foldl (fun m c => [1, 2, 3, 4].foldl (fun m l => max m (s.temp c l)) m) 0
  s.rsetBits (key0 0 0x170000) 15 8 t

/-- GOVERNOR_EVALUATION (R65, R66, R389, R390), 1000 DT ticks after the last: the sensors are read, an input from outside; then at most one migration starts.
DESIGN CHOICE: where several triggers hold, a directed move goes first, then evacuation, then the lowest layer whose hot-spot or power trigger finds a team
and a target; the spec gives no order. -/
def execGovernorEvaluation (col : Nat) (s : State) : Host.Outcome State Fault Refusal :=
  .next (if s.ncol ≤ col ∨ (match (s.col col).evalAt with | some t => decide (s.dt < t + 1000) | none => false) = true then s
    else
      let (s, v) := s.free
      let s := ((s.rset (kCol col 0) v).modCol col fun x => { x.countHot s.phi with evalAt := some s.dt }).setTmax
      let s := if (s.col col).migration.isNone && s.dmPending col && s.rbits (kCol col 8) 12 12 == 0 then s.dmTrigger col else s
      if (s.col col).migration.isSome then s
      else
        match (s.col col).evac.find? fun l => !(s.candidates_ col l false).isEmpty with
        | some l => s.evacuate col l
        | none => s.coolLayers col (s.hotLayers col))

/-- DIRECTED_MOVE_ARM (R71, R390): the write of w2; GO while one is pending is ignored and sets ERR. -/
def execDirectedMoveArm (col : Nat) (w2 : Word) (s : State) : Host.Outcome State Fault Refusal :=
  .next (if s.ncol ≤ col then s
    else if w2.getLsbD 31 = true ∧ s.dmPending col = true then s.govErr
    else
      let s := s.rwrite (kCol col 8) w2
      if w2.getLsbD 31 then s.rsetBits (kCol col 8) 30 29 1 else s)

/-- DIRECTED_MOVE_TRIGGER (R71): the first bundle of the named team reaches the header; a move that names none triggers at the next evaluation. -/
def execDirectedMoveTrigger (col : Nat) (s : State) : Host.Outcome State Fault Refusal :=
  .next (if !s.dmPending col || (s.col col).migration.isSome then s
    else if s.rbits (kCol col 8) 12 12 = 1 ∧ s.dmReached col = true then s.dmTrigger col
    else s)

/-! ### A migration (R72 to R79) -/

/-- Whether every bundle of a migrating team has halted within 2048 core cycles of the halt request (R72 step 3). -/
def State.haltedInTime (s : State) (c : Nat) (m : Migration) (tm : Team) : Bool :=
  m.halted || (tm.allAtRest && match tm.migFrom with | some (h, _) => decide (s.clock c - h < 2048) | none => true)

/-- MIGRATION_ABANDON (R69, R72): a bundle has not halted within 2048 cycles of the halt request, the team is ending, or the target core has no room for it
any more. -/
def execMigrationAbandon (col : Nat) (s : State) : Host.Outcome State Fault Refusal :=
  .next (match (s.col col).migration with
    | some m =>
      (match s.team? (teamKey col m.slot) with
       | some tm =>
         let late := !s.haltedInTime col m tm && (match tm.migFrom with | some (h, _) => decide (2048 ≤ s.clock col - h) | none => true)
         if tm.layer?.isSome && (late || tm.ending || (s.haltedInTime col m tm && !s.coreFits col m.dst (teamKey col m.slot) tm)) then
           s.abandonMigration col
         else s
       | none => s.modCol col fun x => { x with migration := none })
    | none => s)

/-- The flits of a migration (R73). -/
def Team.flits (tm : Team) : Nat :=
  let regs := (List.range tm.threads.length).foldl (fun a t => a + 4 * tm.n t) 0
  let eng := match tm.engine with
    | some e => 1024 + 256 * (e.macros.filter Option.isSome).length + 16 * (e.rows.filter Option.isSome).length
    | none => 0
  1 + (8 * tm.pendingWrites.length + 255) / 256 + (64 * tm.threads.length + 255) / 256 + (regs + 255) / 256 + eng

/-- MIGRATION_TRANSFER (R72 step 4): every bundle has halted in time, the target core still has room, and no realignment holds the path; the state is on its
way, and the return router holds an entry for each outstanding operation (R75). The evacuation of the target does not stop it (R78). -/
def execMigrationTransfer (col : Nat) (s : State) : Host.Outcome State Fault Refusal :=
  .next (match (s.col col).migration with
    | none => s
    | some m =>
      let k := teamKey col m.slot
      match s.team? k with
      | none => s.modCol col fun x => { x with migration := none }
      | some tm =>
        match tm.place with
        | .core l =>
          if !s.haltedInTime col m tm || tm.ending || !s.coreFits col m.dst k tm then s
          else if !s.mayTransfer col m.slot [(l, m.dst)] then (s.modCol col fun x => { x with migration := some { m with halted := true } }).holdTransfer col m.slot
          else
            let s := (s.startTransfer col m.slot [(l, m.dst)]).setTeam k
              { tm with place := .moving l m.dst, counters := tm.resided s.dt, resFrom := s.dt
                        bundles := tm.bundles.map fun b => { b with active := false }
                        accesses := tm.accesses.map fun a => if a.state = .ready then a else { a with routed := true }
                        threads := tm.threads.map fun th => { th with routedPeer := th.peerOut } }
            let s := { s with reqs := s.reqs.map fun (r : Req) => if r.team = k ∧ r.age = tm.age then { r with routed := true } else r }
            s.modCol col fun x => { x with migration := some { m with halted := true, flits := tm.flits } }
        | _ => s)

/-- RETURN_FORWARD (R75, R79): a result that reached the source after the transfer began goes on to the target, and is written there; a demand access, which
a realignment of its way pauses (R64, R80). -/
def execReturnForward (col slot entry : Nat) (s : State) : Host.Outcome State Fault Refusal :=
  let k := teamKey col slot
  .next (match s.team? k with
    | none => s
    | some tm =>
      if (tm.accesses.any fun a => a.id == entry && a.state == .ready && a.routed) && !s.pathHeld col tm.returnPath true then
        (s.demand col tm.returnPath).modTeam k fun tm =>
          { tm with counters := { tm.counters with stakeBytes := (tm.counters.stakeBytes + 256) % 2 ^ 64 }
                    accesses := tm.accesses.map fun a => if a.id = entry then { a with routed := false, forwarded := true } else a }
      else s)

/-- The returns forwarded while a team moved are applied before it resumes (R72 step 6). -/
def State.applyForwarded (s : State) (k : Nat) : State :=
  match s.team? k with
  | none => s
  | some tm => (tm.accesses.filter fun a => a.forwarded && a.state == .ready).foldl (fun s a => s.deliver k a.id) s

/-- Requests that have waited 65 536 cycles when a migration ends are denied (R78). -/
def Team.denyLong (tm : Team) (clk : Nat) : Team :=
  (List.range tm.groups.length).foldl (fun tm g =>
    let x := tm.groups.getD g { n := 0 }
    if x.req.isSome ∧ 65536 ≤ x.cycles clk then tm.endRequest g 0 else tm) tm

/-- MIGRATION_RESUME (R72 step 6, R79): the last flit has arrived; bundles resume on the target, and the counters change. -/
def execMigrationResume (col : Nat) (s : State) : Host.Outcome State Fault Refusal :=
  .next (match (s.col col).migration with
    | none => s
    | some m =>
      let k := teamKey col m.slot
      match s.team? k with
      | none => s.modCol col fun x => { x with migration := none }
      | some tm =>
        match tm.place with
        | .moving (src + 1) d =>
          if d = 0 ∨ s.pathHeld col [(src + 1, d)] true = true then s
          else
            let s := s.markPath col [(src + 1, d)]
            let c := tm.counters
            let held := (match sfind s.grids tm.grid with | some g => g.halted | none => false) || tm.freezing.isSome
            let tm :=
              { tm with
                place := .core d, since := s.dt, resFrom := s.dt, halting := held, still := false, migFrom := none
                migDone := (match tm.migFrom with | some m => [m.1] | none => []) ++ tm.migDone
                engAt := tm.engAt.map fun _ => d
                counters := { c with migCount := (c.migCount + 1) % 2 ^ 64
                                     stakeBytes := (c.stakeBytes + 256 * m.flits) % 2 ^ 64 }
                bundles := tm.bundles.map fun b => { b with stamp := s.cyc } }
            let s := ((s.setTeam k tm).modCol col fun x => { x with migration := none }).applyForwarded k
            let s := s.modTeam k fun tm => tm.denyLong (s.clock col)
            (if m.directed then s.dmEnd col 2 else s).settle k
        | _ => s)

end Sys2Proof.Machine
end

