-- ==== Sys2Proof/Machine/Xlate.lean ====
section
/-! DEFINITION. Translation control and invalidation (R150, R161, R162), page-mapped notices and retries (R436 to R441), host pages (R165, R443), page
moves (R167 to R175, R445, R446), base-scratchpad windows (R142, R143, R444) and the HBM4E blocks (R146 to R148, R449). -/

namespace Sys2Proof.Machine

/-! ### Retries and page-mapped notices (R436, R439, R441) -/

/-- Whether `n` bytes from an address meet a range. -/
def meetsRange (lo size va n : Nat) : Bool := decide (va < lo + size) && decide (lo < va + n)

/-- Replays the side-log entries of a context in a range: each becomes an access on its way, of its team or, when that has retired, on its own
(R439). It leaves the log when that access is performed. -/
def State.replaySide (s : State) (ck lo size : Nat) (c : Nat) : State :=
  let hit (e : SideEntry) : Bool := e.ctx == ck && meetsRange lo size e.va 1
  let es := (s.col c).sideLog.filter hit
  let s := s.modCol c fun x => { x with sideLog := x.sideLog.filter fun e => !hit e }
  es.foldl (fun s e =>
    match s.team? e.team with
    | some _ => s.modTeam e.team fun tm => { tm with accesses := e.access :: tm.accesses }
    | none =>
      let g := sfind s.grids e.grid
      s.modCol c fun x => { x with orphans :=
        { slot := e.team % 32, grid := e.grid, index := e.index, ctx := ck, priv := (match g with | some g => g.priv | none => false), horizon := 0, acc := e.access }
          :: x.orphans }) s

/-- Lets what a memory fault holds in a team at an address of a range go on: its held accesses, its words and fetches, its stream and its hand-over (R436). A
frozen team's accesses stay held until its release (R451). -/
def State.retryTeam (s : State) (k lo size : Nat) : State :=
  match s.team? k with
  | none => s
  | some tm =>
    let free (a : Access) : Bool := a.state == .held && meetsRange lo size a.va 1 && !a.dests.any fun d => s.sideRegion k d.thread a.va
    let wake (th : Thread) : Thread := if th.wait.kind = .memHeld ∧ meetsRange lo size th.wait.token 1 = true then { th with wait := {} } else th
    let s := s.setTeam k
      { tm with
        accesses := if tm.frozen.isSome then tm.accesses else tm.accesses.map fun a => if free a then { a with state := .sent } else a
        threads := tm.threads.map wake
        stream := if meetsRange lo size tm.stream.heldVa 1 then { tm.stream with held := false } else tm.stream }
    if (match tm.handover with | some h => h.step == 1 && !h.failed && meetsRange lo size h.card 128 | none => false) then s.handoverRead k else s

/-- An ATS or PRI failure, and a grant that may lack what an access needs, is forgotten: a retry translates afresh (R436, R443). -/
def State.forgetAts (s : State) (ck lo size : Nat) : State :=
  let keep (t : Xlat) : Bool := t.ctx != ck || !meetsRange lo size t.base t.size || (match t.ats with | some g => g.fail == 0 && g.rd && g.wr | none => true)
  { s with cols := s.cols.map fun p => (p.1, { p.2 with tlb := p.2.tlb.filter keep }), engTlb := s.engTlb.filter fun p => keep p.2 }

/-- Retries everything of a context that waits at an address of a range (R411, R413, R436, R460). -/
def State.retry (s : State) (ck lo size : Nat) : State :=
  let s := s.forgetAts ck lo size
  let s := (s.cols.map Prod.fst).foldl (fun s c => s.replaySide ck lo size c) s
  let s := (s.teams.filter fun p => s.teamCtx p.2 == ck).foldl (fun s p => s.retryTeam p.1 lo size) s
  let go (o : Orphan) : Orphan := if o.ctx = ck ∧ o.acc.state = .held ∧ meetsRange lo size o.acc.va 1 = true then { o with acc := { o.acc with state := .sent } } else o
  let s := { s with
    cols := s.cols.map fun (p : Nat × Column) => (p.1, { p.2 with orphans := p.2.orphans.map go })
    reqs := s.reqs.map fun (r : Req) => if r.ctx = ck ∧ meetsRange lo size r.stopVa 1 = true then { r with stopped := false } else r
    grids := s.grids.map fun (p : Nat × Grid) =>
      if p.2.ctx = ck ∧ meetsRange lo size (Card.saddr p.2.card) 8 = true then (p.1, { p.2 with signalHeld := false }) else p }
  let card (x : CardIn) : CardIn := { x with stuck := x.stuck.filter fun i => !meetsRange lo size (Card.waddr x.words i) 8 }
  let rec_ := s.recAddr ck
  let s := s.modCtx ck fun x =>
    { x with cmd := x.cmd.map fun (c : Command) => if meetsRange lo size c.heldVa 1 then { c with held := false } else c
             intakes := x.intakes.map fun p => (p.1, p.2.map card), recStuck := x.recStuck && !meetsRange lo size rec_ 32 }
  s.enterRecords ck 17

/-- A page-mapped notice with its event (R441): `isz` is the size code. -/
def State.notice (s : State) (ck va lo size isz : Nat) : State :=
  (s.retry ck lo size).hwEvent (ctxFn ck) (eventWords (s.ctxId ck) 4 0xFFFFFFFF [nw va, nw (va / 2 ^ 32), nw isz])

/-- The entries of a context that are being replayed, with their columns (R439): of a team's accesses, and of retired teams. -/
def State.replays (s : State) (ck : Nat) : List (Nat × SideEntry) :=
  ((s.teams.filter fun p => s.teamCtx p.2 == ck).flatMap fun p => (p.2.accesses.filter fun a => a.logged).map fun a =>
      (teamCol p.1, s.sideEntry ck p.2.grid p.2.index p.1 a.thread a))
    ++ s.cols.flatMap fun p => (p.2.orphans.filter fun o => o.ctx == ck && o.acc.logged).map fun o =>
      (p.1, s.sideEntry ck o.grid o.index (noTeam + teamKey p.1 o.slot) o.acc.thread o.acc)

/-- Discards every side-log entry of a context, those that are being replayed included (R440). -/
def State.discardSide (s : State) (ck : Nat) : State :=
  let es := (s.cols.flatMap fun p => (p.2.sideLog.filter fun e => e.ctx == ck).map fun e => (p.1, e)) ++ s.replays ck
  let mine (tm : Team) : Bool := s.teamCtx tm == ck
  let s := { s with
    teams := s.teams.map fun (p : Nat × Team) => if mine p.2 then (p.1, { p.2 with accesses := p.2.accesses.filter fun a => !a.logged }) else p
    cols := s.cols.map fun (p : Nat × Column) =>
      (p.1, { p.2 with sideLog := p.2.sideLog.filter fun e => e.ctx != ck, orphans := p.2.orphans.filter fun o => o.ctx != ck || !o.acc.logged }) }
  es.foldl (fun s e => s.discardEntry e.1 e.2) s

/-! ### Walks, translation control and invalidation (R150, R151, R161, R162) -/

/-- Drops the cached translations that a predicate names, in the columns and on the base die, with what ATS has granted for them. -/
def State.dropXlats (s : State) (drop : Xlat → Bool) : State :=
  { s with cols := s.cols.map fun p => (p.1, { p.2 with tlb := p.2.tlb.filter fun t => !drop t }), engTlb := s.engTlb.filter fun p => !drop p.2 }

/-- Drops the cached translations of a context that overlap a range (R161, R162). -/
def State.dropXlat (s : State) (ck lo size : Nat) : State := s.dropXlats fun t => t.ctx == ck && meetsRange lo size t.base t.size

/-- Drops what one cache holds of a context's range. -/
def State.dropCached (s : State) (cache ck lo size : Nat) : State :=
  let keep (t : Xlat) : Bool := t.ctx != ck || !meetsRange lo size t.base t.size
  if cache < 64 then s.modCol cache fun x => { x with tlb := x.tlb.filter keep }
  else { s with engTlb := s.engTlb.filter fun p => p.1 != cache - 64 || keep p.2 }

/-- A home releases a line that a request or a peer move owns. -/
def State.disown (s : State) (line : Nat) : State := s.setHome line { s.home line with owner := none }

/-- Requests give up those of their lines that a predicate names and that they have yet to write, and take them again under the translation then in
force. -/
def State.giveUp (s : State) (p : Req → Nat × Nat → Bool) : State :=
  let gives (r : Req) (l : Nat × Nat) : Bool := r.kind != .plmv && p r l
  let given := s.reqs.flatMap fun r => (r.owned.filter (gives r)).map Prod.snd
  let give (r : Req) : Req := if r.owned.any (gives r) then { r with owned := r.owned.filter fun l => !gives r l, step := 0 } else r
  given.foldl State.disown { s with reqs := s.reqs.map give }

/-- A shoot-down of a range ends (R162): no cache holds a translation of it; what engines have yet to write is translated anew; and what stores have left
in the columns has reached its home, unless the home holds it back (R169, R193). Which dirty lines were written under a dropped translation no cache records, so
each is written back. -/
def State.shootDown (s : State) (ck lo size : Nat) : State :=
  let s := (s.dropXlat ck lo size).giveUp fun r l => r.ctx == ck && decide (lo ≤ 128 * l.1) && decide (128 * l.1 < lo + size)
  (s.cols.map Prod.fst).foldl (fun s c => (s.writeBackAll c none ((s.dirtyAll c).filter fun l => !s.lineHeld l)).1) s

/-- PAGE_TABLE_WALK (R151, R161): a walk ends, and the column's cache takes its leaf; that of a HOST page comes with its ATS result. A fault is met by the
access that needs the translation. -/
def execPageTableWalk (col fn c va : Nat) (s : State) : Host.Outcome State Fault Refusal :=
  let ck := ctxKey fn c
  .next (if s.rbits (kXl ck 0) 0 0 = 0 ∨ (s.winOf ck va).isSome = true ∨ ((s.col col).lookup ck va).isSome = true then s
    else
      match s.walk ck va with
      | .leaf _ base size frame plait w0 _ =>
        if pCls plait = 1 then s.askAts (some col) ck va
        else s.modCol col fun x => { x with tlb := ({ ctx := ck, base, size, frame, plait, perm := w0 } :: x.tlb).take 2048 }
      | .fault .. => s)

/-- TRANSLATION_CONTROL_WRITE (R150, R440): a write of EN, the root, PASID, TPLAIT or IVA_HI. -/
def execTranslationControlWrite (fn c off : Nat) (v : Word) (s : State) : Host.Outcome State Fault Refusal :=
  let ck := ctxKey fn c
  .next (if off = 0x14 then s.modCtx ck fun x => { x with ivaHi := bits v 19 0 }
    else if off = 0x10 ∨ 0x18 ≤ off then s
    else
      let s := s.rwrite (kXl ck off) v
      if off = 0 ∧ bits v 0 0 = 0 then s.discardSide ck else s)

/-- The range ISZ names (R150). -/
def invRange (va isz : Nat) : Nat × Nat :=
  match isz with
  | 0 => (va / 2 ^ 16 * 2 ^ 16, 2 ^ 16)
  | 1 => (va / 2 ^ 21 * 2 ^ 21, 2 ^ 21)
  | 2 => (va / 2 ^ 30 * 2 ^ 30, 2 ^ 30)
  | _ => (0, 2 ^ 52)

/-- INVALIDATION (R150, R162): writing IGO starts one; while IBUSY = 1 the write is ignored. -/
def execInvalidation (fn c : Nat) (v : Word) (s : State) : Host.Outcome State Fault Refusal :=
  let ck := ctxKey fn c
  .next (if bits v 0 0 = 0 ∨ s.rbits (kXl ck 0x10) 1 1 = 1 then s
    else
      (s.rset (kXl ck 0x10) 2).modCtx ck fun x => { x with inval := some (bits v 31 16 * 2 ^ 16 + 2 ^ 32 * x.ivaHi, bits v 3 2) })

/-- What is left of a withdrawn range outside an invalidated one (R444). -/
def Win.cut (w : Win) (lo size : Nat) : List Win :=
  if w.live || decide (w.base + w.size ≤ lo) || decide (lo + size ≤ w.base) then [w]
  else
    (if w.base < lo then [{ w with size := lo - w.base }] else [])
      ++ if lo + size < w.base + w.size then [{ w with base := lo + size, size := w.base + w.size - (lo + size) }] else []

/-- INVALIDATION_COMPLETE (R162, R441, R444): every cache has dropped the range; withdrawn addresses in it become ordinary; a notice follows. -/
def execInvalidationComplete (fn c : Nat) (s : State) : Host.Outcome State Fault Refusal :=
  let ck := ctxKey fn c
  .next (match (s.ctx ck).inval with
    | none => s
    | some (va, isz) =>
      let (lo, size) := invRange va isz
      let s := (s.shootDown ck lo size).modCtx ck fun x => { x with inval := none }
      let s := { s with wins := s.wins.flatMap fun (w : Win) => if w.ctx = ck then w.cut lo size else [w] }
      (s.rset (kXl ck 0x10) 0).notice ck va lo size isz)

/-! ### Host pages (R165, R443) -/

/-- A cache's translation of a page of a HOST leaf takes an answer of ATS: for the part of the leaf's page that the answer's range covers (R161, R165). -/
def State.keepAts (s : State) (cache ck va log2size : Nat) (g : AtsGrant) : State :=
  match s.walk ck va with
  | .fault .. => s
  | .leaf _ base size frame plait w0 _ =>
    if pCls plait ≠ 1 ∨ s.rbits (kXl ck 0) 0 0 = 0 then s
    else
      let lo := va / 2 ^ log2size * 2 ^ log2size
      let from_ := max lo base
      let to_ := min (lo + 2 ^ log2size) (base + size)
      let s := s.dropCached cache ck from_ (to_ - from_)
      s.xlatKeep (if cache = 127 then none else some cache)
        { ctx := ck, base := from_, size := to_ - from_, frame, plait, perm := w0, ats := some { g with addr := g.addr + (from_ - lo) } }

/-- ATS_TRANSLATION_COMPLETION (R165, R443): the answer to a Translation Request of a cache, of status 0 success, 1 Unsupported Request, 2 Completer Abort. A
grant takes effect for the range it states, of 2^`log2size` bytes, from 4 KiB to 1 GiB; an access that it lacks starts a Page Request when it goes on. DESIGN
CHOICE: the cache keeps a failure until a retry of the page, so that an access that comes meanwhile is reported too and asks nothing. -/
def execAtsTranslationCompletion (fn c va : Nat) (result : AtsResult) (rd wr : Bool) (s : State) : Host.Outcome State Fault Refusal :=
  let ck := ctxKey fn c
  let asked := (result.cache, ck, va / 4096)
  .next (if !s.atsAsked.contains asked || decide (result.log2size < 12) || decide (30 < result.log2size) then s
    else
      let s := { s with atsAsked := s.atsAsked.erase asked }
      if result.status = 0 then s.keepAts result.cache ck va result.log2size { rd, wr, addr := result.addr }
      else s.keepAts result.cache ck va 12 { rd := false, wr := false, addr := 0, fail := if result.status = 1 then 3 else 4 })

/-- The caches that may hold a translation: those of the columns, of the base-die engines, and what ATS has granted the other agents there. -/
def State.cachesOf (s : State) : List Nat := s.cols.map Prod.fst ++ (s.engTlb.map fun p => 64 + p.1).eraseDups

/-- A Page Request has failed (R443): each cache that lacks the page keeps the failure, and a held or logged access is reported. -/
def State.pageFailed (s : State) (ck va response : Nat) : State :=
  let s := s.cachesOf.foldl (fun s cache =>
    match s.xlatOf (if cache = 127 then none else some cache) ck va with
    | some x => if (match x.ats with | some g => g.rd && g.wr | none => true) then s
        else s.keepAts cache ck va 12 { rd := false, wr := false, addr := 0, fail := response }
    | none => s) s
  let s := (s.teams.filter fun p => s.teamCtx p.2 == ck).foldl (fun s p =>
    (p.2.accesses.filter fun a => a.state == .held && a.va / 4096 == va / 4096).foldl (fun s a =>
      s.reportOnce ck none a.kind.code (teamRec p.1 p.2
        { code := 0x100D, src := 0, thread := a.thread, pc := a.pc, word := a.word, addr := a.va, info := a.kind.code + 16 * response })) s) s
  s.cols.foldl (fun s p =>
    (p.2.sideLog.filter fun e => e.ctx == ck && e.va / 4096 == va / 4096).foldl (fun s e =>
      let kind := if e.red then kRed else kStore
      s.reportOnce ck none kind
        { code := 0x100D, src := 0, col := p.1, slot := e.team % 32, thread := e.thread, team := e.index, pc := e.pc, word := e.word, addr := e.va
          info := kind + 16 * response }) s) s

/-- PAGE_REQUEST_GROUP_RESPONSE (R441, R443): response 0 Success raises a notice; 1 Invalid Request and 2 Response Failure are reported, to each context of the
PASID that waits. The next request of the function that waits for its allocation is sent. -/
def execPageRequestGroupResponse (fn c va : Nat) (response : Nat) (s : State) : Host.Outcome State Fault Refusal :=
  let pasid := s.rbits (kXl (ctxKey fn c) 8) 19 0
  let lo := va / 2 ^ 16 * 2 ^ 16
  .next (match s.pageReqs.find? fun p => p.fn == fn && p.pasid == pasid && p.va == va / 4096 * 4096 && p.sent with
    | none => s
    | some q =>
      let s := ({ s with pageReqs := s.pageReqs.erase q } : State).sendPage fn
      q.ctxs.foldl (fun s ck => if response = 0 then s.notice ck lo lo (2 ^ 16) 0 else s.pageFailed ck va (min response 2)) s)

/-- ATS_INVALIDATE_REQUEST (R165): the matching results of the contexts with the request's PASID are dropped. A request to a HOST page is accepted by the link
when it is sent, so the Invalidate Completion follows at once. -/
def execAtsInvalidateRequest (fn c va log2size : Nat) (s : State) : Host.Outcome State Fault Refusal :=
  let pasid := s.rbits (kXl (ctxKey fn c) 8) 19 0
  let lo := va / 2 ^ log2size * 2 ^ log2size
  let mine (ck : Nat) : Bool := ctxFn ck == fn && s.rbits (kXl ck 8) 19 0 == pasid
  .next { s.dropXlats fun t => t.ats.isSome && mine t.ctx && meetsRange lo (2 ^ log2size) t.base t.size with
          outbox := { dev := none, addr := lo, data := [], kind := .atsInvalidated } :: s.outbox }

/-! ### Live re-striping (R167 to R170, R445, R446) -/

/-- Words as bytes of a line, from the byte of a key. -/
def lineBytes (key : Nat) (ws : List Word) : List (Nat × Byte) := (wordsBytes ws).zipIdx.map fun b => (key % 128 + b.2, b.1)

/-- Whether an agent can take a line at its home now: it is neither owned nor moving, no write waits there, and no lease is live (R169, R182, R193). -/
def State.lineFree (s : State) (line : Nat) : Bool := !s.lineHeld line && (s.home line).waiting.isEmpty && decide ((s.home line).e < s.dt)

/-- Writes words of an entry at the home of a free line. -/
def State.putWords (s : State) (key : Nat) (ws : List Word) : State :=
  (s.setHome (key / 128) (s.arrive (key / 128)).2).putLine (key / 128) (lineBytes key ws)

/-- An agent writes words at the home of their line, as one write with its completion time (R168, R182): with it ends the agent's ownership of the line, where
it owns it (R446). -/
def State.agentPut (s : State) (id key : Nat) (ws : List Word) : State :=
  ((s.recallDirty (key / 128)).homeArrive (key / 128) { t := 0, op := .write (lineBytes key ws), req := some id, last := (s.home (key / 128)).owner == some id }).1

/-- Whether no write of an agent waits at a home. -/
def State.agentDone (s : State) (id : Nat) : Bool := s.dir.all fun d => d.2.waiting.all fun w => w.req != some id

/-- Marks a leaf MV = 1, writing what else of its entry is given, and takes ownership of its line, which is free (R168 step 1, R446). -/
def State.markLeaf (s : State) (pte id : Nat) (ws : List Word) : State :=
  let s := s.putWords pte (ws.set 0 (wd ws 0 ||| 0x40))
  s.setHome (pte / 128) { s.home (pte / 128) with owner := some id }

/-- The words at a key. -/
def State.wordsAt (s : State) (key n : Nat) : List Word := bytesWords (s.bytesAt key (4 * n))

/-- A 64-bit number kept as two words. -/
def two (x : Nat) : List Word := [nw x, nw (x / 2 ^ 32)]
def twoAt (l : List Word) (i : Nat) : Nat := (wd l i).toNat + 2 ^ 32 * (wd l (i + 1)).toNat

/-- What a started page move keeps in its request: key of the leaf, old frame address, page base, page size, old plait word. -/
def Req.pte (r : Req) : Nat := twoAt r.entry 0
def Req.oldFrame (r : Req) : Nat := twoAt r.entry 2
def Req.pageBase (r : Req) : Nat := twoAt r.entry 4
def Req.pageSize (r : Req) : Nat := (wd r.entry 6).toNat
def Req.oldPlait (r : Req) : Word := wd r.entry 7

/-- The old and new home lines of line `i` of a page move. -/
def Req.oldLine (r : Req) (i : Nat) : Nat := pageKey r.oldFrame (128 * i) r.oldPlait / 128
def Req.newLine (r : Req) (i : Nat) : Nat := pageKey r.a (128 * i) (nw r.b) / 128

/-- The first condition of R167 a page move fails (R445). -/
def State.plmvFails (s : State) (r : Req) (size : Nat) (plait w0 : Word) : Option Nat :=
  let p := nw r.b
  let mem (q : Word) : Bool := pCls q == 0 || pCls q == 3
  if !mem plait || !mem p then some 1
  else if r.a % 512 ≠ 0 ∨ 2 ^ 52 ≤ r.a ∨ s.plaitLegal p size = false ∨ s.frameLegal r.a p size = false then some 2
  else if bits w0 6 6 = 1 then some 3
  else if bits w0 3 3 = 0 then some 4
  else none

/-- The translation of a page move's address, made at its issue and afresh at a retry (R445): a fault of its own takes its own path (R436). -/
def State.plmvTranslate (s : State) (r : Req) : State :=
  let done (s : State) : State := s.modReq r.id fun q => { q with done := 1 }
  if s.rbits (kXl r.ctx 0) 0 0 = 0 then s.reqFault r (0x1007, kEngW, r.d)
  else if s.winHeld r.ctx r.d then s
  else
    match s.winOf r.ctx r.d with
    | some w => if w.live then done s else s.reqFault r (0x1011, kEngW + 16, r.d)
    | none =>
      if (s.xlatOf r.column r.ctx r.d).isSome then done s
      else
        match s.walk r.ctx r.d with
        | .fault code info => s.reqFault r (code, (if 256 ≤ info then kTable else kEngW) + info, r.d)
        | .leaf _ base size frame plait w0 _ =>
          done (if pCls plait = 1 then s else s.xlatKeep r.column { ctx := r.ctx, base, size, frame, plait, perm := w0 })

/-- Starts a page move (R167, R168 step 1, R445, R446): the leaf is marked, and the bulk engine owns its line. -/
def State.plmvStart (s : State) (r : Req) : State :=
  let refuse (i : Nat) : State := s.reqFreeze r 0x1020 (kEngW + 16 * i) r.d
  if (s.winOf r.ctx r.d).isSome then refuse 1
  else
    match s.walk r.ctx r.d with
    | .fault code info => if code = 0x1001 then refuse 4 else s.reqFault r (code, (if 256 ≤ info then kTable else kEngW) + info, r.d)
    | .leaf pte base size frame plait w0 _ =>
      if bits w0 5 5 = 1 ∧ r.priv = false then s.reqFault r (0x1006, kEngW, r.d)
      else
        match s.plmvFails r size plait w0 with
        | some i => refuse i
        | none =>
          let s := s.recallDirty (pte / 128)
          if !s.lineFree (pte / 128) then s
          else
            (s.markLeaf pte r.id [w0]).modReq r.id fun q => { q with step := 1, entry := two pte ++ two frame ++ two base ++ [nw size, plait], owned := [(2 ^ 52, pte / 128)] }

/-- Moves a line's bytes and poison to its new home, and forwards later accesses (R169, R446). -/
def State.moveLine (s : State) (old new : Nat) : State :=
  let bs := s.bytesAt (old * 128) 128
  let p := s.isPoison old
  let s := { s with mem := s.mem.putList (new * 128) bs }
  let s := s.setHome old { move := .moved new }
  let s := s.setHome new { s.home new with wrote := true, writers := [] }
  s.setPoison new p

/-- One step of a line's move (R169): the engine takes it at both homes, once no other owns it, dirty copies are recalled and every write has been applied; it
is written at its new home when every lease of the old one has ended. -/
def State.plmvLine (s : State) (r : Req) (i : Nat) : State :=
  let old := r.oldLine i
  let new := r.newLine i
  let done (s : State) : State := s.modReq r.id fun q => { q with lines := i :: q.lines }
  if r.pageSize ≤ 128 * i ∨ r.lines.contains i = true then s
  else if old = new then done s
  else
    match (s.home old).move with
    | .moved _ | .away _ _ => s
    | .unmoved =>
      if s.lineHeld old || s.lineHeld new then s
      else
        let s := (s.recallDirty old).recallDirty new
        if (s.home old).waiting.isEmpty && (s.home new).waiting.isEmpty then s.setHome old { s.home old with move := .moving } else s
    | .moving => if (s.home new).waiting.isEmpty && decide ((s.home old).e < s.dt) then done (s.moveLine old new) else s

/-- PLMV_LINE_MOVE (R168, R169): the address is translated and the move starts, if they have not; then line `line` of the page takes a step. -/
def execPlmvLineMove (req line : Nat) (s : State) : Host.Outcome State Fault Refusal :=
  .next (s.onReq req .plmv fun r =>
    if r.step = 1 then s.plmvLine r line else if r.step ≠ 0 then s else if r.done = 0 then s.plmvTranslate r else s.plmvStart r)

/-- PLMV_SWAP (R168 step 3, R170, R446): every line has moved; the leaf takes its new address and plait, with MV = 0 and its class as it was, in one write, with
which the engine's ownership of its line ends. -/
def execPlmvSwap (req : Nat) (s : State) : Host.Outcome State Fault Refusal :=
  .next (s.onReq req .plmv fun r =>
    if r.step = 1 ∧ 128 * r.lines.length = r.pageSize then
      let w0 := wd (s.wordsAt r.pte 1) 0
      let plait := nw (bits (nw r.b) 23 0 + 2 ^ 24 * pCls r.oldPlait)
      (s.agentPut r.id r.pte [nw (bits w0 5 0 + r.a % 2 ^ 32), nw (r.a / 2 ^ 32), plait]).modReq r.id fun q => { q with step := 2, owned := [] }
    else s)

/-- PLMV_RETIRE (R168 steps 4 to 6): once the entry is written the page is shot down; then the forwarding marks drop, and the flag falls. -/
def execPlmvRetire (req : Nat) (s : State) : Host.Outcome State Fault Refusal :=
  .next (s.onReq req .plmv fun r =>
    if r.step = 2 ∧ s.agentDone r.id = true then
      let s := s.shootDown r.ctx r.pageBase r.pageSize
      let s := (List.range (r.pageSize / 128)).foldl (fun s i =>
        if r.oldLine i = r.newLine i then s else s.setHome (r.oldLine i) { s.home (r.oldLine i) with move := .unmoved }) s
      s.endReq r s.dt
    else s)

/-! ### Pages that move between devices (R171 to R175) -/

/-- PeerMoveAllowed of R174: the policy word after it, whether the move is allowed, and whether a settle begins. -/
def peerMoveAllowed (w3 : Word) (t : Nat) : Word × Bool × Bool :=
  let stamp := bits w3 27 0
  let since := (t + 2 ^ 28 - stamp) % 2 ^ 28
  let pme := bits w3 28 28
  let mk (mvc stl st : Nat) : Word := nw (mvc * 2 ^ 30 + stl * 2 ^ 29 + pme * 2 ^ 28 + st % 2 ^ 28)
  let ended := bits w3 29 29 == 1 && decide (since < 2 ^ 27)
  let mvc := if ended then 0 else bits w3 31 30
  if bits w3 29 29 = 1 ∧ ended = false then (w3, false, false)
  else if mvc = 0 ∨ 1000 ≤ since then (mk 1 0 t, true, false)
  else if mvc < 3 then (mk (mvc + 1) 0 t, true, false)
  else (mk mvc 1 (t + 16000), false, true)

/-- The size of a context's peer-move rings, and the address of a descriptor (R175). -/
def State.pmSize (s : State) (ck : Nat) : Nat := 2 ^ s.rbits (kPm ck 0x18) 3 0
def State.pmAddr (s : State) (ck : Nat) (vacated : Bool) (i : Nat) : Nat :=
  s.rbits (kPm ck 0) 31 4 * 16 + 2 ^ 32 * s.rbits (kPm ck 4) 19 0 + 16 * ((if vacated then s.pmSize ck else 0) + i % s.pmSize ck)
def State.pmKey (s : State) (ck : Nat) (vacated : Bool) (i : Nat) : Nat := tableKey (s.pmAddr ck vacated i) (s.rget (kXl ck 0x0C))

/-- Whether a candidate page has the remote writes of a device that try a move (R172). -/
def State.pmTriggered (s : State) (ck va dev : Nat) : Bool :=
  s.candidates.any fun x => x.dctx == s.rbits (kLk ck 8) 11 0 && x.page == va / 2 ^ 16 && x.dev == dev && !x.localWrite
    && decide (max 1 (s.rbits (kPm ck 0x18) 15 8) ≤ x.count)

/-- PEER_MOVE_ATTEMPT (R172 to R174): as the owner, once the other device has said that it is `ready`, with PMEN = 1 and a free ring that is not empty, the
policy word is evaluated and, when it allows the move, the leaf is marked; as the device a page comes to, the descriptor at the head of the free ring
is taken. A line of the entry that is not free is waited for. -/
def execPeerMoveAttempt (fn c va : Nat) (peer : PeerOffer) (s : State) : Host.Outcome State Fault Refusal :=
  let ck := ctxKey fn c
  .next (if s.rbits (kPm ck 0x18) 31 31 = 0 ∨ (s.peerMoves.any fun m => m.ctx == ck && m.va == va / 2 ^ 16 * 2 ^ 16) = true then s
    else
      match s.walk ck va with
      | .fault .. => s
      | .leaf pte base size frame plait w0 w3 =>
        if size ≠ 2 ^ 16 then s
        else if pCls plait = 0 ∨ pCls plait = 3 then
          let full := (s.rget (kPm ck 0x14) - s.rget (kPm ck 0x10)).toNat
          if bits w3 28 28 = 0 ∨ bits w0 6 6 = 1 ∨ peer.ready = false ∨ s.pmTriggered ck va peer.dev = false ∨ s.pmSize ck ≤ full then s
          else
            let s := s.recallDirty (pte / 128)
            if !s.lineFree (pte / 128) then s
            else
              let (w3', ok, settle) := peerMoveAllowed w3 (s.dt / 1000 % 2 ^ 28)
              let s := if settle then s.rset (kPm ck 0x1C) (s.rget (kPm ck 0x1C) + 1) else s
              if ok then
                { s.markLeaf pte s.idNext (s.wordsAt pte 3 ++ [w3']) with
                  idNext := s.idNext + 1, peerMoves := { id := s.idNext, ctx := ck, va := base, dev := peer.dev, frame, plait, pte } :: s.peerMoves }
              else s.putWords (pte + 12) [w3']
        else if pCls plait = 2 ∧ bits plait 5 0 = peer.dev then
          let head := s.rget (kPm ck 8)
          let key := s.pmKey ck false head.toNat
          if s.rget (kPm ck 0x0C) = head ∨ s.lineHeld (key / 128) = true then s
          else
            let ws := s.wordsAt key 3
            let frame := bits (wd ws 0) 31 9 * 512 + 2 ^ 32 * bits (wd ws 1) 19 0
            { s.rset (kPm ck 8) (head + 1) with
              idNext := s.idNext + 1, peerMoves := { id := s.idNext, ctx := ck, va := base, dev := peer.dev, frame, plait := wd ws 2, pte, comes := true } :: s.peerMoves }
        else s)

/-- The home line of line `i` of a page that moves between devices. -/
def PeerMove.line (m : PeerMove) (i : Nat) : Nat := pageKey m.frame (128 * i) m.plait / 128

def State.modMove (s : State) (m : PeerMove) (f : PeerMove → PeerMove) : State :=
  { s with peerMoves := s.peerMoves.map fun q => if q.id = m.id then f q else q }

/-- A line of a page that leaves takes a step (R169, R173 step 3, R446): it is taken at its home, once no engine owns it, dirty copies are recalled and every
write has been applied; when every lease has ended it goes to the other device, with its poison and the words w0 and w3 of the page's leaf, and later
accesses are forwarded there. -/
def State.pmLeaveLine (s : State) (m : PeerMove) (w0 w3 : Word) (i : Nat) : State :=
  let l := m.line i
  match (s.home l).move with
  | .unmoved =>
    if s.lineHeld l then s
    else
      let s := s.recallDirty l
      if (s.home l).waiting.isEmpty then s.setHome l { s.home l with move := .moving } else s
  | .moving =>
    if (s.home l).e < s.dt then
      let msg : OutMsg := { dev := some m.dev, addr := m.va + 128 * i, data := if s.isPoison l then List.replicate 128 0 else s.bytesAt (l * 128) 128
                            poison := s.isPoison l, leaf := [w0 &&& ~~~0x40, w3], dctx := s.rbits (kLk m.ctx 8) 11 0 }
      ({ s with outbox := msg :: s.outbox }.setHome l { move := .away m.dev (m.va + 128 * i) }).modMove m fun q => { q with lines := i :: q.lines }
    else s
  | _ => s

/-- The owner's part of a page move after its lines have moved and the other device has written its leaf (R173 steps 5 to 7): the leaf names the peer, and the
page is invalidated; the forwarding marks drop, and the vacated ring takes the old frame. -/
def State.pmLeave (s : State) (m : PeerMove) (w0 : Word) : State :=
  let tail := s.rget (kPm m.ctx 0x14)
  let key := s.pmKey m.ctx true tail.toNat
  if !s.agentDone m.id then s
  else
    match m.step with
    | 0 => (s.agentPut m.id m.pte [nw (bits w0 5 0), 0, nw (2 * 2 ^ 24 + m.dev)]).modMove m fun q => { q with step := 1 }
    | 1 =>
      if s.lineHeld (key / 128) then s
      else
        let s := s.shootDown m.ctx m.va (2 ^ 16)
        let s := (List.range 512).foldl (fun s i => (s.setHome (m.line i) {}).setPoison (m.line i) false) s
        let s := { s with candidates := s.candidates.filter fun x => !(x.dctx == s.rbits (kLk m.ctx 8) 11 0 && x.page == m.va / 2 ^ 16) }
        (s.agentPut m.id key [nw (m.frame % 2 ^ 32 / 512 * 512), nw (m.frame / 2 ^ 32), m.plait, 0]).modMove m fun q => { q with step := 2 }
    | _ => { s.rset (kPm m.ctx 0x14) (tail + 1) with peerMoves := s.peerMoves.filter fun q => q.id != m.id }

/-- A line of a page that comes to this device is written at its home, with its poison (R169, R173, R446). DESIGN CHOICE (unsafe): the descriptor of the free
ring is used as it stands; the spec says nothing of one whose frame or plait is not legal. -/
def State.pmArriveLine (s : State) (m : PeerMove) (i : Nat) (poison : Bool) : State :=
  let l := m.line i
  if s.lineFree l then
    let s := { s with mem := s.mem.putList (l * 128) (s.outsideBytes (m.va + 128 * i) 128) }
    ((s.setHome l { s.home l with wrote := true, writers := [] }).setPoison l poison).modMove m fun q => { q with lines := i :: q.lines }
  else s.recallDirty l

/-- The other device's part after every line has come (R173 step 4): the leaf names the new lines as HBM, with the page's permissions and the updated policy
word, which come with it; then the page is invalidated, and the owner is told. -/
def State.pmArrive (s : State) (m : PeerMove) (w0 w3 : Word) : State :=
  if !s.agentDone m.id then s
  else
    match m.step with
    | 0 =>
      if s.lineHeld (m.pte / 128) then s
      else
        let leaf := nw (3 + bits w0 5 2 * 4 + m.frame % 2 ^ 32 / 512 * 512)
        (s.agentPut m.id m.pte [leaf, nw (m.frame / 2 ^ 32), nw (bits m.plait 23 0), w3]).modMove m fun q => { q with step := 1 }
    | _ =>
      let msg : OutMsg := { dev := some m.dev, addr := m.va, data := [], kind := .reply, dctx := s.rbits (kLk m.ctx 8) 11 0 }
      { s.shootDown m.ctx m.va (2 ^ 16) with peerMoves := s.peerMoves.filter fun q => q.id != m.id, outbox := msg :: s.outbox }

/-- PEER_MOVE_COMPLETE (R173): line `leaf.line` of a page that moves between devices takes a step; with all 512 of them moved, and from 512 upward, where the
owner hears that the other device has written its leaf, the move goes on to its end. `leaf.w0` and `leaf.w3` are the page's permissions and policy word, which
the owner sends. -/
def execPeerMoveComplete (fn c va : Nat) (leaf : PeerLeaf) (s : State) : Host.Outcome State Fault Refusal :=
  let ck := ctxKey fn c
  .next (match s.peerMoves.find? fun m => m.ctx == ck && m.va == va / 2 ^ 16 * 2 ^ 16 && m.dev == leaf.dev with
    | none => s
    | some m =>
      let ws := s.wordsAt m.pte 4
      if leaf.line < 512 then
        if m.lines.contains leaf.line then s
        else if m.comes then s.pmArriveLine m leaf.line leaf.poison
        else s.pmLeaveLine m (wd ws 0) (wd ws 3) leaf.line
      else if m.lines.length < 512 then s
      else if m.comes then s.pmArrive m leaf.w0 leaf.w3
      else s.pmLeave m (wd ws 0))

/-- PEER_MOVE_CONTROL_WRITE (R175): LOGSZ changes only while PMEN = 0, to a value from 4 to 12. -/
def execPeerMoveControlWrite (fn c : Nat) (v : Word) (s : State) : Host.Outcome State Fault Refusal :=
  let k := kPm (ctxKey fn c) 0x18
  let keep := s.rbits k 31 31 = 1 ∨ bits v 3 0 < 4 ∨ 12 < bits v 3 0
  .next (s.rwrite k (nw (bits v 31 4 * 16 + if keep then s.rbits k 3 0 else bits v 3 0)))

/-! ### Column layouts and base-scratchpad windows (R133, R142, R143, R444) -/

/-- CSPLAN_WRITE (R133): a template whose parts sum to more than 120 is ignored. -/
def execCsplanWrite (part : Nat) (v : Word) (s : State) : Host.Outcome State Fault Refusal :=
  .next (if 8 ≤ part ∨ 120 < bits v 7 0 + bits v 15 8 + bits v 23 16 then s else s.rwrite (kCsplan part) v)

/-- Whether a page of a 16 MiB range is mapped (R143). -/
def State.rangeMapped (s : State) (ck base : Nat) : Bool :=
  (List.range 256).any fun i => match s.walk ck (base + 65536 * i) with | .leaf .. => true | .fault .. => false

/-- L2PART_CHANGE (R142, R143): a write of w0. `fromPf` tells a write through the physical function. -/
def State.l2Change (s : State) (ck : Nat) (fromPf : Bool) (v : Word) : State :=
  let k := kL2 ck 0
  let o := s.rget k
  let gv := if fromPf then bits v 13 13 else bits o 13 13
  let grp := if fromPf then bits v 3 0 else bits o 3 0
  let werr (s : State) : State := s.rsetBits k 14 14 1
  let wpr := bits v 10 8
  let hi := s.rbits (kL2 ck 4) 19 0
  let base := bits v 31 24 * 2 ^ 24 + 2 ^ 32 * hi
  if bits o 15 15 = 1 ∨ s.nslc / 8 ≤ bits v 3 0 ∨ (wpr ≠ 0 ∧ gv = 0) then werr s
  else if gv = 1 ∧ wpr ≠ 0 ∧ s.rangeMapped ck base = true then werr s
  else
    let same := gv = bits o 13 13 ∧ grp = bits o 3 0 ∧ wpr = bits o 10 8 ∧ bits v 31 24 = bits o 31 24 ∧ hi = (s.ctx ck).winHi
    let bad := fromPf = false ∧ (gv ≠ bits v 13 13 ∨ grp ≠ bits v 3 0)
    let err := if bad ∨ (bits o 14 14 = 1 ∧ bits v 14 14 = 0) then 2 ^ 14 else 0
    let s := s.rset k (nw (bits v 31 24 * 2 ^ 24 + (if same then 0 else 2 ^ 15) + err + gv * 2 ^ 13 + wpr * 2 ^ 8 + grp))
    if same then s else s.modCtx ck fun x => { x with winHi := hi, l2Old := (bits o 3 0, if bits o 13 13 = 1 then bits o 10 8 else 0) }

def execL2partChange (fn c : Nat) (fromPf : Bool) (v : Word) (s : State) : Host.Outcome State Fault Refusal :=
  .next (s.l2Change (ctxKey fn c) fromPf v)

/-- L2PART_WIN_HI_STAGE (R143): a write of w1 stages WIN_HI. -/
def execL2partWinHiStage (fn c : Nat) (v : Word) (s : State) : Host.Outcome State Fault Refusal :=
  .next (s.rset (kL2 (ctxKey fn c) 4) (nw (bits v 19 0)))

/-- The home slice of the line of a virtual address, where a leaf maps it (R159). -/
def State.sliceAt (s : State) (ck va : Nat) : Option Nat :=
  match s.walk ck va with
  | .leaf _ base _ frame plait _ _ => let (st, ch, L) := locate frame (va - base) plait; some (s.homeSlice st ch L frame plait)
  | .fault .. => none

/-- Whether the new setting of a change gives up ways of its slice group that the old one did not (R143 step 3). -/
def State.newWays (s : State) (ck : Nat) : Bool :=
  let old := (s.ctx ck).l2Old
  let new := if s.rbits (kL2 ck 0) 13 13 = 1 then s.rbits (kL2 ck 0) 10 8 else 0
  decide (new ≠ 0) && (decide (old.1 ≠ s.rbits (kL2 ck 0) 3 0) || decide (old.2 < new))

/-- Lines that engines own in the slices of a group are recalled (R143 step 3): a request gives up what it has yet to write. Which way of its slice holds a
line is the base cache's own. -/
def State.recallGroup (s : State) (grp : Nat) : State :=
  s.giveUp fun r l => match s.sliceAt r.ctx (128 * l.1) with | some h => h / 8 == grp | none => false

/-- L2PART_CHANGE_COMPLETE (R143 steps 2 to 6, R444): once accesses to the old window are complete, lines of the group that engines own are recalled where
more ways of it are given up, the old contents are discarded, the new window is zero and live, a range that was live and is not is withdrawn, and held
accesses proceed. -/
def execL2partChangeComplete (fn c : Nat) (s : State) : Host.Outcome State Fault Refusal :=
  let ck := ctxKey fn c
  let mineLine (l : Nat) : Bool := decide (winAt (winKey ck 0) ≤ 128 * l) && decide (128 * l < winAt (winKey ck (2 ^ 24)))
  .next (if s.rbits (kL2 ck 0) 15 15 = 0 ∨ (s.dir.any fun p => mineLine p.1 && !p.2.waiting.isEmpty) = true then s
    else
      let s := if s.newWays ck then s.recallGroup (s.rbits (kL2 ck 0) 3 0) else s
      let old := s.wins.filter fun w => w.ctx == ck && w.live
      let rest := s.wins.filter fun w => !(w.ctx == ck && w.live)
      let mine (a : Nat) : Bool := decide (winKey ck 0 ≤ a) && decide (a < winKey ck (2 ^ 24))
      let s := { s with win := s.win.filter fun b => !mine b.1, poison := s.poison.filter fun l => !mineLine l }
      let (live, base) : List Win × Option Nat :=
        match s.l2Window ck with
        | some (b, n) => ([{ ctx := ck, base := b, size := n, live := true }], some b)
        | none => ([], none)
      let rest := match base with | some b => rest.flatMap fun w => if w.ctx = ck then w.cut b (2 ^ 24) else [w] | none => rest
      let gone := (old.filter fun w => base != some w.base).map fun w => { w with live := false, size := 2 ^ 24 }
      ({ s with wins := live ++ gone ++ rest }.rsetBits (kL2 ck 0) 15 15 0).retry ck 0 (2 ^ 52))

/-! ### HBM4E (R146 to R149, R449) -/

/-- The key of a bank: stack × 1024 + channel × 32 + bank (R449). -/
def bankKey (stack chan bank : Nat) : Nat := stack * 1024 + chan % 32 * 32 + bank % 32

/-- A corrected error of a bank (R146, R449): CE rises, saturating, and ERRCNT_3. -/
def State.bankCorrected (s : State) (b : Nat) : State :=
  { s with bankCE := sput 0 s.bankCE b (min 0xFFFF (sget 0 s.bankCE b + 1)) }.countError 3

/-- HBM_SCRUB (R146, R449): a row is read and corrected. -/
def execHbmScrub (stack chan bank : Nat) (corrected : Bool) (s : State) : Host.Outcome State Fault Refusal :=
  .next (if corrected && s.stk.testBit stack then s.bankCorrected (bankKey stack chan bank) else s)

/-- The spare rows of a bank in use. -/
def State.bankSwaps (s : State) (b : Nat) : Nat := (s.rowSwaps.filter fun e => e.1 / 49152 == b).length

/-- The threshold RSTHR of a stack (R148). -/
def State.rsthr (s : State) (stack : Nat) : Nat := s.rbits (kMra stack 0x10) 15 0

/-- HBM_ROW_SWAP (R147, R449): a row has had more activations, which the controller counts in the refresh window. When the count reaches RSTHR the row is
swapped to a spare row, or, with every spare in use, its neighbours are refreshed; the first such refresh of a bank is reported. DEDUCED: its count then
starts anew. -/
def execHbmRowSwap (stack chan bank : Nat) (row : RowActs) (s : State) : Host.Outcome State Fault Refusal :=
  let b := bankKey stack chan bank
  let k := b * 49152 + row.row % 49152
  let count := sget 0 s.rowActs k + row.acts
  let n := s.bankSwaps b
  .next (if !s.stk.testBit stack || row.acts == 0 then s
    else if count < s.rsthr stack then { s with rowActs := sins s.rowActs k count }
    else
      let s := { s with rowActs := sdel s.rowActs k }
      if n < 32 then { s with rowSwaps := (k, n) :: s.rowSwaps }.pfEvent 7 [3, nw b]
      else if s.exhausted.contains b then s
      else
        { s with exhausted := b :: s.exhausted }.pfFault
          { code := 0x1050, cls := 0, src := 11, info := chan % 32 * 2 ^ 8 + bank % 32 * 2 ^ 16 + stack * 2 ^ 21 })

/-- HBM_REFRESH_WINDOW (R147): 32 ms after a stack's window began another begins, and activation counting starts anew. -/
def execHbmRefreshWindow (stack : Nat) (s : State) : Host.Outcome State Fault Refusal :=
  .next (if s.dt < sget 0 s.refreshAt stack + 32000000 then s
    else { s with refreshAt := sins s.refreshAt stack s.dt, rowActs := s.rowActs.filter fun a => a.1 / 49152 / 1024 != stack })

/-- A write of the operation word of a stack's mode-register block (R148). -/
def State.mraStart (s : State) (stack op : Nat) (v : Word) : State :=
  if s.rbits (kMra stack 4) 31 31 = 1 ∨ s.stk.testBit stack = false then s.rsetBits (kMra stack 4) 30 30 1
  else { s.rsetBits (kMra stack 4) 31 31 1 with mraOps := (stack, nw (op * 2 ^ 30 + bits v 29 0)) :: s.mraOps }

/-- MRA_READ_BANK_COUNTS (R148). -/
def execMraReadBankCounts (stack : Nat) (v : Word) (s : State) : Host.Outcome State Fault Refusal := .next (s.mraStart stack 1 v)
/-- MRA_READ_MODE_REGISTER (R148). -/
def execMraReadModeRegister (stack : Nat) (v : Word) (s : State) : Host.Outcome State Fault Refusal := .next (s.mraStart stack 2 v)
/-- MRA_CLEAR_BANK_COUNTS (R148). -/
def execMraClearBankCounts (stack : Nat) (v : Word) (s : State) : Host.Outcome State Fault Refusal := .next (s.mraStart stack 3 v)

/-- MRA_OPERATION_COMPLETE (R148): the counts are read or cleared, or the mode register is read, whose value the memory supplies. -/
def execMraOperationComplete (stack : Nat) (s : State) : Host.Outcome State Fault Refusal :=
  .next (match s.mraOps.find? fun o => o.1 == stack with
    | none => s
    | some (st, v) =>
      let b := bankKey stack (bits v 23 19) (bits v 18 14)
      let s := { s with mraOps := s.mraOps.filter fun o => o.1 != st }.rsetBits (kMra stack 4) 31 31 0
      match bits v 31 30 with
      | 1 => s.rset (kMra stack 8) (nw (sget 0 s.bankCE b * 2 ^ 16 + sget 0 s.bankUE b * 2 ^ 8 + s.bankSwaps b))
      | 2 => let (s, w) := s.free; s.rset (kMra stack 0x0C) (nw (w.toNat % 256))
      | _ => { s with bankCE := sins s.bankCE b 0, bankUE := sins s.bankUE b 0 })

end Sys2Proof.Machine
end

