-- ==== Sys2Proof/Machine/Power.lean ====
section
/-! DEFINITION. Power and heat (R379 to R391): the activity estimator, column budgets and the hoop, regulators, guard bands, layer gating and governor
policy. -/

namespace Sys2Proof.Machine

/-! ### The activity estimator and column budgets (R381 to R385) -/

/-- The words PWGT_0 to PWGT_23 as they stand, and those in force in a column's estimator period: as they stood when it began (R382). -/
def State.pwgt (s : State) : List Word := (List.range 24).map fun i => s.rget (key0 0 (0x160100 + 4 * i))
def State.inForce (s : State) (c : Nat) : List Word :=
  let l := (s.col c).weights
  if l = [] then State.reset.pwgt else l

/-- The energy of a site's activity: each of its 48 event counts by the weight of its event (R381, R382). -/
def weighted (ws : List Word) (counts : List Nat) : Nat :=
  (List.range 48).foldl (fun a k => a + bits (ws.getD (k / 2) 0) (16 * (k % 2) + 15) (16 * (k % 2)) * counts.getD k 0) 0

/-- An energy in 2^−8 pJ over 128 core cycles as power in units of 0.5 W, rounded up (R381). -/
def powerUnits (energy freq : Nat) : Nat := (energy * freq + (256 * 5120 * 500 - 1)) / (256 * 5120 * 500)

/-- The raise of a column, and its budget (R383). -/
def Column.raise (x : Column) : Int := x.shares.foldl (fun a p => a + p.2) 0
def Column.budget (x : Column) : Nat := (60 + x.raise).toNat

/-- Shows the estimate and the budget in the column block (R390). -/
def State.showColumn (s : State) (c : Nat) : State :=
  let x := s.col c
  s.rset (kCol c 4) (nw (x.budget % 256 * 2 ^ 16 + x.estimates.headD 0 % 2 ^ 16))

/-- ESTIMATOR_PERIOD (R381, R382, R384): 128 core cycles have passed. `counts` are the 48 event counts of each of the column's four sites in turn, `temps` the
sites' temperatures. A column over budget issues in a fraction of its cycles in the next period, whose weights are those that stand now. -/
def execEstimatorPeriod (col : Nat) (counts temps : List Nat) (s : State) : Host.Outcome State Fault Refusal :=
  .next (if s.ncol ≤ col ∨ s.clock col < (s.col col).estAt + 128 then s
    else
      let ws := s.inForce col
      let energy (l : Nat) : Nat := weighted ws (counts.drop (48 * l)) + Config.leakage (s.siteOf col) (l + 1) (temps.getD l 0)
      let f := s.colFreq col
      let est := powerUnits ((List.range 4).foldl (fun a l => a + energy l) 0) f
      let bc := (s.col col).budget
      let frac := if (s.col col).softTrip then 1 else if bc < est then max 1 (16 * bc / est) else 16
      (s.modCol col fun x =>
        { x with estimates := (est :: x.estimates).take 8, throttle := frac, estAt := s.clock col, weights := s.pwgt
                 power := (List.range 4).map fun l => powerUnits (energy l) f }).showColumn col)

/-- MARGIN as the hoop uses it: 0 during a supply or coolant excursion (R385, R465). -/
def State.margin (s : State) : Nat := if s.excursion then 0 else s.rbits (key0 0 0x160008) 11 0
def State.rcap (s : State) : Nat := s.rbits (key0 0 0x160008) 20 16

/-- Whether the hoop's next stop is `n`, and 200 ns have passed since its last (R383). -/
def State.hoopStops (s : State) (n : Nat) : Bool := s.hoopNext == n && decide (s.hoopAt + 200 ≤ s.dt)

/-- The hoop goes on from a stop. -/
def State.hoopOn (s : State) : State := { s with hoopNext := (s.hoopNext + 1) % 5, hoopAt := s.dt }

/-- HOOP_BASE_STOP (R383, R385): FREE is what the margin leaves beside all raises; a lap is complete. -/
def execHoopBaseStop (s : State) : Host.Outcome State Fault Refusal :=
  let total := (List.range s.ncol).foldl (fun a c => a + (s.col c).raise) 0
  let free : Int := s.margin - total
  let laps := s.rbits (key0 0 0x16000C) 31 16 + 1
  .next (if !s.hoopStops 0 then s
    else ({ s with hoopFree := free }.hoopOn).rset (key0 0 0x16000C) (nw (laps % 2 ^ 16 * 2 ^ 16 + (free % 2 ^ 16).toNat)))

/-- What a layer stop does at one column (R383): its share and FREE afterwards. The numbers are exact (R12): where RCAP has been lowered below the raise, what
is taken is negative. -/
def hoopColumn (free : Int) (x : Column) (layer rcap : Nat) : Int × Column :=
  let share := sget 0 x.shares layer
  let sum : Int := (x.estimates.take 8).foldl (fun a e => a + (e : Int)) 0
  let bc := 60 + x.raise
  let give := min share 2
  let set (v : Int) : Column := { x with shares := sput 0 x.shares layer v }
  if (free < 0 ∨ sum < 8 * (bc - 6)) ∧ 0 < share then (free + give, set (share - give))
  else if 8 * (bc - 2) < sum then
    let take := min (min (max free 0) 2) (rcap - x.raise)
    (free - take, set (share + take))
  else (free, x)

/-- HOOP_LAYER_STOP (R383): the enabled columns in turn, beginning with column lap mod N. -/
def execHoopLayerStop (layer : Nat) (s : State) : Host.Outcome State Fault Refusal :=
  let n := max 1 s.ncol
  let lap := s.rbits (key0 0 0x16000C) 31 16
  .next (if layer < 1 ∨ 4 < layer ∨ s.hoopStops layer = false then s
    else
      ((List.range n).foldl (fun s i =>
        let c := (lap + i) % n
        let (f, x) := hoopColumn s.hoopFree (s.col c) layer s.rcap
        ({ s with hoopFree := f }.setCol c x).showColumn c) s).hoopOn)

/-- HOOPCFG_WRITE (R385): a field above its limit keeps its value. -/
def execHoopcfgWrite (v : Word) (s : State) : Host.Outcome State Fault Refusal :=
  let r := if 20 < bits v 20 16 then s.rcap else bits v 20 16
  let m := if 660 < bits v 11 0 then s.rbits (key0 0 0x160008) 11 0 else bits v 11 0
  .next (s.rset (key0 0 0x160008) (nw (r * 2 ^ 16 + m)))

/-! ### Regulators and guard bands (R386, R387) -/

/-- The key of REGCFG_k. -/
def kReg (k : Nat) : Nat := key0 0 (0x160020 + 4 * (k % 4))

/-- FREQUENCY_CHANGE (R386): a legal FREQ starts a change; other values, and writes while BUSY = 1, are ignored. -/
def execFrequencyChange (k : Nat) (v : Word) (s : State) : Host.Outcome State Fault Refusal :=
  .next (if s.rbits (kReg k) 31 31 = 1 ∨ bits v 6 0 < 50 ∨ 80 < bits v 6 0 then s
    else (s.noteClocks.rsetBits (kReg k) 6 0 (bits v 6 0)).rsetBits (kReg k) 31 31 1)

/-- FREQUENCY_CHANGE_COMPLETE (R386). -/
def execFrequencyChangeComplete (k : Nat) (s : State) : Host.Outcome State Fault Refusal := .next (s.rsetBits (kReg k) 31 31 0)

/-- REGULATOR_SELECT_WRITE (R386): the field of a bound column keeps its value. -/
def execRegulatorSelectWrite (j : Nat) (v : Word) (s : State) : Host.Outcome State Fault Refusal :=
  let k := key0 0 (0x160030 + 4 * (j % 3))
  .next ((List.range 16).foldl (fun s i => if (s.col (16 * (j % 3) + i)).bound then s else s.rsetBits k (2 * i + 1) (2 * i) (bits v (2 * i + 1) (2 * i))) s.noteClocks)

/-! ### Layer gating (R70, R388) -/

/-- The key of LGATE, and the state of a layer: 0 OPEN, 1 EVACUATING, 2 GATED, 3 WAKING. -/
def kLgate : Nat := key0 0 0x160010
def State.lgate (s : State) (l : Nat) : Nat := s.rbits kLgate (2 * l + 7) (2 * l + 6)
def State.setLgate (s : State) (l v : Nat) : State := s.rsetBits kLgate (2 * l + 7) (2 * l + 6) v

/-- Requests or ends the evacuation of a layer in every column (R70). -/
def State.setEvac (s : State) (l : Nat) (on : Bool) : State :=
  (List.range s.ncol).foldl (fun s c => s.modCol c fun x =>
    { x with evac := if on then (if x.evac.contains l then x.evac else x.evac ++ [l])
                     else if x.closed.contains l then x.evac else x.evac.filter fun y => y != l }) s

/-- Gates a layer that is OPEN, when another layer stays OPEN; a request that would leave none is ignored (R388). -/
def State.gateLayer (s : State) (l : Nat) : State :=
  if l < 1 ∨ 4 < l then s
  else if s.lgate l ≠ 0 then s.rsetBits kLgate (l - 1) (l - 1) 1
  else if [1, 2, 3, 4].any fun m => m != l && s.lgate m == 0 then ((s.rsetBits kLgate (l - 1) (l - 1) 1).setLgate l 1).setEvac l true
  else s

/-- LAYER_GATE_REQUEST (R388). -/
def execLayerGateRequest (layer : Nat) (s : State) : Host.Outcome State Fault Refusal := .next (s.gateLayer layer)

/-- Whether a column has ended the evacuation of a layer: no team executes on its core, or is on its way to it (R70, R78). -/
def State.evacuated (s : State) (c l : Nat) : Bool := (s.teamsOf c).all fun p => !s.claims p.1 p.2 l

/-- LAYER_EVACUATION_COMPLETE (R388): the layer is gated, and an event posted. -/
def execLayerEvacuationComplete (layer : Nat) (s : State) : Host.Outcome State Fault Refusal :=
  .next (if 1 ≤ layer ∧ layer ≤ 4 ∧ s.lgate layer = 1 ∧ ((List.range s.ncol).all fun c => s.evacuated c layer) = true then
      ((s.setLgate layer 2).setEvac layer false).pfEvent 6 [nw (layer - 1)]
    else s)

/-- LAYER_GATE_RELEASE (R388): REQ is cleared. -/
def execLayerGateRelease (layer : Nat) (s : State) : Host.Outcome State Fault Refusal :=
  .next (if layer < 1 ∨ 4 < layer then s
    else
      let s := s.rsetBits kLgate (layer - 1) (layer - 1) 0
      match s.lgate layer with
      | 1 => (s.setLgate layer 0).setEvac layer false
      | 2 => s.setLgate layer 3
      | _ => s)

/-- LAYER_WAKE_COMPLETE (R388): the layer reopens; a request made meanwhile is taken up. -/
def execLayerWakeComplete (layer : Nat) (s : State) : Host.Outcome State Fault Refusal :=
  .next (if 1 ≤ layer ∧ layer ≤ 4 ∧ s.lgate layer = 3 then
      let s := s.setLgate layer 0
      if s.rbits kLgate (layer - 1) (layer - 1) = 1 then s.gateLayer layer else s
    else s)

/-! ### Governor policy (R389) -/

/-- GOVERNOR_POLICY_WRITE (R389): a write that breaks the order of the thresholds, or makes MINRES 0, is ignored and sets ERR. -/
def execGovernorPolicyWrite (off : Nat) (v : Word) (s : State) : Host.Outcome State Fault Refusal :=
  .next (if off = 0x160000 then
      (if bits v 31 24 < bits v 23 16 ∨ bits v 15 8 < bits v 7 0 then s.govErr else s.rset (key0 0 off) v)
    else if off = 0x160004 then (if bits v 15 0 = 0 then s.govErr else s.rwrite (key0 0 off) v)
    else s)

end Sys2Proof.Machine
end

