-- ==== Sys2Proof/Machine/Links.lean ====
section
/-! DEFINITION. The host and peer links (R395, R397 to R399, R450, R473), checkpoint (R401, R402), attestation (R404, R405) and device reset (R403, R406,
R472). -/

namespace Sys2Proof.Machine

/-- Whether links and queues run (R408). -/
def State.alive (s : State) : Bool := s.powered && !s.fatal

/-! ### Links (R397, R398, R473) -/

/-- The key of a peer-link register. -/
def kLink (o : Nat) : Nat := key0 0 (0x180000 + o)

/-- PEER_LINK_CONTROL_WRITE (R397): DEVNO and the route table are written only while DOMEN = 0. `off` is the region's offset. -/
def execPeerLinkControlWrite (off : Nat) (v : Word) (s : State) : Host.Outcome State Fault Refusal :=
  let on := s.rbits (kLink 0) 31 31 = 1
  .next (if off = 0x180000 then (if on then s.rsetBits (kLink 0) 31 31 (bits v 31 31) else s.rwrite (kLink 0) v)
    else if off = 0x180008 then s.rwrite (kLink 8) v
    else if 0x180010 ≤ off ∧ off < 0x180110 ∧ off % 4 = 0 then (if on then s else s.rwrite (key0 0 off) v)
    else s)

/-- LINK_FLIT_REPLAY (R398, R418): the link replays the flit in order; only the counter shows it. -/
def execLinkFlitReplay (peer : Bool) (link : Nat) (s : State) : Host.Outcome State Fault Refusal :=
  .next (if peer = true ∧ 12 ≤ link then s else s.countError (if peer then 7 else 6))

/-- How `lostLinks` names a link. -/
def linkName (peer : Bool) (link : Nat) : Nat := if peer then 256 + link else 0

/-- A link is out of training. -/
def State.markLost (s : State) (n : Nat) : State := { s with lostLinks := if s.lostLinks.contains n then s.lostLinks else n :: s.lostLinks }

/-- The devices that have a route table entry but no trained link in it. -/
def State.unrouted (s : State) : List Nat :=
  (List.range 64).filter fun k => s.rget (kLink (0x10 + 4 * k)) != 0 && (s.rget (kLink 4) &&& s.rget (kLink (0x10 + 4 * k))) == 0

/-- LINK_LOSS (R399, R473): traffic moves to the other links of a route; the loss of a route's last link is timed. -/
def execLinkLoss (peer : Bool) (link : Nat) (s : State) : Host.Outcome State Fault Refusal :=
  .next (if peer then
      if 12 ≤ link ∨ s.rbits (kLink 4) link link = 0 then s
      else
        let s := (s.rsetBits (kLink 4) link link 0).markLost (linkName true link)
        { s with lostRoutes := s.lostRoutes ++ ((s.unrouted.filter fun k => !(s.lostRoutes.any fun p => p.1 == k)).map fun k => (k, s.dt)) }
    else { s with hostUp := false }.markLost (linkName false link))

/-- HOST_LINK_DOWN (R473): host traffic stops or waits, and the device runs on. -/
def execHostLinkDown (s : State) : Host.Outcome State Fault Refusal := .next ({ s with hostUp := false }.markLost 0)

/-- LINK_RETRAINED (R397, R473): the link is up; one that had lost training posts an event. -/
def execLinkRetrained (peer : Bool) (link : Nat) (s : State) : Host.Outcome State Fault Refusal :=
  let n := linkName peer link
  let post (s : State) : State :=
    if s.lostLinks.contains n then
      { s with lostLinks := s.lostLinks.filter fun x => x != n }.pfEvent 5 [nw (link % 16 + if peer then 256 else 0)]
    else s
  .next (if peer then
      if 12 ≤ link ∨ s.rbits (kLink 8) link link = 0 then s
      else
        let s := s.rsetBits (kLink 4) link link 1
        let down := s.unrouted
        post { s with lostRoutes := s.lostRoutes.filter fun p => down.contains p.1 }
    else post { s with hostUp := true })

/-! ### A route lost (R447, R473) -/

/-- The device a context's leaf for an address names, if it is PEER. -/
def State.leafDev (s : State) (ck va : Nat) : Option Nat :=
  match s.walk ck va with
  | .leaf _ _ _ _ plait _ _ => if pCls plait = 2 then some (bits plait 5 0) else none
  | .fault .. => none

/-- The global addresses an engine request reaches. -/
def Req.addrs (r : Req) (s : State) (tm : Team) : List Nat :=
  match r.kind with
  | .copy => (if r.xm % 4 = 0 then lineAddrs r.d r.b else []) ++ if r.xm / 4 % 4 = 0 then lineAddrs r.a r.b else []
  | .cpyt => { r with xm := 1 }.destAddrs s (some tm)
  | .gath => (tm.indices r).map fun i => r.a + i * r.ty
  | _ => r.destAddrs s (some tm)

/-- The accesses of a context's teams that wait for a link to a device. -/
def State.peerWaiters (s : State) (ck dev : Nat) : List (Nat × Team × Access) :=
  (s.teams.filter fun p => s.teamCtx p.2 == ck).flatMap fun p =>
    (p.2.accesses.filter fun a => a.state == .sent && s.leafDev ck a.va == some dev).map fun a => (p.1, p.2, a)

/-- The engine requests of a context that wait for a link to a device. -/
def State.peerReqs (s : State) (ck dev : Nat) : List (Req × Nat) :=
  (s.reqs.filter fun r => r.ctx == ck && !r.stopped && !r.discard).filterMap fun r =>
    match s.reqTeam r with
    | none => none
    | some tm => ((r.addrs s tm).find? fun va => s.leafDev ck va == some dev).map fun va => (r, va)

/-- Holds what a context has waiting for a device, with one record (R436, R473). -/
def State.holdPeer (s : State) (dev ck : Nat) : State :=
  let hold (s : State) : List (Nat × Team × Access) → State := List.foldl (fun s x => s.suspend x.1 x.2.1 x.2.2) s
  let stop (s : State) : List (Req × Nat) → State := List.foldl (fun s x => s.modReq x.1.id fun r => { r with stopped := true, stopVa := x.2 }) s
  match s.peerWaiters ck dev, s.peerReqs ck dev with
  | (k, tm, a) :: rest, rs =>
    let s := s.report ck (teamRec k tm { code := 0x2070, src := 0, thread := a.thread, pc := a.pc, word := a.word, addr := a.va, info := dev })
    stop (hold s ((k, tm, a) :: rest)) rs
  | [], (r, va) :: rest => stop (s.report ck (s.reqRec r 0x2070 dev va)) ((r, va) :: rest)
  | [], [] => s

/-- A peer move whose other device is unreachable (R447): the owner takes its page back. Lines that have left are marked poisoned, every line is UNMOVED, and
MV is cleared; the device that the page was coming to gives it up. A page whose lines have all arrived, and whose leaf is being rewritten, is not given up. -/
def State.abandonMove (s : State) (m : PeerMove) : State :=
  let gone : State := { s with peerMoves := s.peerMoves.filter fun q => q.id != m.id }
  if m.comes then gone
  else if m.step ≠ 0 then s
  else
    let s := (List.range 512).foldl (fun s i => s.setHome (m.line i) { s.home (m.line i) with move := .unmoved }) gone
    let s := m.lines.foldl (fun s i => s.setPoison (m.line i) true) s
    let w0 := wd (s.wordsAt m.pte 1) 0
    (s.agentPut m.id m.pte [w0 &&& ~~~0x40]).report m.ctx { code := 0x1030, src := 3, addr := m.va, info := kEngW + 16 * min 15 m.lines.length }

/-- The keys of the checkpoint block. -/
def kCkpt (o : Nat) : Nat := key0 0 (0x170200 + o)

/-- A checkpoint fails (R402). DEDUCED (safe): one of whose targets no route leads to any more does; the spec names ERR for a checkpoint that fails and gives
no cause. -/
def State.ckptFail (s : State) : State := { s with ckpt := [] }.rsetBits (kCkpt 8) 31 30 1

/-- PEER_ROUTE_LOST (R402, R447, R473): after 10 ms without a route, requests to the device are held with one record for each context, and moves and a
checkpoint that need it end. -/
def execPeerRouteLost (dev : Nat) (s : State) : Host.Outcome State Fault Refusal :=
  .next (if s.peerUp dev ∨ s.dt < sget 0 s.lostRoutes dev + 10000000 then s
    else
      let cs := ((s.teams.map fun p => s.teamCtx p.2) ++ s.reqs.map Req.ctx).eraseDups
      let s := cs.foldl (fun s ck => s.holdPeer dev ck) s
      let s := if s.ckpt.any fun t => t.1 == some dev then s.ckptFail else s
      (s.peerMoves.filter fun m => m.dev == dev).foldl (fun s m => s.abandonMove m) s)

/-! ### Inbound requests of peers (R166, R171, R399) -/

/-- A write of word 0x08 of a context's link block (R394): the order in which contexts have become members is kept. -/
def State.memberWrite (s : State) (ck : Nat) (v : Word) : State :=
  let was := s.rget (kLk ck 8)
  let s := s.rwrite (kLk ck 8) v
  if s.rget (kLk ck 8) = was then s
  else
    let rest := s.members.filter fun c => c != ck
    { s with members := if s.rbits (kLk ck 8) 31 31 = 1 then rest ++ [ck] else rest }

/-- A write of another device to a page is noted by the peer-move agent (R171). -/
def State.remoteWrite (s : State) (ck dctx va dev : Nat) : State :=
  match s.walk ck va with
  | .fault .. => s
  | .leaf _ _ size _ plait _ w3 =>
    if size ≠ 2 ^ 16 ∨ bits w3 28 28 = 0 ∨ (pCls plait ≠ 0 ∧ pCls plait ≠ 3) then s
    else
      let mine (x : Candidate) : Bool := x.dctx == dctx && x.page == va / 2 ^ 16
      let new : Candidate := match s.candidates.find? mine with
        | some x => if x.dev = dev then { x with count := x.count + 1 } else { x with dev, count := 1, localWrite := false }
        | none => { dctx, page := va / 2 ^ 16, dev, count := 1, localWrite := false }
      { s with candidates := (new :: s.candidates.filter fun x => !mine x).take 256 }

/-- A message to another device. -/
def State.send (s : State) (m : OutMsg) : State := { s with outbox := m :: s.outbox }

/-- Answers a peer's request with an error. -/
def State.peerError (s : State) (dev va code : Nat) : State := s.send { dev := some dev, addr := va, data := [], err := some code, kind := .reply }

/-- A fault of a peer's request (R166, R417, R434, R442): recorded and answered with an error; one of freeze fate freezes the peer device. -/
def State.peerFault (s : State) (ck dev dctx va code info : Nat) : State :=
  let r : Rec := { code, src := 7, addr := va, info }
  let s := if freezeFate code then (s.report ck r).freezeOther ck (code * 2 ^ 32 + dev * 2 ^ 16 + dctx * 2 ^ 4 + 4) else s.reportOnce ck (some 7) kPeerIn r
  s.peerError dev va code

/-- What the home of a line does for a peer's request (R182, R196, R399): nothing yet where the line is owned or moving. -/
def State.peerHome (s : State) (ck dev dctx va key : Nat) (kind : InboundKind) (data : List Byte) : State :=
  let line := key / 128
  let o := key % 128
  let bad := s.isPoison line
  let reply (s : State) (data : List Byte) : State := s.send { dev := some dev, addr := va, data, kind := .reply }
  let arrive (op : HomeOp) : State := (s.homeArrive line { t := 0, op, inbound := some ck, reply := some (dev, va) }).1
  if s.lineHeld line then s
  else
    match kind with
    | .read size =>
      if bad then s.peerFault ck dev dctx va 0x1040 kPeerIn
      else reply s (s.bytesAt key (min size (128 - o)))
    | .write =>
      let bs := data.take (128 - o)
      let s := arrive (.write (bs.zipIdx.map fun b => (o + b.2, b.1)))
      (s.capture 3 ck va bs.length dev s.acqn bs).remoteWrite ck dctx va dev
    | .atomic op ty =>
      if bad then s.peerFault ck dev dctx va 0x1040 kPeerIn
      else
        let size := intWidth (aopTyOf op ty) / 8
        let opn (i : Nat) : Nat := leNat ((data.drop (i * size)).take size)
        let s := arrive (.atomic o size op (aopTyOf op ty) (opn 0) (opn 1))
        (s.capture 3 ck va size dev s.acqn (data.take size)).remoteWrite ck dctx va dev
    | .prm =>
      let (s, t) := s.promote line
      if t ≤ s.dt then reply s [] else s

/-- The class of an inbound request: whether it reads, and whether it writes. -/
def inboundRw : InboundKind → Bool × Bool
  | .read _ => (true, false)
  | .write => (false, true)
  | .atomic .. => (true, true)
  | .prm => (true, false)

/-- Translates an inbound request (R155, R399): one that reads and writes needs both permissions. -/
def State.inboundTarget (s : State) (ck va kind : Nat) (rw : Bool × Bool) : Except (Nat × Nat) Target :=
  if 2 ^ 52 ≤ va then .error (0x1008, kind)
  else
    let r := (s.xlate none ck va kind false false true).2
    let w := (s.xlate none ck va kind true false true).2
    match rw with
    | (true, true) => (match r with | .error e => .error e | .ok _ => w)
    | (true, false) => r
    | _ => w

/-- The message that hands an inbound request on to device `d` (R166, R399). -/
def forwarded (d va dctx : Nat) (req : InboundReq) (data : List Byte) : OutMsg :=
  { dev := some d, addr := va, data, dctx, hops := req.hops, scope := req.scope
    aop := match req.kind with | .atomic op ty => some (op, ty) | _ => none
    kind := match req.kind with | .read n => .read n | .prm => .prm | _ => .write }

/-- The home line of an address of a page that comes to this device, if the line has come: it is served here while the leaf still names the owner (R173). -/
def State.comeKey (s : State) (ck va dev : Nat) : Option Nat :=
  (s.peerMoves.find? fun m => m.comes && m.ctx == ck && m.dev == dev && m.va == va / 2 ^ 16 * 2 ^ 16 && m.lines.contains (va % 2 ^ 16 / 128)).map fun m =>
    m.line (va % 2 ^ 16 / 128) * 128 + va % 128

/-- Serves a request of a device for a context of this one (R166, R399): at a line's home here, or, up to three times, by forwarding it to the device that the
leaf names or the line has moved to. -/
def State.peerServe (s : State) (ck dev dctx va : Nat) (req : InboundReq) (data : List Byte) : State :=
  match s.inboundTarget ck va kPeerIn (inboundRw req.kind) with
  | .error (code, info) => if code = 0 then s else s.peerFault ck dev dctx va code info
  | .ok (.hbm key) => s.peerHome ck dev dctx va key req.kind data
  | .ok (.peer d a) =>
    match s.comeKey ck va d with
    | some key => s.peerHome ck dev dctx va key req.kind data
    | none =>
      if 3 ≤ req.hops then
        (s.reportOnce ck (some 7) kPeerIn { code := 0x100E, src := 7, addr := va, info := kPeerIn + 16 * 0xFFF }).peerError dev va 0xFFF
      else if s.peerUp d then s.send (forwarded d a dctx { req with hops := req.hops + 1 } data)
      else s
  | .ok (.host _) => s.peerFault ck dev dctx va 0x1004 kPeerIn
  | .ok (.window _) => s.peerFault ck dev dctx va 0x1012 kPeerIn

/-- This device's number in the load-store domain (R397). -/
def State.devNo (s : State) : Nat := s.rbits (kLink 0) 5 0

/-- PEER_INBOUND_REQUEST (R166, R399, R417): a request of a device, which others may have forwarded before, is served for the context of its domain context; one
for another device is passed on along this device's route. `data` holds what is written, or an atomic's operands; a request stays within a line.
It waits, and is offered again, where its line is held or no link leads on. -/
def execPeerInboundRequest (dev dctx va : Nat) (req : InboundReq) (data : List Byte) (s : State) : Host.Outcome State Fault Refusal :=
  .next (if !s.alive || s.rbits (kLink 0) 31 31 == 0 || decide (64 ≤ dev) then s
    else
      match req.dest.filter fun d => d != s.devNo with
      | some d => if s.peerUp (d % 64) then s.send { forwarded (d % 64) va dctx req data with transit := some dev } else s
      | none =>
        if !s.peerUp dev then s
        else
          match s.servingCtx dctx with
          | none => s.peerError dev va 0
          | some ck => if s.frozenPeers.contains (dev, dctx) then s.peerError dev va 0 else s.peerServe ck dev dctx va req data)

/-- PEER_UNFREEZE (R417, R418): writing 1 to a bit of PFRZ releases the device, for every domain context. -/
def execPeerUnfreeze (hi : Bool) (v : Word) (s : State) : Host.Outcome State Fault Refusal :=
  let cut (m : Nat × Nat) : Bool := decide (m.1 / 32 = if hi then 1 else 0) && v.getLsbD (m.1 % 32)
  .next { s.rwrite (kEr (if hi then 8 else 4)) v with frozenPeers := s.frozenPeers.filter fun m => !cut m }

/-! ### Host inbound accesses (R395, R450) -/

/-- Whether the leaf of an address is PEER: the address of a line that only a page move has taken away is not (R173). -/
def State.onPeer (s : State) (ck va : Nat) : Bool := match s.leafOf none ck va with | some x => pCls x.plait == 2 | none => false

/-- The cause for which a byte of an inbound access is refused, with its CODE, or the byte's home; `none` where the byte waits. DESIGN CHOICE (safe): one of a
line that has moved to another device waits until the leaf names that device. -/
def State.hostJudge (s : State) (ck va : Nat) (write : Bool) : Option (Except (Nat × Nat) Nat) :=
  if s.rbits (kLk ck 0) 0 0 = 0 then some (.error (1, 0))
  else
    match s.inboundTarget ck va kHostIn (!write, write) with
    | .error (code, _) =>
      if code = 0 then none
      else if code = 0x1012 then some (.error (6, code))
      else if [0x1003, 0x1004, 0x1005, 0x1006].contains code then some (.error (3, 0))
      else some (.error (2, code))
    | .ok (.hbm key) => if !write && s.isPoison (key / 128) then some (.error (5, 0)) else some (.ok key)
    | .ok (.window _) => some (.error (6, 0x1012))
    | .ok (.host _) => some (.error (4, 0))
    | .ok (.peer ..) => if s.onPeer ck va then some (.error (4, 0)) else none

/-- What the bytes of an inbound access meet: the lowest refused byte, that one waits, or their homes. -/
def State.hostJudgeAll (s : State) (ck va : Nat) (write : Bool) : Nat → Option (Except (Nat × Nat × Nat) (List Nat))
  | 0 => some (.ok [])
  | n + 1 =>
    match s.hostJudge ck va write with
    | some (.error (cause, code)) => some (.error (cause, code, va))
    | x =>
      match x, State.hostJudgeAll s ck (va + 1) write n with
      | _, some (.error e) => some (.error e)
      | some (.ok key), some (.ok l) => some (.ok (key :: l))
      | _, _ => none

/-- Groups the bytes of a write by line, in order. -/
def byLine : List (Nat × Byte) → List (Nat × List (Nat × Byte))
  | [] => []
  | (key, b) :: rest =>
    match byLine rest with
    | (line, l) :: t => if line = key / 128 then (line, (key % 128, b) :: l) :: t else (key / 128, [(key % 128, b)]) :: (line, l) :: t
    | [] => [(key / 128, [(key % 128, b)])]

/-- Whether a write of the host waits at a home for its completion time: of every one, or of those that are ordered (R199). -/
def State.hostWriteWaits (s : State) (all : Bool) : Bool :=
  s.dir.any fun p => p.2.waiting.any fun w => w.inbound.isSome && w.reply.isNone && (all || w.ordered)

/-- The record of an inbound access that is refused (R450). -/
def State.hostRefuse (s : State) (ck : Nat) (e : Nat × Nat × Nat) : State :=
  s.report ck { code := 0x1060, src := 6, addr := e.2.2, info := kHostIn + 16 * e.1 + 2 ^ 8 * e.2.1 }

/-- Performs a posted write of the host (R199, R395, R450): none while a line holds it, or, ordered, while the one before it has not been applied. -/
def State.hostWrite (s : State) (w : HostWrite) : Option State :=
  if w.ordered && s.hostWriteWaits false then none
  else
    match s.hostJudgeAll w.ctx w.va true w.data.length with
    | none => none
    | some (.error e) => some (s.hostRefuse w.ctx e)
    | some (.ok keys) =>
      let lines := byLine (keys.zip w.data)
      if lines.any fun l => s.lineHeld l.1 then none
      else
        let s := lines.foldl (fun s l => (s.homeArrive l.1 { t := 0, op := .write l.2, inbound := some w.ctx, ordered := w.ordered }).1) s
        some (s.capture 2 w.ctx w.va w.data.length 0 s.acqn w.data)

/-- The posted writes that wait are performed as far as they may be, and the others stay: with `blocked`, the ordered ones wait for an earlier one
(R199). -/
def State.hostServe (s : State) (blocked : Bool) : List HostWrite → State × List HostWrite
  | [] => (s, [])
  | w :: rest =>
    match if w.ordered && blocked then none else s.hostWrite w with
    | some s => State.hostServe s blocked rest
    | none => let (s, l) := State.hostServe s (blocked || w.ordered) rest; (s, w :: l)

/-- The posted writes of the host that wait go on (R199). -/
def State.serveHost (s : State) : State :=
  if s.hostQueue = [] || !s.alive then s else let (s, l) := ({ s with hostQueue := [] } : State).hostServe false s.hostQueue; { s with hostQueue := l }

/-- HOST_INBOUND_ACCESS (R199, R395, R450): an access to byte `off` of window `c` of a function. `data` is what is written; of a read, its length is that of
the access. A posted write joins the queue, and goes as far as it may; a read waits, and is offered again, while an earlier write of the host waits or
a line is held. An AtomicOp completes with Unsupported Request (R395, R396). -/
def execHostInboundAccess (fn c off : Nat) (access : HostAccess) (data : List Byte) (s : State) : Host.Outcome State Fault Refusal :=
  let ck := ctxKey fn c
  let va := s.rbits (kLk ck 0) 31 28 * 2 ^ 28 + 2 ^ 32 * s.rbits (kLk ck 4) 19 0 + off
  .next (if !s.alive || !s.hostUp || decide (2 ^ 28 ≤ off) || data.isEmpty then s
    else if access.atomic then s.send { dev := none, addr := va, data := [], err := some 0, kind := .reply }
    else if access.write then ({ s with hostQueue := s.hostQueue ++ [{ ctx := ck, va, data, ordered := !access.relaxed }] } : State).serveHost
    else if !s.hostQueue.isEmpty || s.hostWriteWaits true then s
    else
      match s.hostJudgeAll ck va false data.length with
      | none => s
      | some (.error e) => (s.hostRefuse ck e).send { dev := none, addr := va, data := [], err := some 0x1060, kind := .reply }
      | some (.ok keys) =>
        if keys.any fun key => s.lineHeld (key / 128) then s
        else s.send { dev := none, addr := va, data := keys.map s.byteAt, kind := .reply })

/-! ### Checkpoint (R401, R402) -/

/-- The size of the image: 48 GiB for each usable stack. -/
def State.imageSize (s : State) : Nat := pop8 s.stk * 32 * (3 * 2 ^ 29)

/-- The byte of the image that a byte of device memory is (R401). -/
def State.imageByte (s : State) (key : Nat) : Nat :=
  let st := key / 2 ^ 36
  let j := ((List.range st).filter fun i => s.stk.testBit i).length
  (32 * j + key / 2 ^ 31 % 32) * (3 * 2 ^ 29) + key % 2 ^ 31

/-- A target descriptor: device or host, address and length; none if it is malformed. -/
def target? (ws : List Word) : Option (Option Nat × Nat × Nat) :=
  if bits (wd ws 0) 31 14 ≠ 0 ∨ bits (wd ws 0) 7 1 ≠ 0 ∨ wd ws 3 ≠ 0 ∨ wd ws 6 ≠ 0 ∨ wd ws 7 ≠ 0 ∨ twoAt ws 4 % 2 ^ 21 ≠ 0 then none
  else some (if bits (wd ws 0) 0 0 = 1 then some (bits (wd ws 0) 13 8) else none, twoAt ws 1, twoAt ws 4)

/-- The target list, read from host memory. -/
def State.targetList (s : State) : List (Option (Option Nat × Nat × Nat)) :=
  let base := s.rbits (kCkpt 0) 31 5 * 32 + 2 ^ 32 * s.rbits (kCkpt 4) 31 0
  (List.range (s.rbits (kCkpt 8) 7 4 + 1)).map fun i => target? (bytesWords (s.outsideBytes (base + 32 * i) 32))

/-- CHECKPOINT_START (R402): a write of the control word. A start while one runs, or with a target list that is malformed or does not cover the image, is
refused with ERR. -/
def execCheckpointStart (v : Word) (s : State) : Host.Outcome State Fault Refusal :=
  let busy := s.rbits (kCkpt 8) 31 31 = 1
  let s := s.rwrite (kCkpt 8) v
  .next (if bits v 0 0 = 0 then s
    else
      let ts := s.targetList
      let ok := ts.filterMap id
      if busy ∨ ok.length ≠ ts.length ∨ ok.foldl (fun a t => a + t.2.2) 0 ≠ s.imageSize then s.rsetBits (kCkpt 8) 30 30 1
      else ({ s with ckpt := ok }.rsetBits (kCkpt 8) 31 31 1).rset (kCkpt 0x0C) 0)

/-- Sends each target what of its range lies at image bytes from `lo` up to `hi` (R401, R402). -/
def State.sendImage (s : State) (cells : List (Nat × Byte)) (lo hi : Nat) : List (Option Nat × Nat × Nat) → Nat → State
  | [], _ => s
  | (dev, addr, len) :: rest, off =>
    let a := max lo off
    let b := min hi (off + len)
    let s := if a < b then
        s.send { dev, addr := addr + (a - off), data := [], image := some (a, b - a), cells := cells.filter fun c => decide (a ≤ c.1) && decide (c.1 < b) }
      else s
    State.sendImage s cells lo hi rest (off + len)

/-- Whether every target of a checkpoint can be reached. -/
def State.ckptUp (s : State) : Bool := s.alive && s.ckpt.all fun t => match t.1 with | some d => s.peerUp d | none => s.hostUp

/-- A checkpoint carries `mib` more MiB of the image to its targets (R401, R402, R448), as far as their links are up: poisoned lines go as zeros, each with a
record that names the line. -/
def State.carry (s : State) (mib : Nat) : State :=
  if s.rbits (kCkpt 8) 31 31 = 0 ∨ s.ckptUp = false then s
  else
    let done := s.rbits (kCkpt 0x0C) 31 0
    let upTo := min (s.imageSize / 2 ^ 20) (done + mib)
    let in_ (key : Nat) : Bool := s.stk.testBit (key / 2 ^ 36) && decide (key % 2 ^ 31 < 3 * 2 ^ 29) && decide (done * 2 ^ 20 ≤ s.imageByte key)
      && decide (s.imageByte key < upTo * 2 ^ 20)
    let cells := (s.mem.filter fun c => in_ c.1 && !s.poison.contains (c.1 / 128)).map fun c => (s.imageByte c.1, c.2)
    let bad := s.poison.filter fun l => decide (l < winLine0) && in_ (128 * l)
    let s := s.sendImage cells (done * 2 ^ 20) (upTo * 2 ^ 20) s.ckpt 0
    let s := bad.foldl (fun s l => s.pfFault { code := 0x1041, src := 3, addr := 128 * l, info := kEngW }) s
    s.rset (kCkpt 0x0C) (nw upTo)

/-- CHECKPOINT_COMPLETE (R401, R402, R418): what is left of the image has gone out, and the last target has acknowledged. -/
def execCheckpointComplete (s : State) : Host.Outcome State Fault Refusal :=
  .next (if s.rbits (kCkpt 8) 31 31 = 0 ∨ s.ckptUp = false then s
    else
      let t := { s.carry (s.imageSize / 2 ^ 20) with ckpt := [] }.rsetBits (kCkpt 8) 31 31 0
      ((t.rset (kCkpt 0x10) (nw s.dt)).rset (kCkpt 0x14) (nw (s.dt / 2 ^ 32))).raiseMsix 0 51)

/-! ### Attestation (R404, R405) -/

/-- The key of the control word of the identity block. -/
def kAttest : Nat := key0 0 0x170168

/-- Fuse bytes. -/
def fuses (o n : Nat) : List Byte := (List.range n).map fun i => Config.fuse (o + i)

/-- Bytes 0 to 335 of a report (R405). -/
def State.reportBody (s : State) : List Byte :=
  let used (spare : Nat) : Nat := 8 - spare
  let lanes := (s.laneGroups.filter fun g => g.2.spares != 2).length
  leBytes 1 4 ++ fuses 64 12 ++ wordsBytes ((List.range 8).map fun i => sget 0 s.nonce i) ++ wordsBytes [s.cfgw]
    ++ leBytes (used (bits s.cfgw 25 22) + 2 ^ 8 * used (bits s.cfgw 29 26) + 2 ^ 16 * lanes) 4 ++ leBytes s.rowSwaps.length 4 ++ leBytes 0 4
    ++ (List.range 56).map (fun c => BitVec.ofNat 8 (if c < s.ncol then s.siteOf c else 0xFF)) ++ leBytes 0 8 ++ leBytes s.dt 8
    ++ (s.measured ++ List.replicate 192 0).take 192 ++ leBytes 0 8

/-- ATTESTATION_REPORT (R404): GO while a report is being made is ignored and sets ERR. -/
def execAttestationReport (v : Word) (s : State) : Host.Outcome State Fault Refusal :=
  let busy := s.rbits kAttest 31 31 = 1
  let s := s.rwrite kAttest v
  .next (if bits v 0 0 = 0 then s else if busy then s.rsetBits kAttest 30 30 1 else s.rsetBits kAttest 31 31 1)

/-- ATTESTATION_REPORT_COMPLETE (R405, R418): the report, with its signature, is written to host memory. -/
def execAttestationReportComplete (s : State) : Host.Outcome State Fault Refusal :=
  .next (if s.rbits kAttest 31 31 = 0 ∨ !s.hostUp then s
    else
      let body := s.reportBody
      let sig := Config.ed448 body
      let addr := (s.rbits (key0 0 0x170160) 31 0 + 2 ^ 32 * s.rbits (key0 0 0x170164) 31 0) / 64 * 64
      let s := s.send { dev := none, addr, data := body ++ (sig ++ List.replicate 114 0).take 114 ++ List.replicate 14 0 }
      (s.rsetBits kAttest 31 31 0).raiseMsix 0 51)

/-! ### Device reset (R403, R406, R472) -/

/-- Whether enough parts are left for a legal configuration (R472). -/
def State.bootable (s : State) : Bool :=
  decide (s.worn.wornSites.length ≤ 16) && decide (s.worn.wornSlices.length ≤ 24) && decide (s.worn.wornStacks.length ≤ 2)

/-- The device after a reset (R403, R406, R407, R472): every register takes its reset value and nothing runs; the configuration is chosen anew, and the boot
begins. Wear, the fuses and what has left the device stay, and what saves have kept beside their images, as the images may (R468); device memory stays but at
power-on. After a hard trip RCAUSE reads 3 (R466). -/
def State.resetDevice (s : State) (cause : Nat) : State :=
  let cause := if s.hardTrip.isSome then 3 else cause
  let s' : State := { State.reset with
    agenda := s.agenda, freeCount := s.freeCount, outbox := s.outbox, msix := s.msix
    ctxs := s.ctxs.map fun p => (p.1, { savedGrids := p.2.savedGrids, savedTeams := p.2.savedTeams, heldReqs := p.2.heldReqs })
    mem := if cause = 0 then [] else s.mem, poison := if cause = 0 then [] else s.poison.filter fun l => decide (l < winLine0)
    worn := s.worn, bootWorn := s.worn, laneGroups := s.laneGroups, cfgw := s.nextCfg }
  s'.rset (key0 0 0x170000) (nw (cause % 256 * 2 ^ 16))

/-- Whether every firmware image verifies: against the key whose hash the fuses hold (R403). -/
def verified : Bool :=
  Config.shake256 Config.firmwareKey 64 == fuses 128 64
    && ([0, 1, 2] : List Nat).all fun i => Config.ed448Verify Config.firmwareKey (Config.firmware i) (Config.firmwareSig i)

/-- The boot after a reset (R403, R406, R452, R472): each firmware image is measured and verified; then READY = 1. With an image that fails, or too few
healthy parts for the smallest legal configuration, the error is fatal and READY stays 0. -/
def State.boot (s : State) : State :=
  if !s.booting then s
  else
    let s := { s with booting := false
                      measured := ([0, 1, 2] : List Nat).flatMap fun i => (Config.shake256 (Config.firmware i) 64 ++ List.replicate 64 0).take 64 }
    if !verified then (let (s, w) := s.free; s.goFatal 0x20F4 (w.toNat % 12))
    else if !s.bootable then (let (s, w) := s.free; s.goFatal 0x20F5 (w.toNat % 12))
    else s.rsetBits (key0 0 0x170000) 0 0 1

/-- DEVICE_RESET (R403, R406, R472): `cause` is the RCAUSE code. -/
def execDeviceReset (cause : Nat) (s : State) : Host.Outcome State Fault Refusal := .next (if 4 < cause then s else s.resetDevice cause)

end Sys2Proof.Machine
end

