-- ==== Sys2Proof/Machine/Faults.lean ====
section
/-! DEFINITION. Reporting registers (R410 to R415), errors (R408, R418, R448, R458, R459), heat and supply (R463 to R466), wear (R469, R470), and capture
and replay (R474, R477). -/

namespace Sys2Proof.Machine

/-! ### The fault block (R410, R411) -/

/-- ERR of a fault block. -/
def State.fbErr (s : State) (ck : Nat) : State := s.rsetBits (kFb ck 0x1C) 31 31 1

/-- FAULT_BLOCK_CONFIG_WRITE (R410): `off` is the offset in the block. A write of FBEN = 1 while FB_WR differs from FB_RD is ignored, as is one of FBLOG above
11 or while FBEN = 1; each sets ERR. An enabled buffer takes parked records. -/
def execFaultBlockConfigWrite (fn c off : Nat) (v : Word) (s : State) : Host.Outcome State Fault Refusal :=
  let ck := ctxKey fn c
  let en := s.rbits (kFb ck 0) 0 0
  .next (match off with
    | 0x00 =>
      if bits v 0 0 = 1 ∧ s.rget (kFb ck 0x0C) ≠ s.rget (kFb ck 0x10) then s.fbErr ck
      else (s.rwrite (kFb ck 0) v).enterRecords ck 17
    | 0x04 => s.rwrite (kFb ck 4) v
    | 0x08 => if en = 1 ∨ 11 < bits v 3 0 then s.fbErr ck else s.rwrite (kFb ck 8) v
    | 0x1C => s.rwrite (kFb ck 0x1C) v
    | _ => s)

/-- FAULT_BUFFER_CONSUME (R410, R411): FB_RD rises, to FB_WR at most; parked records enter as room appears. -/
def execFaultBufferConsume (fn c : Nat) (v : Word) (s : State) : Host.Outcome State Fault Refusal :=
  let ck := ctxKey fn c
  let rd := s.rget (kFb ck 0x10)
  .next (if (s.rget (kFb ck 0x0C) - rd).toNat < (v - rd).toNat then s.fbErr ck else (s.rset (kFb ck 0x10) v).enterRecords ck 17)

/-- A change of GEN (R411, R442): parked records of the old GEN are discarded, and what a contained fault of the context holds is retried. -/
def State.newGen (s : State) (ck : Nat) : State :=
  let g := s.gen ck
  let parked := (s.ctx ck).parked
  let old (r : List Word) : Bool := bits (wd r 0) 31 24 == g
  let n := (parked.filter old).length
  let s := s.modCtx ck fun x =>
    { x with parked := parked.filter fun r => !old r, intakes := x.intakes.map fun p => (p.1, p.2.map fun i => { i with gen := none }) }
  let s := s.rsetBits (kFb ck 0x18) 31 16 (min 0xFFFF (s.rbits (kFb ck 0x18) 31 16 + n))
  let s := s.rsetBits (kFb ck 0x14) 7 0 ((g + 1) % 256)
  let s := { s with
    dups := s.dups.filter fun d => d.1 != ck
    cols := s.cols.map fun (p : Nat × Column) => (p.1, { p.2 with dups := p.2.dups.filter fun d => d.1 != ck })
    grids := s.grids.map fun (p : Nat × Grid) => if p.2.ctx = ck then (p.1, { p.2 with signalGen := none }) else p }
  s.retry ck 0 (2 ^ 52)

/-- FAULT_FLUSH (R410, R411): FLT_ACK equal to GEN flushes; another value sets ERR. -/
def execFaultFlush (fn c : Nat) (v : Word) (s : State) : Host.Outcome State Fault Refusal :=
  let ck := ctxKey fn c
  .next (if bits v 31 24 = s.gen ck then s.newGen ck else s.fbErr ck)

/-! ### The event block (R414, R415) -/

/-- Handler cards that were rejected are taken in again (R415). -/
def State.retakeHandlers (s : State) (fn : Nat) : State :=
  { s with ctxs := s.ctxs.map fun (p : Nat × Ctx) =>
      if ctxFn p.1 = fn then (p.1, { p.2 with intakes := p.2.intakes.map fun i =>
        (i.1, i.2.map fun x => if x.words = [] then { x with held := false } else x) }) else p }

/-- EVENT_QUEUE_CONTROL_WRITE (R414, R415): `off` is the offset in the event block. EVLOG is written, up to 8, only while EVEN = 0; a rewrite of EVEN lets
records go on whose handler card was rejected. -/
def execEventQueueControlWrite (fn off : Nat) (v : Word) (s : State) : Host.Outcome State Fault Refusal :=
  .next (match off with
    | 0x00 => (let s := s.rwrite (kEv fn 0) v; if bits v 0 0 = 1 then (s.retakeHandlers fn).releaseHeld fn 64 else s)
    | 0x08 =>
      let keep := s.rbits (kEv fn 0) 0 0 = 1 ∨ 8 < bits v 3 0
      s.rwrite (kEv fn 8) (nw (bits v 15 8 * 2 ^ 8 + if keep then s.rbits (kEv fn 8) 3 0 else bits v 3 0))
    | _ => s.rwrite (kEv fn off) v)

/-! ### Errors (R408, R418, R448, R449, R458) -/

/-- CORRECTED_ERROR (R146, R408, R418): a corrected error is counted; one of HBM4E, which a demand read has found, also in its bank, which is a free value
among the usable stacks. -/
def execCorrectedError (k : Nat) (s : State) : Host.Outcome State Fault Refusal :=
  .next (if k = 3 then
      let (s, w) := s.free
      s.bankCorrected (bankKey (nthBit s.stk (w.toNat / 1024 % 8 % pop8 s.stk)) (w.toNat / 32) w.toNat)
    else if k < 10 then s.countError k else s)

/-- Marks an operand poisoned. -/
def poisonOperand (l : List (Option Operand)) (i : Nat) : List (Option Operand) := l.modify i fun o => o.map fun o => { o with poison := true }

/-- What an uncorrectable error poisons; none where the unit does not exist. In a team it poisons state of its store, its threads or its engine. -/
def Team.poisonUnit (tm : Team) : PoisonUnit → Option Team
  | .granule _ _ g => if 64 * g < tm.spadLen then some { tm with spadPoison := if tm.spadPoison.contains g then tm.spadPoison else g :: tm.spadPoison } else none
  | .tile _ _ ts => if ts < tm.tsl then some (tm.modTile ts fun x => { x with poison := true }) else none
  | .register _ _ t r =>
    if t < tm.threads.length ∧ r < tm.n t then
      some (tm.modThread t fun th => { th with poison := if th.poison.contains r then th.poison else r :: th.poison })
    else none
  | .accumulator _ _ a =>
    match tm.engine with
    | some e => if a < 64 then some { tm with engine := some { e with accs := sins e.accs a { sget {} e.accs a with poison := true } } } else none
    | none => none
  | .macro_ _ _ i =>
    match tm.engine with
    | some e => if (e.macros.getD i none).isSome then some { tm with engine := some { e with macros := poisonOperand e.macros i } } else none
    | none => none
  | .line .. => none

/-- The team a poisoned unit belongs to. -/
def unitTeam : PoisonUnit → Nat
  | .granule c sl _ | .tile c sl _ | .register c sl _ _ | .accumulator c sl _ | .macro_ c sl _ => teamKey c sl
  | .line .. => 0

/-- Counts an uncorrected error of a part whose place among the parts of R469 is `key`; the counts start anew at reset. -/
def State.countWear (s : State) (key : Nat) : State × Nat :=
  let n := sget 0 s.wearUE key + 1
  ({ s with wearUE := sins s.wearUE key n }, n)

/-- An uncorrected error of the column store counts towards the wear of the site of its bank (R131, R469). DESIGN CHOICE: which of the four banks holds the
bytes in error is a free value, since the spec does not place a team's scratchpad and tiles within the store. -/
def State.storeWear (s : State) (c : Nat) : State :=
  let (s, w) := s.free
  let (s, n) := s.countWear (4 * c + w.toNat % 4)
  if 8 ≤ n then s.wearSite c (w.toNat % 4 + 1) else s

/-- An uncorrected error of a base-cache slice counts towards its wear (R469). DESIGN CHOICE: which physical slice it is is a free value, since the spec does not
say which physical slices are enabled. -/
def State.sliceWear (s : State) : State :=
  let (s, w) := s.free
  let (s, n) := s.countWear (2 ^ 10 + w.toNat % 136)
  if 8 ≤ n then s.wearSlice (w.toNat % 136) else s

/-- An uncorrected error of a bank of HBM4E counts towards the wear of its stack (R469). -/
def State.bankWear (s : State) (b : Nat) : State :=
  let (s, n) := s.countWear (2 ^ 11 + b / 32)
  if 64 ≤ n ∨ s.exhausted.contains b then s.wearStack (b / 1024) else s

/-- UNCORRECTED_ERROR (R408, R418, R448, R449, R458, R469): the unit is poisoned and the error counted; one in HBM4E raises UE of the bank in which R158 places
the line under the BKH of its page. -/
def execUncorrectedError (where_ : PoisonUnit) (s : State) : Host.Outcome State Fault Refusal :=
  .next (match where_ with
    | .line line bkh hbm =>
      let s := (s.setPoison line true).countError 8
      if hbm && decide (line < winLine0) then
        let b := line / 2 ^ 24 * 32 + bankAt (line % 2 ^ 24 * 128) bkh
        { s with bankUE := sput 0 s.bankUE b (min 0xFF (sget 0 s.bankUE b + 1)) }.bankWear b
      else s.sliceWear
    | u =>
      match (s.team? (unitTeam u)).bind fun tm => tm.poisonUnit u with
      | some tm =>
        let s := (s.setTeam (unitTeam u) tm).countError 8
        match u with
        | .granule c _ _ | .tile c _ _ => s.storeWear c
        | _ => s
      | none => s)

/-- FATAL_ERROR (R408, R403, R452): a verification failure leaves READY at 0. `code` is one of the fatal codes; the record's SRC is a free value. -/
def execFatalError (code : Nat) (s : State) : Host.Outcome State Fault Refusal :=
  .next (if ([0x20F1, 0x20F3, 0x20F4, 0x20F5].contains code) = false then s
    else
      let s := if code = 0x20F4 ∨ code = 0x20F5 then s.rsetBits (key0 0 0x170000) 0 0 0 else s
      let (s, w) := s.free
      s.goFatal code (w.toNat % 12))

/-- Ends a team whose core has been reset (R459): it leaves a record, its grid fails, its engine is free, and its slot is freed once its column-store copies
and issued tile writes are complete (R106 steps 5 and 6). -/
def State.loseTeam (s : State) (k : Nat) : State :=
  match s.team? k with
  | none => s
  | some tm =>
    let s := s.report (s.teamCtx tm) (teamRec k tm { code := 0x2060, src := 0 })
    (s.modGrid tm.grid fun g => { g with failed := true }).retireAbandoned k

/-- DIE_RESET (R459): the teams executing on the layer are ended; its rails are cycled, and it reopens when it has woken. -/
def State.resetDie (s : State) (layer : Nat) : State :=
  if layer < 1 ∨ 4 < layer then s
  else
    let ks := (s.teams.filter fun p => p.2.layer? == some layer).map Prod.fst
    let s := (s.setLgate layer 3).setEvac layer false
    (ks.foldl State.loseTeam s).pfEvent 8 [nw layer]

def execDieReset (layer : Nat) (s : State) : Host.Outcome State Fault Refusal := .next (s.resetDie layer)

/-- CORE_HALT_TIMEOUT (R459): a core that has not halted 10 µs after its halt request is recovered by resetting its die. -/
def execCoreHaltTimeout (col layer : Nat) (s : State) : Host.Outcome State Fault Refusal :=
  .next (if (s.teamsOf col).any fun p => p.2.layer? == some layer && p.2.halting && !p.2.allHalted && decide (p.2.haltAt + 20000 ≤ s.cyc) then s.resetDie layer
    else s)

/-! ### Heat and supply (R463 to R467) -/

def kTrip : Nat := key0 0 0x160084
def State.tsoft (s : State) : Nat := s.rbits kTrip 15 8
def State.thard (s : State) : Nat := s.rbits kTrip 7 0

/-- TRIP_THRESHOLD_WRITE (R463): `off` is the region's offset. Thresholds out of order are ignored and set ERR of GOVRES. -/
def execTripThresholdWrite (off : Nat) (v : Word) (s : State) : Host.Outcome State Fault Refusal :=
  .next (if off = 0x160084 then
      (if bits v 15 8 ≤ s.thi ∨ bits v 7 0 ≤ bits v 15 8 ∨ 115 < bits v 7 0 then s.govErr else s.rwrite kTrip v)
    else if off = 0x160088 ∨ off = 0x16008C then s.rwrite (key0 0 off) v
    else s)

/-- THERMAL_SOFT_TRIP (R464): `reading` is the hot-spot reading. -/
def execThermalSoftTrip (col layer reading : Nat) (s : State) : Host.Outcome State Fault Refusal :=
  .next (if s.ncol ≤ col ∨ layer < 1 ∨ 4 < layer ∨ reading < s.tsoft then s
    else
      let last := sfind (s.col col).softTripAt layer
      let s := s.rsetBits (kCol col 0) (8 * layer - 1) (8 * layer - 8) reading
      let s := (s.setTmax.closeCore col layer).modCol col fun x => { x with softTrip := true, throttle := 1, softTripAt := sins x.softTripAt layer s.dt }
      let s := s.rsetBits kTrip 31 16 (min 0xFFFF (s.rbits kTrip 31 16 + 1))
      if (match last with | some t => decide (s.dt < t + 10000000) | none => false) then s
      else
        let (s, w) := s.free
        s.pfFault { code := 0x2040, cls := 0, src := w.toNat % 12, col, info := col + 2 ^ 8 * (layer - 1) })

/-- SOFT_TRIP_END (R464): with every reading of the column below TLO the throttle ends and its cores reopen, but those that wear has closed. -/
def execSoftTripEnd (col : Nat) (s : State) : Host.Outcome State Fault Refusal :=
  .next (if (s.col col).softTrip = false ∨ ([1, 2, 3, 4].all fun l => decide (s.temp col l < s.tlo)) = false then s
    else s.modCol col fun x =>
      { x with softTrip := false, throttle := 16, closed := x.wornCores, evac := x.evac.filter fun l => x.wornCores.contains l || s.lgate l == 1 })

/-- The COOL word (R391). -/
def kCool : Nat := key0 0 0x160080

/-- SUPPLY_EXCURSION (R465): a reading lies outside its limits. MARGIN acts as 0, and one event is posted for the excursion. -/
def execSupplyExcursion (cool : Word) (s : State) : Host.Outcome State Fault Refusal :=
  .next (if s.excursion then { s with excursionBack := none }.rset kCool cool
    else
      let (s, w) := ({ s with excursion := true, excursionBack := none }.rset kCool cool).free
      s.pfFault { code := 0x2042, cls := 0, src := w.toNat % 12, info := cool.toNat })

/-- SUPPLY_EXCURSION_END (R391, R465): the readings are within their limits, those of the COOL word among them; the excursion ends when they have been for 1
s. -/
def execSupplyExcursionEnd (cool : Word) (s : State) : Host.Outcome State Fault Refusal :=
  let t := s.excursionBack.getD s.dt
  .next (if s.excursion = false then s
    else if 40 < bits cool 7 0 ∨ bits cool 31 16 < 2000 then { s with excursionBack := none }.rset kCool cool
    else if t + 1000000000 ≤ s.dt then { s with excursion := false, excursionBack := none }.rset kCool cool
    else { s with excursionBack := some t }.rset kCool cool)

/-- The contexts a hard trip saves: CSTATE 0 or 1 and SAVE_SZ other than 0, in ascending order of SAVE_SZ, then of function and context (R466). -/
def State.tripContexts (s : State) : List (Nat × Nat) :=
  let all := s.csr.filterMap fun (p : Nat × Word) =>
    let o := p.1 % 2 ^ 32
    let ck := ctxKey (p.1 / 2 ^ 32) ((o - 0x100000) / 64)
    if 0x100000 ≤ o ∧ o < 0x104000 ∧ o % 64 = 0x10 ∧ p.2 ≠ 0 ∧ s.cstate ck < 2 then some (ck, p.2.toNat) else none
  let before (a b : Nat × Nat) : Bool := decide (a.2 < b.2) || (a.2 == b.2 && decide (a.1 ≤ b.1))
  all.foldl (fun l x => l.takeWhile (fun y => before y x) ++ x :: l.dropWhile fun y => before y x) []

/-- The trip notice (R467). -/
def State.tripNotice (s : State) (cause col layer reading : Nat) (cs : List (Nat × Nat)) (cool : Word) : List Byte :=
  wordsBytes ([nw (1 + 2 ^ 8 * cause), s.cfgw, nw s.dt, nw (s.dt / 2 ^ 32), if cause = 1 then nw (col + 2 ^ 8 * (layer - 1) + 2 ^ 16 * reading) else 0,
    nw cs.length, nw (cs.foldl (fun a p => a + p.2) 0), cool] ++ List.replicate 8 0)

/-- Intake stops, the notice is written, and every context to be saved is halted (R466, R467). `cause` is that of the notice. -/
def State.trip (s : State) (cause col layer reading : Nat) : State :=
  let cs := s.tripContexts
  let tn := s.rbits (key0 0 0x160088) 31 6 * 64 + 2 ^ 32 * s.rbits (key0 0 0x16008C) 31 0
  let note := s.tripNotice cause col layer reading cs (s.regRead 0 0 0x160080)
  let s := if s.rbits (key0 0 0x160088) 0 0 = 1 ∧ s.hostUp = true then s.send { dev := none, addr := tn, data := note } else s
  let s := { s with hardTrip := some s.dt, tripQueue := cs.map Prod.fst }
  cs.foldl (fun s p => if (s.ctx p.1).cmd.isSome then s else s.haltContext p.1 false) s

/-- Whether a reading is beyond the limit of a hard trip, and for how many DT ticks it must be (R466): of cause 2 the inlet in °C, of 3 the flow in mL/min, of
4 the supply in mV. -/
def tripBeyond (cause reading : Nat) : Bool :=
  match cause with
  | 2 => decide (45 < reading)
  | 3 => decide (reading < 1500)
  | _ => decide (reading < 44000) || decide (54000 < reading)
def tripTime (cause : Nat) : Nat := if cause = 4 then 10000000 else 1000000000

/-- HARD_TRIP (R466): a reading of cause `cause`, of the hot spot of a site or of a module input. The device trips at once on the first, on the others
once they have been beyond their limits for their time, which ends with a reading within them. -/
def execHardTrip (cause col layer reading : Nat) (s : State) : Host.Outcome State Fault Refusal :=
  .next (if s.hardTrip.isSome ∨ cause < 1 ∨ 4 < cause then s
    else if cause = 1 then (if reading < s.thard ∨ layer < 1 ∨ 4 < layer ∨ s.ncol ≤ col then s else s.trip 1 col layer reading)
    else if tripBeyond cause reading = false then { s with tripFrom := sdel s.tripFrom cause }
    else
      let t := (sfind s.tripFrom cause).getD s.dt
      if t + tripTime cause ≤ s.dt then s.trip cause col layer reading else { s with tripFrom := sins s.tripFrom cause t })

/-- A save of a hard trip is in progress. -/
def State.tripSaving (s : State) : Bool := s.ctxs.any fun p => match p.2.cmd with | some c => c.op == 3 && c.reason == 1 | none => false

/-- The next save of a hard trip starts when every context to be saved has halted and the one before has ended (R466 step 3). -/
def State.tripNext (s : State) : State :=
  match s.tripQueue with
  | [] => s
  | ck :: rest =>
    if s.tripSaving || s.tripQueue.any fun k => (s.ctx k).cmd.isSome then s
    else
      let s := { s with tripQueue := rest }
      if s.cstate ck = 2 then s else s.saveContext ck 1 false

/-- HARD_TRIP_POWER_OFF (R466 step 4): 2 000 000 DT ticks after the trip, or with every save complete, the rails are removed. -/
def execHardTripPowerOff (s : State) : Host.Outcome State Fault Refusal :=
  .next (match s.hardTrip with
    | none => s
    | some t => if t + 2000000 ≤ s.dt ∨ (s.tripQueue = [] ∧ s.tripSaving = false) then { s with powered := false } else s)

/-! ### Wear (R469 to R471) -/

/-- PART_WORN (R469, R470): a part is found worn that no count shows, by its reset self-test. `kind` is 0 for a column site, with `index` 4 × logical column +
layer − 1 for the core concerned; 1 for a physical slice; 3 for a stack. -/
def execPartWorn (kind index : Nat) (s : State) : Host.Outcome State Fault Refusal :=
  .next (match kind with
    | 0 => s.wearSite (index / 4) (index % 4 + 1)
    | 1 => s.wearSlice index
    | 3 => s.wearStack index
    | _ => s)

/-- AGEING_MONITOR_READ (R386, R387): the timing margin of a site, 4 × logical column + layer − 1, asks for `steps` steps of 5 mV more of the guard band of its
column's regulator, which rises to 60 mV at most; a site that needs more is worn. -/
def execAgeingMonitorRead (site steps : Nat) (s : State) : Host.Outcome State Fault Refusal :=
  if s.ncol ≤ site / 4 then .next s
  else
    let k := s.colReg (site / 4)
    let need := s.gband k + 5 * steps
    let t := { s with guard := sins s.guard k (max (s.gband k) (min 60 need)) }
    if 60 < need then .next (t.wearSite (site / 4) (site % 4 + 1)) else .next t

/-! ### Capture and replay (R474, R477) -/

/-- CAPTURE_CONTROL_WRITE (R474): `off` is the region's offset. CFN, CCTX and CRLOG are written only while CAPEN = 0 and REPLAY = 0. -/
def execCaptureControlWrite (off : Nat) (v : Word) (s : State) : Host.Outcome State Fault Refusal :=
  let k := key0 0 0x170040
  let on := s.rbits k 31 30 ≠ 0
  .next (if off = 0x170040 then
      s.rwrite k (if on then (v &&& 0xE0000000) ||| (s.rget k &&& 0xF00FF) else v)
    else if off = 0x17004C then (if on then s else s.rwrite (key0 0 off) v)
    else if off = 0x170044 ∨ off = 0x170048 ∨ off = 0x170054 then s.rwrite (key0 0 off) v
    else s)

/-- REPLAY_GATE_WRITE (R477). -/
def execReplayGateWrite (v : Word) (s : State) : Host.Outcome State Fault Refusal := .next (s.rwrite (key0 0 0x17005C) v)

end Sys2Proof.Machine
end

