-- ==== Sys2Proof/Machine/Integer.lean ====
section
/-! DEFINITION. The integer, bit, field, move and address instructions (R285 to R301) and the uniform ALU forms (R284). -/

namespace Sys2Proof.Machine

/-- The integer type of a form whose default is `dflt` (R286). -/
def ity (m : Mods) (dflt : Nat) : Nat := if m.ty = 0 then dflt else m.ty.toNat

/-- Val of R286 of an operand that takes as many registers as its type. -/
def Thread.val (th : Thread) (r : RegNo) (ty : Nat) : Int := intVal (th.getN r.toNat (tyRegs ty)) ty

/-! ### Add, subtract and multiply (R287 to R289) -/

/-- IADD (R287). -/
def execIadd (m : Mods) (u : Bool) (d a b : RegNo) (s : State) : Host.Outcome State Fault Refusal :=
  let ty := ity m 7
  runArith s (.iadd m u d a b) u d (tyRegs ty) fun th => fitInt (th.val a ty + th.val b ty) ty m.sat

/-- ISUB (R287). -/
def execIsub (m : Mods) (u : Bool) (d a b : RegNo) (s : State) : Host.Outcome State Fault Refusal :=
  let ty := ity m 7
  runArith s (.isub m u d a b) u d (tyRegs ty) fun th => fitInt (th.val a ty - th.val b ty) ty m.sat

/-- IADDI (R287). -/
def execIaddi (m : Mods) (u : Bool) (d a : RegNo) (imm : BitVec 9) (s : State) : Host.Outcome State Fault Refusal :=
  let ty := ity m 7
  runArith s (.iaddi m u d a imm) u d 1 fun th => fitInt (th.val a ty + imm.toInt) ty m.sat

/-- IADDC (R288): the sum and, in the odd register, the carry out. -/
def execIaddc (m : Mods) (u : Bool) (d a b : RegNo) (s : State) : Host.Outcome State Fault Refusal :=
  runArith s (.iaddc m u d a b) u d 2 fun th =>
    (th.nat a + th.nat b + (if m.xm.getLsbD 0 then th.nat m.c % 2 else 0), 0)

/-- IMUL (R289). -/
def execImul (m : Mods) (u : Bool) (d a b : RegNo) (s : State) : Host.Outcome State Fault Refusal :=
  let ty := ity m 7
  runArith s (.imul m u d a b) u d 1 fun th => fitInt (th.val a ty * th.val b ty) ty m.sat

/-- IMULH (R289): bits <63:32> of the product. -/
def execImulh (m : Mods) (u : Bool) (d a b : RegNo) (s : State) : Host.Outcome State Fault Refusal :=
  let ty := ity m 7
  runArith s (.imulh m u d a b) u d 1 fun th => ((th.val a ty * th.val b ty % 2 ^ 64).toNat / 2 ^ 32, 0)

/-- IMAD (R289). -/
def execImad (m : Mods) (u : Bool) (d a b : RegNo) (s : State) : Host.Outcome State Fault Refusal :=
  let ty := ity m 7
  runArith s (.imad m u d a b) u d 1 fun th => fitInt (th.val a ty * th.val b ty + th.val m.c ty) ty m.sat

/-- IMADW (R289): the sum of a 32-bit product and a pair, fitted to 64 bits. -/
def execImadw (m : Mods) (u : Bool) (d a b : RegNo) (s : State) : Host.Outcome State Fault Refusal :=
  let ty := ity m 7
  let ty64 := if ty = 7 then 10 else 11
  runArith s (.imadw m u d a b) u d 2 fun th => fitInt (th.val a ty * th.val b ty + th.val m.c ty64) ty64 m.sat

/-! ### Minimum, maximum, absolute value and difference (R290) -/

/-- IMIN (R290). -/
def execImin (m : Mods) (u : Bool) (d a b : RegNo) (s : State) : Host.Outcome State Fault Refusal :=
  let ty := ity m 7
  runArith s (.imin m u d a b) u d 1 fun th => (if th.val a ty ≤ th.val b ty then th.nat a else th.nat b, 0)

/-- IMAX (R290). -/
def execImax (m : Mods) (u : Bool) (d a b : RegNo) (s : State) : Host.Outcome State Fault Refusal :=
  let ty := ity m 7
  runArith s (.imax m u d a b) u d 1 fun th => (if th.val a ty ≤ th.val b ty then th.nat b else th.nat a, 0)

/-- IABS (R290). -/
def execIabs (m : Mods) (u : Bool) (d a : RegNo) (s : State) : Host.Outcome State Fault Refusal :=
  runArith s (.iabs m u d a) u d 1 fun th => fitInt ((th.val a 7).natAbs : Int) 7 m.sat

/-- INEG (R290). -/
def execIneg (m : Mods) (u : Bool) (d a : RegNo) (s : State) : Host.Outcome State Fault Refusal :=
  runArith s (.ineg m u d a) u d 1 fun th => fitInt (-(th.val a 7)) 7 m.sat

/-- ISAD (R290): the result is N32. -/
def execIsad (m : Mods) (u : Bool) (d a b : RegNo) (s : State) : Host.Outcome State Fault Refusal :=
  let ty := ity m 7
  runArith s (.isad m u d a b) u d 1 fun th => fitInt (((th.val a ty - th.val b ty).natAbs : Int) + th.val m.c 8) 8 m.sat

/-! ### Shifts and funnel shifts (R291, R292) -/

/-- A left shift whose count is clamped at 32 (R291). -/
def shlVal (a n : Nat) : Nat := if n < 32 then a * 2 ^ n % 2 ^ 32 else 0
/-- A logical right shift whose count is clamped at 32. -/
def shrVal (a n : Nat) : Nat := if n < 32 then a / 2 ^ n else 0
/-- An arithmetic right shift whose count is clamped at 32. -/
def sarVal (a n : Nat) : Nat :=
  if n < 32 then (intVal a 7 / 2 ^ n % 2 ^ 32).toNat else if 2 ^ 31 ≤ a then 0xFFFFFFFF else 0

/-- SHL (R291). -/
def execShl (m : Mods) (u : Bool) (d a b : RegNo) (s : State) : Host.Outcome State Fault Refusal :=
  runArith s (.shl m u d a b) u d 1 fun th => (shlVal (th.nat a) (th.nat b), 0)
/-- SHR (R291). -/
def execShr (m : Mods) (u : Bool) (d a b : RegNo) (s : State) : Host.Outcome State Fault Refusal :=
  runArith s (.shr m u d a b) u d 1 fun th => (shrVal (th.nat a) (th.nat b), 0)
/-- SAR (R291). -/
def execSar (m : Mods) (u : Bool) (d a b : RegNo) (s : State) : Host.Outcome State Fault Refusal :=
  runArith s (.sar m u d a b) u d 1 fun th => (sarVal (th.nat a) (th.nat b), 0)
/-- SHLI (R291). -/
def execShli (m : Mods) (u : Bool) (d a : RegNo) (imm : BitVec 5) (s : State) : Host.Outcome State Fault Refusal :=
  runArith s (.shli m u d a imm) u d 1 fun th => (shlVal (th.nat a) imm.toNat, 0)
/-- SHRI (R291). -/
def execShri (m : Mods) (u : Bool) (d a : RegNo) (imm : BitVec 5) (s : State) : Host.Outcome State Fault Refusal :=
  runArith s (.shri m u d a imm) u d 1 fun th => (shrVal (th.nat a) imm.toNat, 0)
/-- SARI (R291). -/
def execSari (m : Mods) (u : Bool) (d a : RegNo) (imm : BitVec 5) (s : State) : Host.Outcome State Fault Refusal :=
  runArith s (.sari m u d a imm) u d 1 fun th => (sarVal (th.nat a) imm.toNat, 0)

/-- FSL (R292). -/
def execFsl (m : Mods) (u : Bool) (d a b : RegNo) (s : State) : Host.Outcome State Fault Refusal :=
  runArith s (.fsl m u d a b) u d 1 fun th =>
    let n := min (th.nat m.c) 32
    ((th.nat a * 2 ^ 32 + th.nat b) * 2 ^ n / 2 ^ 32 % 2 ^ 32, 0)
/-- FSR (R292). -/
def execFsr (m : Mods) (u : Bool) (d a b : RegNo) (s : State) : Host.Outcome State Fault Refusal :=
  runArith s (.fsr m u d a b) u d 1 fun th =>
    let n := min (th.nat m.c) 32
    ((th.nat a * 2 ^ 32 + th.nat b) / 2 ^ n % 2 ^ 32, 0)

/-! ### Logic (R293, R294) -/

/-- BFN3's function of three sources: bit i of the result is the table's bit a<i> + 2 b<i> + 4 c<i> (R294). -/
def bfn3Val (tbl a b c : Nat) : Nat :=
  (List.range 32).foldl (fun r i =>
    let k := (a / 2 ^ i % 2) + 2 * (b / 2 ^ i % 2) + 4 * (c / 2 ^ i % 2)
    r + tbl / 2 ^ k % 2 * 2 ^ i) 0

/-- The prefix field mod<7:0> (R242). -/
def modImm8 (m : Mods) : Nat :=
  m.rm.toNat + 4 * (if m.sat then 1 else 0) + 8 * m.xm.toNat + 128 * (m.ty.toNat % 2)

/-- AND (R293). -/
def execAnd (m : Mods) (u : Bool) (d a b : RegNo) (s : State) : Host.Outcome State Fault Refusal :=
  runArith s (.and m u d a b) u d 1 fun th => ((th.get a.toNat &&& th.get b.toNat).toNat, 0)
/-- OR (R293). -/
def execOr (m : Mods) (u : Bool) (d a b : RegNo) (s : State) : Host.Outcome State Fault Refusal :=
  runArith s (.or m u d a b) u d 1 fun th => ((th.get a.toNat ||| th.get b.toNat).toNat, 0)
/-- XOR (R293). -/
def execXor (m : Mods) (u : Bool) (d a b : RegNo) (s : State) : Host.Outcome State Fault Refusal :=
  runArith s (.xor m u d a b) u d 1 fun th => ((th.get a.toNat ^^^ th.get b.toNat).toNat, 0)
/-- ANDI (R293). -/
def execAndi (m : Mods) (u : Bool) (d a : RegNo) (imm : BitVec 9) (s : State) : Host.Outcome State Fault Refusal :=
  runArith s (.andi m u d a imm) u d 1 fun th => ((th.get a.toNat &&& imm.signExtend 32).toNat, 0)
/-- ORI (R293). -/
def execOri (m : Mods) (u : Bool) (d a : RegNo) (imm : BitVec 9) (s : State) : Host.Outcome State Fault Refusal :=
  runArith s (.ori m u d a imm) u d 1 fun th => ((th.get a.toNat ||| imm.signExtend 32).toNat, 0)
/-- XORI (R293). -/
def execXori (m : Mods) (u : Bool) (d a : RegNo) (imm : BitVec 9) (s : State) : Host.Outcome State Fault Refusal :=
  runArith s (.xori m u d a imm) u d 1 fun th => ((th.get a.toNat ^^^ imm.signExtend 32).toNat, 0)
/-- BFN3 (R294). -/
def execBfn3 (m : Mods) (u : Bool) (d a b : RegNo) (s : State) : Host.Outcome State Fault Refusal :=
  runArith s (.bfn3 m u d a b) u d 1 fun th => (bfn3Val (modImm8 m) (th.nat a) (th.nat b) (th.nat m.c), 0)

/-! ### Bit counting, reversal, fields and bytes (R295 to R297) -/

/-- POPC (R295). -/
def execPopc (m : Mods) (u : Bool) (d a : RegNo) (s : State) : Host.Outcome State Fault Refusal :=
  runArith s (.popc m u d a) u d 1 fun th => (((List.range 32).filter fun i => (th.nat a).testBit i).length, 0)
/-- CLZ (R295). -/
def execClz (m : Mods) (u : Bool) (d a : RegNo) (s : State) : Host.Outcome State Fault Refusal :=
  runArith s (.clz m u d a) u d 1 fun th => (if th.nat a = 0 then 32 else 31 - Nat.log2 (th.nat a), 0)
/-- CTZ (R295). -/
def execCtz (m : Mods) (u : Bool) (d a : RegNo) (s : State) : Host.Outcome State Fault Refusal :=
  runArith s (.ctz m u d a) u d 1 fun th => (((List.range 32).find? fun i => (th.nat a).testBit i).getD 32, 0)
/-- BREV (R295). -/
def execBrev (m : Mods) (u : Bool) (d a : RegNo) (s : State) : Host.Outcome State Fault Refusal :=
  runArith s (.brev m u d a) u d 1 fun th =>
    ((List.range 32).foldl (fun r i => r + th.nat a / 2 ^ i % 2 * 2 ^ (31 - i)) 0, 0)

/-- BFX (R296): position b<4:0>, length b<13:8>. -/
def bfxVal (signed : Bool) (a b : Nat) : Nat :=
  let p := b % 32
  let L := min (b / 256 % 64) (32 - p)
  let f := a / 2 ^ p % 2 ^ L
  if L = 0 then 0 else if signed && f.testBit (L - 1) then f + (2 ^ 32 - 2 ^ L) else f
/-- BFX (R296). -/
def execBfx (m : Mods) (u : Bool) (d a b : RegNo) (s : State) : Host.Outcome State Fault Refusal :=
  runArith s (.bfx m u d a b) u d 1 fun th => (bfxVal (ity m 7 == 7) (th.nat a) (th.nat b), 0)

/-- BFI (R296). -/
def bfiVal (a b c : Nat) : Nat :=
  let p := b % 32
  let L := min (b / 256 % 64) (32 - p)
  let f := c / 2 ^ p % 2 ^ L
  c - f * 2 ^ p + a % 2 ^ L * 2 ^ p
/-- BFI (R296). -/
def execBfi (m : Mods) (u : Bool) (d a b : RegNo) (s : State) : Host.Outcome State Fault Refusal :=
  runArith s (.bfi m u d a b) u d 1 fun th => (bfiVal (th.nat a) (th.nat b) (th.nat m.c), 0)

/-- BYSEL (R297). -/
def byselVal (a b c : Nat) : Nat :=
  (List.range 4).foldl (fun r k =>
    let i := c / 2 ^ (3 * k) % 8
    let y := (a + b * 2 ^ 32) / 2 ^ (8 * i) % 256
    let y := if c.testBit (12 + k) then 0 else if c.testBit (16 + k) then (if 128 ≤ y then 255 else 0) else y
    r + y * 2 ^ (8 * k)) 0
/-- BYSEL (R297). -/
def execBysel (m : Mods) (u : Bool) (d a b : RegNo) (s : State) : Host.Outcome State Fault Refusal :=
  runArith s (.bysel m u d a b) u d 1 fun th => (byselVal (th.nat a) (th.nat b) (th.nat m.c), 0)

/-! ### Compare, select and move (R298, R299) -/

/-- ISET (R298). -/
def execIset (m : Mods) (u : Bool) (d a b : RegNo) (s : State) : Host.Outcome State Fault Refusal :=
  runArith s (.iset m u d a b) u d 1 fun th => (if icond m.xm.toNat (th.get a.toNat) (th.get b.toNat) then 1 else 0, 0)
/-- ISEL (R298). -/
def execIsel (m : Mods) (u : Bool) (d a b : RegNo) (s : State) : Host.Outcome State Fault Refusal :=
  runArith s (.isel m u d a b) u d 1 fun th => (if th.get m.c.toNat ≠ 0 then th.nat a else th.nat b, 0)
/-- MOV (R299): one register, a pair or a quad. -/
def execMov (m : Mods) (u : Bool) (d a : RegNo) (s : State) : Host.Outcome State Fault Refusal :=
  runArith s (.mov m u d a) u d (tyRegs m.ty.toNat) fun th => (th.getN a.toNat (tyRegs m.ty.toNat), 0)
/-- The immediate of MOVI and UMOVI: zero-extended, or sign-extended with `.s` (R284, R299). -/
def movImm (m : Mods) (imm : BitVec 16) : Nat := (if m.xm.getLsbD 0 then imm.signExtend 32 else imm.setWidth 32).toNat
/-- MOVI (R299). -/
def execMovi (m : Mods) (u : Bool) (d : RegNo) (imm : BitVec 16) (s : State) : Host.Outcome State Fault Refusal :=
  runArith s (.movi m u d imm) u d 1 fun _ => (movImm m imm, 0)
/-- MOVH (R299): the low half is unchanged. -/
def execMovh (m : Mods) (u : Bool) (d : RegNo) (imm : BitVec 16) (s : State) : Host.Outcome State Fault Refusal :=
  runArith s (.movh m u d imm) u d 1 fun th => (imm.toNat * 2 ^ 16 + th.nat d % 2 ^ 16, 0)

/-! ### Addresses and dot products (R300, R301) -/

/-- LEA and ULEA (R284, R300): pair a plus B times 2^K. -/
def leaVal (m : Mods) (a b : Nat) : Nat :=
  let B : Int := if m.xm.getLsbD 3 then (b : Int) else intVal b 7
  (((a : Int) + B * 2 ^ (m.xm.toNat % 8)) % 2 ^ 64).toNat
/-- LEA (R300). -/
def execLea (m : Mods) (u : Bool) (d a b : RegNo) (s : State) : Host.Outcome State Fault Refusal :=
  runArith s (.lea m u d a b) u d 2 fun th => (leaVal m (th.get64 a.toNat) (th.nat b), 0)
/-- LEAW (R300). -/
def execLeaw (m : Mods) (u : Bool) (d a b : RegNo) (s : State) : Host.Outcome State Fault Refusal :=
  runArith s (.leaw m u d a b) u d 2 fun th => ((th.get64 a.toNat + th.get64 b.toNat * 2 ^ (m.xm.toNat % 8)) % 2 ^ 64, 0)

/-- Element i of width w of a register, signed or not. -/
def elem (x w i : Nat) (uns : Bool) : Int :=
  let v := x / 2 ^ (w * i) % 2 ^ w
  if uns then v else if 2 ^ (w - 1) ≤ v then (v : Int) - 2 ^ w else v
/-- The accumulation type of a dot product (R301). -/
def dotAcc (m : Mods) : Nat := if m.xm.getLsbD 0 && m.xm.getLsbD 1 then 8 else 7
/-- IDOT4 (R301). -/
def execIdot4 (m : Mods) (u : Bool) (d a b : RegNo) (s : State) : Host.Outcome State Fault Refusal :=
  runArith s (.idot4 m u d a b) u d 1 fun th =>
    let e (i : Nat) := elem (th.nat a) 8 i (m.xm.getLsbD 0) * elem (th.nat b) 8 i (m.xm.getLsbD 1)
    fitInt (th.val m.c (dotAcc m) + e 0 + e 1 + e 2 + e 3) (dotAcc m) m.sat
/-- IDOT2 (R301). -/
def execIdot2 (m : Mods) (u : Bool) (d a b : RegNo) (s : State) : Host.Outcome State Fault Refusal :=
  runArith s (.idot2 m u d a b) u d 1 fun th =>
    let j := m.xm.toNat / 4
    let e (i : Nat) := elem (th.nat a) 16 i (m.xm.getLsbD 0) * elem (th.nat b) 8 (j + i) (m.xm.getLsbD 1)
    fitInt (th.val m.c (dotAcc m) + e 0 + e 1) (dotAcc m) m.sat

/-! ### Uniform ALU forms (R284) -/

/-- UADD (R284). -/
def execUadd (m : Mods) (d a b : RegNo) (s : State) : Host.Outcome State Fault Refusal :=
  runArith s (.uadd m d a b) true d 1 fun th => ((th.get a.toNat + th.get b.toNat).toNat, 0)
/-- USUB (R284). -/
def execUsub (m : Mods) (d a b : RegNo) (s : State) : Host.Outcome State Fault Refusal :=
  runArith s (.usub m d a b) true d 1 fun th => ((th.get a.toNat - th.get b.toNat).toNat, 0)
/-- UMOV (R284). -/
def execUmov (m : Mods) (d a : RegNo) (s : State) : Host.Outcome State Fault Refusal :=
  runArith s (.umov m d a) true d 1 fun th => (th.nat a, 0)
/-- UAND (R284). -/
def execUand (m : Mods) (d a b : RegNo) (s : State) : Host.Outcome State Fault Refusal :=
  runArith s (.uand m d a b) true d 1 fun th => ((th.get a.toNat &&& th.get b.toNat).toNat, 0)
/-- UOR (R284). -/
def execUor (m : Mods) (d a b : RegNo) (s : State) : Host.Outcome State Fault Refusal :=
  runArith s (.uor m d a b) true d 1 fun th => ((th.get a.toNat ||| th.get b.toNat).toNat, 0)
/-- UXOR (R284). -/
def execUxor (m : Mods) (d a b : RegNo) (s : State) : Host.Outcome State Fault Refusal :=
  runArith s (.uxor m d a b) true d 1 fun th => ((th.get a.toNat ^^^ th.get b.toNat).toNat, 0)
/-- USHL (R284): the count is taken modulo 32. -/
def execUshl (m : Mods) (d a b : RegNo) (s : State) : Host.Outcome State Fault Refusal :=
  runArith s (.ushl m d a b) true d 1 fun th => (th.nat a * 2 ^ (th.nat b % 32) % 2 ^ 32, 0)
/-- USHR (R284). -/
def execUshr (m : Mods) (d a b : RegNo) (s : State) : Host.Outcome State Fault Refusal :=
  runArith s (.ushr m d a b) true d 1 fun th => (th.nat a / 2 ^ (th.nat b % 32), 0)
/-- UCMP (R284). -/
def execUcmp (m : Mods) (d a b : RegNo) (s : State) : Host.Outcome State Fault Refusal :=
  runArith s (.ucmp m d a b) true d 1 fun th => (if icond m.xm.toNat (th.get a.toNat) (th.get b.toNat) then 1 else 0, 0)
/-- USEL (R284). -/
def execUsel (m : Mods) (d a b : RegNo) (s : State) : Host.Outcome State Fault Refusal :=
  runArith s (.usel m d a b) true d 1 fun th => (if th.get m.c.toNat ≠ 0 then th.nat a else th.nat b, 0)
/-- UMUL (R284). -/
def execUmul (m : Mods) (d a b : RegNo) (s : State) : Host.Outcome State Fault Refusal :=
  runArith s (.umul m d a b) true d 1 fun th => (th.nat a * th.nat b % 2 ^ 32, 0)
/-- ULEA (R284). -/
def execUlea (m : Mods) (d a b : RegNo) (s : State) : Host.Outcome State Fault Refusal :=
  runArith s (.ulea m d a b) true d 2 fun th => (leaVal m (th.get64 a.toNat) (th.nat b), 0)
/-- UMOVI (R284). -/
def execUmovi (m : Mods) (d : RegNo) (imm : BitVec 16) (s : State) : Host.Outcome State Fault Refusal :=
  runArith s (.umovi m d imm) true d 1 fun _ => (movImm m imm, 0)

end Sys2Proof.Machine
end

