-- ==== Sys2Proof/Machine/FloatOps.lean ====
section
/-! DEFINITION. The floating-point and conversion instructions (R303 to R321), over the number formats of Float. -/

namespace Sys2Proof.Machine

/-- An F32 operand under a sign-clear and a sign-invert modifier (R306). -/
def signMod (clear neg : Bool) (x : Nat) : Nat :=
  let x := if clear then x % 2 ^ 31 else x
  if neg then (if 2 ^ 31 ≤ x then x - 2 ^ 31 else x + 2 ^ 31) else x

/-- Operands A and B of FADD, FSUB and FMUL (R306). -/
def opA (m : Mods) (x : Nat) : FVal := fdecode F32 (signMod (m.xm.getLsbD 0) (m.xm.getLsbD 2) x)
def opB (m : Mods) (x : Nat) : FVal := fdecode F32 (signMod (m.xm.getLsbD 1) (m.xm.getLsbD 3) x)

/-! ### Arithmetic (R306, R307) -/

/-- FADD (R306). -/
def execFadd (m : Mods) (u : Bool) (d a b : RegNo) (s : State) : Host.Outcome State Fault Refusal :=
  runArith s (.fadd m u d a b) u d 1 fun th => faddV F32 m.rm.toNat (opA m (th.nat a)) (opB m (th.nat b))
/-- FSUB (R306). -/
def execFsub (m : Mods) (u : Bool) (d a b : RegNo) (s : State) : Host.Outcome State Fault Refusal :=
  runArith s (.fsub m u d a b) u d 1 fun th => faddV F32 m.rm.toNat (opA m (th.nat a)) (opB m (th.nat b)).negate
/-- FMUL (R306). -/
def execFmul (m : Mods) (u : Bool) (d a b : RegNo) (s : State) : Host.Outcome State Fault Refusal :=
  runArith s (.fmul m u d a b) u d 1 fun th => fmulV F32 m.rm.toNat (opA m (th.nat a)) (opB m (th.nat b))
/-- FFMA (R306): one rounding. -/
def execFfma (m : Mods) (u : Bool) (d a b : RegNo) (s : State) : Host.Outcome State Fault Refusal :=
  runArith s (.ffma m u d a b) u d 1 fun th =>
    ffmaV F32 m.rm.toNat (m.xm.getLsbD 0) (fdecode F32 (th.nat a)) (fdecode F32 (th.nat b))
      (fdecode F32 (signMod false (m.xm.getLsbD 1) (th.nat m.c)))
/-- FMIN (R307). -/
def execFmin (m : Mods) (u : Bool) (d a b : RegNo) (s : State) : Host.Outcome State Fault Refusal :=
  runArith s (.fmin m u d a b) u d 1 fun th => fminmax F32 false (th.nat a) (th.nat b)
/-- FMAX (R307). -/
def execFmax (m : Mods) (u : Bool) (d a b : RegNo) (s : State) : Host.Outcome State Fault Refusal :=
  runArith s (.fmax m u d a b) u d 1 fun th => fminmax F32 true (th.nat a) (th.nat b)

/-! ### Compare and select (R308, R309) -/

/-- FSET (R309). -/
def execFset (m : Mods) (u : Bool) (d a b : RegNo) (s : State) : Host.Outcome State Fault Refusal :=
  runArith s (.fset m u d a b) u d 1 fun th =>
    let r := fcond F32 m.xm.toNat (th.nat a) (th.nat b)
    (if r.1 then 1 else 0, r.2)
/-- FSEL (R309). -/
def execFsel (m : Mods) (u : Bool) (d a b : RegNo) (s : State) : Host.Outcome State Fault Refusal :=
  runArith s (.fsel m u d a b) u d 1 fun th =>
    let r := fcond F32 m.xm.toNat (th.nat m.c) 0
    (if r.1 then th.nat a else th.nat b, r.2)

/-! ### Rounding, fields and classes (R310 to R312) -/

/-- FRND (R310). -/
def execFrnd (m : Mods) (u : Bool) (d a : RegNo) (s : State) : Host.Outcome State Fault Refusal :=
  runArith s (.frnd m u d a) u d 1 fun th => frndOp m.rm.toNat (m.xm.getLsbD 0) (th.nat a)
/-- FFRC (R310). -/
def execFfrc (m : Mods) (u : Bool) (d a : RegNo) (s : State) : Host.Outcome State Fault Refusal :=
  runArith s (.ffrc m u d a) u d 1 fun th => ffrcOp (th.nat a)
/-- FSCL (R310). -/
def execFscl (m : Mods) (u : Bool) (d a b : RegNo) (s : State) : Host.Outcome State Fault Refusal :=
  runArith s (.fscl m u d a b) u d 1 fun th => fsclOp F32 m.rm.toNat (th.nat a) (intVal (th.nat b) 7)
/-- FEXT (R311). -/
def execFext (m : Mods) (u : Bool) (d a b : RegNo) (s : State) : Host.Outcome State Fault Refusal :=
  runArith s (.fext m u d a b) u d 1 fun th => fextOp m.xm.toNat (th.nat a) (th.nat b)
/-- FCLS (R312). -/
def execFcls (m : Mods) (u : Bool) (d a : RegNo) (imm : BitVec 9) (s : State) : Host.Outcome State Fault Refusal :=
  runArith s (.fcls m u d a imm) u d 1 fun th => (fclsOp (th.nat a) imm.toNat, 0)

/-! ### Approximations (R313 to R315) -/

/-- FRCP (R313 to R315). -/
def execFrcp (m : Mods) (u : Bool) (d a : RegNo) (s : State) : Host.Outcome State Fault Refusal :=
  runArith s (.frcp m u d a) u d 1 fun th => frcpOp (th.nat a)
/-- FRSQ (R313 to R315). -/
def execFrsq (m : Mods) (u : Bool) (d a : RegNo) (s : State) : Host.Outcome State Fault Refusal :=
  runArith s (.frsq m u d a) u d 1 fun th => frsqOp (th.nat a)
/-- FSQT (R313, R314). -/
def execFsqt (m : Mods) (u : Bool) (d a : RegNo) (s : State) : Host.Outcome State Fault Refusal :=
  runArith s (.fsqt m u d a) u d 1 fun th => fsqtOp m.rm.toNat (th.nat a)
/-- FEXP2 (R313 to R315). -/
def execFexp2 (m : Mods) (u : Bool) (d a : RegNo) (s : State) : Host.Outcome State Fault Refusal :=
  runArith s (.fexp2 m u d a) u d 1 fun th => fexp2Op (th.nat a)
/-- FLOG2 (R313 to R315). -/
def execFlog2 (m : Mods) (u : Bool) (d a : RegNo) (s : State) : Host.Outcome State Fault Refusal :=
  runArith s (.flog2 m u d a) u d 1 fun th => flog2Op (th.nat a)
/-- FSIN (R313 to R315). -/
def execFsin (m : Mods) (u : Bool) (d a : RegNo) (s : State) : Host.Outcome State Fault Refusal :=
  runArith s (.fsin m u d a) u d 1 fun th => ftrigOp false (th.nat a)
/-- FCOS (R313 to R315). -/
def execFcos (m : Mods) (u : Bool) (d a : RegNo) (s : State) : Host.Outcome State Fault Refusal :=
  runArith s (.fcos m u d a) u d 1 fun th => ftrigOp true (th.nat a)

/-! ### Packed F16 and BF16 (R316) -/

/-- A packed form's format. -/
def pkFmt (m : Mods) : Fmt := if m.ty = 16 then BF16 else F16
/-- The half of b that meets half `hi` of a (R316). -/
def pkB (m : Mods) (hi : Bool) (b : Nat) : Nat :=
  match m.xm.toNat % 4, hi with
  | 0, false | 1, _ | 3, true => b % 2 ^ 16
  | _, _ => b / 2 ^ 16
/-- A packed result from its halves; flags are the union (R230). -/
def pkJoin (lo hi : Nat × Flags) : Nat × Flags := (lo.1 % 2 ^ 16 + hi.1 % 2 ^ 16 * 2 ^ 16, lo.2 ||| hi.2)
/-- A packed operation on the halves of a and the arranged halves of b. -/
def pkOp (m : Mods) (a b : Nat) (f : Nat → Nat → Nat × Flags) : Nat × Flags :=
  pkJoin (f (a % 2 ^ 16) (pkB m false b)) (f (a / 2 ^ 16) (pkB m true b))

/-- PKADD (R316). -/
def execPkadd (m : Mods) (u : Bool) (d a b : RegNo) (s : State) : Host.Outcome State Fault Refusal :=
  runArith s (.pkadd m u d a b) u d 1 fun th =>
    let F := pkFmt m
    pkOp m (th.nat a) (th.nat b) fun x y => faddV F m.rm.toNat (fdecode F x) (fdecode F y)
/-- PKSUB (R316). -/
def execPksub (m : Mods) (u : Bool) (d a b : RegNo) (s : State) : Host.Outcome State Fault Refusal :=
  runArith s (.pksub m u d a b) u d 1 fun th =>
    let F := pkFmt m
    pkOp m (th.nat a) (th.nat b) fun x y => faddV F m.rm.toNat (fdecode F x) (fdecode F y).negate
/-- PKMUL (R316). -/
def execPkmul (m : Mods) (u : Bool) (d a b : RegNo) (s : State) : Host.Outcome State Fault Refusal :=
  runArith s (.pkmul m u d a b) u d 1 fun th =>
    let F := pkFmt m
    pkOp m (th.nat a) (th.nat b) fun x y => fmulV F m.rm.toNat (fdecode F x) (fdecode F y)
/-- PKFMA (R316): c is taken straight. -/
def execPkfma (m : Mods) (u : Bool) (d a b : RegNo) (s : State) : Host.Outcome State Fault Refusal :=
  runArith s (.pkfma m u d a b) u d 1 fun th =>
    let F := pkFmt m
    let c := th.nat m.c
    let f (x y z : Nat) := ffmaV F m.rm.toNat false (fdecode F x) (fdecode F y) (fdecode F z)
    let a := th.nat a
    let b := th.nat b
    pkJoin (f (a % 2 ^ 16) (pkB m false b) (c % 2 ^ 16)) (f (a / 2 ^ 16) (pkB m true b) (c / 2 ^ 16))
/-- PKMIN (R316). -/
def execPkmin (m : Mods) (u : Bool) (d a b : RegNo) (s : State) : Host.Outcome State Fault Refusal :=
  runArith s (.pkmin m u d a b) u d 1 fun th => pkOp m (th.nat a) (th.nat b) (fminmax (pkFmt m) false)
/-- PKMAX (R316). -/
def execPkmax (m : Mods) (u : Bool) (d a b : RegNo) (s : State) : Host.Outcome State Fault Refusal :=
  runArith s (.pkmax m u d a b) u d 1 fun th => pkOp m (th.nat a) (th.nat b) (fminmax (pkFmt m) true)
/-- PKCMP (R316): b is taken straight. -/
def execPkcmp (m : Mods) (u : Bool) (d a b : RegNo) (s : State) : Host.Outcome State Fault Refusal :=
  runArith s (.pkcmp m u d a b) u d 1 fun th =>
    let f (x y : Nat) : Nat × Flags :=
      let r := fcond (pkFmt m) m.xm.toNat x y
      (if r.1 then 0xFFFF else 0, r.2)
    let a := th.nat a
    let b := th.nat b
    pkJoin (f (a % 2 ^ 16) (b % 2 ^ 16)) (f (a / 2 ^ 16) (b / 2 ^ 16))

/-! ### Conversion (R317 to R321) -/

/-- CVT (R317, R318). -/
def execCvt (m : Mods) (u : Bool) (d a : RegNo) (s : State) : Host.Outcome State Fault Refusal :=
  let dst := cvtDst m
  let src := cvtSrc m
  runArith s (.cvt m u d a) u d (tyRegs dst) fun th => cvtOp dst src m.rm.toNat m.sat (th.getN a.toNat (tyRegs src))

/-- The element width of a CVPK type (R319). -/
def cvpkWidth (ty : Nat) : Nat := if ty = 22 then 2 else (fmtOf ty).width
/-- The lowest bit of the packed field (R319). -/
def cvpkLow (ty p : Nat) : Nat := if ty = 20 then 16 * p else if ty = 22 then 8 * p else 0
/-- CVPK's type: TY 0 is f16 (R319). -/
def cvpkTy (m : Mods) : Nat := if m.ty = 0 then 15 else m.ty.toNat
/-- The X8 scale of CVPK `.sc` (R319). -/
def cvpkScale (m : Mods) (th : Thread) : Option Nat := if m.xm.getLsbD 2 then some (th.nat m.c % 256) else none

/-- CVPK `.pk` (R320): the bits of d outside the field are kept. -/
def cvpkPack (m : Mods) (d a : RegNo) (th : Thread) : Nat × Flags :=
  let ty := cvpkTy m
  let w := cvpkWidth ty
  let lo := cvpkLow ty (m.xm.toNat % 4)
  let k := cvpkCount m.ty.toNat
  let r := (List.range k).foldl (fun (acc : Nat × Flags) i =>
    let e := packElem ty m.rm.toNat (cvpkScale m th) (th.get (a.toNat + i)).toNat
    (acc.1 + e.1 % 2 ^ w * 2 ^ (w * i), acc.2 ||| e.2)) (0, 0)
  let old := th.nat d
  (old - old / 2 ^ lo % 2 ^ (w * k) * 2 ^ lo + r.1 * 2 ^ lo, r.2)

/-- CVPK `.unpk` (R320). -/
def cvpkUnpack (m : Mods) (a : RegNo) (th : Thread) : Nat × Flags :=
  let ty := cvpkTy m
  let w := cvpkWidth ty
  let lo := cvpkLow ty (m.xm.toNat % 4)
  (List.range (cvpkCount m.ty.toNat)).foldl (fun (acc : Nat × Flags) i =>
    let e := unpackElem ty m.rm.toNat (cvpkScale m th) (th.nat a / 2 ^ (lo + w * i) % 2 ^ w)
    (acc.1 + e.1 % 2 ^ 32 * 2 ^ (32 * i), acc.2 ||| e.2)) (0, 0)

/-- CVPK (R319, R320). -/
def execCvpk (m : Mods) (u : Bool) (d a : RegNo) (s : State) : Host.Outcome State Fault Refusal :=
  runArith s (.cvpk m u d a) u d (if m.xm.getLsbD 3 then cvpkCount m.ty.toNat else 1) fun th =>
    if m.xm.getLsbD 3 then cvpkUnpack m a th else cvpkPack m d a th

/-- CVSC (R321). -/
def execCvsc (m : Mods) (u : Bool) (d a b : RegNo) (s : State) : Host.Outcome State Fault Refusal :=
  runArith s (.cvsc m u d a b) u d 1 fun th =>
    if m.xm.getLsbD 0 then cvscApp m.rm.toNat (m.xm.getLsbD 1) (th.nat a) (th.nat b % 256)
    else cvscExt (if m.ty = 0 then 19 else m.ty.toNat) (th.nat a)

end Sys2Proof.Machine
end

