-- ==== Sys2Proof/Machine/Registers.lean ====
section
/-! DEFINITION. Writes of device registers of base address regions 0 and 4 (R10, R393, R409), and a task's access to them (R280). -/

namespace Sys2Proof.Machine

/-- The state an event of another agent leaves. -/
def State.after (s : State) (o : Host.Outcome State Fault Refusal) : State := match o with | .next t => t | _ => s

/-! ### Writes (R10, R393, R409) -/

/-- A command of the pre-emption block (R116); `spare` for one a privileged event task writes, which spares the event queue's grids (R280). -/
def State.preCommand (s : State) (ck : Nat) (v : Word) (spare : Bool) : State :=
  let go (act : State → State) : State := s.after (s.command ck act)
  match bits v 2 0 with
  | 1 => go fun s => s.haltQueue ck (bits v 13 8)
  | 2 => go fun s => s.haltContext ck spare
  | 3 => go fun s => s.saveContext ck 0 spare
  | 4 => go fun s => s.resumeQueue ck (bits v 13 8)
  | 5 => go fun s => s.resumeContext ck spare
  | _ => s

/-- A write of a queue block (R90). -/
def State.queueWrite (s : State) (fn c q o : Nat) (v : Word) : State :=
  match o with
  | 0x08 => s.after (execQueueControlWrite fn c q v s)
  | 0x0C => s.after (execDoorbell fn c q v s)
  | 0x14 => if bits v 0 0 = 1 then s.after (execStopClear fn c q s) else s
  | _ => s.rwrite (kQueue (ctxKey fn c) q o) v

/-- A write of a word of L2PART (R142, R143). -/
def State.l2Write (s : State) (ck o : Nat) (fromPf : Bool) (v : Word) : State :=
  if o = 0 then s.l2Change ck fromPf v else s.after (execL2partWinHiStage (ctxFn ck) (ctxLoc ck) v s)

/-- A write of a stack's mode-register block (R148). -/
def State.mraWrite (s : State) (st o : Nat) (v : Word) : State :=
  if o = 0 then (if bits v 31 30 = 0 then s else s.mraStart st (bits v 31 30) v) else s.rwrite (kMra st o) v

/-- A write of the REQ bits of LGATE (R388). -/
def State.lgateWrite (s : State) (v : Word) : State :=
  [1, 2, 3, 4].foldl (fun s l =>
    let old := s.rbits kLgate (l - 1) (l - 1)
    let new := bits v (l - 1) (l - 1)
    if old = 0 ∧ new = 1 then s.gateLayer l
    else if old = 1 ∧ new = 0 then s.after (execLayerGateRelease l s)
    else s) s

/-- A write of the power and governor registers (R382 to R390, R463). -/
def State.powerWrite (s : State) (off : Nat) (v : Word) : State :=
  if off = 0x160000 ∨ off = 0x160004 then s.after (execGovernorPolicyWrite off v s)
  else if off = 0x160008 then s.after (execHoopcfgWrite v s)
  else if off = 0x160010 then s.lgateWrite v
  else if 0x160020 ≤ off ∧ off < 0x160030 then s.after (execFrequencyChange ((off - 0x160020) / 4) v s)
  else if 0x160030 ≤ off ∧ off < 0x16003C then s.after (execRegulatorSelectWrite ((off - 0x160030) / 4) v s)
  else if 0x160084 ≤ off ∧ off < 0x160090 then s.after (execTripThresholdWrite off v s)
  else if 0x161000 ≤ off ∧ off < 0x161600 ∧ off % 32 = 8 then s.after (execDirectedMoveArm ((off - 0x161000) / 32) v s)
  else s.rwrite (key0 0 off) v

/-- A write of the management, identity and checkpoint blocks (R402, R404, R406, R474). -/
def State.managementWrite (s : State) (off : Nat) (v : Word) : State :=
  if off = 0x17000C then (if bits v 0 0 = 1 then s.resetDevice 1 else s)
  else if off = 0x17005C then s.after (execReplayGateWrite v s)
  else if 0x170040 ≤ off ∧ off < 0x170060 then s.after (execCaptureControlWrite off v s)
  else if 0x170140 ≤ off ∧ off < 0x170160 then { s with nonce := sput 0 s.nonce ((off - 0x170140) / 4) v }
  else if off = 0x170168 then s.after (execAttestationReport v s)
  else if off = 0x170208 then s.after (execCheckpointStart v s)
  else s.rwrite (key0 0 off) v

/-- A write of a register that only the physical function has (R393); in another function it is ignored. -/
def State.pfWrite (s : State) (off : Nat) (v : Word) : State :=
  if 0x108000 ≤ off ∧ off < 0x108020 then s.after (execCsplanWrite ((off - 0x108000) / 4) v s)
  else if 0x120000 ≤ off ∧ off < 0x120100 then s.mraWrite ((off - 0x120000) / 32) (off % 32) v
  else if 0x138000 ≤ off ∧ off < 0x13C000 then
    s.l2Write (ctxKey ((off - 0x138000) / 2048 + 1) ((off - 0x138000) % 2048 / 8)) (off % 8) true v
  else if off = 0x150000 then s.after (execLeasecfgWrite v s)
  else if 0x160000 ≤ off ∧ off < 0x170000 then s.powerWrite off v
  else if 0x170000 ≤ off ∧ off < 0x180000 then s.managementWrite off v
  else if 0x180000 ≤ off ∧ off < 0x181000 then s.after (execPeerLinkControlWrite off v s)
  else s.rwrite (key0 0 off) v

/-- A write of a register of region 0 of a function (R393). -/
def State.write0 (s : State) (fn off : Nat) (v : Word) : State :=
  if off < 0x100000 then s.queueWrite fn (off / 4096) (off % 4096 / 64) (off % 64) v
  else if off < 0x104000 then
    let c := (off - 0x100000) / 64
    if off % 64 = 0 then s.preCommand (ctxKey fn c) v false else s.rwrite (key0 fn off) v
  else if 0x130000 ≤ off ∧ off < 0x130800 then s.l2Write (ctxKey fn ((off - 0x130000) / 8)) (off % 8) (fn == 0) v
  else if 0x140000 ≤ off ∧ off < 0x142000 then
    let c := (off - 0x140000) / 32
    if off % 32 = 0x10 then s.after (execInvalidation fn c v s) else s.after (execTranslationControlWrite fn c (off % 32) v s)
  else if 0x142000 ≤ off ∧ off < 0x146000 ∧ off % 64 = 0x18 then s.after (execPeerMoveControlWrite fn ((off - 0x142000) / 64) v s)
  else if 0x14A000 ≤ off ∧ off < 0x14B000 ∧ off % 16 = 8 then s.memberWrite (ctxKey fn ((off - 0x14A000) / 16)) v
  else if 0x142000 ≤ off ∧ off < 0x14B000 then s.rwrite (key0 fn off) v
  else if fn = 0 then s.pfWrite off v
  else s

/-- A write of a register of region 4 of a function (R409). -/
def State.write4 (s : State) (fn off : Nat) (v : Word) : State :=
  if off < 0x4000 then
    let c := off / 64
    match off % 64 with
    | 0x10 => s.after (execFaultBufferConsume fn c v s)
    | 0x14 => s.after (execFaultFlush fn c v s)
    | o => s.after (execFaultBlockConfigWrite fn c o v s)
  else if off < 0x4020 then s.after (execEventQueueControlWrite fn (off - 0x4000) v s)
  else if fn = 0 ∧ (off = 0x8004 ∨ off = 0x8008) then s.after (execPeerUnfreeze (off == 0x8008) v s)
  else s.rwrite (key4 fn off) v

/-- A supervisor's or management write of the register at an offset of a region of a function (R10, R393, R409). -/
def State.regWrite (s : State) (fn region off : Nat) (v : Word) : State :=
  if off % 4 ≠ 0 ∨ 8 < fn then s else if region = 4 then s.write4 fn off v else if region = 0 then s.write0 fn off v else s

/-- REGISTER_WRITE (R10, R11): a write of a device register, with the effect its map gives it. -/
def execRegisterWrite (fn region off : Nat) (v : Word) (s : State) : Host.Outcome State Fault Refusal := .next (s.regWrite fn region off v)

/-! ### CSRRD and CSRWR (R280) -/

/-- The context whose per-context block of `size` bytes from `base` holds an offset. -/
def blockCtx (base size off : Nat) : Option Nat := if base ≤ off ∧ off < base + 256 * size then some ((off - base) / size) else none

/-- Whether a task of context `ck` may access an offset of its function's region 0 (R280). -/
def State.csrAllowed (s : State) (ck : Nat) (priv write : Bool) (off : Nat) : Bool :=
  let fn := ctxFn ck
  let mine (c : Nat) : Bool := c == ctxLoc ck
  let any (c : Nat) : Bool := priv && s.ctxPart (ctxKey fn c) == s.ctxPart ck
  off % 4 == 0 &&
    ((match blockCtx 0 4096 off with | some c => !write && (mine c || any c) | none => false)
      || (match blockCtx 0x100000 64 off with | some c => any c | none => false)
      || (!write && decide (0x110000 ≤ off) && decide (off < 0x110300))
      || (match blockCtx 0x130000 8 off with | some c => mine c || any c | none => false)
      || (match blockCtx 0x140000 32 off with | some c => any c | none => false)
      || (match blockCtx 0x142000 64 off with | some c => any c | none => false))

/-- The offset a CSR word names. -/
def Thread.csrOff (th : Thread) (a : RegNo) (k : BitVec 9) : Nat := (th.get a.toNat).toNat + 4 * k.toNat

/-- CODE 0x002C (R426). -/
def csrBad (s : State) (write : Bool) (a : RegNo) (k : BitVec 9) (x : Iss) (t : Nat) : List (Bool × Nat × Nat) :=
  let off := (x.tm.thread t).csrOff a k
  [(!s.csrAllowed (s.teamCtx x.tm) (s.teamPriv x.tm) write off, 0x002C, off)]

/-- CSRRD (R280): the register's value, and then a device-scope acquire. -/
def execCsrrd (m : Mods) (d a : RegNo) (k : BitVec 9) (s : State) : Host.Outcome State Fault Refusal :=
  runWord s (.csrrd m d a k) nOf (csrBad s false a k) fun x ts =>
    if ts = [] then s.advance x
    else
      let v := s.regRead (ctxFn (s.teamCtx x.tm)) 0 ((x.lead ts).csrOff a k)
      ((s.putAll x.k ts d.toNat 1 v.toNat).modThreads x.k ts fun th => th.acquire 2 s.dt).advance x

/-- What a task's write does (R142, R280): never a write of GV or GRP, and a command spares the event queue's grids. -/
def State.csrWrite (s : State) (fn off : Nat) (v : Word) : State :=
  if 0x130000 ≤ off ∧ off < 0x130800 then s.l2Write (ctxKey fn ((off - 0x130000) / 8)) (off % 8) false v
  else if 0x100000 ≤ off ∧ off < 0x104000 ∧ off % 64 = 0 then s.preCommand (ctxKey fn ((off - 0x100000) / 64)) v true
  else s.regWrite fn 0 off v

/-- CSRWR (R143, R280): after a device-scope release the register is written. A write that starts a change of L2PART is complete when the change is. -/
def execCsrwr (m : Mods) (d a : RegNo) (k : BitVec 9) (s : State) : Host.Outcome State Fault Refusal :=
  runWord s (.csrwr m d a k) nOf (csrBad s true a k) fun x ts =>
    if ts = [] then s.advance x
    else
      s.afterRelease x ts 2 fun s =>
        let l := x.lead ts
        let fn := ctxFn (s.teamCtx x.tm)
        let off := l.csrOff a k
        let t := s.csrWrite fn off (l.get d.toNat)
        match blockCtx 0x130000 8 off with
        | some c =>
          if s.rbits (kL2 (ctxKey fn c) 0) 15 15 = 0 ∧ t.rbits (kL2 (ctxKey fn c) 0) 15 15 = 1 then
            t.waitAt x ts (fun _ => { kind := .csr, word := x.off, token := ctxKey fn c }) true
          else t.advance x
        | none => t.advance x

end Sys2Proof.Machine
end

