-- ==== Sys2Proof/Machine/Dispatch.lean ====
section
/-! DEFINITION. exec: one arm for each constructor of Instr, each a call of that instruction's meaning. -/

namespace Sys2Proof.Machine

def exec (i : Instr) (s : State) : Host.Outcome State Fault Refusal :=
  match i with
  | .iadd m u d a b => Sys2Proof.Machine.execIadd m u d a b s
  | .iaddc m u d a b => Sys2Proof.Machine.execIaddc m u d a b s
  | .isub m u d a b => Sys2Proof.Machine.execIsub m u d a b s
  | .imul m u d a b => Sys2Proof.Machine.execImul m u d a b s
  | .imulh m u d a b => Sys2Proof.Machine.execImulh m u d a b s
  | .imad m u d a b => Sys2Proof.Machine.execImad m u d a b s
  | .imadw m u d a b => Sys2Proof.Machine.execImadw m u d a b s
  | .isad m u d a b => Sys2Proof.Machine.execIsad m u d a b s
  | .imin m u d a b => Sys2Proof.Machine.execImin m u d a b s
  | .imax m u d a b => Sys2Proof.Machine.execImax m u d a b s
  | .iabs m u d a => Sys2Proof.Machine.execIabs m u d a s
  | .ineg m u d a => Sys2Proof.Machine.execIneg m u d a s
  | .shl m u d a b => Sys2Proof.Machine.execShl m u d a b s
  | .shr m u d a b => Sys2Proof.Machine.execShr m u d a b s
  | .sar m u d a b => Sys2Proof.Machine.execSar m u d a b s
  | .fsl m u d a b => Sys2Proof.Machine.execFsl m u d a b s
  | .fsr m u d a b => Sys2Proof.Machine.execFsr m u d a b s
  | .bfn3 m u d a b => Sys2Proof.Machine.execBfn3 m u d a b s
  | .and m u d a b => Sys2Proof.Machine.execAnd m u d a b s
  | .or m u d a b => Sys2Proof.Machine.execOr m u d a b s
  | .xor m u d a b => Sys2Proof.Machine.execXor m u d a b s
  | .bfx m u d a b => Sys2Proof.Machine.execBfx m u d a b s
  | .bfi m u d a b => Sys2Proof.Machine.execBfi m u d a b s
  | .bysel m u d a b => Sys2Proof.Machine.execBysel m u d a b s
  | .iset m u d a b => Sys2Proof.Machine.execIset m u d a b s
  | .isel m u d a b => Sys2Proof.Machine.execIsel m u d a b s
  | .mov m u d a => Sys2Proof.Machine.execMov m u d a s
  | .lea m u d a b => Sys2Proof.Machine.execLea m u d a b s
  | .leaw m u d a b => Sys2Proof.Machine.execLeaw m u d a b s
  | .idot4 m u d a b => Sys2Proof.Machine.execIdot4 m u d a b s
  | .idot2 m u d a b => Sys2Proof.Machine.execIdot2 m u d a b s
  | .lxch m d a b => Sys2Proof.Machine.execLxch m d a b s
  | .fadd m u d a b => Sys2Proof.Machine.execFadd m u d a b s
  | .fsub m u d a b => Sys2Proof.Machine.execFsub m u d a b s
  | .fmul m u d a b => Sys2Proof.Machine.execFmul m u d a b s
  | .ffma m u d a b => Sys2Proof.Machine.execFfma m u d a b s
  | .fmin m u d a b => Sys2Proof.Machine.execFmin m u d a b s
  | .fmax m u d a b => Sys2Proof.Machine.execFmax m u d a b s
  | .fset m u d a b => Sys2Proof.Machine.execFset m u d a b s
  | .fsel m u d a b => Sys2Proof.Machine.execFsel m u d a b s
  | .frnd m u d a => Sys2Proof.Machine.execFrnd m u d a s
  | .ffrc m u d a => Sys2Proof.Machine.execFfrc m u d a s
  | .fscl m u d a b => Sys2Proof.Machine.execFscl m u d a b s
  | .fext m u d a b => Sys2Proof.Machine.execFext m u d a b s
  | .frcp m u d a => Sys2Proof.Machine.execFrcp m u d a s
  | .frsq m u d a => Sys2Proof.Machine.execFrsq m u d a s
  | .fsqt m u d a => Sys2Proof.Machine.execFsqt m u d a s
  | .fexp2 m u d a => Sys2Proof.Machine.execFexp2 m u d a s
  | .flog2 m u d a => Sys2Proof.Machine.execFlog2 m u d a s
  | .fsin m u d a => Sys2Proof.Machine.execFsin m u d a s
  | .fcos m u d a => Sys2Proof.Machine.execFcos m u d a s
  | .pkadd m u d a b => Sys2Proof.Machine.execPkadd m u d a b s
  | .pksub m u d a b => Sys2Proof.Machine.execPksub m u d a b s
  | .pkmul m u d a b => Sys2Proof.Machine.execPkmul m u d a b s
  | .pkfma m u d a b => Sys2Proof.Machine.execPkfma m u d a b s
  | .pkmin m u d a b => Sys2Proof.Machine.execPkmin m u d a b s
  | .pkmax m u d a b => Sys2Proof.Machine.execPkmax m u d a b s
  | .pkcmp m u d a b => Sys2Proof.Machine.execPkcmp m u d a b s
  | .cvt m u d a => Sys2Proof.Machine.execCvt m u d a s
  | .cvpk m u d a => Sys2Proof.Machine.execCvpk m u d a s
  | .cvsc m u d a b => Sys2Proof.Machine.execCvsc m u d a b s
  | .iaddi m u d a imm => Sys2Proof.Machine.execIaddi m u d a imm s
  | .shli m u d a imm => Sys2Proof.Machine.execShli m u d a imm s
  | .shri m u d a imm => Sys2Proof.Machine.execShri m u d a imm s
  | .sari m u d a imm => Sys2Proof.Machine.execSari m u d a imm s
  | .andi m u d a imm => Sys2Proof.Machine.execAndi m u d a imm s
  | .ori m u d a imm => Sys2Proof.Machine.execOri m u d a imm s
  | .xori m u d a imm => Sys2Proof.Machine.execXori m u d a imm s
  | .popc m u d a => Sys2Proof.Machine.execPopc m u d a s
  | .clz m u d a => Sys2Proof.Machine.execClz m u d a s
  | .ctz m u d a => Sys2Proof.Machine.execCtz m u d a s
  | .brev m u d a => Sys2Proof.Machine.execBrev m u d a s
  | .fcls m u d a imm => Sys2Proof.Machine.execFcls m u d a imm s
  | .vote m d a mode => Sys2Proof.Machine.execVote m d a mode s
  | .ball m d a mode => Sys2Proof.Machine.execBall m d a mode s
  | .gred m d a excl op => Sys2Proof.Machine.execGred m d a excl op s
  | .gscn m d a excl op => Sys2Proof.Machine.execGscn m d a excl op s
  | .movi m u d imm => Sys2Proof.Machine.execMovi m u d imm s
  | .movh m u d imm => Sys2Proof.Machine.execMovh m u d imm s
  | .ld m u fs d a off => Sys2Proof.Machine.execLd m u fs d a off s
  | .st m d a off => Sys2Proof.Machine.execSt m d a off s
  | .lds m u d a off => Sys2Proof.Machine.execLds m u d a off s
  | .sts m d a off => Sys2Proof.Machine.execSts m d a off s
  | .ldc m u fs d a off => Sys2Proof.Machine.execLdc m u fs d a off s
  | .prf m a off => Sys2Proof.Machine.execPrf m a off s
  | .fence m kind scope => Sys2Proof.Machine.execFence m kind scope s
  | .prm m a off => Sys2Proof.Machine.execPrm m a off s
  | .atom m fs d a b => Sys2Proof.Machine.execAtom m fs d a b s
  | .red m a b => Sys2Proof.Machine.execRed m a b s
  | .atoms m d a b => Sys2Proof.Machine.execAtoms m d a b s
  | .cpy m fs d a b => Sys2Proof.Machine.execCpy m fs d a b s
  | .cpyt m fs d a b => Sys2Proof.Machine.execCpyt m fs d a b s
  | .gath m fs d a b => Sys2Proof.Machine.execGath m fs d a b s
  | .scat m fs d a b => Sys2Proof.Machine.execScat m fs d a b s
  | .tdset m fs a b => Sys2Proof.Machine.execTdset m fs a b s
  | .tdrd m fs a b => Sys2Proof.Machine.execTdrd m fs a b s
  | .ttag m a b => Sys2Proof.Machine.execTtag m a b s
  | .jnext m fs a => Sys2Proof.Machine.execJnext m fs a s
  | .coll m fs a b => Sys2Proof.Machine.execColl m fs a b s
  | .plmv m fs a b => Sys2Proof.Machine.execPlmv m fs a b s
  | .mxacq m d => Sys2Proof.Machine.execMxacq m d s
  | .mxrel m a => Sys2Proof.Machine.execMxrel m a s
  | .mxgo m d a b => Sys2Proof.Machine.execMxgo m d a b s
  | .brl m a disp => Sys2Proof.Machine.execBrl m a disp s
  | .jmp m a => Sys2Proof.Machine.execJmp m a s
  | .callDirect m a disp => Sys2Proof.Machine.execCallDirect m a disp s
  | .callRegister m a => Sys2Proof.Machine.execCallRegister m a s
  | .ret m a => Sys2Proof.Machine.execRet m a s
  | .uadd m d a b => Sys2Proof.Machine.execUadd m d a b s
  | .usub m d a b => Sys2Proof.Machine.execUsub m d a b s
  | .umov m d a => Sys2Proof.Machine.execUmov m d a s
  | .uand m d a b => Sys2Proof.Machine.execUand m d a b s
  | .uor m d a b => Sys2Proof.Machine.execUor m d a b s
  | .uxor m d a b => Sys2Proof.Machine.execUxor m d a b s
  | .ushl m d a b => Sys2Proof.Machine.execUshl m d a b s
  | .ushr m d a b => Sys2Proof.Machine.execUshr m d a b s
  | .ucmp m d a b => Sys2Proof.Machine.execUcmp m d a b s
  | .usel m d a b => Sys2Proof.Machine.execUsel m d a b s
  | .umul m d a b => Sys2Proof.Machine.execUmul m d a b s
  | .ulea m d a b => Sys2Proof.Machine.execUlea m d a b s
  | .umovi m d imm => Sys2Proof.Machine.execUmovi m d imm s
  | .nop m => Sys2Proof.Machine.execNop m s
  | .yield m => Sys2Proof.Machine.execYield m s
  | .exit m => Sys2Proof.Machine.execExit m s
  | .rets m a b => Sys2Proof.Machine.execRets m a b s
  | .launch m d a b => Sys2Proof.Machine.execLaunch m d a b s
  | .gbar m => Sys2Proof.Machine.execGbar m s
  | .trap m a => Sys2Proof.Machine.execTrap m a s
  | .evpost m d a => Sys2Proof.Machine.execEvpost m d a s
  | .frz m d a => Sys2Proof.Machine.execFrz m d a s
  | .sleep m a => Sys2Proof.Machine.execSleep m a s
  | .rzinit m a pt => Sys2Proof.Machine.execRzinit m a pt s
  | .rzarv m d pt => Sys2Proof.Machine.execRzarv m d pt s
  | .rzwait m a pt => Sys2Proof.Machine.execRzwait m a pt s
  | .rzarw m d pt => Sys2Proof.Machine.execRzarw m d pt s
  | .rzcarv m a pt => Sys2Proof.Machine.execRzcarv m a pt s
  | .rztest m d a pt => Sys2Proof.Machine.execRztest m d a pt s
  | .vgrow m d cnt => Sys2Proof.Machine.execVgrow m d cnt s
  | .vshrk m d cnt => Sys2Proof.Machine.execVshrk m d cnt s
  | .srd m d sel => Sys2Proof.Machine.execSrd m d sel s
  | .swr m a sel => Sys2Proof.Machine.execSwr m a sel s
  | .csrrd m d a k => Sys2Proof.Machine.execCsrrd m d a k s
  | .csrwr m d a k => Sys2Proof.Machine.execCsrwr m d a k s
  | .bra m disp => Sys2Proof.Machine.execBra m disp s
  | .brc m a disp => Sys2Proof.Machine.execBrc m a disp s
  | .mnop => Sys2Proof.Machine.execMnop s
  | .mend => Sys2Proof.Machine.execMend s
  | .mlda ts cl ty xi mx => Sys2Proof.Machine.execMlda ts cl ty xi mx s
  | .mldb ts sub cl rc ty xi mx => Sys2Proof.Machine.execMldb ts sub cl rc ty xi mx s
  | .mma acc ts fus ord ty sat xi => Sys2Proof.Machine.execMma acc ts fus ord ty sat xi s
  | .mzro acc cnt => Sys2Proof.Machine.execMzro acc cnt s
  | .mstc acc ts ty sc xi mx => Sys2Proof.Machine.execMstc acc ts ty sc xi mx s
  | .madc acc src sat => Sys2Proof.Machine.execMadc acc src sat s
  | .mrza z => Sys2Proof.Machine.execMrza z s
  | .mrzw z => Sys2Proof.Machine.execMrzw z s
  | .mwtg ts tag xi mx => Sys2Proof.Machine.execMwtg ts tag xi mx s
  | .mset mk imm => Sys2Proof.Machine.execMset mk imm s
  | .madd mk ms imm => Sys2Proof.Machine.execMadd mk ms imm s
  | .mlop mk disp => Sys2Proof.Machine.execMlop mk disp s
  | .maud td => Sys2Proof.Machine.execMaud td s
  | .clauseStart col slot bundle => Sys2Proof.Machine.execClauseStart col slot bundle s
  | .formationPoint col layer slice => Sys2Proof.Machine.execFormationPoint col layer slice s
  | .groupCollectiveConvergence col slot group => Sys2Proof.Machine.execGroupCollectiveConvergence col slot group s
  | .vgrowGrant col slot group => Sys2Proof.Machine.execVgrowGrant col slot group s
  | .vgrowDenialAllWaiting col layer => Sys2Proof.Machine.execVgrowDenialAllWaiting col layer s
  | .vgrowDenialTooLong col slot group => Sys2Proof.Machine.execVgrowDenialTooLong col slot group s
  | .parkedTeamPlace col slot => Sys2Proof.Machine.execParkedTeamPlace col slot s
  | .governorEvaluation col => Sys2Proof.Machine.execGovernorEvaluation col s
  | .migrationAbandon col => Sys2Proof.Machine.execMigrationAbandon col s
  | .migrationTransfer col => Sys2Proof.Machine.execMigrationTransfer col s
  | .migrationResume col => Sys2Proof.Machine.execMigrationResume col s
  | .returnForward col slot entry => Sys2Proof.Machine.execReturnForward col slot entry s
  | .directedMoveArm col w2 => Sys2Proof.Machine.execDirectedMoveArm col w2 s
  | .directedMoveTrigger col => Sys2Proof.Machine.execDirectedMoveTrigger col s
  | .realignmentDue col boundary direction group => Sys2Proof.Machine.execRealignmentDue col boundary direction group s
  | .realignmentStart col boundary direction => Sys2Proof.Machine.execRealignmentStart col boundary direction s
  | .realignmentForced col boundary direction => Sys2Proof.Machine.execRealignmentForced col boundary direction s
  | .realignmentEnd col boundary direction locked => Sys2Proof.Machine.execRealignmentEnd col boundary direction locked s
  | .backgroundTestStart col boundary direction group => Sys2Proof.Machine.execBackgroundTestStart col boundary direction group s
  | .backgroundTestRelinquish => Sys2Proof.Machine.execBackgroundTestRelinquish s
  | .backgroundTestComplete openBond => Sys2Proof.Machine.execBackgroundTestComplete openBond s
  | .queueControlWrite fn c q v => Sys2Proof.Machine.execQueueControlWrite fn c q v s
  | .doorbell fn c q tail => Sys2Proof.Machine.execDoorbell fn c q tail s
  | .cardIntake fn c q => Sys2Proof.Machine.execCardIntake fn c q s
  | .stopClear fn c q => Sys2Proof.Machine.execStopClear fn c q s
  | .dependenceCounterRead fn c q => Sys2Proof.Machine.execDependenceCounterRead fn c q s
  | .teamPlacement grid col => Sys2Proof.Machine.execTeamPlacement grid col s
  | .cooperativeGuard grid => Sys2Proof.Machine.execCooperativeGuard grid s
  | .gridSignal grid => Sys2Proof.Machine.execGridSignal grid s
  | .jnextServe req => Sys2Proof.Machine.execJnextServe req s
  | .handoverDrainComplete col slot => Sys2Proof.Machine.execHandoverDrainComplete col slot s
  | .successorStart col slot => Sys2Proof.Machine.execSuccessorStart col slot s
  | .gbarAdmissionWindow grid => Sys2Proof.Machine.execGbarAdmissionWindow grid s
  | .haltQueue fn c q => Sys2Proof.Machine.execHaltQueue fn c q s
  | .haltContext fn c => Sys2Proof.Machine.execHaltContext fn c s
  | .saveContext fn c => Sys2Proof.Machine.execSaveContext fn c s
  | .resumeQueue fn c q => Sys2Proof.Machine.execResumeQueue fn c q s
  | .resumeContext fn c => Sys2Proof.Machine.execResumeContext fn c s
  | .haltComplete fn c => Sys2Proof.Machine.execHaltComplete fn c s
  | .saveComplete fn c => Sys2Proof.Machine.execSaveComplete fn c s
  | .pendingWriteDelivery col slot entry => Sys2Proof.Machine.execPendingWriteDelivery col slot entry s
  | .csplanWrite part v => Sys2Proof.Machine.execCsplanWrite part v s
  | .l2partChange fn c fromPf v => Sys2Proof.Machine.execL2partChange fn c fromPf v s
  | .l2partWinHiStage fn c v => Sys2Proof.Machine.execL2partWinHiStage fn c v s
  | .l2partChangeComplete fn c => Sys2Proof.Machine.execL2partChangeComplete fn c s
  | .hbmScrub stack chan bank corrected => Sys2Proof.Machine.execHbmScrub stack chan bank corrected s
  | .hbmRowSwap stack chan bank row => Sys2Proof.Machine.execHbmRowSwap stack chan bank row s
  | .hbmRefreshWindow stack => Sys2Proof.Machine.execHbmRefreshWindow stack s
  | .mraReadBankCounts stack v => Sys2Proof.Machine.execMraReadBankCounts stack v s
  | .mraReadModeRegister stack v => Sys2Proof.Machine.execMraReadModeRegister stack v s
  | .mraClearBankCounts stack v => Sys2Proof.Machine.execMraClearBankCounts stack v s
  | .mraOperationComplete stack => Sys2Proof.Machine.execMraOperationComplete stack s
  | .pageTableWalk col fn c va => Sys2Proof.Machine.execPageTableWalk col fn c va s
  | .translationControlWrite fn c off v => Sys2Proof.Machine.execTranslationControlWrite fn c off v s
  | .invalidation fn c v => Sys2Proof.Machine.execInvalidation fn c v s
  | .invalidationComplete fn c => Sys2Proof.Machine.execInvalidationComplete fn c s
  | .atsTranslationCompletion fn c va result rd wr => Sys2Proof.Machine.execAtsTranslationCompletion fn c va result rd wr s
  | .pageRequestGroupResponse fn c va response => Sys2Proof.Machine.execPageRequestGroupResponse fn c va response s
  | .atsInvalidateRequest fn c va log2size => Sys2Proof.Machine.execAtsInvalidateRequest fn c va log2size s
  | .plmvLineMove req line => Sys2Proof.Machine.execPlmvLineMove req line s
  | .plmvSwap req => Sys2Proof.Machine.execPlmvSwap req s
  | .plmvRetire req => Sys2Proof.Machine.execPlmvRetire req s
  | .peerMoveAttempt fn c va peer => Sys2Proof.Machine.execPeerMoveAttempt fn c va peer s
  | .peerMoveComplete fn c va leaf => Sys2Proof.Machine.execPeerMoveComplete fn c va leaf s
  | .peerMoveControlWrite fn c v => Sys2Proof.Machine.execPeerMoveControlWrite fn c v s
  | .homeRead col slot entry => Sys2Proof.Machine.execHomeRead col slot entry s
  | .homeWriteApply line => Sys2Proof.Machine.execHomeWriteApply line s
  | .horizonWaitEnd col slot thread => Sys2Proof.Machine.execHorizonWaitEnd col slot thread s
  | .columnCacheWriteBack col line => Sys2Proof.Machine.execColumnCacheWriteBack col line s
  | .writeBackBufferRelease col line => Sys2Proof.Machine.execWriteBackBufferRelease col line s
  | .leasecfgWrite v => Sys2Proof.Machine.execLeasecfgWrite v s
  | .engineOwnershipRequest req => Sys2Proof.Machine.execEngineOwnershipRequest req s
  | .copyComplete req => Sys2Proof.Machine.execCopyComplete req s
  | .cpytComplete req => Sys2Proof.Machine.execCpytComplete req s
  | .gatherComplete req => Sys2Proof.Machine.execGatherComplete req s
  | .scatterComplete req => Sys2Proof.Machine.execScatterComplete req s
  | .tensorIdWriteComplete req => Sys2Proof.Machine.execTensorIdWriteComplete req s
  | .tensorIdReadComplete req => Sys2Proof.Machine.execTensorIdReadComplete req s
  | .engineFault req => Sys2Proof.Machine.execEngineFault req s
  | .ttagApply req => Sys2Proof.Machine.execTtagApply req s
  | .mxrelComplete col slot => Sys2Proof.Machine.execMxrelComplete col slot s
  | .batonExpiry col layer => Sys2Proof.Machine.execBatonExpiry col layer s
  | .collectiveComplete req contributions => Sys2Proof.Machine.execCollectiveComplete req contributions s
  | .estimatorPeriod col counts temps => Sys2Proof.Machine.execEstimatorPeriod col counts temps s
  | .hoopBaseStop => Sys2Proof.Machine.execHoopBaseStop s
  | .hoopLayerStop layer => Sys2Proof.Machine.execHoopLayerStop layer s
  | .hoopcfgWrite v => Sys2Proof.Machine.execHoopcfgWrite v s
  | .frequencyChange k v => Sys2Proof.Machine.execFrequencyChange k v s
  | .frequencyChangeComplete k => Sys2Proof.Machine.execFrequencyChangeComplete k s
  | .regulatorSelectWrite j v => Sys2Proof.Machine.execRegulatorSelectWrite j v s
  | .ageingMonitorRead site steps => Sys2Proof.Machine.execAgeingMonitorRead site steps s
  | .layerGateRequest layer => Sys2Proof.Machine.execLayerGateRequest layer s
  | .layerEvacuationComplete layer => Sys2Proof.Machine.execLayerEvacuationComplete layer s
  | .layerGateRelease layer => Sys2Proof.Machine.execLayerGateRelease layer s
  | .layerWakeComplete layer => Sys2Proof.Machine.execLayerWakeComplete layer s
  | .governorPolicyWrite off v => Sys2Proof.Machine.execGovernorPolicyWrite off v s
  | .peerLinkControlWrite off v => Sys2Proof.Machine.execPeerLinkControlWrite off v s
  | .linkFlitReplay peer link => Sys2Proof.Machine.execLinkFlitReplay peer link s
  | .linkLoss peer link => Sys2Proof.Machine.execLinkLoss peer link s
  | .linkRetrained peer link => Sys2Proof.Machine.execLinkRetrained peer link s
  | .peerRouteLost dev => Sys2Proof.Machine.execPeerRouteLost dev s
  | .peerInboundRequest dev dctx va req data => Sys2Proof.Machine.execPeerInboundRequest dev dctx va req data s
  | .peerAcknowledgement col slot thread => Sys2Proof.Machine.execPeerAcknowledgement col slot thread s
  | .peerUnfreeze hi v => Sys2Proof.Machine.execPeerUnfreeze hi v s
  | .hostInboundAccess fn c off access data => Sys2Proof.Machine.execHostInboundAccess fn c off access data s
  | .checkpointStart v => Sys2Proof.Machine.execCheckpointStart v s
  | .checkpointComplete => Sys2Proof.Machine.execCheckpointComplete s
  | .attestationReport v => Sys2Proof.Machine.execAttestationReport v s
  | .attestationReportComplete => Sys2Proof.Machine.execAttestationReportComplete s
  | .deviceReset cause => Sys2Proof.Machine.execDeviceReset cause s
  | .faultBlockConfigWrite fn c off v => Sys2Proof.Machine.execFaultBlockConfigWrite fn c off v s
  | .faultBufferConsume fn c v => Sys2Proof.Machine.execFaultBufferConsume fn c v s
  | .faultFlush fn c v => Sys2Proof.Machine.execFaultFlush fn c v s
  | .eventQueueControlWrite fn off v => Sys2Proof.Machine.execEventQueueControlWrite fn off v s
  | .correctedError k => Sys2Proof.Machine.execCorrectedError k s
  | .uncorrectedError where_ => Sys2Proof.Machine.execUncorrectedError where_ s
  | .fatalError code => Sys2Proof.Machine.execFatalError code s
  | .stakeParityReplay col boundary direction group signal => Sys2Proof.Machine.execStakeParityReplay col boundary direction group signal s
  | .dieReset layer => Sys2Proof.Machine.execDieReset layer s
  | .coreHaltTimeout col layer => Sys2Proof.Machine.execCoreHaltTimeout col layer s
  | .tripThresholdWrite off v => Sys2Proof.Machine.execTripThresholdWrite off v s
  | .thermalSoftTrip col layer reading => Sys2Proof.Machine.execThermalSoftTrip col layer reading s
  | .softTripEnd col => Sys2Proof.Machine.execSoftTripEnd col s
  | .supplyExcursion cool => Sys2Proof.Machine.execSupplyExcursion cool s
  | .supplyExcursionEnd cool => Sys2Proof.Machine.execSupplyExcursionEnd cool s
  | .hardTrip cause col layer reading => Sys2Proof.Machine.execHardTrip cause col layer reading s
  | .hardTripPowerOff => Sys2Proof.Machine.execHardTripPowerOff s
  | .partWorn kind index => Sys2Proof.Machine.execPartWorn kind index s
  | .captureControlWrite off v => Sys2Proof.Machine.execCaptureControlWrite off v s
  | .countedAcquireGrant col slot thread => Sys2Proof.Machine.execCountedAcquireGrant col slot thread s
  | .replayGateWrite v => Sys2Proof.Machine.execReplayGateWrite v s
  | .sleepExpiry col slot thread => Sys2Proof.Machine.execSleepExpiry col slot thread s
  | .registerWrite fn region off v => Sys2Proof.Machine.execRegisterWrite fn region off v s
  | .parkingPlacingComplete col slot => Sys2Proof.Machine.execParkingPlacingComplete col slot s
  | .hostLinkDown => Sys2Proof.Machine.execHostLinkDown s

end Sys2Proof.Machine
end

