-- ==== Sys2Proof/Machine/Auto.lean ====
section
/-! DEFINITION. Whose turn it is: the issue slot of a slice (R108 to R111), the matrix stream (R253, R360), the order in which agents move when none is named,
what every step does around a turn (R18, R48, R182, R466), and the machine that runs one word. -/

namespace Sys2Proof.Machine

/-! ### A turn -/

/-- Whether the scoreboard's next free entry is owed to a thread of a bundle (R137). -/
def Team.sbNext (tm : Team) (b : Bundle) : Bool := b.issued && match tm.sbWait.head? with | some t => b.threads.contains t | none => false

/-- Whether a halt that a pre-emption has requested is in progress on a core (R117, R118, R384). -/
def State.coreHalting (s : State) (c l : Nat) : Bool :=
  (s.teamsOf c).any fun p => p.2.layer? == some l && p.2.halting && !p.2.allHalted && (match (s.col c).migration with | some m => m.slot != teamSlot p.1 | none => true)

/-- Whether a core issues words in this cycle: over its column's budget it does in a fraction of its cycles (R384, R464). DESIGN CHOICE (unsafe): these are
the first of every 16 cycles of its clock; the spec gives the fraction alone. -/
def State.mayClock (s : State) (c l : Nat) : Bool := decide (s.clock c % 16 < (s.col c).throttle) || s.coreHalting c l

/-- The word a bundle of a team issues now: the bundle has its slice's issue slot, or takes a scoreboard entry its word waits for (R108, R137). One that
cannot be taken up waits. -/
def State.issues (s : State) (k idx : Nat) : Option Instr :=
  if !s.alive then none
  else
    match s.team? k with
    | none => none
    | some tm =>
      match tm.layer?, tm.bundles[idx]? with
      | some l, some b =>
        if s.mayClock (teamCol k) l && tm.mayIssue b && (s.hasPlace k tm b || tm.sbNext b) then
          (b.next?.map Slot.ins).filter fun i =>
            (modsOf i).isSome && !s.stalled k tm b
        else none
      | _, _ => none

/-- Whether a team's stream may go on: its team executes, and it is neither stopped, held nor halted (R253, R360, R436). -/
def Team.streams (tm : Team) : Bool :=
  tm.layer?.isSome && tm.frozen.isNone && !tm.halting && !tm.halted && tm.stream.run && !tm.stream.held && tm.eng?.isSome

/-- One step of a team's matrix stream: it fetches its next M-word, or executes the one it has fetched. -/
def State.streamTurn (s : State) (k : Nat) : Host.Outcome State Fault Refusal :=
  match s.alive, s.team? k with
  | true, some tm =>
    if !tm.streams || !s.mayClock (teamCol k) (tm.layer?.getD 0) then .next s
    else
      match tm.stream.ir with
      | none => .next ((s.fetchM k tm).auditStep k)
      | some w =>
        match decodeM w with
        | .ok i => exec i { s with cur := some (.stream k) }
        | .error e => .next (s.takeStreamFault k tm e.code w.toNat 0)
  | _, _ => .next s

/-- Whether a row is a step of another agent and not a word. -/
def isEvent (i : Instr) : Bool := (modsOf i).isNone && !isMword i

/-- Whether an event can happen in this state (R408, R466): with links and queues stopped by a fatal error, register writes, further errors and the reset;
without power, the reset alone. -/
def State.happens (s : State) (i : Instr) : Bool :=
  match i with
  | .deviceReset _ => true
  | .registerWrite .. | .fatalError _ => s.powered
  | _ => s.alive

/-- Takes a turn. -/
def State.takeTurn (s : State) : Turn → Host.Outcome State Fault Refusal
  | .issue k idx => match s.issues k idx with | some i => exec i { s with cur := some (.bundle k idx) } | none => .next s
  | .stream k => s.streamTurn k
  | .event i => if isEvent i && s.happens i then exec i s else .next s
  | .boot => .next s.boot
  | .carry mib => .next (s.carry mib)
  | .tick => .next s

/-! ### Turns that no one names -/

/-- The turns of a team: its words and clause starts, its stream, its requests, its accesses and its own moves. -/
def teamTurns (k : Nat) (tm : Team) : List Turn :=
  let c := teamCol k
  let sl := teamSlot k
  let words := tm.bundles.zipIdx.filterMap fun (b, i) =>
    if b.clause.isSome then (if b.active || tm.sbNext b then some (Turn.issue k i) else none)
    else if b.active then some (Turn.event (.clauseStart c sl i)) else none
  let threads := (List.range tm.threads.length).flatMap fun t =>
    [Turn.event (.horizonWaitEnd c sl t), .event (.countedAcquireGrant c sl t), .event (.sleepExpiry c sl t)]
  let groups := (List.range tm.groups.length).flatMap fun g =>
    [Turn.event (.groupCollectiveConvergence c sl g), .event (.vgrowGrant c sl g), .event (.vgrowDenialTooLong c sl g)]
  let accs := tm.accesses.flatMap fun a =>
    [Turn.event (.homeRead c sl a.id), .event (.returnForward c sl a.id), .event (.pendingWriteDelivery c sl a.id)]
  words ++ [.stream k] ++ threads ++ groups ++ accs
    ++ [.event (.parkedTeamPlace c sl), .event (.parkingPlacingComplete c sl), .event (.handoverDrainComplete c sl), .event (.successorStart c sl),
        .event (.mxrelComplete c sl)]

/-- The turns of a column. -/
def State.columnTurns (c : Nat) (x : Column) : List Turn :=
  x.orphans.map (fun o => Turn.event (.homeRead c o.slot o.acc.id)) ++ x.wbuf.map (fun e => .event (.writeBackBufferRelease c e.1))
    ++ [.event (.migrationTransfer c), .event (.migrationResume c), .event (.migrationAbandon c), .event (.directedMoveTrigger c)]
    ++ ([1, 2, 3, 4] : List Nat).flatMap (fun l =>
      [Turn.event (.batonExpiry c l), .event (.vgrowDenialAllWaiting c l)] ++ (List.range 4).map fun sl => .event (.formationPoint c l sl))

/-- The turns of an engine request. -/
def Req.turns (r : Req) : List Turn :=
  [.event (.engineOwnershipRequest r.id), .event (.engineFault r.id)] ++
  match r.kind with
  | .copy => [.event (.copyComplete r.id)]
  | .cpyt => [.event (.cpytComplete r.id)]
  | .gath => [.event (.gatherComplete r.id)]
  | .scat => [.event (.scatterComplete r.id)]
  | .tdset => [.event (.tensorIdWriteComplete r.id)]
  | .tdrd => [.event (.tensorIdReadComplete r.id)]
  | .ttag => [.event (.ttagApply r.id)]
  | .jnext => [.event (.jnextServe r.id)]
  | .coll => []
  | .plmv => [.event (.plmvLineMove r.id r.lines.length), .event (.plmvSwap r.id), .event (.plmvRetire r.id)]

/-- The turns of a grid. -/
def State.gridTurns (s : State) (id : Nat) (g : Grid) : List Turn :=
  (if g.pending then (s.preferred id g.card).map fun c => Turn.event (.teamPlacement id c) else [])
    ++ [.event (.cooperativeGuard id), .event (.gridSignal id), .event (.gbarAdmissionWindow id)]

/-- The turns of a context. -/
def Ctx.turns (ck : Nat) (x : Ctx) : List Turn :=
  let fn := ctxFn ck
  let c := ctxLoc ck
  x.intakes.flatMap (fun p => [Turn.event (.cardIntake fn c p.1), .event (.dependenceCounterRead fn c p.1)])
    ++ [.event (.haltComplete fn c), .event (.saveComplete fn c), .event (.invalidationComplete fn c)]

/-- Turns that registers call for: rings with cards, window changes and the blocks of the physical function. -/
def State.registerTurns (s : State) : List Turn :=
  s.csr.flatMap fun (p : Nat × Word) =>
    let fn := p.1 / 2 ^ 32
    let off := p.1 % 2 ^ 32
    if off < 0x100000 ∧ off % 64 = 8 then [.event (.cardIntake fn (off / 4096) (off % 4096 / 64))]
    else if 0x130000 ≤ off ∧ off < 0x130800 ∧ off % 8 = 0 then [.event (.l2partChangeComplete fn ((off - 0x130000) / 8))]
    else if 0x120000 ≤ off ∧ off < 0x120100 ∧ off % 32 = 4 then [.event (.mraOperationComplete ((off - 0x120000) / 32))]
    else if 0x160020 ≤ off ∧ off < 0x160030 then [.event (.frequencyChangeComplete ((off - 0x160020) / 4))]
    else if off = 0x160010 then ([1, 2, 3, 4] : List Nat).flatMap fun l => [Turn.event (.layerEvacuationComplete l), .event (.layerWakeComplete l)]
    else if off = 0x170208 then [.carry 1024, .event .checkpointComplete]
    else if off = 0x170168 then [.event .attestationReportComplete]
    else []

/-- Every turn that needs no input from outside the device. -/
def State.turns (s : State) : List Turn :=
  s.teams.flatMap (fun p => teamTurns p.1 p.2) ++ s.cols.flatMap (fun p => State.columnTurns p.1 p.2) ++ s.reqs.flatMap Req.turns
    ++ s.grids.flatMap (fun p => s.gridTurns p.1 p.2) ++ s.ctxs.flatMap (fun p => p.2.turns p.1) ++ s.registerTurns
    ++ s.stakeOps.flatMap (fun o => [Turn.event (.realignmentStart o.col o.boundary o.direction), .event (.realignmentForced o.col o.boundary o.direction)])
    ++ if s.hardTrip.isSome then [.event .hardTripPowerOff] else []

/-- Whether a turn changes anything. -/
def State.changes (s : State) (t : Turn) : Bool :=
  match s.takeTurn t with
  | .next u => { u with cur := none } != { s with cur := none }
  | _ => false

/-- The agent that moves when none is named: the first, from a place that moves with the cycle, whose turn changes something; else a cycle passes. -/
def State.auto (s : State) : Turn :=
  if s.booting then .boot
  else if !s.alive then .tick
  else
    let l := s.turns
    let n := s.cyc % max 1 l.length
    ((l.drop n ++ l.take n).find? fun t => s.changes t).getD .tick

/-! ### What every step does -/

/-- A step begins: a cycle passes, the issue slot is free, writes whose completion time has come are applied at their homes, and posted writes of the
host that wait go on (R18, R182, R199). -/
def State.beginStep (s : State) : State :=
  let s := { s with cyc := s.cyc + 1, cur := none }
  (((s.dir.filter fun p => !p.2.waiting.isEmpty).map Prod.fst).foldl (fun s l => s.applyDue l) s).serveHost

/-- Whether a team has just become ready for placement, or has just lost its last ready thread (R48). -/
def State.turnedReady (old new : State) (k : Nat) (tm : Team) : Bool :=
  match old.team? k with
  | none => false
  | some o =>
    match tm.place with
    | .parked => new.teamReady tm && !(o.place == .parked && old.teamReady o)
    | .core _ => !tm.anyReady && o.anyReady
    | .moving _ _ => false

/-- Whether a bundle that waits inside a clause would take up its word now: it goes past it, starts the release it waits for, or goes on to its next
wait (R60, R108, R188). -/
def State.waitOver (s : State) (k idx : Nat) (tm : Team) (b : Bundle) : Bool :=
  match b.next? with
  | none => false
  | some sl =>
    tm.mayIssue b && (modsOf sl.ins).isSome &&
      match exec sl.ins { s with cur := some (.bundle k idx) } with
      | .next u =>
        (match u.team? k with
         | some um => !(um.bundles.any fun c => c == b && b.threads.all fun t => (um.thread t).wait == (tm.thread t).wait)
         | none => true)
      | _ => false

/-- Whether a bundle is ready (R108). -/
def State.bundleReady (s : State) (k idx : Nat) (tm : Team) (b : Bundle) : Bool :=
  if b.clause.isNone then s.headerReady k tm b
  else if tm.inside b then tm.mayIssue b && !s.stalled k tm b
  else s.waitOver k idx tm b

/-- The oldest first of some bundles of a slice (R109). -/
def oldestFirst (l : List (Nat × Nat × Team × Bundle)) : List (Nat × Nat × Team × Bundle) := l.foldr ins []
where ins (p : Nat × Nat × Team × Bundle) : List (Nat × Nat × Team × Bundle) → List (Nat × Nat × Team × Bundle)
  | [] => [p]
  | q :: rest => if olderBundle p.1 p.2.2.2 q.1 q.2.2.2 then p :: q :: rest else q :: ins p rest

/-- The sets of a slice after a cycle (R110): active bundles that wait, or stand at a header that is not ready, leave; one that has ended a clause leaves
while a ready bundle is pending; the oldest ready pending bundles take the places that are empty, up to eight. -/
def State.rotate (s : State) (c l sl : Nat) : State :=
  let all := s.sliceBundles c l sl
  let act := all.filter fun p => p.2.2.2.active
  let stays (p : Nat × Nat × Team × Bundle) : Bool :=
    let b := p.2.2.2
    if b.clause.isSome && p.2.2.1.inside b then !s.stalled p.1 p.2.2.1 b else s.bundleReady p.1 p.2.1 p.2.2.1 b
  let stay := act.filter stays
  let ended (p : Nat × Nat × Team × Bundle) : Bool := p.2.2.2.stamp == s.cyc && p.2.2.2.clause.isNone
  if all.length = act.length ∧ stay.length = act.length ∨ (8 ≤ stay.length ∧ stay.all fun p => !ended p) then
    (act.filter fun p => !stays p).foldl (fun s p => s.modBundle p.1 p.2.1 fun b => { b with active := false }) s
  else
    let pend := oldestFirst (all.filter fun p => !p.2.2.2.active && s.bundleReady p.1 p.2.1 p.2.2.1 p.2.2.2)
    let out := if pend.any fun p => decide (p.2.2.2.stamp < s.cyc) then stay.filter ended else []
    let in_ := pend.take (8 - (stay.length - out.length))
    let gone := (act.filter fun p => !stays p) ++ out
    let s := gone.foldl (fun s p => s.modBundle p.1 p.2.1 fun b => { b with active := false }) s
    in_.foldl (fun s p => s.modBundle p.1 p.2.1 fun b => { b with active := true }) s

/-- The sets of every slice after a cycle. -/
def State.rotateAll (s : State) : State :=
  let cores := (s.teams.filterMap fun p => p.2.layer?.map fun l => (teamCol p.1, l)).eraseDups
  cores.foldl (fun s p => ([0, 1, 2, 3] : List Nat).foldl (fun s sl => s.rotate p.1 p.2 sl) s) s

/-- The first issue of a team on the core it has moved to (R79). -/
def State.noteIssue (s : State) : State :=
  match s.cur with
  | some (.bundle k _) => s.modTeam k fun tm => tm.firstIssue s.dt (s.clock (teamCol k))
  | _ => s

/-- Migrating teams whose bundles have halted in time are noted: they stay as they are until they have moved (R72 step 3). -/
def State.noteHalts (s : State) : State :=
  (s.cols.filter fun p => match p.2.migration with | some m => !m.halted | none => false).foldl (fun s p =>
    match p.2.migration with
    | some m =>
      (match s.team? (teamKey p.1 m.slot) with
       | some tm =>
         if s.haltedInTime p.1 m tm then
           (s.modCol p.1 fun x => { x with migration := some { m with halted := true } }).setTeam (teamKey p.1 m.slot) { tm with still := true }
         else s
       | none => s)
    | none => s) s

/-- A step ends: counters are read again where a grid's signal has been applied (R94), a first issue after a move is noted (R79), teams that have become ready
note when (R48), freezes that a transfer held take effect (R417), a barrier generation of a successor grid ends once no more teams join it (R276), writes of
the S4's own go on (R411), a hard trip goes on to its next save (R466), and bundles change between the sets of their slices (R110). -/
def State.endStep (old new : State) : State :=
  let new := { new.noteIssue.noteHalts with cur := none }
  let new := if old.signalDue new.dt then new.rereadWaits else new
  let ks := (new.teams.filter fun p => old.turnedReady new p.1 p.2).map Prod.fst
  let new := ks.foldl (fun s k => s.modTeam k fun tm => { tm with readyAt := s.dt }) new
  let new := ((new.teams.filter fun p => p.2.freezing.isSome).map Prod.fst).foldl State.settle new
  let new := ((new.grids.filter fun p => p.2.pred.isSome && !p.2.barWait.isEmpty).map Prod.fst).foldl State.barrier new
  let new := new.settlePuts.settleRecords
  let new := if new.hardTrip.isSome then new.tripNext else new
  if new.alive then new.rotateAll else new

/-- The turn a step takes: the first of the agenda, else one that no one has named. -/
def State.nextTurn (s : State) : State × Turn :=
  match s.agenda with
  | t :: rest => ({ s with agenda := rest }, t)
  | [] => (s, s.auto)

/-- One step: the turn, between what every step does. -/
def State.oneStep (s : State) : Host.Outcome State Fault Refusal :=
  let p := s.beginStep.nextTurn
  match p.1.takeTurn p.2 with
  | .next t => .next (s.endStep t)
  | o => o

/-! ### A machine that runs one word -/

/-- A clause that holds one word, with both flag fields valid. -/
def oneWord (i : Instr) : Clause := { hdr := { wait := 0, len := 1, av := true, af := 0, bv := true, bf := 1, yld := false }, slots := [⟨1, i⟩] }

/-- A grid of one team of 32 threads. -/
def loneGrid : Grid := { ctx := 0, card := List.replicate 32 0, cardAddr := 0, queue := none, age := 0, pri := 0, next := 1, placed := 1 }

/-- A team of 32 threads with 128 registers each, on the core of layer 1. -/
def loneTeam : Team := { grid := 0, index := 0, place := .core 1, age := 0, groups := [{ n := 128 }], threads := List.replicate 32 {} }

/-- Puts the lone team in slot 0 of column 0, on the agenda with a turn. -/
def State.withTeam (s : State) (tm : Team) (t : Turn) : State :=
  { s with agenda := t :: s.agenda, grids := sins s.grids 0 loneGrid, teams := sins s.teams 0 tm }

/-- The state whose next step runs the instruction of a table word: a lane, uniform or control word stands in a clause of the lone team's one bundle, an M-word
in the team's stream. -/
def State.placeWord (s : State) (nbits w : Nat) : State :=
  match decodeTableWord nbits w with
  | none => s
  | some i =>
    if isMword i then
      s.withTeam { loneTeam with engine := some {}, tsl := 256, stream := { run := true, ir := some (BitVec.ofNat 32 w) } } (.stream 0)
    else
      s.withTeam { loneTeam with bundles := [{ threads := List.range 32, slice := 0, stamp := 0, active := true, clause := some (oneWord i) }] } (.issue 0 0)

end Sys2Proof.Machine
end

