-- ==== Sys2Proof/Machine/Step.lean ====
section
/-! DEFINITION. One step of the machine, and the placing of a word for the next step to run. -/

namespace Sys2Proof.Machine

/-- One step: a cycle passes, the turn that the agenda names is taken, or one that needs no input from outside. -/
def step (s : State) : Host.Outcome State Fault Refusal := s.oneStep

/-- `s` with the instruction of a table word placed where the next step takes its instruction from. -/
def State.withFetchWord (s : State) (nbits w : Nat) : State := s.placeWord nbits w

end Sys2Proof.Machine
end

