-- ==== Sys2Proof/Safety.lean ====
section
/-! DEFINITION. The terms in which claims are stated: what a state shows of registers and memory, when a word issues without an issue fault, the
invariant of memory, and what a safe step is. -/

namespace Sys2Proof.Machine

/-- Register v`r` of thread `t` of the team in a slot. -/
def State.reg (s : State) (k t r : Nat) : Word :=
  match s.team? k with
  | some tm => (tm.thread t).get r
  | none => 0

/-- The status word of a thread (R229). -/
def State.status (s : State) (k t : Nat) : Word :=
  match s.team? k with
  | some tm => (tm.thread t).status
  | none => 0

/-- A word breaks none of the rules of R426 and R458 that every word shares, in a thread: its registers lie below n and are not pending, its
flag can rise, and what it reads is not poisoned. -/
def Iss.clearAt (x : Iss) (f : Form) (t : Nat) : Prop :=
  (∀ o ∈ f.operands, o.reg.toNat + o.cnt ≤ x.tm.n t)
    ∧ (∀ i, x.flagNo f = some i → (x.tm.thread t).flag i < 15)
    ∧ (∀ o ∈ f.operands, ∀ r ∈ Opnd.regs o, ∀ p ∈ (x.tm.thread t).pend, p.1 ≠ r)
    ∧ (∀ o ∈ f.operands, o.wr = false → ∀ r ∈ Opnd.regs o, r ∉ (x.tm.thread t).poison)

/-- Word `i` issues in bundle `x` with no issue fault: the bundle holds the issue slot and has not issued the word before, no freeze of its team is
pending, its threads are threads of the team, and the word is clear in every thread it is judged for (R420, R426). -/
def State.Issues (s : State) (i : Instr) (x : Iss) (f : Form) : Prop :=
  s.iss = some x ∧ form i = some f ∧ x.b.issued = false ∧ x.tm.freezing = none
    ∧ (∀ t ∈ x.b.threads, t < x.tm.threads.length) ∧ ∀ t ∈ x.judged f, x.clearAt f t

/-- The thread whose operands give thread `t` its result: itself, or for a once-per-bundle word the lowest passing lane (R35). -/
def Iss.source (x : Iss) (f : Form) (t : Nat) : Thread := x.tm.thread (if f.once then lowLane (x.passing f.m) else t)

/-- `t` differs from `s` in the team of slot `k` alone: every byte of memory, every device register and every other team is as before. -/
def State.OnlyTeam (s t : State) (k : Nat) : Prop := ∃ tm, t = s.setTeam k tm

/-- What of a team is neither its threads nor its bundles. -/
def Team.rest (tm : Team) : Team := { tm with threads := [], bundles := [] }

/-- What of a thread is neither its registers with their poison, nor its status word, nor its program counter. -/
def Thread.rest (th : Thread) : Thread := { th with regs := [], poison := [], status := 0, pc := 0 }

/-- What a word that writes registers leaves unchanged: outside its team everything, and of its team everything but the registers `d` up to
`d + cnt` of the threads listed with their poison, those threads' status words, and where its threads and bundles stand. -/
structure State.RegFrame (s t : State) (k : Nat) (ts : List Nat) (d cnt : Nat) : Prop where
  only : s.OnlyTeam t k
  regs : ∀ th r, th ∉ ts ∨ r < d ∨ d + cnt ≤ r → t.reg k th r = s.reg k th r
  status : ∀ th, th ∉ ts → t.status k th = s.status k th
  team : ∀ tm, s.team? k = some tm → ∃ tm', t.team? k = some tm' ∧ tm'.rest = tm.rest ∧ tm'.threads.length = tm.threads.length
    ∧ ∀ th, (tm'.thread th).rest = (tm.thread th).rest

/-- `t` is `s` after a word that writes the number `val` to `cnt` registers from `d`, and raises the flags `fl`, in each passing thread, and does
nothing else. -/
structure State.Wrote (s t : State) (x : Iss) (f : Form) (d : RegNo) (cnt : Nat) (val : Thread → Nat) (fl : Thread → Flags) : Prop where
  result : ∀ th ∈ x.passing f.m, d.toNat + cnt ≤ x.tm.n th → ∀ j, j < cnt →
    t.reg x.k th (d.toNat + j) = BitVec.ofNat 32 (val (x.source f th) / 2 ^ (32 * j))
  status : ∀ th ∈ x.passing f.m, t.status x.k th = s.status x.k th ||| (fl (x.source f th)).setWidth 32
  frame : s.RegFrame t x.k (x.passing f.m) d.toNat cnt

/-- Word `i` completes whenever it issues: it writes `val` to `cnt` registers from `d`, raises `fl`, and does nothing else. -/
def Writes (i : Instr) (d : RegNo) (cnt : Nat) (val : Thread → Nat) (fl : Thread → Flags) : Prop :=
  ∀ s x f, s.Issues i x f → ∃ t, exec i s = .next t ∧ s.Wrote t x f d cnt val fl

/-- Word `i` completes whenever it issues: it writes register `d` alone, a value that stands to the operands as `P` says, and raises no flag. -/
def Gives (i : Instr) (d : RegNo) (P : Thread → Word → Prop) : Prop :=
  ∀ s x f, s.Issues i x f → ∃ t, exec i s = .next t ∧ s.RegFrame t x.k (x.passing f.m) d.toNat 1
    ∧ (∀ th, t.status x.k th = s.status x.k th)
    ∧ ∀ th ∈ x.passing f.m, d.toNat < x.tm.n th → P (x.source f th) (t.reg x.k th d.toNat)

/-- A word that raises no flag. -/
def quiet (_ : Thread) : Flags := 0

/-- Thread `t` of the team in a slot. -/
def State.th (s : State) (k t : Nat) : Thread :=
  match s.team? k with
  | some tm => tm.thread t
  | none => {}

/-- Word `i` completes whenever it issues in a state of which `ok` holds, and the state after it is as `post` says. -/
def Completes (i : Instr) (ok : State → Iss → Form → Prop) (post : State → Iss → Form → State → Prop) : Prop :=
  ∀ s x f, s.Issues i x f → ok s x f → ∃ t, exec i s = .next t ∧ post s x f t

/-- Next (R267): the address of the header after the word's clause. -/
def Iss.after (x : Iss) : VAddr := BitVec.ofNat 52 (x.pc + 4 * (x.hdr.len + 1))

/-- The target of a relative transfer (R267). -/
def Iss.relative (x : Iss) (disp : BitVec 16) : VAddr := BitVec.ofNat 52 x.pc + 4#52 * disp.signExtend 52

/-- The clause has ended: the bundle's threads stand where `tgt` sends them, or at Next, and the other threads where they stood (R234). -/
def State.Ended (s t : State) (x : Iss) (tgt : Nat → Option VAddr) : Prop :=
  ∀ th, (t.th x.k th).pc = if th ∈ x.b.threads then (tgt th).getD x.after else (s.th x.k th).pc

/-- The team of a word has nothing left for a release of any scope to wait for (R187 to R189): no outstanding access, no side-log entry, nothing in its
column's cache or write-back buffer, no write of the column waiting at a home, horizons that have passed, and no thread that waits. -/
def State.Drained (s : State) (x : Iss) : Prop :=
  x.tm.accesses = [] ∧ (s.col (teamCol x.k)).sideLog = [] ∧ (s.col (teamCol x.k)).lines = [] ∧ (s.col (teamCol x.k)).wbuf = []
    ∧ (∀ p ∈ s.dir, ∀ w ∈ p.2.waiting, w.col ≠ some (teamCol x.k))
    ∧ ∀ t, (x.tm.thread t).horizon + 2 ≤ s.dt ∧ (x.tm.thread t).peerOut = 0 ∧ (x.tm.thread t).redOut = false ∧ (x.tm.thread t).wait = {}

/-- No fault or event record leaves the device for a context's buffer or an event queue now: neither is enabled, no CORRECTED threshold is set, and
the park has room (R411, R415, R418). -/
def State.Parking (s : State) (ck : Nat) : Prop :=
  s.rbits (kFb ck 0) 0 0 = 0 ∧ (∀ fn, s.rbits (kEv fn 0) 0 0 = 0) ∧ s.rbits (kEr 0x0C) 15 0 = 0 ∧ (s.ctx ck).parked.length < 16

/-- Word `i` with the prefix fields `m` is encoded as `w`, honours no prefix field but the guard, and c where `c3` says so, and takes `d` for c without a
prefix. -/
def Coded (i : Instr) (w : Word) (m : Mods) (d : RegNo) (c3 : Bool) : Prop :=
  encWord i = w ∧ (decodable i = true → m.ty = 0 ∧ m.xm = 0 ∧ m.sat = false ∧ m.rm = 0 ∧ (c3 = false → m.c = d)) ∧ (defaultMods w).c = d

/-- The words of formats R3 and R2I of the lane space (R239). -/
def wordR3 (u : Bool) (op : BitVec 6) (d a b : RegNo) : Word := 0#1 ++ BitVec.ofBool u ++ 0#3 ++ op ++ d ++ a ++ b
def wordR2I (u : Bool) (op : BitVec 4) (d a : RegNo) (imm : BitVec 9) : Word := 0#1 ++ BitVec.ofBool u ++ 1#3 ++ op ++ d ++ a ++ imm

/-! ### The arithmetic of R207 and R286 in closed form -/

/-- The integer types of 32 and 64 bits: s32, n32, b32, s64 and n64, and 0 for the default (R243). -/
def wideTypes : List Nat := [0, 7, 8, 9, 10, 11]

/-- Whether a type of `wideTypes` is signed: s32, s64, or the default s32. -/
def tySigned (ty : Nat) : Bool := ty == 0 || ty == 7 || ty == 10

/-- The width of a type of `wideTypes`. -/
def tyWidth (ty : Nat) : Nat := if 10 ≤ ty then 64 else 32

/-- The least and the greatest value of an integer format of width w. -/
def least (sg : Bool) (w : Nat) : Int := if sg then -(2 ^ (w - 1)) else 0
def greatest (sg : Bool) (w : Nat) : Int := if sg then 2 ^ (w - 1) - 1 else 2 ^ w - 1

/-- The bits that stand for an exact integer: wrapped, or with saturation clamped. -/
def fitted (r : Int) (sg : Bool) (w : Nat) (sat : Bool) : Nat :=
  ((if sat then max (least sg w) (min (greatest sg w) r) else r) % 2 ^ w).toNat

/-- SAT, when saturation clamps. -/
def clamps (r : Int) (sg : Bool) (w : Nat) (sat : Bool) : Flags :=
  if sat = true ∧ (r < least sg w ∨ greatest sg w < r) then flSAT else 0

/-- A register or an even pair read as an integer of a type of `wideTypes`. -/
def Thread.int (th : Thread) (r : RegNo) (ty : Nat) : Int :=
  let v := if 10 ≤ ty then th.get64 r.toNat else (th.get r.toNat).toNat
  if tySigned ty then (BitVec.ofNat (tyWidth ty) v).toInt else (v : Int)

/-- An operand as a signed, and as an unsigned number. -/
def Thread.sInt (th : Thread) (r : RegNo) : Int := (th.get r.toNat).toInt
def Thread.uNat (th : Thread) (r : RegNo) : Nat := (th.get r.toNat).toNat

/-- A pair as a 64-bit word (R8). -/
def Thread.pair (th : Thread) (r : RegNo) : BitVec 64 := th.get (r.toNat + 1) ++ th.get r.toNat

/-- The conditions of R284 and R298. -/
def condition (k : Nat) (a b : Word) : Bool :=
  match k with
  | 0 => a.toNat == b.toNat
  | 1 => a.toNat != b.toNat
  | 2 => decide (a.toInt < b.toInt)
  | 3 => decide (a.toInt ≤ b.toInt)
  | 4 => decide (b.toInt < a.toInt)
  | 5 => decide (b.toInt ≤ a.toInt)
  | 6 => decide (a.toNat < b.toNat)
  | 7 => decide (a.toNat ≤ b.toNat)
  | 8 => decide (b.toNat < a.toNat)
  | _ => decide (b.toNat ≤ a.toNat)

/-- Element `i` of width `w` of a register, unsigned or signed (R301). -/
def element (v : Word) (w i : Nat) (uns : Bool) : Int :=
  if uns then ((v.extractLsb' (w * i) w).toNat : Int) else (v.extractLsb' (w * i) w).toInt

/-- The table of BFN3 (R294): the prefix bits mod<7:0>. -/
def bfn3Table (m : Mods) : BitVec 8 := m.ty.extractLsb' 0 1 ++ m.xm ++ BitVec.ofBool m.sat ++ m.rm

/-- The scaled offset of LEA and ULEA (R284, R300). -/
def scaledOffset (m : Mods) (b : Word) : BitVec 64 :=
  (if m.xm.getLsbD 3 then b.setWidth 64 else b.signExtend 64) <<< (m.xm.extractLsb' 0 3).toNat

/-- The immediate of MOVI and UMOVI (R284, R299). -/
def moveImm (m : Mods) (imm : BitVec 16) : Word := if m.xm.getLsbD 0 then imm.signExtend 32 else imm.setWidth 32

/-! ### Memory words -/

/-- An access of the bundle's team reaches its target at once: it meets no fault, and its translation is held by the column (R161, R483). -/
abbrev State.Reaches (s : State) (x : Iss) (kind : Nat) (write sys : Bool) (va : Nat) (tgt : Target) : Prop :=
  s.xlate (some (teamCol x.k)) (s.teamCtx x.tm) va kind write (s.teamPriv x.tm) sys = (s, .ok tgt)

/-- The bundle lists a thread once, and the flags of its header are among the twelve of R235. -/
abbrev Iss.plain (x : Iss) : Prop := x.b.threads.Nodup ∧ x.hdr.af.toNat < 12 ∧ x.hdr.bf.toNat < 12

/-- The thread whose address a thread's access takes: the lowest passing lane's with U (R37). -/
def Iss.from_ (x : Iss) (f : Form) (u : Bool) (t : Nat) : Nat := if u then lowLane (x.passing f.m) else t

/-- Two states show the same memory: the same byte at every home and in every window, and the same poison. -/
def State.SameMem (s t : State) : Prop := t.mem = s.mem ∧ t.win = s.win ∧ t.poison = s.poison

/-- No register and no status word of the word's team changes. -/
def State.SameRegs (s t : State) (x : Iss) : Prop := (∀ th r, t.reg x.k th r = s.reg x.k th r) ∧ ∀ th, t.status x.k th = s.status x.k th

/-- The lanes whose address is that of thread `t`, in ascending order (R340). -/
def sharers (at_ : Nat → Nat) (ts : List Nat) (t : Nat) : List Nat := (byLane ts).filter fun u => at_ u == at_ t

/-- The operand of one request for some lanes (R340). -/
def combined (op ty : Nat) (b : Nat → Nat) : List Nat → Option Nat
  | [] => none
  | u :: rest => some (rest.foldl (fun q v => aopApply op ty q (b v) 0) (b u))

/-- What a location holds after the compare-and-swaps of some lanes in order (R339, R340). -/
def swapped (b c : Nat → Nat) (V : Nat) (l : List Nat) : Nat := l.foldl (fun v u => if v = b u then c u else v) V

/-- The value a load of a type delivers, by its size and sign (R329). -/
def extended (ty v : Nat) : Nat :=
  if ty = 1 then ((BitVec.ofNat 8 v).signExtend 32).toNat else if ty = 4 then ((BitVec.ofNat 16 v).signExtend 32).toNat else v

/-- M-word `i` is executed by the stream of the team in slot `k`: the team holds its engine and its stream runs (R253, R360). -/
abbrev State.Streams (s : State) (k : Nat) (tm : Team) (e : Engine) : Prop :=
  s.cur = some (.stream k) ∧ s.team? k = some tm ∧ tm.eng? = some e ∧ tm.stream.run = true

/-- M-word `i` completes whenever a team's stream executes it in a state of which `ok` holds, and the state and the team after it are as `post` says. -/
def StreamWord (i : Instr) (ok : State → Nat → Team → Engine → Prop) (post : State → Nat → Team → Engine → State → Team → Prop) : Prop :=
  ∀ s k tm e, s.Streams k tm e → ok s k tm e → ∃ t u, exec i s = .next t ∧ t.team? k = some u ∧ post s k tm e t u

/-- The stream has gone on to `pos`: its M-word is done, and it still runs. -/
def Team.streamAt (u : Team) (pos : Nat) : Prop :=
  u.stream.pos = pos % 2 ^ 52 ∧ u.stream.ir = none ∧ u.stream.run = true ∧ u.stream.wt = false

/-- Nothing of a team but its stream, its m registers and its rendezvous points has changed. -/
def Team.SameButStream (tm u : Team) : Prop :=
  { u with stream := {}, mregs := [], rz := [] } = { tm with stream := {}, mregs := [], rz := [] } ∧ u.stream.flags = tm.stream.flags

/-- The slot `ts` can be read at once: it exists, is VALID and not poisoned, and no request stands before the stream's (R139). -/
abbrev Team.readable (tm : Team) (ts : Nat) : Prop := ts < tm.tsl ∧ (tm.tile ts).tag = .valid ∧ (tm.tile ts).queue = [] ∧ (tm.tile ts).poison = false

/-- The collective `i` of group `g` is complete: the bundle holds each thread of the group that has not exited, all stand at the word, and none
waits (R38, R39). -/
def Iss.Whole (x : Iss) (i : Instr) (g : Nat) : Prop :=
  x.b.threads.Nodup ∧ (∀ t, t ∈ x.b.threads ↔ t / 32 = g ∧ t < x.tm.threads.length ∧ (x.tm.thread t).exited = false)
    ∧ ∀ t ∈ x.b.threads, x.tm.wordOf t = some i ∧ (x.tm.thread t).pc.toNat = x.pc ∧ (x.tm.thread t).wait = {}

/-- The active threads of a complete collective in ascending order of lane (R325). -/
def Iss.active (x : Iss) (m : Mods) (g : Nat) : List Nat := ((List.range 32).map (32 * g + ·)).filter fun t => (x.passing m).contains t

/-- Word `i`, a collective that is complete, executes: `val` goes to `cnt` registers from `d` of each active thread `t`, each raises `fl`, and nothing else
changes. -/
def Collects (i : Instr) (d : RegNo) (cnt : Nat) (val : Iss → List Nat → Nat → Nat) (fl : Iss → List Nat → Flags) : Prop :=
  ∀ s x f g, s.Issues i x f → x.Whole i g → ∃ t, exec i s = .next t ∧ s.RegFrame t x.k (x.active f.m g) d.toNat cnt
    ∧ ∀ th ∈ x.active f.m g, t.status x.k th = s.status x.k th ||| (fl x (x.active f.m g)).setWidth 32
      ∧ (d.toNat + cnt ≤ x.tm.n th → ∀ j, j < cnt → t.reg x.k th (d.toNat + j) = BitVec.ofNat 32 (val x (x.active f.m g) th / 2 ^ (32 * j)))

/-! ### Events -/

/-- An event happens: from every state of which `ok` holds, event `i` leads to a state that is as `post` says. -/
def Happens (i : Instr) (ok : State → Prop) (post : State → State → Prop) : Prop := ∀ s, ok s → ∃ t, exec i s = .next t ∧ post s t

/-- Nothing but device registers changes: those listed hold the values listed, and every other holds what it held. -/
def State.Sets (s t : State) (l : List (Nat × Word)) : Prop :=
  (∃ c, t = { s with csr := c }) ∧ (∀ p ∈ l, t.rget p.1 = p.2) ∧ ∀ k, (∀ p ∈ l, p.1 ≠ k) → t.rget k = s.rget k

/-- Nothing changes. -/
def State.Same (s t : State) : Prop := t = s

/-- Memory and the base-scratchpad windows are in their canonical form. -/
def State.memOk (s : State) : Bool := s.mem.wf && s.win.wf

/-- Every team's scratchpad is in its canonical form. -/
def State.spadsOk (s : State) : Bool := s.teams.all fun p => p.2.spad.wf

/-- The teams, the grids and the registers of every thread are listed in rising order of their keys, each key once. -/
abbrev State.ordered (s : State) : Prop := (s.teams.map Prod.fst).Pairwise (· < ·) ∧ (s.grids.map Prod.fst).Pairwise (· < ·)
  ∧ ∀ p ∈ s.teams, ∀ th ∈ p.2.threads, (th.regs.map Prod.fst).Pairwise (· < ·)

/-- A step is safe: the machine goes on. -/
def State.StepSafe (s : State) : Prop := ∃ t, step s = .next t

end Sys2Proof.Machine
end

