-- ==== Sys2Proof/WellFormed.lean ====
section
/-! DEFINITION. Well-formed instructions: a lane, uniform or control word that raises no decode fault when it ends its clause (R425), an M-word with no
reserved code (R429), and a step of another agent whose numbers name parts that an S4 has (R13 to R17, R89, R392, R406). -/

namespace Sys2Proof

/-- A logical column number (R17). -/
def colOk (c : Nat) : Bool := decide (c < 48)
/-- A logic layer (R14). -/
def layerOk (l : Nat) : Bool := decide (1 ≤ l) && decide (l ≤ 4)
/-- A team slot of a column (R46). -/
def slotOk (c sl : Nat) : Bool := colOk c && decide (sl < 32)
/-- A thread of a team (R28). -/
def threadOk (c sl t : Nat) : Bool := slotOk c sl && decide (t < 1024)
/-- A group of a team (R28). -/
def groupOk (c sl g : Nat) : Bool := slotOk c sl && decide (g < 32)
/-- A context of a function: the physical function 0 or a virtual function 1 to 8, and a local context number (R392). -/
def ctxOk (fn c : Nat) : Bool := decide (fn < 9) && decide (c < 256)
/-- A queue of a context (R89). -/
def queueOk (fn c q : Nat) : Bool := ctxOk fn c && decide (q < 64)
/-- An intake of a context: 64 is that of the function's event queue (R415). -/
def intakeOk (fn c q : Nat) : Bool := ctxOk fn c && decide (q < 65)
/-- A virtual address (R149). -/
def vaOk (fn c va : Nat) : Bool := ctxOk fn c && decide (va < 2 ^ 52)
/-- A stake-bus lane group: a column, a boundary between layers 0 to 4, and a direction (R63, R80). -/
def stakeOk (c b d : Nat) : Bool := colOk c && decide (b < 4) && decide (d < 2)
/-- An HBM stack (R13). -/
def stackOk (st : Nat) : Bool := decide (st < 8)

/-- Whether the numbers of a step of another agent name parts that an S4 has. -/
def inRange : Instr → Bool
  | .sleepExpiry c sl t | .countedAcquireGrant c sl t | .horizonWaitEnd c sl t | .peerAcknowledgement c sl t => threadOk c sl t
  | .groupCollectiveConvergence c sl g | .vgrowGrant c sl g | .vgrowDenialTooLong c sl g => groupOk c sl g
  | .parkingPlacingComplete c sl | .parkedTeamPlace c sl | .mxrelComplete c sl | .handoverDrainComplete c sl | .successorStart c sl => slotOk c sl
  | .homeRead c sl _ | .returnForward c sl _ | .pendingWriteDelivery c sl _ | .clauseStart c sl _ => slotOk c sl
  | .layerEvacuationComplete l | .layerWakeComplete l | .hoopLayerStop l | .layerGateRequest l | .layerGateRelease l | .dieReset l => layerOk l
  | .batonExpiry c l | .vgrowDenialAllWaiting c l | .coreHaltTimeout c l | .thermalSoftTrip c l _ => colOk c && layerOk l
  | .formationPoint c l sl => colOk c && layerOk l && decide (sl < 4)
  | .governorEvaluation c | .migrationAbandon c | .migrationTransfer c | .migrationResume c | .directedMoveTrigger c => colOk c
  | .directedMoveArm c _ | .writeBackBufferRelease c _ | .columnCacheWriteBack c _ | .estimatorPeriod c _ _ => colOk c
  | .realignmentDue c b d _ | .backgroundTestStart c b d _ | .stakeParityReplay c b d _ _ => stakeOk c b d
  | .realignmentStart c b d | .realignmentForced c b d | .realignmentEnd c b d _ => stakeOk c b d
  | .queueControlWrite fn c q _ | .doorbell fn c q _ => queueOk fn c q
  | .stopClear fn c q | .haltQueue fn c q | .resumeQueue fn c q => queueOk fn c q
  | .cardIntake fn c q | .dependenceCounterRead fn c q => intakeOk fn c q
  | .teamPlacement _ c => colOk c
  | .haltContext fn c | .saveContext fn c | .resumeContext fn c | .haltComplete fn c | .saveComplete fn c => ctxOk fn c
  | .invalidationComplete fn c | .l2partChangeComplete fn c => ctxOk fn c
  | .invalidation fn c _ | .l2partChange fn c _ _ | .l2partWinHiStage fn c _ | .peerMoveControlWrite fn c _ => ctxOk fn c
  | .faultBufferConsume fn c _ | .faultFlush fn c _ => ctxOk fn c
  | .translationControlWrite fn c off _ => ctxOk fn c && decide (off < 32)
  | .faultBlockConfigWrite fn c off _ => ctxOk fn c && decide (off < 64)
  | .eventQueueControlWrite fn off _ => decide (fn < 9) && decide (off < 32)
  | .pageTableWalk c fn lc va => colOk c && vaOk fn lc va
  | .atsTranslationCompletion fn c va _ _ _ | .pageRequestGroupResponse fn c va _ | .atsInvalidateRequest fn c va _ => vaOk fn c va
  | .peerMoveAttempt fn c va ⟨dev, _⟩ | .peerMoveComplete fn c va ⟨dev, _, _, _, _⟩ => vaOk fn c va && decide (dev < 64)
  | .peerInboundRequest dev _ va _ _ => decide (dev < 64) && decide (va < 2 ^ 52)
  | .peerRouteLost dev => decide (dev < 64)
  | .hostInboundAccess fn c off _ _ => ctxOk fn c && decide (off < 2 ^ 28)
  | .csplanWrite p _ => decide (p < 8)
  | .hbmScrub st ch _ _ | .hbmRowSwap st ch _ _ => stackOk st && decide (ch < 32)
  | .hbmRefreshWindow st | .mraReadBankCounts st _ | .mraReadModeRegister st _ | .mraClearBankCounts st _ | .mraOperationComplete st => stackOk st
  | .frequencyChange k _ | .frequencyChangeComplete k => decide (k < 4)
  | .ageingMonitorRead site _ => decide (site < 192)
  | .regulatorSelectWrite j _ => decide (j < 3)
  | .correctedError k => decide (k < 10)
  | .deviceReset cause => decide (cause < 5)
  | .registerWrite fn region off _ => decide (fn < 9) && (region == 0 || region == 4) && decide (off < 2 ^ 22)
  | _ => true

/-- Well-formed: what the decoder can produce, and for a step of another agent, numbers that name parts of an S4. -/
def wf (i : Instr) : Bool := if (modsOf i).isSome || isMword i then decodable i else inRange i

end Sys2Proof
end

