-- ==== Sys2Proof/Certificates/Slice0/Obligations.lean ====
section
/-! DEFINITION. The statements for the provers. Each says in its docstring which rules of the spec it formalises. -/

open Sys2Proof Sys2Proof.Machine

/-! ### The machine as a whole -/

/-- R238 to R255, R260: every well-formed lane, uniform or control word decodes from its encoding to itself, operands, prefix fields and all, and so does every
well-formed M-word. -/
def Obligations.DecodingUndoesEncoding : Prop :=
  (∀ i, (modsOf i).isSome = true → wf i = true → decodeLane (encode i) = .ok i)
  ∧ ∀ i, isMword i = true → wf i = true → ∃ w, encode i = [w] ∧ decodeM w = .ok i

/-- R238 to R255, R260: what the decoder accepts is well-formed and has the words it was read from as its encoding; a prefix whose fields are all at their
defaults, which R260 does not emit, is left out. -/
def Obligations.EncodingUndoesDecoding : Prop :=
  (∀ w i, decodeLane [w] = .ok i → wf i = true ∧ encode i = [w])
  ∧ (∀ p w i, decodeLane [p, w] = .ok i → wf i = true ∧ encode i = if decPfx p = defaultMods w then [w] else [p, w])
  ∧ ∀ w i, decodeM w = .ok i → wf i = true ∧ encode i = [w]

/-- The machine never stops: from every state, reached by a run or not, whatever the agenda names, a step answers a next state. No instruction that the step
runs ends in a fault or a refusal. -/
def Obligations.AStepNeverStops : Prop := ∀ s : State, s.StepSafe

/-- Every step keeps memory, the base-scratchpad windows and every team's scratchpad in their canonical forms. -/
def Obligations.AStepKeepsTheCanonicalForms : Prop :=
  (∀ s t, s.memOk = true → step s = .next t → t.memOk = true)
  ∧ ∀ s t, s.spadsOk = true → step s = .next t → t.spadsOk = true

/-- Every step keeps teams, grids and the registers of every thread listed once each, in rising order of their keys. -/
def Obligations.AStepKeepsTheOrder : Prop := ∀ s t, s.ordered → step s = .next t → t.ordered

/-- R19 and the Reset columns of R89, R133, R148, R175, R385, R386, R388, R389, R394, R410, R180, R418 and R464: after reset DT is zero, no team and no grid
exists, the invariants hold, and device registers hold the reset values their maps give. That memory then lists nothing is the model's choice (log entry 5). -/
def Obligations.ResetLeavesTheStatedValues : Prop :=
  State.reset.memOk = true ∧ State.reset.spadsOk = true ∧ State.reset.ordered ∧ State.reset.dt = 0 ∧ State.reset.teams = [] ∧ State.reset.grids = []
  ∧ State.reset.alive = true
  ∧ ([(0x150000, 9), (0x160000, 0x554B1812), (0x160004, 20), (0x160008, 0x140294), (0x160010, 0), (0x160020, 80), (0x160024, 80), (0x160028, 80),
      (0x16002C, 80), (0x160030, 0x55000000), (0x160034, 0xAAAA5555), (0x160038, 0xFFFFFFAA), (0x160084, 0x646E), (0x170208, 0)] : List (Nat × Word)).all
      (fun p => State.reset.rget (key0 0 p.1) == p.2) = true
  ∧ (∀ fn c q, fn < 9 → c < 256 → q < 64 → State.reset.rget (kQueue (ctxKey fn c) q 8) = 4)
  ∧ (∀ fn c, fn < 9 → c < 256 → State.reset.rget (kPm (ctxKey fn c) 0x18) = 0x4006 ∧ State.reset.rget (kTd (ctxKey fn c) 0x1C) = 0xFFFFFFFF
      ∧ State.reset.rget (kFb (ctxKey fn c) 0) = 0)
  ∧ (∀ p, p < 8 → State.reset.rget (kCsplan p) = 0x203010) ∧ (∀ st, st < 8 → State.reset.rget (kMra st 0x10) = 0x1000)
  ∧ State.reset.rget (kEr 0x0C) = 0x1000

/-- A step runs the instruction whose turn it is. With no write waiting at a home or at the host link, it advances the cycle and takes the first turn of the
agenda: a bundle inside a clause that may issue and has its slice's issue slot, on a core that issues in this cycle, runs the word it stands at, if the word
can be taken up; a running stream executes the M-word it has fetched, or fetches the next from where it stands; a step of another agent happens, the boot
ends, or a checkpoint goes on. What every step adds after it (`State.endStep`), where no hard trip, freeze or migration is in progress, no successor grid
exists, and no write of the S4's own and no fault record waits: no one holds the issue slot, and of the teams at most these change: when they became ready,
their first issue after a move, and which bundles are active. -/
def Obligations.AStepRunsTheInstructionWhoseTurnItIs : Prop :=
  ∀ (s : State) (rest : List Turn), (∀ p ∈ s.dir, p.2.waiting = []) → s.hostQueue = [] →
    let u : State := { s with cyc := s.cyc + 1, cur := none, agenda := rest }
    let ran (t : State) : Prop := step s = .next (s.endStep t)
    let seen (tm : Team) : Team := { tm with readyAt := 0, migDone := [], resFrom := 0, counters := {},
                                             bundles := tm.bundles.map fun b => { b with active := false } }
    (∀ (k idx l : Nat) (tm : Team) (b : Bundle) (c : Clause) (sl : Slot), s.agenda = .issue k idx :: rest → s.alive = true → s.team? k = some tm →
        tm.place = .core l → tm.bundles[idx]? = some b → tm.mayIssue b = true → u.hasPlace k tm b = true → b.clause = some c → c.slots[b.pos]? = some sl →
        (modsOf sl.ins).isSome = true → u.stalled k tm b = false → u.mayClock (teamCol k) l = true →
        ∃ t, exec sl.ins { u with cur := some (.bundle k idx) } = .next t ∧ ran t)
    ∧ (∀ (k l : Nat) (tm : Team) (w : Word) (i : Instr), s.agenda = .stream k :: rest → s.alive = true → s.team? k = some tm → tm.streams = true →
        tm.place = .core l → u.mayClock (teamCol k) l = true →
        tm.stream.ir = some w → decodeM w = .ok i → ∃ t, exec i { u with cur := some (.stream k) } = .next t ∧ ran t)
    ∧ (∀ (k l : Nat) (tm : Team) (bs : List Byte) (i : Instr) (v : State), s.agenda = .stream k :: rest → s.alive = true → s.team? k = some tm →
        tm.place = .core l → u.mayClock (teamCol k) l = true → tm.streams = true → tm.stream.ir = none → tm.stream.pos < 2 ^ 52 →
        u.colRead (teamCol k) (u.teamCtx tm) kStream (u.teamPriv tm) tm.stream.pos 4 = (v, .ok bs) → v.team? k = some tm →
        decodeM (BitVec.ofNat 32 (leNat bs)) = .ok i →
        ran ((v.setTeam k { tm with stream := { tm.stream with ir := some (BitVec.ofNat 32 (leNat bs)), wt := false } }).auditStep k))
    ∧ (∀ i, s.agenda = .event i :: rest → isEvent i = true → u.happens i = true → ∃ t, exec i u = .next t ∧ ran t)
    ∧ (s.agenda = .boot :: rest → ran u.boot)
    ∧ (∀ mib, s.agenda = .carry mib :: rest → ran (u.carry mib))
    ∧ (s.agenda = .tick :: rest → ran u)
    ∧ ∀ t : State, t.hardTrip = none → (∀ p ∈ t.teams, p.2.freezing = none) → (∀ p ∈ t.cols, p.2.migration = none) → (∀ p ∈ t.grids, p.2.pred = none) →
        t.puts = [] → (∀ p ∈ t.ctxs, p.2.parked = []) →
        ({ s.endStep t with teams := t.teams } : State) = { t with cur := none }
          ∧ ∀ k, ((s.endStep t).team? k).map seen = (t.team? k).map seen

/-- R239, R241, R247 to R254, R425, R429: words written out from the encoding tables decode to the instructions they stand for, and words that break a rule are
refused by name. A sanity statement over fixed words. -/
def Obligations.WordsOfTheTablesDecode : Prop :=
  let plain (c : RegNo) : Mods := { c, ty := 0, xm := 0, sat := false, rm := 0, g := 127, gn := false }
  decodeLane [0#5 ++ 0#6 ++ 3#7 ++ 1#7 ++ 2#7] = .ok (.iadd (plain 3) false 3 1 2)
  ∧ decodeLane [0#5 ++ 32#6 ++ 3#7 ++ 1#7 ++ 2#7] = .ok (.fadd (plain 3) false 3 1 2)
  ∧ decodeLane [2#5 ++ 0#4 ++ 5#7 ++ 0xBEEF#16] = .ok (.movi (plain 5) false 5 0xBEEF)
  ∧ decodeLane [3#5 ++ 0#5 ++ 1#1 ++ 4#7 ++ 6#7 ++ 9#7] = .ok (.ld (plain 4) false true 4 6 9)
  ∧ decodeLane [4#5 ++ 3#5 ++ 0#1 ++ 6#7 ++ 2#7 ++ 9#7] = .ok (.cpy (plain 6) false 6 2 9)
  ∧ decodeLane [0x10#5 ++ 0#6 ++ 3#7 ++ 1#7 ++ 2#7] = .ok (.uadd (plain 3) 3 1 2)
  ∧ decodeLane [0x1D#5 ++ 0#4 ++ 0#7 ++ 0xFFFE#16] = .ok (.bra (plain 0) 0xFFFE)
  ∧ decodeLane [7#5 ++ 9#7 ++ 8#5 ++ 0#4 ++ 0#1 ++ 0#2 ++ 4#7 ++ 1#1, 0#5 ++ 5#6 ++ 3#7 ++ 1#7 ++ 2#7]
      = .ok (.imad { c := 9, ty := 8, xm := 0, sat := false, rm := 0, g := 4, gn := true } false 3 1 2)
  ∧ decodeM (4#6 ++ 7#6 ++ 12#8 ++ 2#2 ++ 1#2 ++ 3#4 ++ 1#1 ++ 0#1 ++ 0#2) = .ok (.mma 7 12 2 1 3 true false)
  ∧ decodeM (11#6 ++ 5#4 ++ 77#22) = .ok (.mset 5 77)
  ∧ decodeLane [6#5 ++ 0#27] = .error .fmt6
  ∧ decodeLane [7#5 ++ 0#27] = .error .badPrefix
  ∧ decodeLane [0#5 ++ 63#6 ++ 0#21] = .error .reservedCell
  ∧ decodeM (63#6 ++ 0#26) = .error .mwordReserved
  ∧ decodeM (4#6 ++ 7#6 ++ 12#8 ++ 2#2 ++ 3#2 ++ 3#4 ++ 0#1 ++ 0#1 ++ 0#2) = .error .mwordCode
  ∧ decodeHeader 0 = .error .headerLen

/-- R421, R422, R423, R426, R458, R482: a word that breaks an issue rule in the first thread it is judged for takes no effect in any thread. Its record, with
the CODE and INFO of the lowest rule broken, names the thread, the clause header and the word; every thread of the bundle stops in front of the word where it
stands, and the team is frozen or will be once it has halted. The rules here are those that every word shares: a register at or beyond n, the destination of
VSHRK judged against the new n; a flag at 15, where the register block of GATH and SCAT lies below n too; a pending register; and for some plain words a
poisoned source. -/
def Obligations.IssueFaultsTakeATrap : Prop :=
  ∀ (s : State) (i : Instr) (x : Iss) (f : Form) (t : Nat) (rest : List Nat) (code info : Nat),
    let ck := s.teamCtx x.tm
    let n (o : Opnd) : Nat := match i with | .vshrk _ _ cnt => if o.wr then min (x.tm.n t) cnt.toNat else x.tm.n t | _ => x.tm.n t
    let th := x.tm.thread t
    let fits (o : Opnd) : Prop := o.reg.toNat + o.cnt ≤ n o
    let room : Prop := ∀ g, x.flagNo f = some g → th.flag g ≠ 15
    let pending (r : Nat) : Prop := ∃ p ∈ th.pend, p.1 = r
    let block : Prop := ∀ m fs d a b, i = .gath m fs d a b ∨ i = .scat m fs d a b → m.xm.getLsbD 0 = true →
      d.toNat + (th.nat b / 2 ^ 23 + 1) * gathSize m / 4 ≤ x.tm.n t
    s.iss = some x → form i = some f → x.b.issued = false → x.tm.freezing = none → x.tm.frozen = none →
    (∀ w ∈ x.b.threads, w < x.tm.threads.length) → x.judged f = t :: rest → s.Parking ck →
    ((∃ pre o post, f.operands = pre ++ o :: post ∧ (∀ p ∈ pre, fits p) ∧ ¬fits o ∧ code = 0x0020 ∧ info = max (n o) o.reg.toNat + 256 * n o)
      ∨ ((∀ o ∈ f.operands, fits o) ∧ block ∧ ∃ g, x.flagNo f = some g ∧ th.flag g = 15 ∧ code = 0x0021 ∧ info = g)
      ∨ ((∀ o ∈ f.operands, fits o) ∧ block ∧ room ∧ ∃ pre post, f.operands.flatMap Opnd.regs = pre ++ info :: post ∧ (∀ r ∈ pre, ¬pending r) ∧ pending info
          ∧ code = 0x0022)
      ∨ ((∃ m u d a b, i = .iadd m u d a b ∨ i = .fadd m u d a b ∨ i = .imad m u d a b ∨ i = .st m d a b)
          ∧ (∀ o ∈ f.operands, fits o) ∧ room ∧ (∀ r ∈ f.operands.flatMap Opnd.regs, ¬pending r)
          ∧ ∃ pre post, (f.operands.filter fun o => !o.wr).flatMap Opnd.regs = pre ++ info :: post ∧ (∀ r ∈ pre, r ∉ th.poison) ∧ info ∈ th.poison
          ∧ code = 0x2010)) →
    ∃ v tm', exec i s = .next v ∧ v.team? x.k = some tm' ∧ s.SameMem v ∧ s.SameRegs v x
      ∧ (v.ctx ck).parked = (s.ctx ck).parked ++
          [[BitVec.ofNat 32 (s.gen ck % 256 * 2 ^ 24 + 2 * 2 ^ 22 + code), BitVec.ofNat 32 (teamCol x.k * 2 ^ 26 + teamSlot x.k * 2 ^ 21 + t),
            BitVec.ofNat 32 x.tm.index, BitVec.ofNat 32 x.pc, BitVec.ofNat 32 (x.off * 2 ^ 24 + x.pc / 2 ^ 32 % 2 ^ 20), 0, 0, BitVec.ofNat 32 info]]
      ∧ (∀ w, (v.th x.k w).pc = (s.th x.k w).pc
        ∧ (v.th x.k w).wait = if w ∈ x.b.threads then { kind := .stopped, word := x.off } else (s.th x.k w).wait)
      ∧ (tm'.frozen = some code ∨ (tm'.freezing = some code ∧ tm'.halting = true))

/-! ### Integer words -/

/-- R286, R287, R288: adds and subtracts write the exact result wrapped, or with `.sat` clamped with SAT raised; IADDC writes the sum and, in the odd
register, the carry. Their words are those of their rows, and they accept the types of their rows and no other prefix field. -/
def Obligations.IntegerAddsAndSubtracts : Prop :=
  ∀ (m : Mods) (u : Bool) (d a b : RegNo) (imm : BitVec 9),
    (m.ty.toNat ∈ wideTypes →
      Writes (.iadd m u d a b) d (tyRegs m.ty.toNat)
        (fun th => fitted (th.int a m.ty.toNat + th.int b m.ty.toNat) (tySigned m.ty.toNat) (tyWidth m.ty.toNat) m.sat)
        (fun th => clamps (th.int a m.ty.toNat + th.int b m.ty.toNat) (tySigned m.ty.toNat) (tyWidth m.ty.toNat) m.sat)
      ∧ Writes (.isub m u d a b) d (tyRegs m.ty.toNat)
        (fun th => fitted (th.int a m.ty.toNat - th.int b m.ty.toNat) (tySigned m.ty.toNat) (tyWidth m.ty.toNat) m.sat)
        (fun th => clamps (th.int a m.ty.toNat - th.int b m.ty.toNat) (tySigned m.ty.toNat) (tyWidth m.ty.toNat) m.sat))
    ∧ (m.ty.toNat ∈ [0, 7, 8, 9] →
      Writes (.iaddi m u d a imm) d 1
        (fun th => fitted (th.int a m.ty.toNat + imm.toInt) (tySigned m.ty.toNat) 32 m.sat)
        (fun th => clamps (th.int a m.ty.toNat + imm.toInt) (tySigned m.ty.toNat) 32 m.sat))
    ∧ Writes (.iaddc m u d a b) d 2
        (fun th => th.uNat a + th.uNat b + (if m.xm.getLsbD 0 ∧ (th.get m.c.toNat).getLsbD 0 then 1 else 0)) quiet
    ∧ (let rows (i : Instr) : Prop := decodable i = true → m.xm = 0 ∧ m.rm = 0 ∧ m.c = d ∧ (m.ty = 9 → m.sat = false);
        encWord (.iadd m u d a b) = wordR3 u 0 d a b ∧ encWord (.isub m u d a b) = wordR3 u 2 d a b ∧ encWord (.iaddi m u d a imm) = wordR2I u 0 d a imm
        ∧ encWord (.iaddc m u d a b) = wordR3 u 1 d a b ∧ rows (.iadd m u d a b) ∧ rows (.isub m u d a b) ∧ rows (.iaddi m u d a imm)
        ∧ (∀ i, i = .iadd m u d a b ∨ i = .isub m u d a b → decodable i = true →
            m.ty.toNat ∈ wideTypes ∧ (10 ≤ m.ty.toNat → d.toNat % 2 = 0 ∧ a.toNat % 2 = 0 ∧ b.toNat % 2 = 0))
        ∧ (decodable (.iaddi m u d a imm) = true → m.ty.toNat ∈ [0, 7, 8, 9])
        ∧ (decodable (.iaddc m u d a b) = true → m.ty.toNat ∈ [0, 8, 9] ∧ m.sat = false ∧ m.rm = 0 ∧ d.toNat % 2 = 0 ∧ m.xm.toNat < 2
            ∧ (m.xm.getLsbD 0 = false → m.c = d)))

/-- R289: products. IMUL and IMAD fit the exact product and sum once, IMULH keeps bits <63:32> of the product, IMADW accumulates into a pair. R290: minimum,
maximum, absolute value, negation and the sum of absolute differences. -/
def Obligations.ProductsOrderAndMagnitude : Prop :=
  (∀ (m : Mods) (u : Bool) (d a b : RegNo),
    (m.ty.toNat ∈ [0, 7, 8, 9] →
      Writes (.imul m u d a b) d 1
        (fun th => fitted (th.int a m.ty.toNat * th.int b m.ty.toNat) (tySigned m.ty.toNat) 32 m.sat)
        (fun th => clamps (th.int a m.ty.toNat * th.int b m.ty.toNat) (tySigned m.ty.toNat) 32 m.sat)
      ∧ Writes (.imad m u d a b) d 1
        (fun th => fitted (th.int a m.ty.toNat * th.int b m.ty.toNat + th.int m.c m.ty.toNat) (tySigned m.ty.toNat) 32 m.sat)
        (fun th => clamps (th.int a m.ty.toNat * th.int b m.ty.toNat + th.int m.c m.ty.toNat) (tySigned m.ty.toNat) 32 m.sat))
    ∧ (m.ty.toNat ∈ [0, 7, 8] →
      Writes (.imulh m u d a b) d 1
        (fun th => ((BitVec.ofInt 64 (th.int a m.ty.toNat * th.int b m.ty.toNat)).extractLsb' 32 32).toNat) quiet
      ∧ Writes (.imadw m u d a b) d 2
        (fun th => fitted (th.int a m.ty.toNat * th.int b m.ty.toNat
          + (if tySigned m.ty.toNat then (th.pair m.c).toInt else ((th.pair m.c).toNat : Int))) (tySigned m.ty.toNat) 64 m.sat)
        (fun th => clamps (th.int a m.ty.toNat * th.int b m.ty.toNat
          + (if tySigned m.ty.toNat then (th.pair m.c).toInt else ((th.pair m.c).toNat : Int))) (tySigned m.ty.toNat) 64 m.sat)))
  ∧ (∀ (m : Mods) (u : Bool) (d a b : RegNo),
    (m.ty.toNat ∈ [0, 7, 8] →
      Writes (.imin m u d a b) d 1 (fun th => (min (th.int a m.ty.toNat) (th.int b m.ty.toNat) % 2 ^ 32).toNat) quiet
      ∧ Writes (.imax m u d a b) d 1 (fun th => (max (th.int a m.ty.toNat) (th.int b m.ty.toNat) % 2 ^ 32).toNat) quiet
      ∧ Writes (.isad m u d a b) d 1
        (fun th => fitted (|th.int a m.ty.toNat - th.int b m.ty.toNat| + th.uNat m.c) false 32 m.sat)
        (fun th => clamps (|th.int a m.ty.toNat - th.int b m.ty.toNat| + th.uNat m.c) false 32 m.sat))
    ∧ Writes (.iabs m u d a) d 1 (fun th => fitted |th.sInt a| true 32 m.sat) (fun th => clamps |th.sInt a| true 32 m.sat)
    ∧ Writes (.ineg m u d a) d 1 (fun th => fitted (-(th.sInt a)) true 32 m.sat) (fun th => clamps (-(th.sInt a)) true 32 m.sat))

/-- R291, R292: shifts by any count, with counts of 32 and more giving zero or the sign, and funnel shifts of the 64-bit value a:b. R293, R294: the logic
forms, and BFN3, whose result bit i is bit a<i> + 2 b<i> + 4 c<i> of its table. Each has the word of its row, and honours the guard, the third source where
its rule names one, and no other prefix field. -/
def Obligations.ShiftsAndLogic : Prop :=
  (∀ (m : Mods) (u : Bool) (d a b : RegNo) (imm : BitVec 5),
    Writes (.shl m u d a b) d 1 (fun th => (th.get a.toNat <<< th.uNat b).toNat) quiet
    ∧ Writes (.shr m u d a b) d 1 (fun th => (th.get a.toNat >>> th.uNat b).toNat) quiet
    ∧ Writes (.sar m u d a b) d 1 (fun th => ((th.get a.toNat).sshiftRight (th.uNat b)).toNat) quiet
    ∧ Writes (.shli m u d a imm) d 1 (fun th => (th.get a.toNat <<< imm.toNat).toNat) quiet
    ∧ Writes (.shri m u d a imm) d 1 (fun th => (th.get a.toNat >>> imm.toNat).toNat) quiet
    ∧ Writes (.sari m u d a imm) d 1 (fun th => ((th.get a.toNat).sshiftRight imm.toNat).toNat) quiet
    ∧ Writes (.fsl m u d a b) d 1
        (fun th => (((th.get a.toNat ++ th.get b.toNat) <<< min (th.uNat m.c) 32).extractLsb' 32 32).toNat) quiet
    ∧ Writes (.fsr m u d a b) d 1
        (fun th => (((th.get a.toNat ++ th.get b.toNat) >>> min (th.uNat m.c) 32).extractLsb' 0 32).toNat) quiet)
  ∧ (∀ (m : Mods) (u : Bool) (d a b : RegNo) (imm : BitVec 9),
    Writes (.and m u d a b) d 1 (fun th => (th.get a.toNat &&& th.get b.toNat).toNat) quiet
    ∧ Writes (.or m u d a b) d 1 (fun th => (th.get a.toNat ||| th.get b.toNat).toNat) quiet
    ∧ Writes (.xor m u d a b) d 1 (fun th => (th.get a.toNat ^^^ th.get b.toNat).toNat) quiet
    ∧ Writes (.andi m u d a imm) d 1 (fun th => (th.get a.toNat &&& imm.signExtend 32).toNat) quiet
    ∧ Writes (.ori m u d a imm) d 1 (fun th => (th.get a.toNat ||| imm.signExtend 32).toNat) quiet
    ∧ Writes (.xori m u d a imm) d 1 (fun th => (th.get a.toNat ^^^ imm.signExtend 32).toNat) quiet
    ∧ Gives (.bfn3 m u d a b) d fun th v => ∀ i, i < 32 → v.getLsbD i = (bfn3Table m).getLsbD
        (((th.get a.toNat).getLsbD i).toNat + 2 * ((th.get b.toNat).getLsbD i).toNat + 4 * ((th.get m.c.toNat).getLsbD i).toNat))
  ∧ (∀ (m : Mods) (u : Bool) (d a b : RegNo) (imm : BitVec 5) (i9 : BitVec 9),
    Coded (.shl m u d a b) (wordR3 u 12 d a b) m d false ∧ Coded (.shr m u d a b) (wordR3 u 13 d a b) m d false
    ∧ Coded (.sar m u d a b) (wordR3 u 14 d a b) m d false ∧ Coded (.shli m u d a imm) (wordR2I u 1 d a (0#4 ++ imm)) m d false
    ∧ Coded (.shri m u d a imm) (wordR2I u 2 d a (0#4 ++ imm)) m d false ∧ Coded (.sari m u d a imm) (wordR2I u 3 d a (0#4 ++ imm)) m d false
    ∧ Coded (.fsl m u d a b) (wordR3 u 15 d a b) m d true ∧ Coded (.fsr m u d a b) (wordR3 u 16 d a b) m d true
    ∧ Coded (.and m u d a b) (wordR3 u 18 d a b) m d false ∧ Coded (.or m u d a b) (wordR3 u 19 d a b) m d false
    ∧ Coded (.xor m u d a b) (wordR3 u 20 d a b) m d false ∧ Coded (.andi m u d a i9) (wordR2I u 4 d a i9) m d false
    ∧ Coded (.ori m u d a i9) (wordR2I u 5 d a i9) m d false ∧ Coded (.xori m u d a i9) (wordR2I u 6 d a i9) m d false
    ∧ encWord (.bfn3 m u d a b) = wordR3 u 17 d a b ∧ (decodable (.bfn3 m u d a b) = true → m.ty.toNat < 2)
    ∧ bfn3Table (defaultMods (wordR3 u 17 d a b)) = 0 ∧ (defaultMods (wordR3 u 17 d a b)).c = d)

/-- R295: POPC counts the one bits; CLZ and CTZ count the zero bits above the highest and below the lowest one bit, 32 when there is none; BREV reverses the
bits; each has the word of its row and honours the guard alone. R296, R297: BFX takes L = min(n, 32 − p) bits from position p, extended by zeros or by its top
bit; BFI puts L bits of a at p into c; BYSEL makes each byte from a byte of a and b, zeroed or turned into its sign. -/
def Obligations.BitsFieldsAndBytes : Prop :=
  (∀ (m : Mods) (u : Bool) (d a : RegNo),
    Writes (.popc m u d a) d 1 (fun th => (List.range 32).countP fun i => (th.get a.toNat).getLsbD i) quiet
    ∧ Gives (.clz m u d a) d (fun th v => v.toNat ≤ 32 ∧ (∀ j, j < v.toNat → (th.get a.toNat).getLsbD (31 - j) = false)
        ∧ (v.toNat < 32 → (th.get a.toNat).getLsbD (31 - v.toNat) = true))
    ∧ Gives (.ctz m u d a) d (fun th v => v.toNat ≤ 32 ∧ (∀ j, j < v.toNat → (th.get a.toNat).getLsbD j = false)
        ∧ (v.toNat < 32 → (th.get a.toNat).getLsbD v.toNat = true))
    ∧ Gives (.brev m u d a) d (fun th v => ∀ i, i < 32 → v.getLsbD i = (th.get a.toNat).getLsbD (31 - i))
    ∧ Coded (.popc m u d a) (wordR2I u 7 d a 0) m d false ∧ Coded (.clz m u d a) (wordR2I u 8 d a 0) m d false
    ∧ Coded (.ctz m u d a) (wordR2I u 9 d a 0) m d false ∧ Coded (.brev m u d a) (wordR2I u 10 d a 0) m d false)
  ∧ (∀ (m : Mods) (u : Bool) (d a b : RegNo),
    (m.ty.toNat ∈ [0, 7, 8] →
      Gives (.bfx m u d a b) d fun th v =>
        let p := ((th.get b.toNat).extractLsb' 0 5).toNat
        let L := min ((th.get b.toNat).extractLsb' 8 6).toNat (32 - p)
        ∀ i, i < 32 → v.getLsbD i =
          if i < L then (th.get a.toNat).getLsbD (p + i)
          else decide (0 < L) && tySigned m.ty.toNat && (th.get a.toNat).getLsbD (p + L - 1))
    ∧ Gives (.bfi m u d a b) d (fun th v =>
        let p := ((th.get b.toNat).extractLsb' 0 5).toNat
        let L := min ((th.get b.toNat).extractLsb' 8 6).toNat (32 - p)
        ∀ i, i < 32 → v.getLsbD i =
          if p ≤ i ∧ i < p + L then (th.get a.toNat).getLsbD (i - p) else (th.get m.c.toNat).getLsbD i)
    ∧ Gives (.bysel m u d a b) d (fun th v => ∀ k, k < 4 →
        let c := th.get m.c.toNat
        let y := (th.get b.toNat ++ th.get a.toNat).extractLsb' (8 * (c.extractLsb' (3 * k) 3).toNat) 8
        v.extractLsb' (8 * k) 8 =
          if c.getLsbD (12 + k) then 0 else if c.getLsbD (16 + k) then (if y.msb then 0xFF else 0) else y))

/-- R298, R299: compare, select and the moves; MOVH keeps the low half, and MOV copies one, two or four registers. -/
def Obligations.ComparesAndMoves : Prop :=
  ∀ (m : Mods) (u : Bool) (d a b : RegNo) (imm : BitVec 16),
    (m.xm.toNat < 10 →
      Gives (.iset m u d a b) d fun th v => v = if condition m.xm.toNat (th.get a.toNat) (th.get b.toNat) then 1 else 0)
    ∧ Gives (.isel m u d a b) d (fun th v => v = if th.get m.c.toNat = 0 then th.get b.toNat else th.get a.toNat)
    ∧ Gives (.movi m u d imm) d (fun _ v => v = moveImm m imm)
    ∧ Gives (.movh m u d imm) d (fun th v => v = imm ++ (th.get d.toNat).extractLsb' 0 16)
    ∧ ∀ s x f, s.Issues (.mov m u d a) x f → ∃ t, exec (.mov m u d a) s = .next t
        ∧ s.RegFrame t x.k (x.passing f.m) d.toNat (tyRegs m.ty.toNat) ∧ (∀ th, t.status x.k th = s.status x.k th)
        ∧ ∀ th ∈ x.passing f.m, d.toNat + tyRegs m.ty.toNat ≤ x.tm.n th → ∀ j, j < tyRegs m.ty.toNat →
          t.reg x.k th (d.toNat + j) = (x.source f th).get (a.toNat + j)

/-- R300, R301: 64-bit addresses modulo 2^64, and dot products of signed or unsigned bytes and halfwords, fitted once to the accumulation type. -/
def Obligations.AddressesAndDotProducts : Prop :=
  ∀ (m : Mods) (u : Bool) (d a b : RegNo),
    let ua := m.xm.getLsbD 0
    let ub := m.xm.getLsbD 1
    let sg := !(ua && ub)
    let c (th : Thread) : Int := if sg then th.sInt m.c else (th.uNat m.c : Int)
    let dot4 (th : Thread) : Int := c th + element (th.get a.toNat) 8 0 ua * element (th.get b.toNat) 8 0 ub
      + element (th.get a.toNat) 8 1 ua * element (th.get b.toNat) 8 1 ub + element (th.get a.toNat) 8 2 ua * element (th.get b.toNat) 8 2 ub
      + element (th.get a.toNat) 8 3 ua * element (th.get b.toNat) 8 3 ub
    let j := (m.xm.extractLsb' 2 2).toNat
    let dot2 (th : Thread) : Int := c th + element (th.get a.toNat) 16 0 ua * element (th.get b.toNat) 8 j ub
      + element (th.get a.toNat) 16 1 ua * element (th.get b.toNat) 8 (j + 1) ub
    Writes (.lea m u d a b) d 2 (fun th => (th.pair a + scaledOffset m (th.get b.toNat)).toNat) quiet
    ∧ Writes (.leaw m u d a b) d 2 (fun th => (th.pair a + th.pair b <<< (m.xm.extractLsb' 0 3).toNat).toNat) quiet
    ∧ Writes (.idot4 m u d a b) d 1 (fun th => fitted (dot4 th) sg 32 m.sat) (fun th => clamps (dot4 th) sg 32 m.sat)
    ∧ Writes (.idot2 m u d a b) d 1 (fun th => fitted (dot2 th) sg 32 m.sat) (fun th => clamps (dot2 th) sg 32 m.sat)

/-- R284: the uniform forms compute once, from the lowest passing lane, and wrap modulo 2^32; shift counts are taken modulo 32. -/
def Obligations.UniformWords : Prop :=
  ∀ (m : Mods) (d a b : RegNo) (imm : BitVec 16),
    Gives (.uadd m d a b) d (fun th v => v = th.get a.toNat + th.get b.toNat)
    ∧ Gives (.usub m d a b) d (fun th v => v = th.get a.toNat - th.get b.toNat)
    ∧ Gives (.umov m d a) d (fun th v => v = th.get a.toNat)
    ∧ Gives (.uand m d a b) d (fun th v => v = th.get a.toNat &&& th.get b.toNat)
    ∧ Gives (.uor m d a b) d (fun th v => v = th.get a.toNat ||| th.get b.toNat)
    ∧ Gives (.uxor m d a b) d (fun th v => v = th.get a.toNat ^^^ th.get b.toNat)
    ∧ Gives (.ushl m d a b) d (fun th v => v = th.get a.toNat <<< ((th.get b.toNat).extractLsb' 0 5).toNat)
    ∧ Gives (.ushr m d a b) d (fun th v => v = th.get a.toNat >>> ((th.get b.toNat).extractLsb' 0 5).toNat)
    ∧ (m.xm.toNat < 10 →
        Gives (.ucmp m d a b) d fun th v => v = if condition m.xm.toNat (th.get a.toNat) (th.get b.toNat) then 1 else 0)
    ∧ Gives (.usel m d a b) d (fun th v => v = if th.get m.c.toNat = 0 then th.get b.toNat else th.get a.toNat)
    ∧ Gives (.umul m d a b) d (fun th v => v = th.get a.toNat * th.get b.toNat)
    ∧ Writes (.ulea m d a b) d 2 (fun th => (th.pair a + scaledOffset m (th.get b.toNat)).toNat) quiet
    ∧ Gives (.umovi m d imm) d (fun _ v => v = moveImm m imm)

/-! ### Floating-point words -/

/-- R306: the four basic forms round the exact sum, difference, product or product and sum once in mode RM; sign modifiers act on the operand bits. -/
def Obligations.FloatArithmeticWords : Prop :=
  ∀ (m : Mods) (u : Bool) (d a b : RegNo),
    let A (th : Thread) := fdecode F32 (signMod (m.xm.getLsbD 0) (m.xm.getLsbD 2) (th.uNat a))
    let B (th : Thread) := fdecode F32 (signMod (m.xm.getLsbD 1) (m.xm.getLsbD 3) (th.uNat b))
    let sum (th : Thread) := faddV F32 m.rm.toNat (A th) (B th)
    let dif (th : Thread) := faddV F32 m.rm.toNat (A th) (B th).negate
    let prd (th : Thread) := fmulV F32 m.rm.toNat (A th) (B th)
    let fma (th : Thread) := ffmaV F32 m.rm.toNat (m.xm.getLsbD 0) (fdecode F32 (th.uNat a)) (fdecode F32 (th.uNat b))
      (fdecode F32 (signMod false (m.xm.getLsbD 1) (th.uNat m.c)))
    Writes (.fadd m u d a b) d 1 (fun th => (sum th).1) (fun th => (sum th).2)
    ∧ Writes (.fsub m u d a b) d 1 (fun th => (dif th).1) (fun th => (dif th).2)
    ∧ Writes (.fmul m u d a b) d 1 (fun th => (prd th).1) (fun th => (prd th).2)
    ∧ Writes (.ffma m u d a b) d 1 (fun th => (fma th).1) (fun th => (fma th).2)

/-- R307, R308, R309: minimum and maximum, FSET's 0 or 1, and FSEL's copy of a or b by comparing c with +0, each with the flags of its comparison. -/
def Obligations.FloatComparisonWords : Prop :=
  ∀ (m : Mods) (u : Bool) (d a b : RegNo),
    Writes (.fmin m u d a b) d 1 (fun th => (fminmax F32 false (th.uNat a) (th.uNat b)).1) (fun th => (fminmax F32 false (th.uNat a) (th.uNat b)).2)
    ∧ Writes (.fmax m u d a b) d 1 (fun th => (fminmax F32 true (th.uNat a) (th.uNat b)).1) (fun th => (fminmax F32 true (th.uNat a) (th.uNat b)).2)
    ∧ Writes (.fset m u d a b) d 1 (fun th => (fcond F32 m.xm.toNat (th.uNat a) (th.uNat b)).1.toNat)
        (fun th => (fcond F32 m.xm.toNat (th.uNat a) (th.uNat b)).2)
    ∧ Writes (.fsel m u d a b) d 1 (fun th => if (fcond F32 m.xm.toNat (th.uNat m.c) 0).1 then th.uNat a else th.uNat b)
        (fun th => (fcond F32 m.xm.toNat (th.uNat m.c) 0).2)

/-- R310, R311, R312: rounding to an integral value, fraction, scaling, field extraction and classification. -/
def Obligations.FloatManipulationWords : Prop :=
  ∀ (m : Mods) (u : Bool) (d a b : RegNo) (imm : BitVec 9),
    Writes (.frnd m u d a) d 1 (fun th => (frndOp m.rm.toNat (m.xm.getLsbD 0) (th.uNat a)).1) (fun th => (frndOp m.rm.toNat (m.xm.getLsbD 0) (th.uNat a)).2)
    ∧ Writes (.ffrc m u d a) d 1 (fun th => (ffrcOp (th.uNat a)).1) (fun th => (ffrcOp (th.uNat a)).2)
    ∧ Writes (.fscl m u d a b) d 1 (fun th => (fsclOp F32 m.rm.toNat (th.uNat a) (th.sInt b)).1) (fun th => (fsclOp F32 m.rm.toNat (th.uNat a) (th.sInt b)).2)
    ∧ Writes (.fext m u d a b) d 1 (fun th => (fextOp m.xm.toNat (th.uNat a) (th.uNat b)).1) (fun th => (fextOp m.xm.toNat (th.uNat a) (th.uNat b)).2)
    ∧ Writes (.fcls m u d a imm) d 1 (fun th => fclsOp (th.uNat a) imm.toNat) quiet

/-- R313, R314, R315: the approximations write a function of the operand, and FSQT the square root rounded in mode RM. -/
def Obligations.FloatApproximationWords : Prop :=
  ∀ (m : Mods) (u : Bool) (d a : RegNo),
    Writes (.frcp m u d a) d 1 (fun th => (frcpOp (th.uNat a)).1) (fun th => (frcpOp (th.uNat a)).2)
    ∧ Writes (.frsq m u d a) d 1 (fun th => (frsqOp (th.uNat a)).1) (fun th => (frsqOp (th.uNat a)).2)
    ∧ Writes (.fsqt m u d a) d 1 (fun th => (fsqtOp m.rm.toNat (th.uNat a)).1) (fun th => (fsqtOp m.rm.toNat (th.uNat a)).2)
    ∧ Writes (.fexp2 m u d a) d 1 (fun th => (fexp2Op (th.uNat a)).1) (fun th => (fexp2Op (th.uNat a)).2)
    ∧ Writes (.flog2 m u d a) d 1 (fun th => (flog2Op (th.uNat a)).1) (fun th => (flog2Op (th.uNat a)).2)
    ∧ Writes (.fsin m u d a) d 1 (fun th => (ftrigOp false (th.uNat a)).1) (fun th => (ftrigOp false (th.uNat a)).2)
    ∧ Writes (.fcos m u d a) d 1 (fun th => (ftrigOp true (th.uNat a)).1) (fun th => (ftrigOp true (th.uNat a)).2)

/-- R316: a packed word computes each 16-bit half on its own as the scalar form does, in F16 or BF16, takes b as arranged, and raises the flags of both
halves; PKCMP takes b straight and writes 0xFFFF or 0 to each half. -/
def Obligations.PackedWords : Prop :=
  ∀ (m : Mods) (u : Bool) (d a b : RegNo), m.ty.toNat ∈ [0, 15, 16] →
    let F := if m.ty.toNat = 16 then BF16 else F16
    let lo (v : Word) : Nat := (v.extractLsb' 0 16).toNat
    let hi (v : Word) : Nat := (v.extractLsb' 16 16).toNat
    let arr := (m.xm.extractLsb' 0 2).toNat
    let bl (th : Thread) : Nat := if arr = 2 ∨ arr = 3 then hi (th.get b.toNat) else lo (th.get b.toNat)
    let bh (th : Thread) : Nat := if arr = 1 ∨ arr = 3 then lo (th.get b.toNat) else hi (th.get b.toNat)
    let halves (i : Instr) (g h : Thread → Nat × Flags) : Prop :=
      Writes i d 1 (fun th => (g th).1 % 2 ^ 16 + 2 ^ 16 * ((h th).1 % 2 ^ 16)) (fun th => (g th).2 ||| (h th).2)
    let two (i : Instr) (op : Nat → Nat → Nat × Flags) : Prop :=
      halves i (fun th => op (lo (th.get a.toNat)) (bl th)) (fun th => op (hi (th.get a.toNat)) (bh th))
    let cmp (x y : Nat) : Nat × Flags := (if (fcond F m.xm.toNat x y).1 then 0xFFFF else 0, (fcond F m.xm.toNat x y).2)
    let fma (x y z : Nat) : Nat × Flags := ffmaV F m.rm.toNat false (fdecode F x) (fdecode F y) (fdecode F z)
    two (.pkadd m u d a b) (fun x y => faddV F m.rm.toNat (fdecode F x) (fdecode F y))
    ∧ two (.pksub m u d a b) (fun x y => faddV F m.rm.toNat (fdecode F x) (fdecode F y).negate)
    ∧ two (.pkmul m u d a b) (fun x y => fmulV F m.rm.toNat (fdecode F x) (fdecode F y))
    ∧ two (.pkmin m u d a b) (fminmax F false)
    ∧ two (.pkmax m u d a b) (fminmax F true)
    ∧ halves (.pkfma m u d a b) (fun th => fma (lo (th.get a.toNat)) (bl th) (lo (th.get m.c.toNat)))
        (fun th => fma (hi (th.get a.toNat)) (bh th) (hi (th.get m.c.toNat)))
    ∧ halves (.pkcmp m u d a b) (fun th => cmp (lo (th.get a.toNat)) (lo (th.get b.toNat))) (fun th => cmp (hi (th.get a.toNat)) (hi (th.get b.toNat)))

/-- R317 to R321: CVT converts one scalar between the types it names; CVPK packs narrow elements into the field of d and keeps d outside it, or unpacks
them to a run of registers; CVSC extracts or applies a block scale. -/
def Obligations.ConversionWords : Prop :=
  ∀ (m : Mods) (u : Bool) (d a b : RegNo),
    let dst := if m.ty = 0 then 14 else m.ty.toNat
    let src := if m.c.extractLsb' 0 5 = 0 then 7 else (m.c.extractLsb' 0 5).toNat
    let cv (th : Thread) := cvtOp dst src m.rm.toNat m.sat (if src = 10 ∨ src = 11 then (th.pair a).toNat else th.uNat a)
    let app (th : Thread) := cvscApp m.rm.toNat (m.xm.getLsbD 1) (th.uNat a) ((th.get b.toNat).extractLsb' 0 8).toNat
    let ext (th : Thread) := cvscExt (if m.ty = 0 then 19 else m.ty.toNat) (th.uNat a)
    ((dst ∈ [1, 2, 4, 5, 7, 8, 10, 11, 14, 15, 16, 17, 18] ∧ src ∈ [1, 2, 4, 5, 7, 8, 10, 11, 14, 15, 16, 17, 18]) →
      Writes (.cvt m u d a) d (if dst = 10 ∨ dst = 11 then 2 else 1) (fun th => (cv th).1) (fun th => (cv th).2))
    ∧ (m.xm.getLsbD 3 = false → Writes (.cvpk m u d a) d 1 (fun th => (cvpkPack m d a th).1) (fun th => (cvpkPack m d a th).2))
    ∧ (m.xm.getLsbD 3 = true → Writes (.cvpk m u d a) d (if m.ty.toNat ∈ [0, 15, 16] then 2 else 4) (fun th => (cvpkUnpack m a th).1) (fun th => (cvpkUnpack m a th).2))
    ∧ (m.xm.getLsbD 0 = true → Writes (.cvsc m u d a b) d 1 (fun th => (app th).1) (fun th => (app th).2))
    ∧ (m.xm.getLsbD 0 = false → Writes (.cvsc m u d a b) d 1 (fun th => (ext th).1) (fun th => (ext th).2))

/-- R305, R307, R310: what the floating words do with NaNs, infinities and zeros of F32: one canonical NaN, NV for signalling operands and invalid operations,
IEEE signs of exact zeros, and a minimum that prefers the number and orders −0 below +0. R314: the rows of special inputs of the approximations and of FSQT,
ranges of operands included. R210: a value that a format holds is returned by Round unchanged, with no flag, in every mode: decoding a finite code and
rounding it back gives the code. -/
def Obligations.FloatSpecialCases : Prop :=
  (∀ (mode x y : Nat), mode < 4 → x < 2 ^ 32 → y < 2 ^ 32 →
    let X := fdecode F32 x
    let Y := fdecode F32 y
    (X.isNaN ∨ Y.isNaN → (faddV F32 mode X Y).1 = 0x7FC00000 ∧ (fmulV F32 mode X Y).1 = 0x7FC00000
      ∧ ((faddV F32 mode X Y).2 = if X.isSNaN ∨ Y.isSNaN then flNV else 0) ∧ ((fmulV F32 mode X Y).2 = if X.isSNaN ∨ Y.isSNaN then flNV else 0))
    ∧ faddV F32 mode (.inf false) (.inf true) = (0x7FC00000, flNV)
    ∧ fmulV F32 mode (fdecode F32 0) (.inf false) = (0x7FC00000, flNV)
    ∧ ffmaV F32 mode false (fdecode F32 0) (.inf false) (.nan false) = (0x7FC00000, flNV)
    ∧ faddV F32 mode (fdecode F32 0x3F800000) (fdecode F32 0xBF800000) = (if mode = 3 then 0x80000000 else 0, 0)
    ∧ (X.isNaN → ¬ Y.isNaN → (fminmax F32 false x y).1 = y ∧ (fminmax F32 true x y).1 = y)
    ∧ fminmax F32 false 0 0x80000000 = (0x80000000, 0) ∧ fminmax F32 true 0 0x80000000 = (0, 0)
    ∧ (X.isNaN → (frndOp mode false x).1 = 0x7FC00000 ∧ (ffrcOp x).1 = 0x7FC00000 ∧ (fsqtOp mode x).1 = 0x7FC00000))
  ∧ ((frcpOp 0 = (0x7F800000, flDZ) ∧ frcpOp 0x80000000 = (0xFF800000, flDZ) ∧ frcpOp 0x7F800000 = (0, 0) ∧ frcpOp 0xFF800000 = (0x80000000, 0))
  ∧ (∀ a, 0 < a → a ≤ 0x00200000 → frcpOp a = (0x7F800000, flOF ||| flNX) ∧ frcpOp (0x80000000 + a) = (0xFF800000, flOF ||| flNX))
  ∧ (frsqOp 0 = (0x7F800000, flDZ) ∧ frsqOp 0x80000000 = (0xFF800000, flDZ) ∧ frsqOp 0x7F800000 = (0, 0))
  ∧ (∀ mode, fsqtOp mode 0x80000000 = (0x80000000, 0) ∧ fsqtOp mode 0x7F800000 = (0x7F800000, 0))
  ∧ (∀ a, 0x80000000 < a → a ≤ 0xFF800000 →
      frsqOp a = (0x7FC00000, flNV) ∧ flog2Op a = (0x7FC00000, flNV) ∧ ∀ mode, fsqtOp mode a = (0x7FC00000, flNV))
  ∧ (fexp2Op 0x7F800000 = (0x7F800000, 0) ∧ fexp2Op 0xFF800000 = (0, 0))
  ∧ (∀ a, 0x43000000 ≤ a → a < 0x7F800000 → fexp2Op a = (0x7F800000, flOF ||| flNX))
  ∧ (∀ a, 0xC3160000 ≤ a → a < 0xFF800000 → fexp2Op a = (0, flUF ||| flNX))
  ∧ (flog2Op 0 = (0xFF800000, flDZ) ∧ flog2Op 0x80000000 = (0xFF800000, flDZ) ∧ flog2Op 0x7F800000 = (0x7F800000, 0))
  ∧ (∀ cos, ftrigOp cos 0x7F800000 = (0x7FC00000, flNV) ∧ ftrigOp cos 0xFF800000 = (0x7FC00000, flNV))
  ∧ ∀ a, a < 2 ^ 32 → (fdecode F32 a).isNaN →
      let r : Nat × Flags := (0x7FC00000, if (fdecode F32 a).isSNaN then flNV else 0)
      frcpOp a = r ∧ frsqOp a = r ∧ fexp2Op a = r ∧ flog2Op a = r ∧ (∀ cos, ftrigOp cos a = r) ∧ ∀ mode, fsqtOp mode a = r)
  ∧ (∀ F ∈ [F32, F16, BF16], ∀ (mode c : Nat), c < 2 ^ F.width →
    match fdecode F c with
    | .fin s m e => m ≠ 0 → fround F mode s m e = (c, 0)
    | _ => True)

/-! ### Group collectives -/

/-- R39, R325: a bundle that reaches a collective before another thread of its group waits for it there; no register changes. R326, R327: LXCH gives each
active thread the a of the lane its mode names, or its own when that lane is not active; VOTE and BALL write the answer about the a of the active threads. -/
def Obligations.CollectivesWaitAndExchange : Prop :=
  (∀ (m : Mods) (d a b : RegNo) (mode : BitVec 2) (excl : Bool) (op : BitVec 3),
    ∀ i ∈ [Instr.lxch m d a b, .vote m d a mode, .ball m d a mode, .gred m d a excl op, .gscn m d a excl op],
      ∀ g u, Completes i
        (fun _ x _ => (∀ t ∈ x.b.threads, t / 32 = g) ∧ u / 32 = g ∧ u < x.tm.threads.length ∧ u ∉ x.b.threads
          ∧ (x.tm.thread u).exited = false ∧ (x.tm.thread u).wait.kind ≠ .collective)
        (fun s x _ t => s.OnlyTeam t x.k ∧ (∀ th r, t.reg x.k th r = s.reg x.k th r)
          ∧ ∀ th ∈ x.b.threads, (t.th x.k th).wait = { kind := .collective, word := x.off }))
  ∧ (∀ (m : Mods) (d a b : RegNo) (mode : BitVec 2),
    let a_ (x : Iss) (t : Nat) : Word := (x.tm.thread t).get a.toNat
    let width : Nat := 32 / 2 ^ (m.xm.extractLsb' 2 2).toNat
    let from_ (x : Iss) (act : List Nat) (t : Nat) : Nat :=
      let l := t % 32
      let seg := l - l % width
      let bv := (x.tm.thread t).uNat b
      let lane : Nat :=
        if m.xm.extractLsb' 0 2 = 0 then seg + bv % width
        else if m.xm.extractLsb' 0 2 = 1 then seg + (l - seg + bv) % width
        else if m.xm.extractLsb' 0 2 = 2 then l ^^^ (bv % width)
        else ((act.find? fun u => decide (seg ≤ u % 32 ∧ u % 32 < seg + width)).getD 0) % 32
      if t - l + lane ∈ act then t - l + lane else t
    Collects (.lxch m d a b) d (tyRegs m.ty.toNat) (fun x act t => (x.tm.thread (from_ x act t)).getN a.toNat (tyRegs m.ty.toNat)) (fun _ _ => 0)
    ∧ Collects (.vote m d a mode) d 1
        (fun x act _ =>
          if mode = 0 then (if ∀ u ∈ act, a_ x u ≠ 0 then 1 else 0)
          else if mode = 1 then (if ∃ u ∈ act, a_ x u ≠ 0 then 1 else 0)
          else if mode = 2 then (if ∀ u ∈ act, ∀ w ∈ act, a_ x u = a_ x w then 1 else 0)
          else act.countP fun u => a_ x u != 0)
        (fun _ _ => 0)
    ∧ (mode ≠ 3 → Collects (.ball m d a mode) d 1
        (fun x act t => ((act.filter fun u => if mode = 0 then a_ x u != 0 else if mode = 1 then a_ x u == a_ x t else true).map
          fun u => 2 ^ (u % 32)).sum)
        (fun _ _ => 0)))

/-- R328: GRED and GSCN combine the a of the active lanes in ascending order; the integer operations in closed form, and f32 by the scan of R328 with its
flags. The exclusive scan of the lowest active lane is the identity. -/
def Obligations.CollectivesReduceAndScan : Prop :=
  ∀ (m : Mods) (d a : RegNo) (excl : Bool) (op : BitVec 3), op.toNat < 6 →
    let a_ (x : Iss) (t : Nat) : Nat := (x.tm.thread t).uNat a
    let sg (v : Nat) : Int := if m.ty = 8 then (v : Int) else (BitVec.ofNat 32 v).toInt
    let least (l : List Nat) : Nat := l.foldl (fun r v => if sg v < sg r then v else r) (if m.ty = 8 then 0xFFFFFFFF else 0x7FFFFFFF)
    let greatest (l : List Nat) : Nat := l.foldl (fun r v => if sg r < sg v then v else r) (if m.ty = 8 then 0 else 0x80000000)
    let combine (l : List Nat) : Nat :=
      if op = 0 then l.sum % 2 ^ 32
      else if op = 1 then least l
      else if op = 2 then greatest l
      else if op = 3 then l.foldl (· &&& ·) 0xFFFFFFFF
      else if op = 4 then l.foldl (· ||| ·) 0
      else l.foldl (· ^^^ ·) 0
    let before (act : List Nat) (t : Nat) : List Nat := act.filter fun u => decide (u < t) || (!excl && u == t)
    (m.ty.toNat ∈ [0, 7, 8, 9] → (2 < op.toNat ∨ m.ty.toNat ≠ 9) →
      Collects (.gred m d a excl op) d 1 (fun x act _ => combine (act.map (a_ x))) (fun _ _ => 0)
      ∧ Collects (.gscn m d a excl op) d 1 (fun x act t => combine ((before act t).map (a_ x))) (fun _ _ => 0))
    ∧ (m.ty = 14 → op.toNat < 3 →
      Collects (.gred m d a excl op) d 1 (fun x act _ => (gScan op.toNat 14 (act.map (a_ x))).1) (fun x act => (gScan op.toNat 14 (act.map (a_ x))).2)
      ∧ Collects (.gscn m d a excl op) d 1 (fun x act t => (gScan op.toNat 14 ((before act t).map (a_ x))).1)
          (fun x act => act.foldl (fun f t => f ||| (gScan op.toNat 14 ((before act t).map (a_ x))).2) 0))

/-! ### Memory words -/

/-- R330, R332, R333, R335: LD and LDC, where nothing faults, change no memory and no register yet: in each passing thread the named flag rises, the
destination becomes pending, and an access to the address goes on its way or finds its bytes, of 16 the lower 8, in the column cache. An acquire makes its
hold. R330, R184, R335: ST writes no home. A plain store to device memory enters its column's cache, where the column's threads read it from then on, the
highest lane's byte last, and of 16 bytes the lower 8 first (R177); a release store waits in the load-store unit; a system-scope store, one to the host, a
peer or a window, one to a line that moves, and one that an earlier store of its thread or word, or a replay of its region, holds back goes on its way. -/
def Obligations.LoadsAndStoresIssue : Prop :=
  (∀ (m : Mods) (u fs : Bool) (d a : RegNo) (off : BitVec 7),
    let size := memSize m.ty.toNat
    let cnt := tyRegs m.ty.toNat
    let issued (s : State) (x : Iss) (f : Form) (t : State) (P : Nat → Access → Prop) : Prop :=
      s.SameMem t ∧ s.SameRegs t x ∧ t.cols = s.cols ∧ ∃ tm, t.team? x.k = some tm ∧
        ∀ th ∈ x.passing f.m, let fl := if fs then x.hdr.bf.toNat else x.hdr.af.toNat
          (tm.thread th).flag fl = (x.tm.thread th).flag fl + 1 ∧ (∀ j, j < cnt → (d.toNat + j, fl) ∈ (tm.thread th).pend)
          ∧ ∃ acc ∈ tm.accesses, s.idNext ≤ acc.id ∧ acc.size = size
            ∧ ({ thread := th, reg := d.toNat, cnt, flag := some fl } : Dest) ∈ acc.dests ∧ P th acc
    let room (x : Iss) (t : Nat) : Prop := (x.tm.thread t).flag (if fs then x.hdr.bf.toNat else x.hdr.af.toNat) < 15
    let ea (x : Iss) (f : Form) (t : Nat) : Nat := (x.tm.thread (x.from_ f u t)).ea a off.toInt size
    let so (x : Iss) (f : Form) (t : Nat) : Nat := (x.tm.thread (x.from_ f u t)).so a off.toInt size
    let mem (x : Iss) (f : Form) (t : Nat) : Nat := (x.tm.thread (x.from_ f u t)).uNat (a + 1)
    Completes (.ld m u fs d a off)
      (fun s x f => x.plain ∧ x.passing f.m ≠ [] ∧ ∀ th ∈ x.passing f.m, room x th ∧ ea x f th % size = 0
        ∧ (x.tm.thread (x.from_ f u th)).oddBad a = false ∧ ea x f th < 2 ^ 52
        ∧ ∃ tgt, s.Reaches x kLoad false (mSys m) (ea x f th) tgt ∧ s.poisoned tgt = false)
      (fun s x f t => issued s x f t fun th acc => acc.kind = .load ∧ acc.va = ea x f th
        ∧ ((acc.state = .sent ∧ (acc.half = true → size = 16 ∧ mSys m = false ∧ ∃ key, s.Reaches x kLoad false (mSys m) (ea x f th) (.hbm key)
              ∧ acc.value = leNat ((List.range 8).map fun i => sget 0 (s.cline (teamCol x.k) (key / 128)).data (key % 128 + i))))
          ∨ (acc.state = .held ∧ ∃ v ∈ x.passing f.m, s.sideRegion x.k v (ea x f th) = true)
          ∨ (acc.state = .ready ∧ size ≠ 16 ∧ mSys m = false ∧ ∃ key, s.Reaches x kLoad false (mSys m) (ea x f th) (.hbm key)
            ∧ acc.value = leNat ((List.range size).map fun i => sget 0 (s.cline (teamCol x.k) (key / 128)).data (key % 128 + i))))
        ∧ (mAcq m = true → ∃ tm, t.team? x.k = some tm
          ∧ (tm.thread th).hold = some { acq := true, rel := false, scope := mScope m, access := some acc.id }))
    ∧ (a.toNat < 127 → Completes (.ldc m u fs d a off)
      (fun s x f => x.plain ∧ x.passing f.m ≠ [] ∧ ∀ th ∈ x.passing f.m, room x th ∧ so x f th % size = 0
        ∧ ∃ k tm, s.member? x.tm x.k (mem x f th) = some k ∧ s.team? k = some tm ∧ so x f th + size ≤ tm.spadLen)
      (fun s x f t => issued s x f t fun th acc => acc.kind = .window (mem x f th) ∧ acc.va = so x f th ∧ acc.state = .sent)))
  ∧ (∀ (m : Mods) (d a : RegNo) (off : BitVec 7),
    let size := memSize m.ty.toNat
    let ea (x : Iss) (t : Nat) : Nat := (x.tm.thread t).ea a off.toInt size
    let data (x : Iss) (t : Nat) : Nat := (x.tm.thread t).getN d.toNat (tyRegs m.ty.toNat) % 2 ^ (8 * size)
    let fits (x : Iss) (t : Nat) : Prop := ea x t % size = 0 ∧ (x.tm.thread t).oddBad a = false ∧ ea x t < 2 ^ 52
    let waits (s : State) (x : Iss) (t : Nat) : Bool := s.storeWaits (teamCol x.k) (s.teamCtx x.tm) x.k t s.idNext (ea x t) size
    let unlogged (s : State) (x : Iss) (t : Nat) : Prop :=
      s.sideRegion x.k t (ea x t) = false ∧ s.logsAfter (teamCol x.k) (s.teamCtx x.tm) s.idNext (ea x t) size = false
    (∀ key : Nat → Nat,
      let plain (s : State) (x : Iss) (f : Form) : Prop := mRel m = false ∧ mSys m = false ∧ ∀ th ∈ x.passing f.m, fits x th
        ∧ s.Reaches x kStore true false (ea x th) (.hbm (key th)) ∧ key th % size = 0 ∧ unlogged s x th
        ∧ s.replaying x.k th (ea x th) = false ∧ (s.home (key th / 128)).move ≠ .moving
      (size ≠ 16 → Completes (.st m d a off)
      (fun s x f => plain s x f ∧ ∀ th ∈ x.passing f.m, waits s x th = false)
      (fun s x f t => s.SameMem t ∧ s.SameRegs t x ∧ t.idNext = s.idNext
        ∧ (∀ p, (∀ th ∈ x.passing f.m, p < key th ∨ key th + size ≤ p) → t.colByte (teamCol x.k) p = s.colByte (teamCol x.k) p)
        ∧ ∀ th ∈ x.passing f.m, ∀ j, j < size →
          (∀ u ∈ x.passing f.m, u ≠ th → u % 32 < th % 32 ∨ key th + j < key u ∨ key u + size ≤ key th + j) →
          t.colByte (teamCol x.k) (key th + j) = BitVec.ofNat 8 (data x th / 2 ^ (8 * j))))
      ∧ (size = 16 → Completes (.st m d a off) plain
        (fun s x f t => s.SameMem t ∧ s.SameRegs t x
          ∧ (∀ p, (∀ th ∈ x.passing f.m, p < key th ∨ key th + 8 ≤ p) → t.colByte (teamCol x.k) p = s.colByte (teamCol x.k) p)
          ∧ (∀ th, x.passing f.m = [th] → waits s x th = false → ∀ j, j < 8 →
            t.colByte (teamCol x.k) (key th + j) = BitVec.ofNat 8 (data x th / 2 ^ (8 * j)))
          ∧ ∃ tm, t.team? x.k = some tm ∧ ∀ th ∈ x.passing f.m, ∃ acc ∈ tm.accesses, s.idNext ≤ acc.id ∧ acc.state = .sent
            ∧ acc.dests = [{ thread := th, reg := 0, cnt := 0, flag := none }]
            ∧ ((acc.kind = .store (data x th / 2 ^ 64) ∧ acc.va = ea x th + 8 ∧ acc.size = 8)
              ∨ (acc.kind = .store (data x th) ∧ acc.va = ea x th ∧ acc.size = 16 ∧ acc.half = false ∧ ∀ v, x.passing f.m = [v] → waits s x v = true)))))
    ∧ Completes (.st m d a off)
      (fun s x f => ∀ th ∈ x.passing f.m, fits x th ∧ ∃ tgt, s.Reaches x kStore true (mSys m) (ea x th) tgt
        ∧ (mRel m = true ∨ (unlogged s x th ∧ (s.replaying x.k th (ea x th) = true ∨ mSys m = true ∨ (∀ key, tgt ≠ .hbm key) ∨ waits s x th = true
          ∨ ∃ key, tgt = .hbm key ∧ (s.home (key / 128)).move = .moving))))
      (fun s x f t => s.SameMem t ∧ s.SameRegs t x ∧ t.cols = s.cols ∧ ∃ tm, t.team? x.k = some tm ∧
        ∀ th ∈ x.passing f.m, ∃ acc ∈ tm.accesses, s.idNext ≤ acc.id ∧ acc.kind = .store (data x th) ∧ acc.va = ea x th ∧ acc.size = size
          ∧ acc.scope = mScope m ∧ acc.state = (if mRel m then .unreleased else .sent)
          ∧ acc.dests = [{ thread := th, reg := 0, cnt := 0, flag := none }]))

/-- R331, R138, R177: LDS reads the team's scratchpad and STS writes it, the highest lane's byte last; outside the bytes written nothing changes. A word
of 16 bytes does so in two steps, the lower 8 bytes first. With a live entry of the range scoreboard in its way the word waits. -/
def Obligations.ScratchpadWords : Prop :=
  ∀ (m : Mods) (u : Bool) (d a : RegNo) (off : BitVec 7),
    let size := memSize m.ty.toNat
    let cnt := tyRegs m.ty.toNat
    let at_ (x : Iss) (t : Nat) : Nat := (x.tm.thread t).so a off.toInt size
    let fits (x : Iss) (t : Nat) : Prop := at_ x t % size = 0 ∧ at_ x t + size ≤ x.tm.spadLen
    let clean (x : Iss) (t : Nat) : Prop := at_ x t / 64 ∉ x.tm.spadPoison
    let first (x : Iss) (f : Form) : Prop := size = 16 ∧ x.passing f.m ≠ [] ∧ ∀ th ∈ x.passing f.m, (x.tm.thread th).wait.started = false
    let last (x : Iss) (f : Form) : Prop := size = 16 → ∀ th ∈ x.passing f.m, (x.tm.thread th).wait.started = true
    let value (x : Iss) (th o : Nat) : Nat := if size = 16 then (x.tm.thread th).wait.token + 2 ^ 64 * x.tm.spadGet (o + 8) 8 else x.tm.spadGet o size
    let free (x : Iss) (f : Form) : Prop :=
      ∀ th ∈ x.passing f.m, fits x (x.from_ f u th) ∧ clean x (x.from_ f u th) ∧ x.tm.sbStall false (at_ x (x.from_ f u th)) size = false
    let wrote (s t : State) (x : Iss) (f : Form) (o n : Nat) : Prop := s.OnlyTeam t x.k ∧ s.SameRegs t x ∧ ∃ tm, t.team? x.k = some tm
      ∧ tm.spadLen = x.tm.spadLen
      ∧ (∀ p, (∀ th ∈ x.passing f.m, p < at_ x th + o ∨ at_ x th + o + n ≤ p) → tm.spad.get p = x.tm.spad.get p)
      ∧ ∀ th ∈ x.passing f.m, ∀ j, o ≤ j → j < o + n →
        (∀ v ∈ x.passing f.m, v ≠ th → v % 32 < th % 32 ∨ at_ x th + j < at_ x v + o ∨ at_ x v + o + n ≤ at_ x th + j) →
        tm.spad.get (at_ x th + j) = BitVec.ofNat 8 ((x.tm.thread th).getN d.toNat cnt / 2 ^ (8 * j))
    Completes (.lds m u d a off) (fun _ x f => free x f ∧ first x f)
      (fun s x f t => s.OnlyTeam t x.k ∧ s.SameRegs t x
        ∧ ∀ th ∈ x.passing f.m, (t.th x.k th).wait = { word := x.off, started := true, token := x.tm.spadGet (at_ x (x.from_ f u th)) 8 })
    ∧ Completes (.lds m u d a off) (fun _ x f => free x f ∧ last x f)
      (fun s x f t => s.OnlyTeam t x.k ∧ (∀ th, t.status x.k th = s.status x.k th)
        ∧ (∀ th r, th ∉ x.passing f.m ∨ r < d.toNat ∨ d.toNat + cnt ≤ r → t.reg x.k th r = s.reg x.k th r)
        ∧ ∀ th ∈ x.passing f.m, d.toNat + cnt ≤ x.tm.n th → ∀ j, j < cnt →
          t.reg x.k th (d.toNat + j) = BitVec.ofNat 32 (extended m.ty.toNat (value x th (at_ x (x.from_ f u th))) / 2 ^ (32 * j)))
    ∧ Completes (.sts m d a off)
      (fun _ x f => x.tm.spad.wf = true ∧ first x f ∧ ∀ th ∈ x.passing f.m, fits x th ∧ x.tm.sbStall true (at_ x th) size = false)
      (fun s x f t => wrote s t x f 0 8 ∧ ∀ th ∈ x.passing f.m, (t.th x.k th).wait = { word := x.off, started := true })
    ∧ Completes (.sts m d a off)
      (fun _ x f => x.tm.spad.wf = true ∧ last x f ∧ ∀ th ∈ x.passing f.m, fits x th ∧ x.tm.sbStall true (at_ x th) size = false)
      (fun s x f t => if size = 16 then wrote s t x f 8 8 else wrote s t x f 0 size)
    ∧ Completes (.sts m d a off)
      (fun _ x f => (∀ th ∈ x.passing f.m, fits x th) ∧ ∃ th ∈ x.passing f.m, x.tm.sbStall true (at_ x th) size = true)
      (fun s x f t => s.OnlyTeam t x.k ∧ s.SameRegs t x
        ∧ ∀ th ∈ x.passing f.m, (t.th x.k th).wait = { (s.th x.k th).wait with kind := .scoreboard, word := x.off })

/-- R338 to R341: ATOMS, with nothing to release, replaces each location it names by what R340 computes for its lanes, and each lane receives its old
value; ATOM and RED send one such request per location, ATOM's with its flag raised and its destinations pending; `.cas` goes lane by lane. -/
def Obligations.AtomicWords : Prop :=
  ∀ (m : Mods) (fs : Bool) (d a b : RegNo),
    let op := aop m
    let ty := aopTyOf op m.ty.toNat
    let cnt := tyRegs m.ty.toNat
    let so (x : Iss) (t : Nat) : Nat := (x.tm.thread t).uNat a
    let ea (x : Iss) (t : Nat) : Nat := (x.tm.thread t).ea a 0 (4 * cnt)
    let own (x : Iss) (r : RegNo) (t : Nat) : Nat := (x.tm.thread t).uNat r
    let ownN (x : Iss) (r : RegNo) (t : Nat) : Nat := (x.tm.thread t).getN r.toNat cnt
    let lower (l : List Nat) (t : Nat) : List Nat := l.takeWhile (· ≠ t)
    Completes (.atoms m d a b)
      (fun s x f => x.b.threads.Nodup ∧ x.tm.spad.wf = true ∧ (mRel m = true → s.Drained x) ∧ ∀ th ∈ x.passing f.m, so x th % 4 = 0
        ∧ so x th + 4 ≤ x.tm.spadLen ∧ so x th / 64 ∉ x.tm.spadPoison ∧ x.tm.sbStall true (so x th) 4 = false)
      (fun s x f t => s.OnlyTeam t x.k ∧ (∀ th, t.status x.k th = s.status x.k th)
        ∧ (∀ th r, th ∉ x.passing f.m ∨ r ≠ d.toNat → t.reg x.k th r = s.reg x.k th r)
        ∧ ∃ tm, t.team? x.k = some tm
          ∧ (∀ p, (∀ th ∈ x.passing f.m, p < so x th ∨ so x th + 4 ≤ p) → tm.spad.get p = x.tm.spad.get p)
          ∧ ∀ th ∈ x.passing f.m,
            let V := x.tm.spadGet (so x th) 4
            let l := sharers (so x) (x.passing f.m) th
            (op = 7 → tm.spadGet (so x th) 4 = swapped (own x b) (own x m.c) V l
              ∧ (d.toNat < x.tm.n th → t.reg x.k th d.toNat = BitVec.ofNat 32 (swapped (own x b) (own x m.c) V (lower l th))))
            ∧ (op ≠ 7 → tm.spadGet (so x th) 4 = aopApply op ty V ((combined op ty (own x b) l).getD 0) 0 % 2 ^ 32
              ∧ (d.toNat < x.tm.n th → t.reg x.k th d.toNat = BitVec.ofNat 32
                  (match combined op ty (own x b) (lower l th) with | none => V | some q => aopApply op ty V q 0)))
            ∧ (mAcq m = true → (tm.thread th).hold = some { acq := true, rel := false, scope := mScope m, returned := true }))
    ∧ Completes (.atom m fs d a b)
      (fun s x f => x.plain ∧ x.passing f.m ≠ [] ∧ ∀ th ∈ x.passing f.m, ea x th % (4 * cnt) = 0 ∧ (x.tm.thread th).oddBad a = false ∧ ea x th < 2 ^ 52
        ∧ s.sideRegion x.k th (ea x th) = false
        ∧ ∃ tgt, s.Reaches x kAtomic true (mSys m) (ea x th) tgt ∧ (mRel m = false → s.poisoned tgt = false) ∧ ∀ va, tgt = .host va → op ∈ [0, 6, 7] ∧ ty ≠ 14)
      (fun s x f t => s.SameMem t ∧ s.SameRegs t x ∧ ∃ tm, t.team? x.k = some tm ∧
        ∀ th ∈ x.passing f.m, let fl := if fs then x.hdr.bf.toNat else x.hdr.af.toNat
          let l := sharers (ea x) (x.passing f.m) th
          (tm.thread th).flag fl = (x.tm.thread th).flag fl + 1 ∧ (∀ j, j < cnt → (d.toNat + j, fl) ∈ (tm.thread th).pend)
          ∧ ∃ acc ∈ tm.accesses, s.idNext ≤ acc.id ∧ acc.va = ea x th ∧ acc.size = 4 * cnt ∧ acc.state = (if mRel m then .unreleased else .sent)
            ∧ acc.kind = (if op = 7 then .atomic op ty (ownN x b th) (ownN x m.c th) else .atomic op ty ((combined op ty (ownN x b) l).getD 0) 0)
            ∧ ({ thread := th, reg := d.toNat, cnt, flag := some fl,
                 before := if op = 7 then none else combined op ty (ownN x b) (lower l th) } : Dest) ∈ acc.dests)
    ∧ (op < 6 → Completes (.red m a b)
      (fun s x f => x.b.threads.Nodup ∧ ∀ th ∈ x.passing f.m, ea x th % (4 * cnt) = 0 ∧ (x.tm.thread th).oddBad a = false ∧ ea x th < 2 ^ 52 ∧ s.sideRegion x.k th (ea x th) = false
        ∧ ∃ tgt, s.Reaches x kRed true (mSys m) (ea x th) tgt ∧ (mRel m = false → s.poisoned tgt = false) ∧ ∀ va, tgt = .host va → op = 0 ∧ ty ≠ 14)
      (fun s x f t => s.SameMem t ∧ s.SameRegs t x ∧ ∃ tm, t.team? x.k = some tm ∧
        ∀ th ∈ x.passing f.m, ∃ acc ∈ tm.accesses, s.idNext ≤ acc.id ∧ acc.va = ea x th ∧ acc.size = 4 * cnt
          ∧ acc.kind = .reduction op ty ((combined op ty (ownN x b) (sharers (ea x) (x.passing f.m) th)).getD 0)
          ∧ acc.state = (if mRel m then .unreleased else .sent) ∧ ∃ dst ∈ acc.dests, dst.thread = th ∧ dst.before = some (ownN x b th)))

/-- R330, R336, R337: FENCE makes its hold in each passing thread; PRF changes no value that a thread of its column can read and no register; PRM, with
nothing dirty in any column and no write of one at a home, makes the hold of its promotion and changes no memory. R73, R179, R182, R235, R342: what becomes of
an access. A load that reaches device memory takes the bytes its column sees, of 16 bytes the lower 8 first, and the upper 8 of one whose lower 8 hit where
they hit too (R177); a system-scope store, an atomic or a reduction waits at its home until the later of DT and the line's lease, plus one; then the home's
bytes change, those bytes alone, and an atomic has its old value; a value that has returned is written to its registers, and its flag falls. -/
def Obligations.FencesAndPerformedAccesses : Prop :=
  (∀ (m : Mods) (a : RegNo) (off : BitVec 7) (kind scope : BitVec 2),
    Completes (.fence m kind scope) (fun _ _ _ => True) (fun s x f t => s.OnlyTeam t x.k ∧ s.SameRegs t x
      ∧ ∀ th ∈ x.passing f.m, (t.th x.k th).hold = some { acq := kind.getLsbD 0, rel := kind.getLsbD 1, scope := scope.toNat })
    ∧ Completes (.prf m a off) (fun s _ _ => ∀ line, (s.home line).waiting = [])
      (fun s x _ t => s.SameMem t ∧ s.SameRegs t x ∧ ∀ c key, t.colByte c key = s.colByte c key)
    ∧ Completes (.prm m a off)
      (fun s x f => (∀ c, (s.col c).lines = [] ∧ (s.col c).wbuf = []) ∧ (∀ p ∈ s.dir, ∀ w ∈ p.2.waiting, w.col = none) ∧ ∀ th ∈ x.passing f.m,
        let ea := (x.tm.thread th).ea a off.toInt 4
        ea % 4 = 0 ∧ (x.tm.thread th).oddBad a = false ∧ ea < 2 ^ 52 ∧ s.sideRegion x.k th ea = false ∧ ∃ key, s.Reaches x kLoad false false ea (.hbm key))
      (fun s x f t => s.OnlyTeam t x.k ∧ s.SameRegs t x
        ∧ ∀ th ∈ x.passing f.m, (t.th x.k th).hold = some { acq := true, rel := false, scope := 2, prm := true }
          ∧ (t.th x.k th).horizon = (s.th x.k th).horizon))
  ∧ (∀ (s : State) (col slot entry : Nat) (tm : Team) (a : Access), slot < 32 → s.team? (teamKey col slot) = some tm →
    ((s.col col).orphans.find? (fun o => o.acc.id == entry) = none →
      tm.accesses.find? (fun a => a.id == entry && a.kind != .gather) = some a → s.mayPerform col tm a = true → tm.lanesOf a = [a] → s.gated tm a = false →
      s.pathHeld col tm.outPath true = false →
      let u := s.demand col tm.outPath
      let p := a.part
      let lower : Prop := a.size = 16 ∧ a.half = false
      ∀ key, u.xlate (some col) (u.teamCtx tm) p.va a.kind.code (a.kind.code != kLoad) (u.teamPriv tm) (a.scope == 3) = (u, .ok (.hbm key)) →
        s.lineOf (key / 128) = key / 128 → s.lineHeld (key / 128) = false → s.isPoison (key / 128) = false →
        ((a.kind = .load → (s.home (key / 128)).waiting = [] → (a.scope = 3 → ∀ i, i < p.size → s.ownByte col (key + i) = none) →
            let floor := a.dests.foldl (fun f (d : Dest) => max f (tm.thread d.thread).floor) 0
            let hit := if a.half = true ∧ a.scope ≠ 3 then s.colHit col key p.size floor else none
            let v := leNat (hit.getD (s.colBytes col key p.size))
            ∃ t tm', exec (.homeRead col slot entry) s = .next t ∧ s.SameMem t ∧ t.team? (teamKey col slot) = some tm'
              ∧ (lower → { a with half := true, value := v, t := 0 } ∈ tm'.accesses)
              ∧ (¬lower → { a with state := .ready, value := if a.half then a.value + 2 ^ 64 * v else v } ∈ tm'.accesses))
        ∧ ∀ op : HomeOp, ((∃ v, p.kind = .store v ∧ a.scope = 3 ∧ op = .write ((leBytes v p.size).zipIdx.map fun (b, i) => (key % 128 + i, b)))
              ∨ (∃ o ty b c, a.kind = .atomic o ty b c ∧ op = .atomic (key % 128) p.size o ty b c)
              ∨ ∃ o ty b, a.kind = .reduction o ty b ∧ op = .atomic (key % 128) p.size o ty b 0) →
            (s.cline col (key / 128)).dirty = [] → (∀ w ∈ (s.home (key / 128)).waiting, s.dt < w.t) →
            ∃ t, exec (.homeRead col slot entry) s = .next t ∧ s.SameMem t
              ∧ (lower → (t.home (key / 128)).waiting = (s.home (key / 128)).waiting ++ [{ t := max s.dt (s.home (key / 128)).e + 1, op }])
              ∧ (¬lower → (t.home (key / 128)).waiting = (s.home (key / 128)).waiting
                ++ [{ t := max s.dt (s.home (key / 128)).e + 1, op, team := some (teamKey col slot), access := some entry }])))
    ∧ (∀ (line : Nat) (w : HomeWrite), (s.home line).waiting = [w] → (s.home line).owner = none → w.t ≤ s.dt → s.memOk = true → (∀ l, (s.home l).move = .unmoved) →
        w.team = some (teamKey col slot) → w.access = some entry → tm.accesses.find? (fun a => a.id == entry) = some a →
        (∀ bytes, w.op = .write bytes → (∀ p ∈ bytes, p.1 < 128) → (bytes.map Prod.fst).Nodup →
          ∃ t, exec (.homeWriteApply line) s = .next t ∧ (t.home line).waiting = [] ∧ (∀ p ∈ bytes, t.byteAt (line * 128 + p.1) = p.2)
            ∧ ∀ key, (∀ p ∈ bytes, key ≠ line * 128 + p.1) → t.byteAt key = s.byteAt key)
        ∧ ∀ o size op ty b c op' ty' b' c', w.op = .atomic o size op ty b c → a.kind = .atomic op' ty' b' c' → o + size ≤ 128 → s.isPoison line = false →
          let old := leNat (s.bytesAt (line * 128 + o) size)
          ∃ t tm', exec (.homeWriteApply line) s = .next t ∧ t.team? (teamKey col slot) = some tm'
            ∧ leNat (t.bytesAt (line * 128 + o) size) = aopApply op ty old b c % 2 ^ (8 * size)
            ∧ (∀ key, key < line * 128 + o ∨ line * 128 + o + size ≤ key → t.byteAt key = s.byteAt key)
            ∧ { a with state := .ready, value := old, t := w.t, poison := false } ∈ tm'.accesses)
    ∧ (tm.accesses.find? (fun a => a.id == entry && a.state == .ready) = some a → s.pathHeld col tm.backPath true = false → a.routed = false → (a.forwarded = true → tm.layer?.isSome = true) →
        a.t ≤ s.dt → a.poison = false →
        (a.dests.map Dest.thread).Nodup → (∀ d ∈ a.dests, d.thread < tm.threads.length ∧ d.reg + d.cnt ≤ tm.n d.thread) →
        ∃ t tm', exec (.pendingWriteDelivery col slot entry) s = .next t ∧ (s.demand col tm.backPath).OnlyTeam t (teamKey col slot) ∧ t.team? (teamKey col slot) = some tm'
          ∧ (∀ x ∈ tm'.accesses, x.id ≠ entry)
          ∧ (∀ th r, (∀ d ∈ a.dests, d.thread ≠ th ∨ r < d.reg ∨ d.reg + d.cnt ≤ r) → (tm'.thread th).get r = (tm.thread th).get r)
          ∧ ∀ d ∈ a.dests,
            (∀ i, d.flag = some i → i < 12 → (tm'.thread d.thread).flag i = (tm.thread d.thread).flag i - 1)
            ∧ ∀ v, ((∃ op ty b c q, a.kind = .atomic op ty b c ∧ d.before = some q ∧ v = aopApply op ty a.value q 0)
                  ∨ (∃ op ty b c, a.kind = .atomic op ty b c ∧ d.before = none ∧ v = a.value)
                  ∨ ((a.kind = .load ∨ ∃ mem, a.kind = .window mem) ∧ v = extended a.ty a.value)) →
                ∀ j, j < d.cnt → (tm'.thread d.thread).get (d.reg + j) = BitVec.ofNat 32 (v / 2 ^ (32 * j))))

/-! ### Engine words -/

/-- R343 to R353: a legal CPY, CPYT, GATH, SCAT, TDSET or TDRD, with nothing to release and room in its column's copy engine and range scoreboard, changes no
memory and no register: each passing thread makes one request with its operands as they stand, claims its scratchpad ranges and tile slots, and raises its
flag. -/
def Obligations.CopyEngineWordsMakeRequests : Prop :=
  ∀ (m : Mods) (fs : Bool) (d a b : RegNo),
    let ready (s : State) (x : Iss) (f : Form) (legal : Thread → Prop) : Prop :=
      s.Drained x ∧ x.plain ∧ s.accepts (teamCol x.k) (s.teamCtx x.tm) (x.passing f.m).length = true
        ∧ x.tm.sb.length + 2 * (x.passing f.m).length ≤ 16 ∧ x.tm.sbWait = [] ∧ ∀ t ∈ x.judged f, legal (x.tm.thread t)
    let made (s : State) (x : Iss) (f : Form) (t : State) (kind : ReqKind) (entries : Thread → List (Bool × Nat × Nat)) (slots : Thread → List Nat)
        (P : Thread → Req → Prop) : Prop :=
      s.SameMem t ∧ s.SameRegs t x ∧ ∃ tm, t.team? x.k = some tm ∧ ∀ th ∈ x.passing f.m, let fl := if fs then x.hdr.bf.toNat else x.hdr.af.toNat
        ∃ r ∈ t.reqs, r.kind = kind ∧ s.idNext ≤ r.id ∧ r.threads = [th] ∧ r.flag = some fl ∧ r.team = x.k ∧ r.ctx = s.teamCtx x.tm ∧ r.step = 0
          ∧ P (x.tm.thread th) r ∧ (tm.thread th).flag fl = (x.tm.thread th).flag fl + 1
          ∧ (∀ e ∈ entries (x.tm.thread th), ({ write := e.1, lo := e.2.1, hi := e.2.2, req := r.id } : SbEntry) ∈ tm.sb)
          ∧ ∀ ts ∈ slots (x.tm.thread th), r.id ∈ (tm.tile ts).queue
    let D := cpyD m
    let S := cpyS m
    let len (th : Thread) : Nat := th.uNat b
    let side (x : Iss) (sp v l : Nat) : Prop := sp < 3 ∧ (sp < 2 → v % 4 = 0) ∧ (sp = 0 → v < 2 ^ 52) ∧ (sp = 1 → v + l ≤ x.tm.spadLen)
      ∧ (sp = 2 → l % 4096 = 0 ∧ v + l / 4096 ≤ x.tm.tsl ∧ v < 256)
    let size := memSize m.ty.toNat
    let toRegs := m.xm.getLsbD 0
    let n (th : Thread) : Nat := th.uNat b / 2 ^ 23 + 1
    let o (th : Thread) : Nat := th.uNat b % 2 ^ 23
    let indexed (x : Iss) (th : Thread) : Prop := th.uNat b % 4 = 0 ∧ m.xm.extractLsb' 1 3 = 0 ∧ (th.pair a).toNat % size = 0 ∧ (th.pair a).toNat % 4 = 0 ∧ (th.pair a).toNat < 2 ^ 52
      ∧ o th + 4 * n th ≤ x.tm.spadLen ∧ (toRegs = false → th.uNat d % size = 0 ∧ th.uNat d + n th * size ≤ x.tm.spadLen)
      ∧ (toRegs = true → 4 ≤ size ∧ n th * size / 4 ≤ 8 ∧ d.toNat + n th * size / 4 ≤ 128
        ∧ ∀ j, j < n th * size / 4 → ∀ p ∈ th.pend, p.1 ≠ d.toNat + j)
    let ranges (w : Bool) (th : Thread) : List (Bool × Nat × Nat) :=
      (false, granules (o th) (4 * n th)) :: if toRegs then [] else [(w, granules (th.uNat d) (n th * size))]
    Completes (.cpy m fs d a b)
      (fun s x f => ready s x f fun th => 4 ≤ len th ∧ len th ≤ 2 ^ 24 ∧ len th % 4 = 0 ∧ (m.sat = true → S = 2)
        ∧ side x D (th.loc D d) (len th) ∧ side x S (th.loc S a) (len th)
        ∧ (D = S → (if D = 2 then th.loc D d + len th / 4096 ≤ th.loc S a ∨ th.loc S a + len th / 4096 ≤ th.loc D d
            else th.loc D d + len th ≤ th.loc S a ∨ th.loc S a + len th ≤ th.loc D d)))
      (fun s x f t => made s x f t .copy
        (fun th => (if D = 1 then [(true, granules (th.loc D d) (len th))] else []) ++ if S = 1 then [(false, granules (th.loc S a) (len th))] else [])
        (fun th => (if D = 2 then slotRange (th.loc D d) (len th / 4096) else []) ++ if S = 2 then slotRange (th.loc S a) (len th / 4096) else [])
        (fun th r => r.xm = m.xm.toNat ∧ r.c = m.sat ∧ r.d = th.loc D d ∧ r.a = th.loc S a ∧ r.b = len th))
    ∧ (∀ e, Completes (.cpyt m fs d a b)
      (fun s x f => s.ten (s.teamCtx x.tm) = true ∧ tdV e = true ∧ ready s x f fun th => th.uNat a < 256 ∧ s.tdRead (some (teamCol x.k)) (s.teamCtx x.tm) (th.uNat a) = (s, .ok e)
        ∧ th.uNat d % 256 + th.uNat d / 256 % 16 + 1 ≤ x.tm.tsl
        ∧ cpytCheck (m.xm.getLsbD 0) m.sat (cpytTy m) (th.uNat d) (th.uNat b) (some e) = none)
      (fun s x f t => made s x f t .cpyt (fun _ => []) (fun th => slotRange (th.uNat d % 256) (th.uNat d / 256 % 16 + 1))
        (fun th r => r.xm = m.xm.toNat ∧ r.c = m.sat ∧ r.ty = cpytTy m ∧ r.d = th.uNat d ∧ r.a = th.uNat a ∧ r.entry = e
          ∧ r.quad = (List.range 4).map fun k => th.get (b.toNat + k))))
    ∧ Completes (.gath m fs d a b)
      (fun s x f => (ready s x f fun th => indexed x th) ∧ ∀ t ∈ x.judged f, toRegs = true → d.toNat + n (x.tm.thread t) * size / 4 ≤ x.tm.n t)
      (fun s x f t => made s x f t .gath (ranges true) (fun _ => [])
        (fun th r => r.xm = m.xm.toNat ∧ r.ty = size ∧ r.d = (if toRegs then d.toNat else th.uNat d) ∧ r.a = (th.pair a).toNat ∧ r.b = th.uNat b))
    ∧ Completes (.scat m fs d a b)
      (fun s x f => (ready s x f fun th => indexed x th) ∧ ∀ t ∈ x.judged f, toRegs = true → d.toNat + n (x.tm.thread t) * size / 4 ≤ x.tm.n t)
      (fun s x f t => made s x f t .scat (ranges false) (fun _ => [])
        (fun th r => r.xm = m.xm.toNat ∧ r.ty = size ∧ r.a = (th.pair a).toNat ∧ r.b = th.uNat b
          ∧ (toRegs = true → r.quad = (List.range (n th * size / 4)).map fun j => th.get (d.toNat + j)) ∧ (toRegs = false → r.d = th.uNat d)))
    ∧ (let entry (th : Thread) : Prop := th.uNat a < 256 ∧ (th.pair b).toNat % 64 = 0 ∧ (th.pair b).toNat < 2 ^ 52
      Completes (.tdset m fs a b) (fun s x f => ready s x f entry)
        (fun s x f t => made s x f t .tdset (fun _ => []) (fun _ => []) (fun th r => r.d = th.uNat a ∧ r.a = (th.pair b).toNat))
      ∧ Completes (.tdrd m fs a b) (fun s x f => ready s x f entry)
        (fun s x f t => made s x f t .tdrd (fun _ => []) (fun _ => []) (fun th r => r.xm = m.xm.toNat ∧ r.d = (th.pair b).toNat ∧ r.a = th.uNat a)))

/-- R354 to R357: TTAG joins the queue of its slot; JNEXT and COLL make one request for the bundle, and PLMV one for each passing thread, with their operands
as they stand. COLL and PLMV are stated with nothing to release. -/
def Obligations.DistributorAndLinkWordsMakeRequests : Prop :=
  ∀ (m : Mods) (fs : Bool) (a b : RegNo),
    let fl (x : Iss) : Nat := if fs then x.hdr.bf.toNat else x.hdr.af.toNat
    let room (x : Iss) (f : Form) : Prop := x.plain ∧ x.passing f.m ≠ [] ∧ (∀ t ∈ x.passing f.m, (x.tm.thread t).flag (fl x) < 15) ∧ x.tm.sb.length < 16 ∧ x.tm.sbWait = []
    let whole (s : State) (x : Iss) (f : Form) (t : State) (P : Req → Team → Prop) : Prop :=
      s.SameMem t ∧ s.SameRegs t x ∧ ∃ tm r, t.team? x.k = some tm ∧ r ∈ t.reqs ∧ s.idNext ≤ r.id ∧ r.threads = byLane (x.passing f.m)
        ∧ r.flag = some (fl x) ∧ P r tm ∧ ∀ th ∈ x.passing f.m, (tm.thread th).flag (fl x) = (x.tm.thread th).flag (fl x) + 1
    let each (s : State) (x : Iss) (f : Form) (t : State) (P : Nat → Req → Team → Prop) : Prop :=
      s.SameMem t ∧ s.SameRegs t x ∧ ∃ tm, t.team? x.k = some tm ∧ ∀ th ∈ x.passing f.m, ∃ r ∈ t.reqs, s.idNext ≤ r.id ∧ r.threads = [th] ∧ P th r tm
    Completes (.ttag m a b)
      (fun _ x f => x.b.threads.Nodup ∧ x.tm.sb.length ≤ 16 ∧ ∀ t ∈ x.judged f, (x.tm.thread t).uNat a < 256 ∧ (x.tm.thread t).uNat b < 2
        ∧ (x.tm.thread t).uNat a < x.tm.tsl)
      (fun s x f t => each s x f t fun th r tm => r.kind = .ttag ∧ r.d = (x.tm.thread th).uNat a ∧ r.a = (x.tm.thread th).uNat b ∧ r.flag = none
        ∧ r.id ∈ (tm.tile ((x.tm.thread th).uNat a)).queue)
    ∧ Completes (.jnext m fs a)
      (fun _ x f => room x f ∧ ∀ t, t ∈ x.judged f ∨ t = lowLane (x.passing f.m) → (x.tm.thread t).uNat a % 8 = 0 ∧ (x.tm.thread t).uNat a + 8 ≤ x.tm.spadLen)
      (fun s x f t => whole s x f t fun r tm => r.kind = .jnext ∧ r.d = (x.lead (x.passing f.m)).uNat a
        ∧ ({ write := true, lo := (x.lead (x.passing f.m)).uNat a / 64, hi := ((x.lead (x.passing f.m)).uNat a + 7) / 64, req := r.id } : SbEntry) ∈ tm.sb)
    ∧ Completes (.coll m fs a b)
      (fun s x f => room x f ∧ s.Drained x ∧ ∀ t, t ∈ x.judged f ∨ t = lowLane (x.passing f.m) →
        s.collBad (s.teamCtx x.tm) (m.xm.extractLsb' 0 2).toNat ((x.tm.thread t).uNat b) = false
        ∧ ((x.tm.thread t).pair a).toNat % 4 = 0 ∧ ((x.tm.thread t).pair a).toNat < 2 ^ 52)
      (fun s x f t => whole s x f t fun r _ => r.kind = .coll ∧ r.d = ((x.lead (x.passing f.m)).pair a).toNat ∧ r.b = (x.lead (x.passing f.m)).uNat b
        ∧ r.xm = (m.xm.extractLsb' 0 2).toNat ∧ r.ty = if m.ty = 0 then 7 else m.ty.toNat)
    ∧ (b.toNat % 4 = 0 → Completes (.plmv m fs a b)
      (fun s x f => x.plain ∧ x.tm.sb.length ≤ 16 ∧ s.Drained x ∧ ∀ t ∈ x.judged f, (x.tm.thread t).get (b.toNat + 3) = 0
        ∧ ((x.tm.thread t).pair a).toNat < 2 ^ 52)
      (fun s x f t => each s x f t fun th r tm => r.kind = .plmv ∧ r.d = ((x.tm.thread th).pair a).toNat ∧ r.a = ((x.tm.thread th).pair b).toNat
        ∧ r.b = (x.tm.thread th).uNat (b + 2) ∧ r.flag = some (fl x) ∧ (tm.thread th).flag (fl x) = (x.tm.thread th).flag (fl x) + 1))

/-- R358 to R360: MXACQ returns 1 to a team that holds its engine, and to one that is granted it, and else 0; MXREL begins the release and stops the stream,
with ABT set when it ran; MXGO starts a stopped stream at its address with mx0 loaded and its audit as it stood, or reads the status, with `.clr` clearing the
flags, and returns the status as it stood. -/
def Obligations.MatrixEngineHoldWords : Prop :=
  ∀ (m : Mods) (d a b : RegNo),
    let shows (t : State) (x : Iss) (f : Form) (P : Word → Prop) : Prop := ∀ th ∈ x.passing f.m, d.toNat < x.tm.n th → P (t.reg x.k th d.toNat)
    let regsBut (s t : State) (x : Iss) (f : Form) : Prop := ∀ th r, th ∉ x.passing f.m ∨ r ≠ d.toNat → t.reg x.k th r = s.reg x.k th r
    let status (st : Stream) (v : Word) : Prop := v.toNat < 2 ^ 12 ∧ v.extractLsb' 0 6 = st.flags ∧ v.extractLsb' 6 2 = 0
      ∧ v.getLsbD 8 = st.run ∧ v.getLsbD 9 = st.end_ ∧ v.getLsbD 10 = st.wt ∧ v.getLsbD 11 = st.abt
    Completes (.mxacq m d) (fun _ x _ => x.tm.eng? ≠ none) (fun s x f t => s.RegFrame t x.k (x.passing f.m) d.toNat 1 ∧ shows t x f (· = 1))
    ∧ Completes (.mxacq m d) (fun s x _ => x.tm.engine = none ∧ s.engineRoom x.k x.tm = none)
        (fun s x f t => s.RegFrame t x.k (x.passing f.m) d.toNat 1 ∧ shows t x f (· = 0))
    ∧ (∀ r, Completes (.mxacq m d) (fun s x f => x.passing f.m ≠ [] ∧ x.tm.engine = none ∧ s.engineRoom x.k x.tm = some r)
        (fun s x f t => s.SameMem t ∧ regsBut s t x f ∧ shows t x f (· = 1)
          ∧ ∃ tm, t.team? x.k = some tm ∧ tm.engine = some {} ∧ tm.engBacking = some r ∧ tm.stream = {}))
    ∧ (∀ e, Completes (.mxrel m a) (fun _ x f => x.passing f.m ≠ [] ∧ x.tm.eng? = some e ∧ ∀ t ∈ x.judged f, (x.tm.thread t).uNat a < 2 ^ 6)
        (fun s x f t => s.OnlyTeam t x.k ∧ s.SameRegs t x ∧ ∃ tm, t.team? x.k = some tm
          ∧ tm.engine = some { e with releasing := some ((x.lead (x.passing f.m)).uNat a) } ∧ tm.stream.run = false
          ∧ tm.stream.abt = (x.tm.stream.abt || x.tm.stream.run) ∧ tm.stream.flags = x.tm.stream.flags))
    ∧ Completes (.mxrel m a) (fun _ x f => x.tm.eng? = none ∧ ∀ t ∈ x.judged f, (x.tm.thread t).uNat a < 2 ^ 6) (fun s x _ t => s.RegFrame t x.k [] 0 0)
    ∧ (m.xm.getLsbD 1 = true → Completes (.mxgo m d a b) (fun _ x _ => x.tm.eng? ≠ none)
        (fun s x f t => s.OnlyTeam t x.k ∧ regsBut s t x f ∧ shows t x f (status x.tm.stream)
          ∧ ∃ tm, t.team? x.k = some tm ∧ (x.passing f.m ≠ [] →
            tm.stream = if m.xm.getLsbD 2 then { x.tm.stream with flags := 0 } else x.tm.stream)))
    ∧ (m.xm.getLsbD 1 = false → m.xm.getLsbD 2 = false → ∀ p, Completes (.mxgo m d a b)
        (fun s x f => x.passing f.m ≠ [] ∧ x.tm.eng? ≠ none ∧ (∀ t, t ∈ x.judged f ∨ t = lowLane (x.passing f.m) → ((x.tm.thread t).pair a).toNat = p)
          ∧ p % 4 = 0 ∧ (p = 0 → Card.msa (s.teamCard x.tm) ≠ 0))
        (fun s x f t => s.OnlyTeam t x.k ∧ regsBut s t x f ∧ shows t x f (status x.tm.stream) ∧ ∃ tm, t.team? x.k = some tm
          ∧ (x.tm.stream.run = true → tm.stream = x.tm.stream ∧ tm.mregs = x.tm.mregs)
          ∧ (x.tm.stream.run = false →
            tm.stream = { pos := if p = 0 then Card.msa (s.teamCard x.tm) else p, run := true, rcDefault := m.xm.getLsbD 0, audit := x.tm.stream.audit }
            ∧ sget 0 tm.mregs 0 = (x.lead (x.passing f.m)).get b.toNat ∧ ∀ r, r ≠ 0 → sget 0 tm.mregs r = 0)))

/-! ### Control and system words -/

/-- R234, R267: a taken transfer sends each passing thread to its target at the end of the clause and every other thread of the bundle to Next; CALL
writes Next to its link pair, after a register form has read its target. -/
def Obligations.BranchesAndCalls : Prop :=
  ∀ (m : Mods) (a : RegNo) (disp : BitVec 16),
    let target (x : Iss) (t : Nat) : VAddr := BitVec.ofNat 52 ((x.tm.thread t).pair a).toNat
    let legal (_ : State) (x : Iss) (f : Form) : Prop := ∀ t ∈ x.judged f, ((x.tm.thread t).pair a).toNat < 2 ^ 52 ∧ ((x.tm.thread t).pair a).toNat % 4 = 0
    let any (_ : State) (_ : Iss) (_ : Form) : Prop := True
    let goes (g : Iss → Form → Nat → Option VAddr) (s : State) (x : Iss) (f : Form) (t : State) : Prop :=
      s.RegFrame t x.k [] 0 0 ∧ s.Ended t x fun th => if th ∈ x.passing f.m then g x f th else none
    let links (g : Iss → Nat → VAddr) (s : State) (x : Iss) (f : Form) (t : State) : Prop :=
      s.RegFrame t x.k (x.passing f.m) a.toNat 2 ∧ (s.Ended t x fun th => if th ∈ x.passing f.m then some (g x th) else none)
        ∧ ∀ th ∈ x.passing f.m, a.toNat + 2 ≤ x.tm.n th → (t.th x.k th).pair a = x.after.setWidth 64
    let taken (v : Word) : Prop := if m.xm.getLsbD 0 then v = 0 else v ≠ 0
    Completes (.bra m disp) any (goes fun x _ _ => some (x.relative disp))
    ∧ Completes (.brc m a disp) any (fun s x f t =>
        (taken ((x.lead (x.passing f.m)).get a.toNat) → goes (fun x _ _ => some (x.relative disp)) s x f t)
        ∧ (¬ taken ((x.lead (x.passing f.m)).get a.toNat) → goes (fun _ _ _ => none) s x f t))
    ∧ Completes (.brl m a disp) any (fun s x f t => s.RegFrame t x.k [] 0 0
        ∧ ∀ th ∈ x.b.threads, (th ∈ x.passing f.m ∧ taken ((x.tm.thread th).get a.toNat) → (t.th x.k th).pc = x.relative disp)
          ∧ (th ∉ x.passing f.m ∨ ¬ taken ((x.tm.thread th).get a.toNat) → (t.th x.k th).pc = x.after))
    ∧ Completes (.jmp m a) legal (goes fun x _ t => some (target x t))
    ∧ Completes (.ret m a) legal (goes fun x _ t => some (target x t))
    ∧ Completes (.callDirect m a disp) any (links fun x _ => x.relative disp)
    ∧ Completes (.callRegister m a) legal (links fun x t => target x t)

/-- R237, R267, R272: NOP and YIELD write nothing. The last word of a clause leaves the bundle's threads at Next; an earlier word leaves them, and the bundle
goes on to its next word. R269, R270: while another thread of the team neither exits nor waits in RETS, EXIT ends its threads for good, and RETS makes its
threads wait at the header of their clause with the card's address and mask. -/
def Obligations.NopYieldExitAndRets : Prop :=
  (∀ (m : Mods), ∀ i ∈ [Instr.nop m, Instr.yield m],
    Completes i (fun _ _ _ => True) fun s x _ t => s.RegFrame t x.k [] 0 0
      ∧ (x.last = true → s.Ended t x fun _ => none)
      ∧ (x.last = false → (∀ th, (t.th x.k th).pc = (s.th x.k th).pc)
          ∧ ∃ tm b, t.team? x.k = some tm ∧ tm.bundles[x.idx]? = some b ∧ b.pos = x.b.pos + 1 ∧ b.issued = false ∧ b.threads = x.b.threads
            ∧ (i = .yield m → x.passing m ≠ [] → b.yielded = true)))
  ∧ (∀ (m : Mods) (a b : RegNo),
    let stays (s : State) (x : Iss) (f : Form) : Prop :=
      (∃ t, t < x.tm.threads.length ∧ t ∉ x.passing f.m ∧ (x.tm.thread t).exited = false ∧ (x.tm.thread t).wait.kind ≠ .rets)
        ∧ ∀ g, sfind s.grids x.tm.grid = some g → g.barWait = []
    Completes (.exit m) stays (fun s x f t => s.OnlyTeam t x.k
      ∧ ∀ th, ((t.th x.k th).exited = true ↔ (s.th x.k th).exited = true ∨ th ∈ x.passing f.m) ∧ (t.th x.k th).regs = (s.th x.k th).regs)
    ∧ Completes (.rets m a b)
        (fun s x f => stays s x f ∧ ∀ t ∈ x.judged f, ((x.tm.thread t).pair a).toNat < 2 ^ 52 ∧ ((x.tm.thread t).pair a).toNat % 128 = 0
          ∧ (x.tm.thread t).uNat b < 2 ^ 12)
        (fun s x f t => s.OnlyTeam t x.k
          ∧ (∀ th ∈ x.passing f.m, (t.th x.k th).pc = (s.th x.k th).pc ∧ (t.th x.k th).wait.kind = .rets
              ∧ (t.th x.k th).wait.until_ = ((x.lead (x.passing f.m)).pair a).toNat ∧ (t.th x.k th).wait.token = (x.lead (x.passing f.m)).uNat b)
          ∧ ∀ th r, t.reg x.k th r = s.reg x.k th r))

/-- R92, R271: LAUNCH, with nothing to release, copies the 128 bytes of its card into the intake of its queue and returns 1; it returns 0 and copies
nothing when the queue takes no card. -/
def Obligations.LaunchCopiesACard : Prop :=
  ∀ (m : Mods) (d a b : RegNo),
    let good (s : State) (x : Iss) (f : Form) : Prop := s.Drained x ∧ x.passing f.m ≠ []
      ∧ ∀ t ∈ x.judged f, ((x.tm.thread t).pair a).toNat < 2 ^ 52 ∧ ((x.tm.thread t).pair a).toNat % 128 = 0 ∧ (x.tm.thread t).uNat b < 2 ^ 6
    let card (x : Iss) (f : Form) : Nat := ((x.lead (x.passing f.m)).pair a).toNat
    let q (x : Iss) (f : Form) : Nat := (x.lead (x.passing f.m)).uNat b
    Completes (.launch m d a b) (fun s x f => good s x f ∧ s.launchRefused (s.teamCtx x.tm) (q x f) = true)
      (fun s x f t => s.RegFrame t x.k (x.passing f.m) d.toNat 1 ∧ ∀ th ∈ x.passing f.m, d.toNat < x.tm.n th → t.reg x.k th d.toNat = 0)
    ∧ ∀ (bs : List Byte) (u : State), Completes (.launch m d a b)
        (fun s x f => good s x f ∧ s.launchRefused (s.teamCtx x.tm) (q x f) = false
          ∧ s.colRead (teamCol x.k) (s.teamCtx x.tm) kLoad (s.teamPriv x.tm) (card x f) 128 = (u, .ok bs)
          ∧ u.cardCheck (s.teamCtx x.tm) (bytesWords bs) true false = none ∧ u.team? x.k = some x.tm)
        (fun s x f t => (∀ th ∈ x.passing f.m, d.toNat < x.tm.n th → t.reg x.k th d.toNat = 1)
          ∧ (t.ctx (s.teamCtx x.tm)).intake (q x f)
            = (u.ctx (s.teamCtx x.tm)).intake (q x f) ++ [{ words := bytesWords bs, addr := card x f, launch := true }]
          ∧ ∀ c, t.col c = u.col c)

/-- R273, R276: SLEEP with a count waits until DT has advanced by it, and with a count of zero goes on at once; GBAR, with nothing to release, arrives at
its grid's barrier for each passing thread and waits while a thread of the grid has not arrived. -/
def Obligations.SleepAndGridBarrier : Prop :=
  ∀ (m : Mods) (a : RegNo),
    Completes (.sleep m a) (fun _ x f => x.passing f.m ≠ []) (fun s x f t => s.OnlyTeam t x.k
      ∧ (∀ th r, t.reg x.k th r = s.reg x.k th r)
      ∧ ∀ th ∈ x.passing f.m,
        ((x.lead (x.passing f.m)).uNat a ≠ 0 → (t.th x.k th).wait.kind = .sleep ∧ (t.th x.k th).wait.until_ = s.dt + (x.lead (x.passing f.m)).uNat a)
        ∧ ((x.lead (x.passing f.m)).uNat a = 0 → (t.th x.k th).wait = (s.th x.k th).wait))
    ∧ ∀ g : Grid, Completes (.gbar m)
        (fun s x f => s.Drained x ∧ x.passing f.m ≠ [] ∧ s.isCoop x.tm = true ∧ sfind s.grids x.tm.grid = some g
          ∧ ∃ u, u < x.tm.threads.length ∧ (x.tm.thread u).exited = false ∧ u ∉ x.passing f.m ∧ (x.k, u) ∉ g.barWait)
        (fun s x f t => (∃ g', sfind t.grids x.tm.grid = some g' ∧ g'.barWait = g.barWait ++ (x.passing f.m).map (fun th => (x.k, th)) ∧ g'.barGen = g.barGen)
          ∧ (∀ th ∈ x.passing f.m, (t.th x.k th).wait.kind = .gbar) ∧ (∀ th r, t.reg x.k th r = s.reg x.k th r) ∧ t.mem = s.mem)

/-- R51, R275: RZINIT sets E of a point that is not initialised; arrivals that complete a phase advance it by one modulo 2^16 and clear A, others add to A;
RZARV returns the phase of arrival in d; RZCARV does the same at the member's point; RZTEST returns the phase and whether it has left the token's. R275:
RZWAIT waits while its point is in the phase of the token, and otherwise goes on; RZARW arrives, returns its token, and waits for the phase it arrived in to
end. -/
def Obligations.RendezvousWords : Prop :=
  (∀ (m : Mods) (d a : RegNo) (pt : BitVec 5) (z : RzPoint),
    let at_ (x : Iss) : Prop := x.tm.point pt.toNat = z
    Completes (.rzinit m a pt)
      (fun _ x f => x.passing f.m ≠ [] ∧ at_ x ∧ z.e = 0 ∧ ∀ t ∈ x.judged f, 0 < (x.tm.thread t).uNat a ∧ (x.tm.thread t).uNat a < 2 ^ 16)
      (fun s x f t => s.OnlyTeam t x.k ∧ (∀ th r, t.reg x.k th r = s.reg x.k th r)
        ∧ ∃ tm, t.team? x.k = some tm ∧ tm.point pt.toNat = { z with e := (x.lead (x.passing f.m)).uNat a })
    ∧ Completes (.rzarv m d pt)
        (fun s x f => s.Drained x ∧ x.passing f.m ≠ [] ∧ at_ x ∧ z.p < 2 ^ 16 ∧ z.a + (x.passing f.m).length ≤ z.e)
        (fun s x f t => s.OnlyTeam t x.k
          ∧ (∀ th ∈ x.passing f.m, d.toNat < x.tm.n th → t.reg x.k th d.toNat = BitVec.ofNat 32 z.p)
          ∧ ∃ tm, t.team? x.k = some tm ∧ (tm.point pt.toNat).e = z.e
            ∧ (z.a + (x.passing f.m).length < z.e → (tm.point pt.toNat).a = z.a + (x.passing f.m).length ∧ (tm.point pt.toNat).p = z.p)
            ∧ (z.a + (x.passing f.m).length = z.e → (tm.point pt.toNat).a = 0 ∧ (tm.point pt.toNat).p = (z.p + 1) % 2 ^ 16))
    ∧ Completes (.rzcarv m a pt)
        (fun s x f => s.Drained x ∧ x.passing f.m ≠ [] ∧ at_ x ∧ x.tm.cluster = [] ∧ z.a + (x.passing f.m).length ≤ z.e
          ∧ (x.lead (x.passing f.m)).uNat a = 0 ∧ ∀ t ∈ x.judged f, (x.tm.thread t).uNat a = 0)
        (fun s x f t => s.OnlyTeam t x.k ∧ (∀ th r, t.reg x.k th r = s.reg x.k th r)
          ∧ ∃ tm, t.team? x.k = some tm ∧ (tm.point pt.toNat).e = z.e
            ∧ (z.a + (x.passing f.m).length < z.e → (tm.point pt.toNat).a = z.a + (x.passing f.m).length ∧ (tm.point pt.toNat).p = z.p)
            ∧ (z.a + (x.passing f.m).length = z.e → (tm.point pt.toNat).a = 0 ∧ (tm.point pt.toNat).p = (z.p + 1) % 2 ^ 16))
    ∧ Completes (.rztest m d a pt) (fun _ x _ => at_ x ∧ 0 < z.e)
        (fun s x f t => s.OnlyTeam t x.k
          ∧ ∀ th ∈ x.passing f.m, d.toNat < x.tm.n th → t.reg x.k th d.toNat
            = BitVec.ofNat 32 (2 ^ 16 * z.p + if z.p = ((x.lead (x.passing f.m)).uNat a) % 2 ^ 16 then 0 else 1)))
  ∧ (∀ (m : Mods) (d a : RegNo) (pt : BitVec 5) (z : RzPoint),
    let at_ (x : Iss) : Prop := x.tm.point pt.toNat = z ∧ 0 < z.e
    Completes (.rzwait m a pt) (fun s x f => s.Drained x ∧ x.passing f.m ≠ [] ∧ at_ x)
      (fun s x f t => s.OnlyTeam t x.k ∧ (∀ th r, t.reg x.k th r = s.reg x.k th r)
        ∧ ∀ th ∈ x.passing f.m,
          (z.p = (x.lead (x.passing f.m)).uNat a % 2 ^ 16 →
            (t.th x.k th).wait = { kind := .rendezvous, word := x.off, token := (x.lead (x.passing f.m)).uNat a % 2 ^ 16, point := pt.toNat })
          ∧ (z.p ≠ (x.lead (x.passing f.m)).uNat a % 2 ^ 16 → (t.th x.k th).wait = {}))
    ∧ Completes (.rzarw m d pt)
        (fun s x f => s.Drained x ∧ x.passing f.m ≠ [] ∧ at_ x ∧ z.p < 2 ^ 16 ∧ z.a + (x.passing f.m).length ≤ z.e)
        (fun s x f t => s.OnlyTeam t x.k
          ∧ (∀ th ∈ x.passing f.m, d.toNat < x.tm.n th → t.reg x.k th d.toNat = BitVec.ofNat 32 z.p)
          ∧ ∀ th ∈ x.passing f.m,
            (z.a + (x.passing f.m).length < z.e →
              (t.th x.k th).wait = { kind := .rendezvous, word := x.off, token := z.p, point := pt.toNat })
            ∧ (z.a + (x.passing f.m).length = z.e → (t.th x.k th).wait = {})))

/-- R42, R277, R278: a VGROW that its group's n already meets returns n and goes on; a greater one becomes the group's pending request and waits. VSHRK
lowers the n of the groups of its passing threads at once and returns it. -/
def Obligations.RegisterCountWords : Prop :=
  ∀ (m : Mods) (d : RegNo) (cnt : BitVec 9),
    Completes (.vgrow m d cnt)
      (fun s x f => s.Drained x ∧ ∀ t ∈ x.passing f.m, cnt.toNat ≤ x.tm.n t ∧ (x.tm.groups.getD (t / 32) { n := 0 }).req = none ∧ t / 32 < x.tm.groups.length)
      (fun s x f t => s.RegFrame t x.k (x.passing f.m) d.toNat 1
        ∧ ∀ th ∈ x.passing f.m, d.toNat < x.tm.n th → t.reg x.k th d.toNat = BitVec.ofNat 32 (x.tm.n th))
    ∧ Completes (.vgrow m d cnt)
        (fun s x f => s.Drained x ∧ x.passing f.m ≠ []
          ∧ ∀ t ∈ x.passing f.m, x.tm.n t < cnt.toNat ∧ (x.tm.groups.getD (t / 32) { n := 0 }).req = none ∧ t / 32 < x.tm.groups.length)
        (fun s x f t => s.OnlyTeam t x.k ∧ (∀ th r, t.reg x.k th r = s.reg x.k th r)
          ∧ ∀ th ∈ x.passing f.m, (t.th x.k th).wait.kind = .vgrow
            ∧ ∃ tm, t.team? x.k = some tm ∧ (tm.groups.getD (th / 32) { n := 0 }).req = some cnt.toNat ∧ tm.n th = x.tm.n th)
    ∧ ∀ (s : State) (x : Iss) (f : Form), s.Issues (.vshrk m d cnt) x f → cnt.toNat ≤ 128 →
        (∀ t ∈ x.judged f, ∀ o ∈ f.operands, o.wr = true → o.reg.toNat + o.cnt ≤ cnt.toNat) →
        (∀ t ∈ x.passing f.m, t / 32 < x.tm.groups.length) →
        ∃ t, exec (.vshrk m d cnt) s = .next t ∧ s.OnlyTeam t x.k
          ∧ ∀ th ∈ x.passing f.m, ∃ tm, t.team? x.k = some tm ∧ tm.n th = min (x.tm.n th) cnt.toNat
            ∧ (d.toNat < min (x.tm.n th) cnt.toNat → t.reg x.k th d.toNat = BitVec.ofNat 32 (min (x.tm.n th) cnt.toNat))

/-- R279: SRD reads a special value of each passing thread: among them the status word, DT, the thread number, the team index, n, T, the configuration word,
the horizon, the lease floor and the completion flags; SWR writes the six status bits of R229 and nothing else. R280: CSRRD reads a device register that its
task may read and acquires: the lease floor becomes DT. CSRWR, with nothing to release, writes a register that its task may write; the write of R393 is made
and the team goes on, but for one that starts a change of L2PART, after which its threads wait (R143). -/
def Obligations.SpecialValuesAndDeviceRegisters : Prop :=
  (∀ (m : Mods) (d a : RegNo) (sel : BitVec 9),
    Completes (.srd m d sel) (fun _ _ _ => True) (fun s x f t =>
      s.RegFrame t x.k (x.passing f.m) d.toNat (if srdWide sel.toNat then 2 else 1)
      ∧ ∀ th ∈ x.passing f.m,
        (srdWide sel.toNat = false → d.toNat < x.tm.n th →
          let v := t.reg x.k th d.toNat
          (sel = 0 → v = s.status x.k th) ∧ (sel = 2 → v = BitVec.ofNat 32 th) ∧ (sel = 3 → v = BitVec.ofNat 32 x.tm.index)
          ∧ (sel = 4 → v = BitVec.ofNat 32 (x.tm.n th)) ∧ (sel = 5 → v = BitVec.ofNat 32 x.tm.threads.length) ∧ (sel = 10 → v = s.cfgw))
        ∧ (srdWide sel.toNat = true → d.toNat + 2 ≤ x.tm.n th →
          let v := (t.th x.k th).pair d
          (sel = 1 → v = BitVec.ofNat 64 s.dt) ∧ (sel = 13 → v = BitVec.ofNat 64 (x.tm.thread th).horizon)
          ∧ (sel = 14 → v = BitVec.ofNat 64 (x.tm.thread th).floor) ∧ (sel = 15 → v = (x.tm.thread th).flags.setWidth 64)
          ∧ v = BitVec.ofNat 64 (s.special x.k x.tm th sel.toNat)))
    ∧ Completes (.swr m a sel) (fun _ _ _ => True) (fun s x f t => s.OnlyTeam t x.k ∧ (∀ th r, t.reg x.k th r = s.reg x.k th r)
        ∧ (∀ th ∈ x.passing f.m, t.status x.k th = (x.lead (x.passing f.m)).get a.toNat &&& 0x3F)
        ∧ ∀ th, th ∉ x.passing f.m → t.status x.k th = s.status x.k th))
  ∧ (∀ (m : Mods) (d a : RegNo) (k : BitVec 9),
    let off (x : Iss) (f : Form) : Nat := (x.lead (x.passing f.m)).uNat a + 4 * k.toNat
    let may (w : Bool) (s : State) (x : Iss) (f : Form) : Prop := x.passing f.m ≠ []
      ∧ ∀ t ∈ x.judged f, s.csrAllowed (s.teamCtx x.tm) (s.teamPriv x.tm) w ((x.tm.thread t).uNat a + 4 * k.toNat) = true
    Completes (.csrrd m d a k) (may false) (fun s x f t => s.OnlyTeam t x.k
      ∧ ∀ th ∈ x.passing f.m, (t.th x.k th).floor = s.dt
        ∧ (d.toNat < x.tm.n th → t.reg x.k th d.toNat = s.regRead (ctxFn (s.teamCtx x.tm)) 0 (off x f)))
    ∧ ∀ u : State, Completes (.csrwr m d a k)
        (fun s x f => may true s x f ∧ s.Drained x ∧ (∀ c, blockCtx 0x130000 8 (off x f) = some c →
            ¬(s.rbits (kL2 (ctxKey (ctxFn (s.teamCtx x.tm)) c) 0) 15 15 = 0 ∧ u.rbits (kL2 (ctxKey (ctxFn (s.teamCtx x.tm)) c) 0) 15 15 = 1))
          ∧ u = s.csrWrite (ctxFn (s.teamCtx x.tm)) (off x f) ((x.lead (x.passing f.m)).get d.toNat) ∧ u.team? x.k = some x.tm)
        (fun _ x _ t => u.RegFrame t x.k [] 0 0)
      ∧ ∀ c, Completes (.csrwr m d a k)
        (fun s x f => may true s x f ∧ s.Drained x ∧ blockCtx 0x130000 8 (off x f) = some c
          ∧ s.rbits (kL2 (ctxKey (ctxFn (s.teamCtx x.tm)) c) 0) 15 15 = 0 ∧ u.rbits (kL2 (ctxKey (ctxFn (s.teamCtx x.tm)) c) 0) 15 15 = 1
          ∧ u = s.csrWrite (ctxFn (s.teamCtx x.tm)) (off x f) ((x.lead (x.passing f.m)).get d.toNat) ∧ u.team? x.k = some x.tm)
        (fun s x f t => u.OnlyTeam t x.k ∧ ∀ th ∈ x.passing f.m,
          (t.th x.k th).wait = { kind := .csr, word := x.off, token := ctxKey (ctxFn (s.teamCtx x.tm)) c }))

/-- R281, R432: TRAP carries its code in a fault record of its context and stops its team: with reporting not enabled the record waits in the park, and a
freeze with CODE 0x002E is requested or has taken effect. R282, R283, R415: EVPOST, with nothing to release, copies its record, posts it and returns 1 when
the event queue has room, else 0; FRZ of a copy engine that is not frozen freezes it for the context named and returns 1, and of a master that does not exist
returns 0. -/
def Obligations.TrapEventPostAndFreeze : Prop :=
  (∀ (m : Mods) (a : RegNo),
    Completes (.trap m a) (fun s x f => x.passing f.m ≠ [] ∧ x.tm.frozen = none ∧ s.Parking (s.teamCtx x.tm))
      (fun s x f t => (∃ tm, t.team? x.k = some tm ∧ (tm.freezing = some 0x2E ∨ tm.frozen = some 0x2E))
        ∧ (∀ th r, t.reg x.k th r = s.reg x.k th r) ∧ t.mem = s.mem
        ∧ ∃ r, (t.ctx (s.teamCtx x.tm)).parked = (s.ctx (s.teamCtx x.tm)).parked ++ [r]
          ∧ bits (wd r 0) 15 0 = 0x2E ∧ wd r 2 = BitVec.ofNat 32 x.tm.index ∧ wd r 7 = (x.lead (x.passing f.m)).get a.toNat))
  ∧ (∀ (m : Mods) (d a : RegNo),
    let copied (s u : State) (x : Iss) (f : Form) (bs : List Byte) : Prop := s.Drained x ∧ x.passing f.m ≠ []
      ∧ (∀ t ∈ x.judged f, ((x.tm.thread t).pair a).toNat % 64 = 0) ∧ ((x.lead (x.passing f.m)).pair a).toNat < 2 ^ 52
      ∧ s.colRead (teamCol x.k) (s.teamCtx x.tm) kLoad (s.teamPriv x.tm) ((x.lead (x.passing f.m)).pair a).toNat 64 = (u, .ok bs)
    (∀ (bs : List Byte) (u : State), Completes (.evpost m d a)
      (fun s x f => copied s u x f bs ∧ u.evRoom (ctxFn (s.teamCtx x.tm)) = false ∧ u.team? x.k = some x.tm)
      (fun _ x f t => u.RegFrame t x.k (x.passing f.m) d.toNat 1
        ∧ ∀ th ∈ x.passing f.m, d.toNat < x.tm.n th → t.reg x.k th d.toNat = 0))
    ∧ (∀ (bs : List Byte) (u v : State), Completes (.evpost m d a)
      (fun s x f => copied s u x f bs ∧ u.evRoom (ctxFn (s.teamCtx x.tm)) = true ∧ u.teamCtx x.tm = s.teamCtx x.tm
        ∧ v = u.postEvent (ctxFn (s.teamCtx x.tm)) (eventWords (u.ctxId (s.teamCtx x.tm)) 1 x.tm.index ((bytesWords bs).drop 4))
        ∧ v.team? x.k = some x.tm)
      (fun _ x f t => v.RegFrame t x.k (x.passing f.m) d.toNat 1
        ∧ ∀ th ∈ x.passing f.m, d.toNat < x.tm.n th → t.reg x.k th d.toNat = 1))
    ∧ (∀ ck : Nat, Completes (.frz m d a)
      (fun s x f => x.passing f.m ≠ [] ∧ s.teamPriv x.tm = true
        ∧ (∀ t ∈ x.judged f, (x.tm.thread t).uNat a % 16 = 2 ∧ (x.tm.thread t).uNat a < 2 ^ 27 ∧ (x.tm.thread t).get (a.toNat + 1) = 0)
        ∧ (x.lead (x.passing f.m)).uNat a % 16 = 2 ∧ s.ctxOfId ((x.lead (x.passing f.m)).uNat a / 16 % 2 ^ 12) = some ck
        ∧ s.ctxPart ck = s.ctxPart (s.teamCtx x.tm) ∧ (x.lead (x.passing f.m)).uNat a / 2 ^ 16 % 64 < s.ncol ∧ (s.ctx ck).cmd = none
        ∧ ck ∉ (s.col ((x.lead (x.passing f.m)).uNat a / 2 ^ 16 % 64)).frozenCopy ∧ ∀ fn, s.rbits (kEv fn 0) 0 0 = 0)
      (fun _ x f t => ck ∈ (t.col ((x.lead (x.passing f.m)).uNat a / 2 ^ 16 % 64)).frozenCopy
        ∧ ∀ th ∈ x.passing f.m, d.toNat < x.tm.n th → t.reg x.k th d.toNat = 1))
    ∧ Completes (.frz m d a)
      (fun s x f => x.passing f.m ≠ [] ∧ s.teamPriv x.tm = true
        ∧ (∀ t ∈ x.judged f, (x.tm.thread t).uNat a % 16 ∈ [1, 2, 3, 4] ∧ (x.tm.thread t).uNat a < 2 ^ 27 ∧ (x.tm.thread t).get (a.toNat + 1) = 0)
        ∧ s.frzRequest (s.ctxPart (s.teamCtx x.tm)) ((x.lead (x.passing f.m)).uNat a) = none)
      (fun s x f t => s.RegFrame t x.k (x.passing f.m) d.toNat 1
        ∧ ∀ th ∈ x.passing f.m, d.toNat < x.tm.n th → t.reg x.k th d.toNat = 0))

/-! ### M-words -/

/-- R366: MNOP, MSET, MADD, MLOP and MEND; the next M-word follows, or, of MLOP while its register is not zero, the one at its label. R366, R429: MRZA and
MRZW arrive once at an initialised point; MRZW then waits with WT set while the phase is that of its token. MWTG goes on when its slot holds the tag, or has
held it since, and else waits. MAUD of a valid tensor id writes m12 and selects the next counted tile, which the audit unit watches from then on, or, busy,
once it is free. -/
def Obligations.StreamRegistersAndWaits : Prop :=
  (∀ (mk ms : BitVec 4) (i22 d22 : BitVec 22) (i18 : BitVec 18),
    let any (_ : State) (_ : Nat) (_ : Team) (_ : Engine) : Prop := True
    let sets (tm u : Team) (v : Word) : Prop := u.mreg mk.toNat = v ∧ ∀ r, r ≠ mk.toNat → u.mreg r = tm.mreg r
    let next (s : State) (k : Nat) (tm : Team) (t : State) (u : Team) : Prop := s.OnlyTeam t k ∧ tm.SameButStream u ∧ u.streamAt (tm.stream.pos + 4)
    StreamWord .mnop any (fun s k tm _ t u => next s k tm t u ∧ u.mregs = tm.mregs)
    ∧ StreamWord (.mset mk i22) any (fun s k tm _ t u => next s k tm t u ∧ sets tm u (i22.setWidth 32))
    ∧ StreamWord (.madd mk ms i18) any (fun s k tm _ t u => next s k tm t u ∧ sets tm u (tm.mreg ms.toNat + i18.signExtend 32))
    ∧ StreamWord (.mlop mk d22) any (fun s k tm _ t u => s.OnlyTeam t k ∧ tm.SameButStream u ∧ sets tm u (tm.mreg mk.toNat - 1)
        ∧ (tm.mreg mk.toNat = 1 → u.streamAt (tm.stream.pos + 4))
        ∧ (tm.mreg mk.toNat ≠ 1 → u.streamAt (BitVec.ofNat 52 tm.stream.pos + 4#52 * d22.signExtend 52).toNat))
    ∧ StreamWord .mend any (fun s k tm _ t u => s.OnlyTeam t k ∧ tm.SameButStream u ∧ u.stream.run = false ∧ u.stream.end_ = true
        ∧ u.stream.pos = (tm.stream.pos + 4) % 2 ^ 52))
  ∧ (∀ (z : BitVec 5) (ts td : BitVec 8) (tag : BitVec 2) (xi : Bool) (mx : BitVec 4),
    let good (tm : Team) : Prop := z.toNat ≤ 23 ∧ 0 < (tm.point z.toNat).e
    let arrived (tm u : Team) : Prop := (u.point z.toNat).e = (tm.point z.toNat).e
      ∧ ((tm.point z.toNat).a + 1 = (tm.point z.toNat).e →
          (u.point z.toNat).a = 0 ∧ (u.point z.toNat).p = ((tm.point z.toNat).p + 1) % 2 ^ 16)
      ∧ ((tm.point z.toNat).a + 1 ≠ (tm.point z.toNat).e →
          (u.point z.toNat).a = (tm.point z.toNat).a + 1 ∧ (u.point z.toNat).p = (tm.point z.toNat).p)
      ∧ ∀ y, y ≠ z.toNat → u.point y = tm.point y
    let waits (tm u : Team) : Prop := u.stream.wt = true ∧ u.stream.pos = tm.stream.pos ∧ u.stream.ir = tm.stream.ir
    StreamWord (.mrza z) (fun _ _ tm _ => good tm)
      (fun s k tm _ t u => s.OnlyTeam t k ∧ tm.SameButStream u ∧ arrived tm u ∧ u.streamAt (tm.stream.pos + 4) ∧ u.mregs = tm.mregs)
    ∧ StreamWord (.mrzw z) (fun _ _ tm _ => good tm ∧ tm.stream.token = none ∧ (tm.point z.toNat).p < 2 ^ 16)
      (fun s k tm _ t u => s.OnlyTeam t k ∧ tm.SameButStream u ∧ arrived tm u
        ∧ ((tm.point z.toNat).a + 1 = (tm.point z.toNat).e → u.streamAt (tm.stream.pos + 4))
        ∧ ((tm.point z.toNat).a + 1 ≠ (tm.point z.toNat).e → waits tm u ∧ u.stream.token = some (tm.point z.toNat).p))
    ∧ (∀ tok, StreamWord (.mrzw z) (fun _ _ tm _ => good tm ∧ tm.stream.token = some tok)
      (fun s k tm _ t u => s.OnlyTeam t k ∧ tm.SameButStream u ∧ u.rz = tm.rz
        ∧ ((tm.point z.toNat).p ≠ tok → u.streamAt (tm.stream.pos + 4)) ∧ ((tm.point z.toNat).p = tok → waits tm u)))
    ∧ StreamWord (.mwtg ts tag xi mx) (fun _ _ tm _ => tm.slotOf ts xi mx.toNat < tm.tsl)
      (fun s k tm _ t u => s.OnlyTeam t k ∧ tm.SameButStream u ∧ u.mregs = tm.mregs
        ∧ let now := (tm.tile (tm.slotOf ts xi mx.toNat)).tag = tagOf tag
            ∨ (tm.stream.watch = some (tm.slotOf ts xi mx.toNat, tagOf tag) ∧ tm.stream.seen = true)
          (now → u.streamAt (tm.stream.pos + 4))
          ∧ (¬ now → waits tm u ∧ u.stream.watch = some (tm.slotOf ts xi mx.toNat, tagOf tag)))
    ∧ (∀ ent, StreamWord (.maud td) (fun s k tm _ => s.tdRead (some (teamCol k)) (s.teamCtx tm) td.toNat = (s, .ok ent) ∧ s.ten (s.teamCtx tm) = true ∧ tdV ent = true)
      (fun s k tm _ t u => s.OnlyTeam t k ∧ tm.SameButStream u ∧ u.streamAt (tm.stream.pos + 4) ∧ u.mreg 12 = BitVec.ofNat 32 (0x100 + td.toNat)
        ∧ (∀ r, r ≠ 12 → u.mreg r = tm.mreg r) ∧ u.stream.audit.force = true
        ∧ (u.stream.audit.watch = some (256, []) ∨ (s.auditBusy (teamCol k) = true ∧ 256 ∈ u.stream.audit.waits)))))

/-- R361, R363: MLDA reads a readable slot into one entry of the row buffer: the entry of that slot, else an empty one; MLDB reads one slot, or with `.rc` two,
into the macros of its mask. With `.c` the slots become EMPTY. A slot that is not readable makes the stream wait in its queue. -/
def Obligations.StreamLoads : Prop :=
  ∀ (ts : BitVec 8) (sub : BitVec 4) (cl rc : Bool) (ty : BitVec 4) (xi : Bool) (mx : BitVec 4),
    let sl (tm : Team) : Nat := tm.slotOf ts xi mx.toNat
    let read (tm u : Team) (slot : Nat) : Prop := (u.tile slot).tag = (if cl then .empty else .valid) ∧ (u.tile slot).queue = []
      ∧ (u.tile slot).data = (tm.tile slot).data
    let holds (o : Option Operand) (slot : Nat) : Prop := ∃ x, o = some x ∧ x.slot = slot
    StreamWord (.mlda ts cl ty xi mx) (fun _ _ tm e => tm.stream.place = none ∧ tm.readable (sl tm) ∧ e.rows.length = 4)
      (fun s _ tm e t u => s.SameMem t ∧ u.streamAt (tm.stream.pos + 4) ∧ u.threads = tm.threads ∧ read tm u (sl tm)
        ∧ ∃ e' i x, u.engine = some e' ∧ i < 4 ∧ e'.rows[i]? = some (some x) ∧ x.slot = sl tm ∧ x.ty = ty.toNat ∧ x.data = (tm.tile (sl tm)).data
          ∧ (∀ j : Nat, j ≠ i → e'.rows[j]? = e.rows[j]?) ∧ e'.macros = e.macros ∧ e'.accs = e.accs
          ∧ ((∃ (j : Nat) (o : Option Operand), e.rows[j]? = some o ∧ holds o (sl tm)) → ∃ o, e.rows[i]? = some o ∧ holds o (sl tm))
          ∧ ((∀ (j : Nat) (o : Option Operand), e.rows[j]? = some o → ¬ holds o (sl tm)) → (∃ j : Nat, e.rows[j]? = some none) → e.rows[i]? = some none))
    ∧ StreamWord (.mldb ts sub cl rc ty xi mx)
      (fun _ _ tm e => tm.stream.place = none ∧ e.macros.length = 4 ∧ tm.readable (sl tm)
        ∧ (rc = true → sub = 15 ∧ sl tm % 2 = 0 ∧ ty ≠ 5 ∧ tm.readable (sl tm + 1)))
      (fun s _ tm e t u => s.SameMem t ∧ u.streamAt (tm.stream.pos + 4) ∧ u.threads = tm.threads ∧ read tm u (sl tm) ∧ (rc = true → read tm u (sl tm + 1))
        ∧ ∃ e', u.engine = some e' ∧ e'.rows = e.rows ∧ e'.accs = e.accs ∧ ∀ j, j < 4 →
          let from_ := if rc then sl tm + j % 2 else sl tm
          (sub.getLsbD j = true → e'.macro_ j = some { slot := from_, ty := ty.toNat, data := (tm.tile from_).data, rc })
          ∧ (sub.getLsbD j = false → e'.macro_ j = e.macro_ j))
    ∧ StreamWord (.mlda ts cl ty xi mx)
      (fun s _ tm _ => tm.stream.place = none ∧ sl tm < tm.tsl ∧ ((tm.tile (sl tm)).tag ≠ .valid ∨ ∃ id l, (tm.tile (sl tm)).queue = id :: l ∧ id ≠ s.idNext))
      (fun s _ tm e _ u => u.stream.wt = true ∧ u.stream.pos = tm.stream.pos ∧ u.engine = some e
        ∧ (u.tile (sl tm)).queue = (tm.tile (sl tm)).queue ++ [s.idNext] ∧ (u.tile (sl tm)).tag = (tm.tile (sl tm)).tag)

/-- R217 to R223, R364, R365: MMA accumulates each element of its four blocks in the order of its word, classical or recombined, with the flags raised; integer
sums without saturation are exact modulo 2^32. MZRO empties a range of accumulators, and MADC adds one to another. No other accumulator changes. -/
def Obligations.StreamArithmetic : Prop :=
  ∀ (acc cnt src : BitVec 6) (ts : BitVec 8) (fus ord : BitVec 2) (ty : BitVec 4) (sat xi : Bool),
    let J := acc.toNat
    let T := ty.toNat
    let kind : AccumKind := if T = 6 ∨ T = 7 then .s32 else .f32
    let base (tm : Team) : Nat := tm.slotOf ts xi 15
    let rcOk (e : Engine) : Prop := fus = 1 ∧ T ≠ 7 ∧ e.rcLoaded = true
    let legal (tm : Team) (e : Engine) (ops : List (Operand × Operand)) : Prop := T < 8 ∧ J % 4 = 0 ∧ J + 3 < 64 ∧ (sat = true → kind = .s32)
      ∧ (∀ i, i < 4 → ((e.acc (J + i)).kind = .none ∨ (e.acc (J + i)).kind = kind) ∧ base tm + (fusion fus.toNat i).1 < tm.tsl)
      ∧ e.operands (base tm) fus.toNat T = some ops
    let old (e : Engine) (i idx : Nat) : Nat := (sget 0 (e.acc (J + i)).data idx).toNat
    let writes (tm : Team) (e : Engine) (u : Team) (val : Nat → Nat → Nat × Flags) : Prop :=
      u.streamAt (tm.stream.pos + 4) ∧ u.threads = tm.threads ∧ u.tiles = tm.tiles
        ∧ (∀ i idx, i < 4 → idx < 1024 → (val i idx).2 &&& ~~~ u.stream.flags = 0) ∧ tm.stream.flags &&& ~~~ u.stream.flags = 0
        ∧ ∃ e', u.engine = some e' ∧ e'.rows = e.rows ∧ e'.macros = e.macros ∧ (∀ y, y < J ∨ J + 3 < y → e'.acc y = e.acc y)
          ∧ ∀ i, i < 4 → (e'.acc (J + i)).kind = kind ∧ ∀ idx, idx < 1024 → sget 0 (e'.acc (J + i)).data idx = BitVec.ofNat 32 (val i idx).1
    (∀ ops, StreamWord (.mma acc ts fus ord ty sat xi)
      (fun _ _ tm e => legal tm e ops ∧ ord ≠ 3 ∧ ord ≠ 1 ∧ (ord = 0 → tm.stream.rcDefault = false ∨ ¬ rcOk e))
      (fun s k tm e t u => s.OnlyTeam t k ∧ writes tm e u fun i idx =>
        match ops[i]? with
        | some (A, B) => mmaElem T sat A.bytes B.bytes (old e i idx) (idx / 32) (idx % 32)
        | none => (0, 0)))
    ∧ (∀ ops, StreamWord (.mma acc ts fus ord ty sat xi)
      (fun _ _ tm e => legal tm e ops ∧ rcOk e ∧ (ord = 1 ∨ (ord = 0 ∧ tm.stream.rcDefault = true)))
      (fun s k tm e t u => s.OnlyTeam t k ∧ writes tm e u fun i idx =>
        let a := ([ops[0]?, ops[2]?].filterMap fun o => o.map fun p => p.1.bytes)
        let b := ([ops[0]?, ops[1]?].filterMap fun o => o.map fun p => p.2.bytes)
        rcChunk T sat a b (2 * halfChunk T) i (idx / 32) (idx % 32) (rcChunk T sat a b 0 i (idx / 32) (idx % 32) (old e i idx, 0))))
    ∧ (T = 6 ∨ T = 7 → ∀ (A B : Array Byte) (x r j : Nat), (mmaElem T false A B x r j).1
        = (((x : Int) + ((List.range 128).map fun k => elemI (mmaTypes T).1 A r k * elemI 4 B j k).sum) % 2 ^ 32).toNat)
    ∧ StreamWord (.mzro acc cnt) (fun _ _ _ _ => J + cnt.toNat < 64)
      (fun s k tm e t u => s.OnlyTeam t k ∧ u.streamAt (tm.stream.pos + 4) ∧ u.threads = tm.threads
        ∧ ∃ e', u.engine = some e' ∧ e'.rows = e.rows ∧ e'.macros = e.macros ∧ ∀ y, e'.acc y = if J ≤ y ∧ y ≤ J + cnt.toNat then {} else e.acc y)
    ∧ StreamWord (.madc acc src sat)
      (fun _ _ _ e => (e.acc J).kind = .none ∨ (e.acc src.toNat).kind = .none ∨ (e.acc J).kind = (e.acc src.toNat).kind)
      (fun s k tm e t u => s.OnlyTeam t k ∧ u.streamAt (tm.stream.pos + 4) ∧ u.threads = tm.threads
        ∧ ∃ e', u.engine = some e' ∧ e'.rows = e.rows ∧ e'.macros = e.macros ∧ (∀ y, y ≠ J → e'.acc y = e.acc y)
          ∧ (e'.acc J).kind = (if (e.acc J).kind = .none then (e.acc src.toNat).kind else (e.acc J).kind)
          ∧ ∀ idx, idx < 1024 →
            ((e'.acc J).kind = .s32 → sget 0 (e'.acc J).data idx = BitVec.ofNat 32 (fitted
              ((sget 0 (e.acc J).data idx).toInt + (sget 0 (e.acc src.toNat).data idx).toInt) true 32 sat))
            ∧ ((e'.acc J).kind = .f32 → sget 0 (e'.acc J).data idx = BitVec.ofNat 32 (faddV F32 0 (fdecode F32 (old e 0 idx))
              (fdecode F32 (sget 0 (e.acc src.toNat).data idx).toNat)).1))

/-- R365: MSTC writes its accumulator to an EMPTY slot that no request holds, which becomes VALID: an f32 or s32 store the words themselves, the other types
each element converted, with its flags. An M-word that names a slot at or beyond TSL is taken as a stream fault (R429, R430). -/
def Obligations.StreamStores : Prop :=
  ∀ (acc : BitVec 6) (ts : BitVec 8) (ty : BitVec 4) (sc xi : Bool) (mx : BitVec 4),
    let T := ty.toNat
    let sl (tm : Team) : Nat := tm.slotOf ts xi mx.toNat
    let int (C : Accum) : Bool := C.kind == .s32 || (C.kind == .none && decide (5 ≤ T))
    StreamWord (.mstc acc ts ty sc xi mx)
      (fun s k tm e => T < 7 ∧ mstcOk (e.acc acc.toNat).kind T sc = true ∧ tm.stream.place = none ∧ sl tm < tm.tsl
        ∧ (tm.tile (sl tm)).tag = .empty ∧ (tm.tile (sl tm)).queue = []
        ∧ ((tm.mreg 12).getLsbD 8 = true → ∃ ent, s.mEntry k tm ((tm.mreg 12).toNat % 256) = (s, some ent)))
      (fun s _ tm e t u => u.streamAt (tm.stream.pos + 4) ∧ u.threads = tm.threads ∧ u.engine = some e
        ∧ ((tm.mreg 12).getLsbD 8 = false → s.SameMem t)
        ∧ (u.tile (sl tm)).tag = .valid ∧ (u.tile (sl tm)).queue = [] ∧ (∀ y, y ≠ sl tm → u.tile y = tm.tile y)
        ∧ ∀ idx, idx < 1024 →
          let w := sget 0 (e.acc acc.toNat).data idx
          let v := mstcElem (int (e.acc acc.toNat)) T (if sc then some ((tm.mreg 14).toNat % 256) else none) w.toNat
          v.2.1 &&& ~~~ u.stream.flags = 0
          ∧ (∀ j, j < stWidth T / 8 → sget 0 (u.tile (sl tm)).data (128 * (idx / 32) + stWidth T / 8 * (idx % 32) + j) = BitVec.ofNat 8 (v.1 / 2 ^ (8 * j)))
          ∧ (T = 5 ∨ (T = 0 ∧ (e.acc acc.toNat).kind = .f32 ∧ sc = false) → v.1 = w.toNat))
    ∧ ∀ i ∈ [Instr.mstc acc ts ty sc xi mx, .mlda ts sc ty xi mx, .mwtg ts 0 xi mx],
        StreamWord i (fun s _ tm _ => tm.tsl ≤ sl tm ∧ tm.frozen = none ∧ tm.freezing = none ∧ s.Parking (s.teamCtx tm))
          (fun s _ tm _ t u => u.stream.run = false ∧ u.stream.abt = true ∧ u.stream.pos = tm.stream.pos ∧ u.threads = tm.threads ∧ t.mem = s.mem
            ∧ (u.freezing = some 0x62 ∨ u.frozen = some 0x62)
            ∧ ∃ r, (t.ctx (s.teamCtx tm)).parked = (s.ctx (s.teamCtx tm)).parked ++ [r]
              ∧ bits (wd r 0) 15 0 = 0x62 ∧ bits (wd r 0) 21 16 = 1 ∧ wd r 2 = BitVec.ofNat 32 tm.index)

/-! ### Events of bundles, teams and columns -/

/-- R38, R110, R233, R236, R273: a bundle that stands at a header with a place in its slice's active set latches the words of its clause, and the pending
state of the registers its WAIT names ends; where only some of its threads can start, it parts, and they do (the model's reading of R60, log entry 16); a
group whose threads all wait at one VOTE executes it; a SLEEP that has run out ends. R31, R32: at a formation point whose entries all fit, the bundles that
stand at headers of a slice hold the same threads as before, each of them only threads of one program counter and no lane twice, and none has yielded; no
register and no bundle inside a clause changes. -/
def Obligations.ClausesStartAndBundlesForm : Prop :=
  (∀ (col slot idx group thread : Nat) (tm : Team),
    let k := teamKey col slot
    let goes (tm : Team) : Prop := tm.waitsEnd = true ∧ tm.frozen = none ∧ tm.halted = false
    (∀ (b : Bundle) (hd : Header) (c : Clause) (hb ws : List Byte) (u v : State), Happens (.clauseStart col slot idx)
      (fun s => s.team? k = some tm ∧ tm.bundles[idx]? = some b ∧ tm.starts = true ∧ tm.standing b = b.threads ∧ b.threads ≠ [] ∧ s.dmStops k tm (tm.pcOf b) = false
        ∧ s.hasPlace k tm b = true ∧ s.fetch k tm (tm.pcOf b) 4 = (u, .ok hb) ∧ decodeHeader (nw (leNat hb)) = .ok hd
        ∧ (∀ t ∈ b.threads, ∀ i, i < 12 → hd.wait.getLsbD i = true → (tm.thread t).flag i = 0)
        ∧ u.fetch k tm ((tm.pcOf b + 4) % 2 ^ 52) (4 * hd.len) = (v, .ok ws) ∧ decodeClause (nw (leNat hb)) (bytesWords ws) = .ok c
        ∧ v.team? k = some tm ∧ b.threads.Nodup ∧ ∀ t ∈ b.threads, t < tm.threads.length)
      (fun _ t => v.OnlyTeam t k ∧ (∀ th r, t.reg k th r = v.reg k th r) ∧ ∃ tm', t.team? k = some tm'
        ∧ tm'.bundles[idx]? = some { b with clause := some c, pos := 0, issued := false, active := true, yielded := false }
        ∧ (∀ j, j ≠ idx → tm'.bundles[j]? = tm.bundles[j]?)
        ∧ ∀ th ∈ b.threads, ∀ p, p ∈ (tm'.thread th).pend ↔ p ∈ (tm.thread th).pend ∧ hd.wait.getLsbD p.2 = false))
    ∧ (∀ (b : Bundle) (ts : List Nat) (hd : Header) (c : Clause) (hb ws : List Byte) (u v : State), Happens (.clauseStart col slot idx)
      (fun s => let P := tm.part idx b ts
        s.team? k = some tm ∧ tm.bundles[idx]? = some b ∧ tm.starts = true ∧ s.dmStops k tm (tm.pcOf b) = false ∧ s.hasPlace k tm b = true
        ∧ s.goers k tm b = ts ∧ ts ≠ [] ∧ (∃ t ∈ b.threads, t ∉ ts) ∧ (∀ t ∈ b.threads, (tm.thread t).pc.toNat = tm.pcOf b)
        ∧ (s.setTeam k P).fetch k P (tm.pcOf b) 4 = (u, .ok hb) ∧ decodeHeader (nw (leNat hb)) = .ok hd
        ∧ (∀ t ∈ ts, ∀ i, i < 12 → hd.wait.getLsbD i = true → (tm.thread t).flag i = 0)
        ∧ u.fetch k P ((tm.pcOf b + 4) % 2 ^ 52) (4 * hd.len) = (v, .ok ws) ∧ decodeClause (nw (leNat hb)) (bytesWords ws) = .ok c
        ∧ v.team? k = some P)
      (fun _ t => v.OnlyTeam t k ∧ ∃ tm', t.team? k = some tm'
        ∧ tm'.bundles[idx]? = some { b with threads := ts, clause := some c, pos := 0, issued := false, active := true, yielded := false }
        ∧ tm'.bundles[tm.bundles.length]? = some { b with threads := b.threads.filter fun t => !ts.contains t, active := false }
        ∧ ∀ j, j ≠ idx → j < tm.bundles.length → tm'.bundles[j]? = tm.bundles[j]?))
    ∧ (∀ (m : Mods) (d a : RegNo) (t0 : Nat), Happens (.groupCollectiveConvergence col slot group)
      (fun s => s.team? k = some tm ∧ (tm.layer? ≠ none ∨ tm.place = .parked) ∧ goes tm ∧ t0 / 32 = group ∧ t0 < tm.threads.length ∧ (tm.thread t0).exited = false
        ∧ (∀ t, t / 32 = group → t < tm.threads.length → (tm.thread t).exited = false →
            (tm.thread t).wait = { kind := .collective, word := (tm.thread t0).wait.word } ∧ (tm.thread t).pc = (tm.thread t0).pc
              ∧ tm.wordOf t = some (.vote m d a 1)))
      (fun s t => s.OnlyTeam t k
        ∧ (∀ th r, th / 32 ≠ group ∨ r ≠ d.toNat → t.reg k th r = s.reg k th r)
        ∧ ∀ th, th / 32 = group → th < tm.threads.length → (tm.thread th).exited = false → (t.th k th).wait = {}
          ∧ ((tm.thread th).passes m = true → d.toNat < tm.n th →
              (t.reg k th d.toNat = 1 ↔ ∃ w, w / 32 = group ∧ w < tm.threads.length ∧ (tm.thread w).exited = false ∧ (tm.thread w).passes m = true
                ∧ (tm.thread w).get a.toNat ≠ 0)
              ∧ (t.reg k th d.toNat = 0 ∨ t.reg k th d.toNat = 1))))
    ∧ Happens (.sleepExpiry col slot thread)
      (fun s => s.team? k = some tm ∧ tm.waitsEnd = true ∧ thread < tm.threads.length ∧ (tm.thread thread).wait.kind = .sleep ∧ (tm.thread thread).wait.until_ ≤ s.dt)
      (fun s t => s.OnlyTeam t k ∧ (t.th k thread).wait = {} ∧ (∀ th, th ≠ thread → t.th k th = s.th k th) ∧ ∀ th r, t.reg k th r = s.reg k th r)
    ∧ Happens (.sleepExpiry col slot thread)
      (fun s => s.team? k = some tm ∧ (tm.thread thread).wait.kind = .sleep ∧ s.dt < (tm.thread thread).wait.until_)
      (fun s t => ∀ th, t.th k th = s.th k th))
  ∧ (∀ (col slot layer slice : Nat) (tm : Team),
    let k := teamKey col slot
    let here (b : Bundle) : Prop := b.slice = slice ∧ b.clause = none
    slot < 32 → Happens (.formationPoint col layer slice)
      (fun s => s.team? k = some tm ∧ s.ordered ∧ tm.layer? = some layer ∧ tm.threads.length ≤ 1024
        ∧ (∀ b ∈ tm.bundles, ∀ t ∈ b.threads, t < tm.threads.length ∧ t / 32 % 4 = b.slice ∧ (tm.thread t).pc.toNat = tm.pcOf b)
        ∧ (∀ b ∈ tm.bundles, here b → tm.forms b = false → ∀ t ∈ b.threads, ∀ w ∈ b.threads, t % 32 = w % 32 → t = w)
        ∧ (pcTable ((s.sliceBundles col layer slice).filter fun p => p.2.2.2.clause.isNone)).length ≤ 64)
      (fun _ t => ∃ tm', t.team? k = some tm' ∧ tm'.threads = tm.threads ∧ tm'.rest = tm.rest
        ∧ (∀ b, ¬ here b → (b ∈ tm'.bundles ↔ b ∈ tm.bundles))
        ∧ (∀ th, (∃ b ∈ tm'.bundles, here b ∧ th ∈ b.threads) ↔ ∃ b ∈ tm.bundles, here b ∧ th ∈ b.threads)
        ∧ ∀ b ∈ tm'.bundles, here b → b.yielded = false ∧ (∀ th ∈ b.threads, (tm.thread th).pc.toNat = tm'.pcOf b)
          ∧ ∀ th ∈ b.threads, ∀ w ∈ b.threads, th % 32 = w % 32 → th = w))

/-- R42 to R44: a grantable VGROW request raises n to its size and returns it; a request that can never be met, or has waited too long, returns 0 and n
stays. R47 to R49, R64, R81: the first ready parked team of a column begins its way to the coolest core with room, unless a realignment holds its path, or
without room a victim begins to park; a victim whose bundles have halted begins its way to the store; at the end of its transfer a placed team executes, and
a victim is parked. -/
def Obligations.RegisterRequestsAndParking : Prop :=
  (∀ (col slot layer group m : Nat) (tm : Team) (g : Group),
    let k := teamKey col slot
    let asks (s : State) : Prop := s.team? k = some tm ∧ tm.groups[group]? = some g ∧ g.req = some m ∧ tm.layer? ≠ none
    let answered (v : Word) (n : Nat) (s t : State) : Prop := s.OnlyTeam t k ∧ ∃ tm', t.team? k = some tm'
      ∧ (tm'.groups[group]?).map (fun x => (x.n, x.req)) = some (n, none)
      ∧ (∀ th, th / 32 ≠ group → tm'.thread th = tm.thread th)
      ∧ ∀ th, th / 32 = group → th < tm.threads.length → (tm.thread th).wait.kind = .vgrow → (tm'.thread th).wait = {}
        ∧ ((tm.thread th).wait.point < n → (tm'.thread th).get (tm.thread th).wait.point = v)
    Happens (.vgrowGrant col slot group) (fun s => asks s ∧ s.grantable k group = true) (answered (nw (max g.n m)) (max g.n m))
    ∧ Happens (.vgrowDenialTooLong col slot group)
        (fun s => asks s ∧ s.migrating k = false ∧ s.grantable k group = false ∧ 65536 ≤ g.cycles (s.clock col)) (answered 0 g.n)
    ∧ (slot < 32 → Happens (.vgrowDenialAllWaiting col layer)
        (fun s => asks s ∧ tm.waitsEnd = true ∧ tm.layer? = some layer ∧ s.grantable k group = false
          ∧ (∀ p ∈ s.teamsOf col, p.2.layer? = some layer → p.1 = k) ∧ s.ordered
          ∧ (∀ j, j < tm.groups.length → tm.finishedOrStuck j = true)
          ∧ ∀ j y, tm.groups[j]? = some y → y.req ≠ none → j = group)
        (answered 0 g.n)))
  ∧ (∀ (col slot l : Nat) (tm : Team),
    let k := teamKey col slot
    let first (s : State) : Prop := s.team? k = some tm ∧ tm.place = .parked ∧ s.teamReady tm = true
      ∧ ∀ p ∈ s.teamsOf col, p.1 ≠ k → p.2.place = .parked → s.teamReady p.2 = true → tm.readyAt < p.2.readyAt
    let alone (s t : State) : Prop := (∀ j, j ≠ k → t.team? j = s.team? j) ∧ s.SameMem t ∧ t.csr = s.csr ∧ ∀ th r, t.reg k th r = s.reg k th r
    Happens (.parkedTeamPlace col slot) (fun s => first s ∧ s.chooseCore col k tm = some l ∧ s.mayTransfer col slot (fromStore l) = true)
      (fun s t => alone s t ∧ t.team? k = some { tm with place := .moving 0 l })
    ∧ Happens (.parkedTeamPlace col slot) (fun s => first s ∧ s.chooseCore col k tm = some l ∧ s.mayTransfer col slot (fromStore l) = false)
      (fun s t => t.teams = s.teams ∧ slot ∈ (t.col col).heldX)
    ∧ (∀ v vt, v ≠ k → Happens (.parkedTeamPlace col slot)
        (fun s => first s ∧ s.chooseCore col k tm = none ∧ (∀ p ∈ s.teamsOf col, p.2.parking = false) ∧ s.victim col = some v ∧ s.team? v = some vt)
        (fun s t => s.OnlyTeam t v ∧ t.team? k = some tm ∧ t.team? v = some { vt with parking := true, haltAt := s.cyc }))
    ∧ Happens (.parkingPlacingComplete col slot)
      (fun s => s.team? k = some tm ∧ tm.place = .moving 0 l ∧ tm.freezing = none ∧ s.pathHeld col (fromStore l) true = false)
      (fun s t => (s.markPath col (fromStore l)).OnlyTeam t k ∧ (∀ th r, t.reg k th r = s.reg k th r) ∧ ∃ tm', t.team? k = some tm' ∧ tm'.place = .core l
        ∧ tm'.since = s.dt
        ∧ tm'.placedAt = s.dt ∧ ∀ b ∈ tm'.bundles, b.stamp = s.cyc ∧ b.active = false)
    ∧ Happens (.parkingPlacingComplete col slot)
      (fun s => s.team? k = some tm ∧ tm.place = .core l ∧ tm.parking = true ∧ tm.allAtRest = true ∧ s.migrating k = false
        ∧ s.mayTransfer col slot (toStore l) = true)
      (fun s t => alone s t ∧ ∃ tm', t.team? k = some tm' ∧ tm'.place = .moving l 0 ∧ ∀ b ∈ tm'.bundles, b.active = false)
    ∧ (0 < l → Happens (.parkingPlacingComplete col slot)
      (fun s => s.team? k = some tm ∧ tm.place = .moving l 0 ∧ tm.freezing = none ∧ s.pathHeld col (toStore l) true = false)
      (fun s t => (s.markPath col (toStore l)).OnlyTeam t k ∧ t.team? k = some { tm with place := .parked, parking := false, readyAt := s.dt })))

/-- R65 to R67, R69, R71 to R75, R79: an evaluation, 1000 ticks after the last, reads the sensors; it triggers a directed move that names no address, or
starts a migration of the one team that may leave the first hot layer, unless one is in flight. A directed move is armed, and triggered at its address, done
at once on its own layer, or missed; missed too with no team in its slot (the model's choice, log 24). A migration whose team has halted transfers; one that
does not halt in time, or whose team is ending, is abandoned. A team resumes on its target core with its counters changed, and what reached its source
meanwhile is forwarded and written before it resumes. -/
def Obligations.TheGovernorMigratesTeams : Prop :=
  ∀ (col slot l d : Nat) (tm : Team) (m : Migration),
    let k := teamKey col slot
    let dm (s : State) (hi lo : Nat) : Nat := s.rbits (kCol col 8) hi lo
    let moves (s : State) : Prop := s.team? k = some tm ∧ (s.col col).migration = some m ∧ m.slot = slot
    let ready (s : State) : Prop := col < s.ncol ∧ ∀ a, (s.col col).evalAt = some a → a + 1000 ≤ s.dt
    let read (s : State) : State :=
      ((s.free.1.rset (kCol col 0) s.free.2).modCol col fun x => { x.countHot s.phi with evalAt := some s.dt }).setTmax
    let chosen (s t : State) (dst : Nat) (directed : Bool) : Prop := (t.col col).migration = some { slot, dst, directed }
      ∧ t.team? k = some { tm with halting := true, haltAt := s.cyc, migFrom := some (s.clock col, s.dt), still := false }
    let named (s : State) (slotDm : Nat) : Prop := s.dmPending col = true ∧ (s.col col).migration = none ∧ dm s 20 16 = slotDm
    let fits (s : State) : Prop := s.team? k = some tm ∧ s.ctxId (s.teamCtx tm) = dm s 11 0 ∧ tm.layer? ≠ some (dm s 25 24 + 1) ∧ s.movable tm = true
      ∧ s.coreRoom col (dm s 25 24 + 1) k tm = true
    let released (s : State) : Prop := tm.freezing = none ∧ ∀ g, sfind s.grids tm.grid = some g → g.halted = false
    slot < 32 →
    Happens (.governorEvaluation col) (fun s => ready s ∧ (s.col col).migration = some m)
      (fun s t => t.rget (kCol col 0) = Config.freeWord s.freeCount ∧ t.teams = s.teams ∧ (t.col col).migration = some m ∧ (t.col col).evalAt = some s.dt)
    ∧ (∀ a, Happens (.governorEvaluation col) (fun s => (s.col col).evalAt = some a ∧ s.dt < a + 1000) State.Same)
    ∧ (∀ rest, Happens (.governorEvaluation col)
      (fun s => let u := read s
        ready s ∧ (s.col col).migration = none ∧ s.dmPending col = false ∧ (s.col col).evac = [] ∧ u.hotLayers col = l :: rest
          ∧ u.candidates_ col l true = [(k, tm)] ∧ u.team? k = some tm ∧ ∀ n, ({ u with freeCount := n }).target col l k tm false = some d)
      (fun s t => t.rget (kCol col 0) = Config.freeWord s.freeCount ∧ chosen s t d false))
    ∧ (col < 48 → Happens (.governorEvaluation col) (fun s => ready s ∧ named s slot ∧ dm s 12 12 = 0 ∧ fits (read s))
        (fun s t => chosen s t (dm s 25 24 + 1) true))
    ∧ (∀ w : Word, col < 48 → w.getLsbD 31 = true →
      Happens (.directedMoveArm col w) (fun s => col < s.ncol ∧ s.dmPending col = false)
        (fun s t => (∃ c, t = { s with csr := c }) ∧ dm t 31 29 = 5 ∧ dm t 25 24 = bits w 25 24 ∧ dm t 20 16 = bits w 20 16 ∧ dm t 12 0 = bits w 12 0)
      ∧ Happens (.directedMoveArm col w) (fun s => col < s.ncol ∧ s.dmPending col = true)
        (fun s t => s.Sets t [(key0 0 0x160004, s.rget (key0 0 0x160004) ||| 0x80000000)]))
    ∧ (col < 48 →
      let reached (s : State) : Prop := named s slot ∧ dm s 12 12 = 1 ∧ s.dmReached col = true
      Happens (.directedMoveTrigger col) (fun s => reached s ∧ fits s) (fun s t => chosen s t (dm s 25 24 + 1) true)
      ∧ Happens (.directedMoveTrigger col)
        (fun s => reached s ∧ s.team? k = some tm ∧ s.ctxId (s.teamCtx tm) = dm s 11 0 ∧ tm.layer? = some (dm s 25 24 + 1))
        (fun s t => (∃ c, t = { s with csr := c }) ∧ dm t 31 29 = 2)
      ∧ Happens (.directedMoveTrigger col)
        (fun s => reached s ∧ s.team? k = some tm ∧ s.ctxId (s.teamCtx tm) = dm s 11 0 ∧ tm.layer? ≠ some (dm s 25 24 + 1)
          ∧ s.coreRoom col (dm s 25 24 + 1) k tm = false)
        (fun s t => (∃ c, t = { s with csr := c }) ∧ dm t 31 29 = 3)
      ∧ Happens (.directedMoveTrigger col) (fun s => reached s ∧ s.team? k = none) (fun s t => (∃ c, t = { s with csr := c }) ∧ dm t 31 29 = 3)
      ∧ Happens (.directedMoveTrigger col) (fun s => named s slot ∧ dm s 12 12 = 0) State.Same)
    ∧ Happens (.migrationTransfer col)
      (fun s => moves s ∧ tm.place = .core l ∧ m.dst = d ∧ s.haltedInTime col m tm = true ∧ tm.ending = false ∧ s.coreFits col d k tm = true
        ∧ s.mayTransfer col slot [(l, d)] = true)
      (fun s t => (∃ tm', t.team? k = some tm' ∧ tm'.place = .moving l d
          ∧ tm'.threads = tm.threads.map (fun th => { th with routedPeer := th.peerOut }) ∧ tm'.counters = tm.resided s.dt
          ∧ (∀ b ∈ tm'.bundles, b.active = false) ∧ ∀ a ∈ tm.accesses, (if a.state = .ready then a else { a with routed := true }) ∈ tm'.accesses)
        ∧ (t.col col).migration = some { m with halted := true, flits := tm.flits })
    ∧ Happens (.migrationAbandon col)
      (fun s => moves s ∧ tm.place = .core l ∧ released s ∧ (tm.ending = true
        ∨ (s.haltedInTime col m tm = false ∧ ∃ h, tm.migFrom = some h ∧ 2048 ≤ s.clock col - h.1)))
      (fun _ t => (t.col col).migration = none ∧ t.team? k = some { tm with halting := false, migFrom := none, still := false } ∧ (m.directed = true → col < 48 → dm t 31 29 = 3))
    ∧ (0 < l → 0 < d →
      let arrives (s : State) : Prop := moves s ∧ tm.place = .moving l d ∧ released s ∧ s.pathHeld col [(l, d)] true = false ∧ ∀ g ∈ tm.groups, g.req = none
      Happens (.migrationResume col) (fun s => arrives s ∧ ∀ a ∈ tm.accesses, a.forwarded = false)
        (fun s t => (t.col col).migration = none ∧ (m.directed = true → col < 48 → dm t 31 29 = 2)
          ∧ ∃ tm', t.team? k = some tm' ∧ tm'.place = .core d ∧ tm'.since = s.dt ∧ tm'.halting = false ∧ tm'.threads = tm.threads
            ∧ tm'.counters.migCount = (tm.counters.migCount + 1) % 2 ^ 64
            ∧ tm'.counters.stakeBytes = (tm.counters.stakeBytes + 256 * m.flits) % 2 ^ 64)
      ∧ ∀ a, Happens (.migrationResume col)
        (fun s => arrives s ∧ tm.accesses.filter (fun b => b.forwarded && b.state == .ready) = [a] ∧ (∀ b ∈ tm.accesses, b.id = a.id → b = a)
          ∧ a.t ≤ s.dt ∧ a.poison = false)
        (fun _ t => ∃ tm', t.team? k = some tm' ∧ tm'.place = .core d ∧ tm'.threads = (tm.deliverAll a).threads ∧ a ∉ tm'.accesses))
    ∧ ∀ e, Happens (.returnForward col slot e)
      (fun s => s.team? k = some tm ∧ s.pathHeld col tm.returnPath true = false ∧ ∃ a ∈ tm.accesses, a.id = e ∧ a.state = .ready ∧ a.routed = true)
      (fun s t => (s.demand col tm.returnPath).OnlyTeam t k ∧ ∃ tm', t.team? k = some tm' ∧ tm'.counters.stakeBytes = (tm.counters.stakeBytes + 256) % 2 ^ 64
        ∧ tm'.threads = tm.threads ∧ ∀ a ∈ tm'.accesses, a.id = e → a.routed = false ∧ a.forwarded = true)

/-- R80 to R84, R453 to R455: a lane group falls due 10 ms after its last realignment and 312.5 µs after the last of its direction; it realigns at once where
its direction is idle, or when the transfers there have ended, or 40 µs late; after 2 µs it has locked, or is tried again, and its third failed retry disables
it. Background tests run alone and where no transfer is, are given back to traffic, and report an open bond for a remap, of a signal that is a free value. A
replayed flit is counted, and a signal that has failed on 4 flits within 1 µs takes a spare. -/
def Obligations.LaneGroupsAreKeptAligned : Prop :=
  ∀ (col bd dir grp : Nat) (o : StakeOp), col < 48 → bd < 4 → dir < 2 → grp < 32 →
    let key (s : State) : Nat := s.laneKey col bd dir grp
    let lane (s : State) : LaneGroup := s.lane (key s)
    let mine (o : StakeOp) : Prop := o.col = col ∧ o.boundary = bd ∧ o.direction = dir ∧ o.group = grp
    let fallsDue (s : State) : Prop := col < s.ncol ∧ (lane s).disabled = false ∧ s.mayFallDue col bd dir grp = true
    let due (s : State) : Prop := o ∈ s.stakeOps ∧ mine o ∧ o.test = false ∧ o.running = false ∧ s.dueOp col bd dir = some o ∧ s.runningOp col bd dir = none
      ∧ (lane s).remap = []
    let begun (s t : State) : Prop := { o with running := true, at_ := s.dt } ∈ t.stakeOps ∧ lane t = { lane s with aligned := some s.dt }
    let runs (s : State) : Prop := mine o ∧ s.runningOp col bd dir = some o ∧ o.at_ + 2000 ≤ s.dt
    Happens (.realignmentDue col bd dir grp)
      (fun s => fallsDue s ∧ (lane s).remap = [] ∧ s.transferIn col bd dir = false ∧ ∀ x ∈ s.stakeOps, x.col ≠ col ∨ x.boundary ≠ bd ∨ x.direction ≠ dir)
      (fun s t => t.stakeOps = s.stakeOps ++ [{ col, boundary := bd, direction := dir, group := grp, at_ := s.dt, running := true }]
        ∧ lane t = { lane s with aligned := some s.dt } ∧ sfind t.dueAt (s.laneKey col bd dir 0) = some s.dt)
    ∧ Happens (.realignmentDue col bd dir grp)
      (fun s => fallsDue s ∧ s.transferIn col bd dir = true ∧ ∀ x ∈ s.stakeOps, ¬ mine x)
      (fun s t => t.stakeOps = s.stakeOps ++ [{ col, boundary := bd, direction := dir, group := grp, at_ := s.dt, running := false }]
        ∧ t.laneGroups = s.laneGroups ∧ sfind t.dueAt (s.laneKey col bd dir 0) = some s.dt)
    ∧ Happens (.realignmentDue col bd dir grp) (fun s => s.mayFallDue col bd dir grp = false) State.Same
    ∧ Happens (.realignmentStart col bd dir) (fun s => due s ∧ s.transferIn col bd dir = false) begun
    ∧ Happens (.realignmentForced col bd dir) (fun s => due s ∧ o.at_ + 40000 ≤ s.dt) begun
    ∧ Happens (.realignmentEnd col bd dir true) runs (fun s t => o ∉ t.stakeOps ∧ (lane t).fails = 0 ∧ (lane t).spares = (lane s).spares)
    ∧ Happens (.realignmentEnd col bd dir false) (fun s => runs s ∧ (lane s).fails < 3)
        (fun s t => { o with at_ := s.dt } ∈ t.stakeOps ∧ (lane t).fails = (lane s).fails + 1)
    ∧ Happens (.realignmentEnd col bd dir false) (fun s => runs s ∧ 3 ≤ (lane s).fails) (fun _ t => o ∉ t.stakeOps ∧ (lane t).disabled = true)
    ∧ Happens (.backgroundTestStart col bd dir grp)
        (fun s => col < s.ncol ∧ s.testOp = none ∧ s.mayTest col bd dir grp = true ∧ s.transferIn col bd dir = false ∧ (lane s).disabled = false
          ∧ ∀ x ∈ s.stakeOps, ¬ mine x)
        (fun s t => t = { s with stakeOps := s.stakeOps ++
          [{ col, boundary := bd, direction := dir, group := grp, at_ := s.dt, running := true, test := true }] })
    ∧ Happens .backgroundTestRelinquish (fun s => s.testOp = some o ∧ mine o)
        (fun s t => (∀ x, x ∈ t.stakeOps ↔ x ∈ s.stakeOps ∧ x.test = false)
          ∧ lane t = { lane s with quietAt := s.dt + 10000, tries := (lane s).tries + 1 })
    ∧ (∀ open_, Happens (.backgroundTestComplete open_) (fun s => s.testOp = some o ∧ mine o ∧ 2 * o.at_ + 4096 ≤ s.cyc)
        (fun s t => (∀ x, x ∈ t.stakeOps ↔ x ∈ s.stakeOps ∧ x.test = false)
          ∧ (open_ = false → lane t = { lane s with quietAt := o.at_ + 10000, tries := 0 })
          ∧ (open_ = true → lane t = { lane s with quietAt := o.at_ + 10000, tries := 0, remap := (lane t).remap }
            ∧ (Config.freeWord s.freeCount).toNat ∈ (lane t).remap ∧ ∀ i ∈ (lane s).remap, i ∈ (lane t).remap)))
    ∧ ∀ sig, let recent (s : State) : List (Nat × Nat) := (lane s).failed.filter fun f => decide (s.dt ≤ f.2 + 1000)
      let counts (s t : State) : Prop := t.rget (kErrCnt 4) = s.rget (kErrCnt 4) + 1
      let flit (s : State) : Prop := col < s.ncol ∧ s.rbits (kEr 0x0C) 15 0 = 0 ∧ s.rget (kErrCnt 4) ≠ 0xFFFFFFFF
      Happens (.stakeParityReplay col bd dir grp sig) (fun s => flit s ∧ (lane s).disabled = true)
        (fun s t => counts s t ∧ t.stakeOps = s.stakeOps ∧ t.laneGroups = s.laneGroups)
      ∧ Happens (.stakeParityReplay col bd dir grp sig)
        (fun s => flit s ∧ (lane s).disabled = false ∧ ((recent s).filter fun f => f.1 == sig).length < 3)
        (fun s t => counts s t ∧ t.stakeOps = s.stakeOps ∧ lane t = { lane s with failed := (sig, s.dt) :: recent s })
      ∧ Happens (.stakeParityReplay col bd dir grp sig)
        (fun s => flit s ∧ (lane s).disabled = false ∧ 3 ≤ ((recent s).filter fun f => f.1 == sig).length ∧ (lane s).spares = 2)
        (fun s t => counts s t ∧ (lane t).spares = 1 ∧ (lane t).aligned = some s.dt
          ∧ ({ col, boundary := bd, direction := dir, group := grp, at_ := s.dt, running := true } : StakeOp) ∈ t.stakeOps)

/-- R88, R90 to R94, R413: LOGSZ changes only while EN = 0, to a legal size; a TAIL that breaks R91 is ignored and stops its queue; intake copies the card at
HEAD, and rejects an illegal one with its record; a card whose waits are met becomes a grid with DT as its age, and one with an unmet wait stays. -/
def Obligations.QueuesTakeCards : Prop :=
  ∀ (fn c q : Nat) (v : Word) (bs : List Byte), c < 256 → q < 64 →
    let ck := ctxKey fn c
    let reg (s : State) (o : Nat) : Word := s.rget (kQueue ck q o)
    let slot (s : State) : Nat := s.rbits (kQueue ck q 0) 31 7 * 128 + 2 ^ 32 * s.rbits (kQueue ck q 4) 19 0 + 128 * ((reg s 0x10).toNat % 2 ^ s.logsz ck q)
    let takes (s : State) : Prop := s.intakeHeld ck q = false ∧ (reg s 8).getLsbD 7 = true ∧ (reg s 0x14).getLsbD 0 = false ∧ reg s 0x0C ≠ reg s 0x10
      ∧ ((s.ctx ck).intake q).length < 16 ∧ s.counted ck = false ∧ s.virtRead ck kEngR true (slot s) 128 = (s, .ok bs)
    Happens (.queueControlWrite fn c q v) (fun _ => True)
      (fun s t => ∃ w, s.Sets t [(kQueue ck q 8, w)] ∧ bits w 7 5 = bits v 7 5
        ∧ bits w 4 0 = if s.rbits (kQueue ck q 8) 7 7 = 0 ∧ 4 ≤ bits v 4 0 ∧ bits v 4 0 ≤ 16 then bits v 4 0 else s.logsz ck q)
    ∧ Happens (.doorbell fn c q v) (fun s => (v - reg s 0x10).toNat ≤ 2 ^ s.logsz ck q ∧ (v - reg s 0x0C).toNat ≤ 2 ^ s.logsz ck q)
        (fun s t => s.Sets t [(kQueue ck q 0x0C, v)])
    ∧ Happens (.doorbell fn c q v) (fun s => s.Parking ck ∧ 2 ^ s.logsz ck q < (v - reg s 0x10).toNat)
        (fun s t => reg t 0x0C = reg s 0x0C ∧ reg t 0x14 = 1 ∧ (fn, 50) ∈ t.msix
          ∧ ∃ r, (t.ctx ck).parked = (s.ctx ck).parked ++ [r] ∧ bits (wd r 0) 15 0 = 0x3002 ∧ wd r 7 = v)
    ∧ Happens (.stopClear fn c q) (fun s => q ∉ (s.ctx ck).frozenQueues) (fun s t => s.Sets t [(kQueue ck q 0x14, 0)])
    ∧ Happens (.stopClear fn c q) (fun s => q ∈ (s.ctx ck).frozenQueues) (fun s t => reg t 0x14 = 0 ∧ q ∉ (t.ctx ck).frozenQueues ∧ t.teams = s.teams)
    ∧ Happens (.cardIntake fn c q) (fun s => takes s ∧ s.cardCheck ck (bytesWords bs) false false = none)
        (fun s t => (t.ctx ck).intake q = (s.ctx ck).intake q ++ [{ words := bytesWords bs, addr := slot s, launch := false }]
          ∧ reg t 0x10 = reg s 0x10 + 1 ∧ t.teams = s.teams ∧ t.grids = s.grids ∧ s.SameMem t)
    ∧ (∀ i, Happens (.cardIntake fn c q) (fun s => takes s ∧ s.cardCheck ck (bytesWords bs) false false = some i ∧ s.Parking ck)
        (fun s t => (t.ctx ck).intake q = (s.ctx ck).intake q ∧ reg t 0x10 = reg s 0x10 + 1
          ∧ ∃ r, (t.ctx ck).parked = (s.ctx ck).parked ++ [r] ∧ bits (wd r 0) 15 0 = 0x3001 ∧ wd r 7 = nw i))
    ∧ ∀ (x : CardIn) (rest : List CardIn) (val : Nat → Nat),
      let w : Card := x.words
      let front (s : State) : Prop := s.intakeHeld ck q = false ∧ (s.ctx ck).intake q = x :: rest ∧ x.words ≠ [] ∧ x.held = false ∧ x.stuck = [] ∧ s.counted ck = false
        ∧ ∀ i, i < 4 → w.wv i = true → i ∉ x.met → ∃ d, s.virtRead ck kEngR x.event.isSome (w.waddr i) 8 = (s, .ok d) ∧ leNat d = val i
      Happens (.dependenceCounterRead fn c q)
        (fun s => front s ∧ (∀ i, i < 4 → w.wv i = true → i ∉ x.met → w.wval i ≤ val i) ∧ 0 < w.total ∧ ∀ p ∈ s.grids, s.gridDone p.2 = false)
        (fun s t => (t.ctx ck).intake q = rest ∧ t.gridNext = s.gridNext + 1
          ∧ ∃ g, sfind t.grids s.gridNext = some g ∧ g.ctx = ck ∧ g.card = x.words ∧ g.age = s.dt ∧ g.placed = 0 ∧ g.complete = false)
      ∧ ∀ i, i < 4 → w.wv i = true → i ∉ x.met → val i < w.wval i → Happens (.dependenceCounterRead fn c q) front
        (fun s t => t.grids = s.grids ∧ ∃ y, (t.ctx ck).intake q = y :: rest ∧ y.words = x.words ∧ i ∉ y.met ∧ ∀ j ∈ x.met, j ∈ y.met)

/-- R58, R59, R95, R97, R114: a team of a grid is placed with the launch values in its registers; a cooperative card unplaced for 1 ms raises the guard; a
complete grid's signal reaches its counter as an atomic add; a released team is admitted past the grid barrier in its window. R103, R104: when everything step
3 waits for has ended, the successor takes the slot with the card's launch values and the inherited register blocks of its mask; it starts when its
reservations fit. -/
def Obligations.GridsAndSuccessors : Prop :=
  (∀ (id col : Nat) (g : Grid) (w : Card), g.card = w →
    (∀ b e sl, Happens (.teamPlacement id col)
      (fun s => sfind s.grids id = some g ∧ g.pending = true ∧ s.guarded id g = false ∧ s.fatal = false ∧ s.powered = true ∧ s.hardTrip = none
        ∧ (∀ p ∈ s.grids, p.1 = id ∨ p.2.before g p.1 id = false ∨ s.placeable p.1 p.2 = false)
        ∧ w.coop = false ∧ w.crows = 1 ∧ w.ccols = 1 ∧ w.bsp = false ∧ s.columnTakes w col = some (b, e, sl))
      (fun s t => (t.col col).bound = true
        ∧ (∃ g', sfind t.grids id = some g' ∧ g'.placed = g.placed + 1)
        ∧ ∃ tm, t.team? (teamKey col sl) = some tm ∧ tm.grid = id ∧ tm.index = g.placed ∧ tm.backing = b ∧ tm.extent = e ∧ tm.spad = [] ∧ tm.tiles = []
          ∧ tm.threads.length = w.thr
          ∧ ∀ th, th < w.thr → tm.n th = w.n ∧ (tm.thread th).pc.toNat = w.entry ∧ (tm.thread th).floor = s.dt ∧ (tm.thread th).status = 0
            ∧ (tm.thread th).get 0 = nw th ∧ (tm.thread th).get 1 = nw g.placed
            ∧ (w.persist = false → (tm.thread th).pair 2 = BitVec.ofNat 64 ((w.arg + g.placed * w.rsz) % 2 ^ 52))
            ∧ ∀ r, 4 ≤ r → (tm.thread th).get r = 0))
    ∧ Happens (.cooperativeGuard id)
        (fun s => sfind s.grids id = some g ∧ w.coop = true ∧ g.pending = true ∧ g.age + 1000000 ≤ s.dt ∧ id ∉ s.coopGuard)
        (fun s t => t = { s with coopGuard := id :: s.coopGuard })
    ∧ (let signals (s : State) (tgt : Target) : Prop := sfind s.grids id = some g ∧ g.complete = true ∧ g.signalled = false ∧ g.signalHeld = false
        ∧ s.gridReleased id g = true ∧ s.xlateAgent none g.ctx w.saddr kAtomic true g.priv true = (s, .ok tgt) ∧ s.targetUp tgt = true ∧ s.poisoned tgt = false
      (∀ a, Happens (.gridSignal id) (fun s => signals s (.host a))
        (fun s t => t.outbox = { dev := none, addr := a, data := leBytes w.sinc 8, aop := some (0, 11), dctx := s.rbits (kLk g.ctx 8) 11 0, translated := true } :: s.outbox
          ∧ ∃ g', sfind t.grids id = some g' ∧ g'.signalled = true))
      ∧ ∀ a, Happens (.gridSignal id)
        (fun s => signals s (.hbm a) ∧ s.lineHeld (a / 128) = false ∧ s.lineOf (a / 128) = a / 128 ∧ (s.home (a / 128)).waiting = [])
        (fun s t => (∃ h ∈ (t.home (a / 128)).waiting, h.op = .atomic (a % 128) 8 0 11 w.sinc 0 ∧ h.t = max s.dt (s.home (a / 128)).e + 1)
          ∧ s.SameMem t ∧ ∃ g', sfind t.grids id = some g' ∧ g'.signalled = true))
    ∧ ∀ (k cy : Nat) (tm : Team), Happens (.gbarAdmissionWindow id)
        (fun s => s.team? k = some tm ∧ tm.grid = id ∧ tm.waitsEnd = true ∧ tm.admitting = true ∧ (cy, k) ∈ s.admits ∧ cy ≤ s.cyc)
        (fun s t => (∀ p ∈ t.admits, p ∈ s.admits ∧ (p.2 = k → s.cyc < p.1))
          ∧ ∃ tm', t.team? k = some tm' ∧ tm'.admitting = false ∧ ∀ th, th < tm.threads.length →
            ((tm.thread th).wait.kind = .gbar → tm'.thread th = { tm.thread th with wait := {}, floor := s.dt })
            ∧ ((tm.thread th).wait.kind ≠ .gbar → tm'.thread th = tm.thread th)))
  ∧ (∀ (col slot : Nat) (tm : Team) (g : Grid),
    let k := teamKey col slot
    (∀ h : Handover, tm.handover = some h → let w : Card := h.words
      let drained (s : State) : Prop := s.team? k = some tm ∧ sfind s.grids tm.grid = some g ∧ s.drained k tm = true ∧ g.halted = false ∧ tm.frozen = none
        ∧ tm.freezing = none ∧ tm.halting = false
      let begun (s : State) : Bool := tm.cluster.zipIdx.all fun m => s.memberReady tm h m.1 m.2
      Happens (.handoverDrainComplete col slot) (fun s => drained s ∧ h.step = 3 ∧ 1 < Card.csize w ∧ begun s = false ∧ g.barWait = [])
        (fun s t => s.OnlyTeam t k ∧ t.team? k = some { tm with handover := some { h with step := 6 } })
      ∧ Happens (.handoverDrainComplete col slot)
        (fun s => drained s ∧ 3 ≤ h.step ∧ (Card.csize w ≤ 1 ∨ begun s = true) ∧ s.ordered ∧ ∀ r ∈ s.reqs, r.team = k → r.age = tm.age → r.kind ≠ .ttag)
        (fun s t => ∃ u x, t.team? k = some u ∧ u.successor = true ∧ u.index = tm.index ∧ u.place = .parked ∧ u.bundles = [] ∧ u.threads.length = w.thr
          ∧ sfind t.grids u.grid = some x ∧ x.card = h.words
          ∧ (∀ th, th < w.thr → (u.thread th).pc.toNat = w.entry ∧ (u.thread th).floor = s.dt
            ∧ ∀ r, r < 128 → (h.mask.testBit (r / 16) = true ∧ r < tm.n th → (u.thread th).get r = (tm.thread th).get r)
              ∧ (h.mask.testBit (r / 16) = false → (u.thread th).get r = sget 0 (startRegs w tm.index th) r))
          ∧ u.spad = (if h.mask.testBit 8 then tm.spad else []) ∧ (h.mask.testBit 10 = false → u.engine = none)))
    ∧ ∀ b e, Happens (.successorStart col slot)
        (fun s => s.team? k = some tm ∧ sfind s.grids tm.grid = some g ∧ tm.successor = true ∧ g.halted = false ∧ tm.frozen = none ∧ tm.freezing = none ∧ tm.cluster = []
          ∧ tm.engine = none ∧ s.room col k g.card = some (b, e))
        (fun s t => s.OnlyTeam t k ∧ (∀ th r, t.reg k th r = s.reg k th r) ∧ ∃ u, t.team? k = some u ∧ u.successor = false ∧ u.backing = b ∧ u.extent = e
          ∧ (∀ th, th < tm.threads.length → (u.thread th).floor = s.dt)
          ∧ ∀ l, s.chooseCore (teamCol k) k tm = some l → u.place = .core l))

/-- R116, R117, R121 to R123: HALT and SAVE stop the grids they affect and send their teams a halt request, with BUSY set; the command ends with the teams
parked and CSTATE 1, or, after the header INCOMPLETE under a new SEQ, the releases, the area and the header COMPLETE have been written in turn, CSTATE 2;
RESUME releases in place; a command given while one is in progress sets CMDERR and nothing else. -/
def Obligations.ContextsHaltAndResume : Prop :=
  ∀ (fn c q : Nat), c < 256 → q < 64 →
    let ck := ctxKey fn c
    let free (s : State) : Prop := (s.ctx ck).cmd = none ∧ s.cstate ck = 0
    let hit (all : Bool) (g : Grid) : Prop := g.ctx = ck ∧ g.complete = false ∧ (all = true ∨ g.queue = some q)
    let halting (op : Nat) (all : Bool) (s t : State) : Prop :=
      (∃ cmd, (t.ctx ck).cmd = some cmd ∧ cmd.op = op ∧ cmd.step = 0 ∧ cmd.start = s.dt) ∧ t.rbits (kPre ck 4) 31 31 = 1
        ∧ (∀ id g, sfind s.grids id = some g → hit all g → ∃ g', sfind t.grids id = some g' ∧ g'.halted = true)
        ∧ ∀ k tm g, s.team? k = some tm → sfind s.grids tm.grid = some g → hit all g → tm.place ≠ .parked → ∃ tm', t.team? k = some tm' ∧ tm'.halting = true
    let released (all : Bool) (s t : State) : Prop :=
      (∀ id g, sfind s.grids id = some g → hit all g → ∃ g', sfind t.grids id = some g' ∧ g'.halted = false)
        ∧ ∀ k tm g, s.team? k = some tm → sfind s.grids tm.grid = some g → hit all g → g.halted = true →
          ∃ tm', t.team? k = some tm' ∧ tm'.halted = false ∧ tm'.halting = tm.halting
    let unfrozen (s : State) : Prop := ∀ p ∈ s.teams, s.teamCtx p.2 = ck → p.2.frozen = none ∧ p.2.freezing = none
    let going (s : State) : Prop := ∀ p ∈ s.teams, p.2.allRets = false
    Happens (.haltQueue fn c q) (fun s => free s ∧ s.qhalt ck q = false ∧ s.ordered) (fun s t => halting 1 false s t ∧ t.qhalt ck q = true)
    ∧ Happens (.haltContext fn c) (fun s => free s ∧ s.ordered) (halting 2 true)
    ∧ Happens (.saveContext fn c) (fun s => free s ∧ s.ordered) (halting 3 true)
    ∧ (∀ i ∈ [Instr.haltQueue fn c q, .haltContext fn c, .saveContext fn c, .resumeQueue fn c q, .resumeContext fn c],
        Happens i (fun s => (s.ctx ck).cmd ≠ none) (fun s t => s.Sets t [(kPre ck 4, s.rget (kPre ck 4) ||| 0x40000000)]))
    ∧ Happens (.resumeQueue fn c q) (fun s => free s ∧ s.qhalt ck q = true ∧ s.ordered ∧ going s) (fun s t => released false s t ∧ t.qhalt ck q = false)
    ∧ Happens (.resumeContext fn c) (fun s => (s.ctx ck).cmd = none ∧ s.cstate ck ≠ 2 ∧ s.idle ck = false ∧ unfrozen s ∧ s.ordered ∧ going s)
        (fun s t => released true s t ∧ t.cstate ck = 0 ∧ t.qhalt ck q = false)
    ∧ (∀ cmd, Happens (.haltComplete fn c)
        (fun s => (s.ctx ck).cmd = some cmd ∧ cmd.op = 2 ∧ cmd.step = 0 ∧ (s.ctx ck).spared = false ∧ s.haltedAll (s.affected ck none false) = true
          ∧ (s.ctx ck).freezes = [] ∧ unfrozen s ∧ s.ordered)
        (fun s t => t.cstate ck = 1 ∧ t.rbits (kPre ck 4) 31 31 = 0 ∧ (t.ctx ck).cmd = none
          ∧ ∀ k tm g, s.team? k = some tm → sfind s.grids tm.grid = some g → hit true g → ∃ tm', t.team? k = some tm' ∧ tm'.place = .parked ∧ tm'.halted = true))
    ∧ (∀ cmd u, Happens (.haltComplete fn c)
        (fun s => (s.ctx ck).cmd = some cmd ∧ cmd.step = 1 ∧ cmd.held = false ∧ s.copiesDone ck = true
          ∧ (let w := s.modCtx ck fun x => { x with saveSeq := (x.saveSeq + 1) % 2 ^ 24 }
            w.virtWrite ck (w.saveBase ck + 0) ((w.area ck 1 cmd).take 52) .save = (u, none)))
        (fun s t => (t.ctx ck).cmd = some { cmd with step := 2 } ∧ u.SameMem t ∧ (∃ l, t = { u with ctxs := l })
          ∧ ((u.ctx ck).saveSeq = ((s.ctx ck).saveSeq + 1) % 2 ^ 24 → (t.ctx ck).saveSeq = ((s.ctx ck).saveSeq + 1) % 2 ^ 24)))
    ∧ (∀ cmd, Happens (.haltComplete fn c) (fun s => (s.ctx ck).cmd = some cmd ∧ cmd.step = 2 ∧ s.saveWritten ck = true ∧ s.saveCanRelease ck = true)
        (fun _ t => (t.ctx ck).cmd = some { cmd with step := 4 }))
    ∧ ∀ cmd u,
      let at_ (n : Nat) (s : State) : Prop := (s.ctx ck).cmd = some cmd ∧ cmd.step = n ∧ cmd.held = false
      let writes (bs : List Byte) (s : State) : Prop := s.virtWrite ck (s.saveBase ck + 0) bs .save = (u, none)
      Happens (.saveComplete fn c) (fun s => at_ 4 s ∧ s.saveDrained ck = true ∧ s.copiesDone ck = true ∧ writes (s.area ck 1 cmd) s)
        (fun _ t => (t.ctx ck).cmd = some { cmd with step := 5 } ∧ ∃ l, t = { u with ctxs := l })
      ∧ Happens (.saveComplete fn c) (fun s => at_ 5 s ∧ s.saveWritten ck = true ∧ writes ((s.area ck 2 cmd).take 52) s)
        (fun _ t => (t.ctx ck).cmd = some { cmd with step := 6 } ∧ ∃ l, t = { u with ctxs := l })
      ∧ Happens (.saveComplete fn c)
        (fun s => at_ 6 s ∧ s.saveWritten ck = true ∧ s.reqs = [] ∧ (s.ctx ck).freezes = [] ∧ (s.ctx ck).spared = false
          ∧ s.ordered ∧ ∀ p ∈ s.teams, p.2.freezing = none)
        (fun s t => t.cstate ck = 2 ∧ t.rbits (kPre ck 4) 31 31 = 0 ∧ (t.ctx ck).cmd = none ∧ s.SameMem t
          ∧ (∀ k tm g, s.team? k = some tm → sfind s.grids tm.grid = some g → g.ctx = ck → t.team? k = none)
          ∧ ∀ id g, sfind s.grids id = some g → g.ctx = ck → g.complete = false → sfind t.grids id = none)

/-- R150, R151, R161, R162, R165, R440, R441, R443: a walk fills the column's translation cache, and asks ATS about a HOST page; the control words are
written; an invalidation runs until every cached translation in its range is gone, and what a memory fault held there goes on; what ATS answers is kept in the
cache that asked, and an invalidate request drops it; page requests are answered as R443 says. -/
def Obligations.TranslationsAreControlled : Prop :=
  ∀ (fn c va : Nat) (v : Word), c < 256 →
    let ck := ctxKey fn c
    let reg (s : State) (o : Nat) : Word := s.rget (kXl ck o)
    (∀ col pte base size frame plait w0 w3, Happens (.pageTableWalk col fn c va)
      (fun s => (reg s 0).getLsbD 0 = true ∧ s.winOf ck va = none ∧ (s.col col).lookup ck va = none ∧ s.walk ck va = .leaf pte base size frame plait w0 w3
        ∧ pCls plait ≠ 1)
      (fun s t => (t.col col).tlb = (({ ctx := ck, base, size, frame, plait, perm := w0 } : Xlat) :: (s.col col).tlb).take 2048 ∧ s.SameMem t
        ∧ t.csr = s.csr ∧ t.teams = s.teams))
    ∧ (∀ col pte base size frame plait w0 w3, Happens (.pageTableWalk col fn c va)
      (fun s => (reg s 0).getLsbD 0 = true ∧ s.winOf ck va = none ∧ (s.col col).lookup ck va = none ∧ s.walk ck va = .leaf pte base size frame plait w0 w3
        ∧ pCls plait = 1 ∧ (col, ck, va / 4096) ∉ s.atsAsked)
      (fun s t => t.atsAsked = (col, ck, va / 4096) :: s.atsAsked ∧ s.SameMem t ∧ t.csr = s.csr ∧ t.teams = s.teams
        ∧ t.outbox = { dev := none, addr := va / 4096 * 4096, data := [], kind := .atsRequest (bits (reg s 8) 19 0) } :: s.outbox))
    ∧ Happens (.translationControlWrite fn c 0x14 v) (fun _ => True) (fun s t => (t.ctx ck).ivaHi = bits v 19 0 ∧ t.csr = s.csr ∧ s.SameMem t)
    ∧ (v.getLsbD 0 = true → Happens (.translationControlWrite fn c 0 v) (fun _ => True)
        (fun s t => ∃ w, s.Sets t [(kXl ck 0, w)] ∧ bits w 31 17 = bits v 31 17 ∧ bits w 0 0 = 1))
    ∧ (v.getLsbD 0 = false → Happens (.translationControlWrite fn c 0 v) (fun _ => True)
        (fun _ t => (reg t 0).getLsbD 0 = false ∧ ∀ col, ∀ e ∈ (t.col col).sideLog, e.ctx ≠ ck))
    ∧ (∀ o ∈ [4, 8], Happens (.translationControlWrite fn c o v) (fun _ => True)
        (fun s t => ∃ w, s.Sets t [(kXl ck o, w)] ∧ bits w 19 0 = bits v 19 0))
    ∧ Happens (.translationControlWrite fn c 0x0C v) (fun _ => True) (fun s t => s.Sets t [(kXl ck 0x0C, v)])
    ∧ (v.getLsbD 0 = true → Happens (.invalidation fn c v) (fun s => (reg s 0x10).getLsbD 1 = false)
        (fun s t => reg t 0x10 = 2 ∧ (t.ctx ck).inval = some (bits v 31 16 * 2 ^ 16 + 2 ^ 32 * (s.ctx ck).ivaHi, bits v 3 2)))
    ∧ Happens (.invalidation fn c v) (fun s => (reg s 0x10).getLsbD 1 = true) State.Same
    ∧ (∀ a isz, let lo := (invRange a isz).1
      let size := (invRange a isz).2
      Happens (.invalidationComplete fn c) (fun s => (s.ctx ck).inval = some (a, isz))
        (fun _ t => (t.ctx ck).inval = none ∧ (reg t 0x10).getLsbD 1 = false
          ∧ ∀ p ∈ t.cols, ∀ x ∈ p.2.tlb, x.ctx = ck → x.base + x.size ≤ lo ∨ lo + size ≤ x.base)
      ∧ ∀ k tm y, Happens (.invalidationComplete fn c)
        (fun s => (s.ctx ck).inval = some (a, isz) ∧ s.ordered ∧ s.team? k = some tm ∧ s.teamCtx tm = ck ∧ tm.frozen = none ∧ tm.handover = none
          ∧ y ∈ tm.accesses ∧ y.state = .held ∧ lo ≤ y.va ∧ y.va < lo + size ∧ ∀ p ∈ s.cols, p.2.sideLog = [] ∧ p.2.lines = [])
        (fun _ t => ∃ tm', t.team? k = some tm' ∧ { y with state := .sent } ∈ tm'.accesses))
    ∧ (∀ col n addr pte base size frame plait w0 w3, col < 64 → 12 ≤ n → n ≤ 30 →
      let asked (s : State) : Prop := (col, ck, va / 4096) ∈ s.atsAsked ∧ (reg s 0).getLsbD 0 = true ∧ s.walk ck va = .leaf pte base size frame plait w0 w3
        ∧ pCls plait = 1
      let lo := va / 2 ^ n * 2 ^ n
      let from_ := max lo base
      let to_ := min (lo + 2 ^ n) (base + size)
      (∀ rd wr, Happens (.atsTranslationCompletion fn c va ⟨0, n, addr, col⟩ rd wr) asked
        (fun s t => t.atsAsked = s.atsAsked.erase (col, ck, va / 4096) ∧ s.SameMem t ∧ t.teams = s.teams
          ∧ (t.col col).tlb = (({ ctx := ck, base := from_, size := to_ - from_, frame, plait, perm := w0, ats := some { rd, wr, addr := addr + (from_ - lo) } } : Xlat)
              :: (s.col col).tlb.filter fun x => x.ctx != ck || !meetsRange from_ (to_ - from_) x.base x.size).take 2048))
      ∧ ∀ status rd wr, status = 1 ∨ status = 2 → Happens (.atsTranslationCompletion fn c va ⟨status, n, addr, col⟩ rd wr) asked
        (fun s t => t.atsAsked = s.atsAsked.erase (col, ck, va / 4096) ∧ s.SameMem t
          ∧ ∃ x, (t.col col).tlb.head? = some x ∧ x.ctx = ck ∧ x.base ≤ va ∧ va < x.base + x.size
            ∧ x.ats = some { rd := false, wr := false, addr := 0, fail := status + 2 }))
    ∧ (∀ q, Happens (.pageRequestGroupResponse fn c va 0)
        (fun s => s.pageReqs.find? (fun p => p.fn == fn && p.pasid == bits (reg s 8) 19 0 && p.va == va / 4096 * 4096 && p.sent) = some q ∧ q.ctxs = [ck]
          ∧ (∀ p ∈ s.pageReqs, p.fn = fn → p.sent = true) ∧ s.Parking ck ∧ (∀ p ∈ s.teams, p.2.handover = none)
          ∧ (s.heldEvents.filter fun p => p.1 = fn).length < 64)
        (fun s t => t.pageReqs = s.pageReqs.erase q
          ∧ t.heldEvents = s.heldEvents ++ [(fn, eventWords (s.ctxId ck) 4 0xFFFFFFFF
              [nw (va / 2 ^ 16 * 2 ^ 16), nw (va / 2 ^ 16 * 2 ^ 16 / 2 ^ 32), 0])]))
    ∧ ∀ n, let lo := va / 2 ^ n * 2 ^ n
      let drops (s : State) (x : Xlat) : Prop := x.ats ≠ none ∧ ctxFn x.ctx = fn ∧ s.rbits (kXl x.ctx 8) 19 0 = s.rbits (kXl ck 8) 19 0
        ∧ x.base < lo + 2 ^ n ∧ lo < x.base + x.size
      Happens (.atsInvalidateRequest fn c va n) (fun _ => True)
        (fun s t => (∃ l cs m, t = { s with cols := cs, engTlb := l, outbox := m :: s.outbox } ∧ m.kind = .atsInvalidated)
          ∧ (∀ col x, x ∈ (t.col col).tlb ↔ x ∈ (s.col col).tlb ∧ ¬ drops s x)
          ∧ ∀ p, p ∈ t.engTlb ↔ p ∈ s.engTlb ∧ ¬ drops s p.2)

/-- R133, R142 to R144, R146 to R148, R444: a legal column template is taken; a window change is accepted or sets WERR, and its completion makes the new
window live and zero; scrubs count, rows swap to spares, and the mode-register block runs one operation at a time. -/
def Obligations.WindowsAndMemoryBlocks : Prop :=
  ∀ (fn c part : Nat) (v : Word), c < 256 →
    let ck := ctxKey fn c
    let sum := bits v 7 0 + bits v 15 8 + bits v 23 16
    let w0 (s : State) : Word := s.rget (kL2 ck 0)
    (part < 8 → sum ≤ 120 → Happens (.csplanWrite part v) (fun _ => True)
      (fun s t => ∃ w, s.Sets t [(kCsplan part, w)] ∧ bits w 23 0 = bits v 23 0))
    ∧ (120 < sum → Happens (.csplanWrite part v) (fun _ => True) State.Same)
    ∧ Happens (.l2partWinHiStage fn c v) (fun _ => True) (fun s t => s.Sets t [(kL2 ck 4, nw (bits v 19 0))])
    ∧ (let base (s : State) : Nat := bits v 31 24 * 2 ^ 24 + 2 ^ 32 * s.rbits (kL2 ck 4) 19 0
      bits v 13 13 = 1 → bits v 10 8 ≠ 0 → Happens (.l2partChange fn c true v)
        (fun s => (w0 s).getLsbD 15 = false ∧ bits v 3 0 < s.nslc / 8 ∧ s.rangeMapped ck (base s) = false ∧ bits (w0 s) 10 8 ≠ bits v 10 8)
        (fun s t => (t.ctx ck).winHi = s.rbits (kL2 ck 4) 19 0 ∧ bits (w0 t) 15 15 = 1 ∧ bits (w0 t) 13 13 = 1 ∧ bits (w0 t) 10 8 = bits v 10 8
          ∧ bits (w0 t) 3 0 = bits v 3 0 ∧ bits (w0 t) 31 24 = bits v 31 24
          ∧ (t.ctx ck).l2Old = (bits (w0 s) 3 0, if bits (w0 s) 13 13 = 1 then bits (w0 s) 10 8 else 0)))
    ∧ Happens (.l2partChange fn c true v) (fun s => (w0 s).getLsbD 15 = true ∨ s.nslc / 8 ≤ bits v 3 0)
        (fun s t => s.Sets t [(kL2 ck 0, w0 s ||| 0x4000)])
    ∧ (∀ b n, Happens (.l2partChangeComplete fn c) (fun s => (w0 s).getLsbD 15 = true ∧ s.l2Window ck = some (b, n) ∧ s.Parking ck
          ∧ ∀ p ∈ s.dir, p.2.waiting = [])
        (fun s t => (w0 t).getLsbD 15 = false ∧ ({ ctx := ck, base := b, size := n, live := true } : Win) ∈ t.wins ∧ t.mem = s.mem
          ∧ (∀ o, o < 2 ^ 24 → t.win.get (winKey ck o) = 0) ∧ ∀ w ∈ t.wins, w.ctx = ck → w.live = true → w.base = b ∧ w.size = n))
    ∧ Happens (.l2partChangeComplete fn c) (fun s => (w0 s).getLsbD 15 = true
          ∧ ∃ p ∈ s.dir, winAt (winKey ck 0) ≤ 128 * p.1 ∧ 128 * p.1 < winAt (winKey ck (2 ^ 24)) ∧ p.2.waiting ≠ []) State.Same
    ∧ ∀ (st ch bk row : Nat), let b := bankKey st ch bk
      let mra (s : State) (o : Nat) : Word := s.rget (kMra st o)
      Happens (.hbmScrub st ch bk true)
        (fun s => s.stk.testBit st = true ∧ s.rbits (kEr 0x0C) 15 0 = 0 ∧ s.rget (kErrCnt 3) ≠ 0xFFFFFFFF)
        (fun s t => sget 0 t.bankCE b = min 0xFFFF (sget 0 s.bankCE b + 1) ∧ t.rget (kErrCnt 3) = s.rget (kErrCnt 3) + 1 ∧ s.SameMem t)
      ∧ Happens (.hbmScrub st ch bk false) (fun _ => True) State.Same
      ∧ (∀ acts, 0 < acts →
        let key := b * 49152 + row % 49152
        let count (s : State) : Nat := sget 0 s.rowActs key + acts
        let full (s : State) : Prop := s.stk.testBit st = true ∧ bits (mra s 0x10) 15 0 ≤ count s ∧ (s.rowActs.map Prod.fst).Pairwise (· < ·)
        Happens (.hbmRowSwap st ch bk ⟨row, acts⟩) (fun s => s.stk.testBit st = true ∧ count s < bits (mra s 0x10) 15 0)
          (fun s t => (∃ l, t = { s with rowActs := l }) ∧ sget 0 t.rowActs key = count s)
        ∧ Happens (.hbmRowSwap st ch bk ⟨row, acts⟩) (fun s => full s ∧ s.bankSwaps b < 32)
          (fun s t => t.rowSwaps = (key, s.bankSwaps b) :: s.rowSwaps ∧ sget 0 t.rowActs key = 0)
        ∧ Happens (.hbmRowSwap st ch bk ⟨row, acts⟩) (fun s => full s ∧ 32 ≤ s.bankSwaps b ∧ b ∉ s.exhausted)
          (fun s t => t.rowSwaps = s.rowSwaps ∧ b ∈ t.exhausted ∧ sget 0 t.rowActs key = 0))
      ∧ Happens (.hbmRefreshWindow st) (fun s => s.dt < sget 0 s.refreshAt st + 32000000) State.Same
      ∧ Happens (.hbmRefreshWindow st) (fun s => sget 0 s.refreshAt st + 32000000 ≤ s.dt)
          (fun s t => (∃ l m, t = { s with refreshAt := l, rowActs := m }) ∧ ∀ a, a ∈ t.rowActs ↔ a ∈ s.rowActs ∧ a.1 / 49152 / 1024 ≠ st)
      ∧ (st < 8 → ∀ p ∈ [(Instr.mraReadBankCounts st v, 1), (.mraReadModeRegister st v, 2), (.mraClearBankCounts st v, 3)],
          Happens p.1 (fun s => s.stk.testBit st = true ∧ (mra s 4).getLsbD 31 = false)
            (fun s t => (mra t 4).getLsbD 31 = true ∧ t.mraOps = (st, nw (p.2 * 2 ^ 30 + bits v 29 0)) :: s.mraOps)
          ∧ Happens p.1 (fun s => (mra s 4).getLsbD 31 = true) (fun s t => s.Sets t [(kMra st 4, mra s 4 ||| 0x40000000)]))
      ∧ ∀ op, st < 8 → bits v 23 19 = ch → bits v 18 14 = bk → ch < 32 → bk < 32 → Happens (.mraOperationComplete st)
          (fun s => s.mraOps.find? (fun o => o.1 == st) = some (st, v) ∧ bits v 31 30 = op)
          (fun s t => (mra t 4).getLsbD 31 = false ∧ (∀ o ∈ t.mraOps, o.1 ≠ st)
            ∧ (op = 1 → mra t 8 = nw (sget 0 s.bankCE b * 2 ^ 16 + sget 0 s.bankUE b * 2 ^ 8 + s.bankSwaps b) ∧ t.bankCE = s.bankCE)
            ∧ (op = 2 → (mra t 0x0C).toNat < 256 ∧ t.bankCE = s.bankCE)
            ∧ (op = 3 → sget 0 t.bankCE b = 0 ∧ sget 0 t.bankUE b = 0))

/-- R81, R99, R139, R193, R195, R344, R347 to R356, R359, R428: an engine request takes ownership of its free lines; a copy's stream begins when no
realignment holds its path; it moves its bytes where the word says. What it writes at homes goes there line by line, one write a line, with which its
ownership ends, and waits there for its completion time; the request ends when all of it has been applied: it leaves the engine, its flag falls in each
issuing thread and its scoreboard entries go. A tile slot is HELD and then VALID; a bad record or a collective whose members disagree freezes the team; the
engine's release ends with a baton, which expires. -/
def Obligations.EngineRequestsComplete : Prop :=
  ∀ (r : Req) (tm : Team) (u : State) (bs : List PByte),
    let runs (kind : ReqKind) (s : State) : Prop := s.req? r.id = some r ∧ r.kind = kind ∧ r.stopped = false ∧ r.discard = false
      ∧ r.ctx ∉ (s.col r.col).frozenCopy ∧ s.team? r.team = some tm ∧ tm.age = r.age ∧ (∃ t, t < tm.threads.length ∧ t ∉ r.threads ∧ (tm.thread t).exited = false)
      ∧ r.threads.Nodup ∧ (∀ t ∈ r.threads, t < tm.threads.length) ∧ tm.spad.wf = true ∧ s.mem.wf = true
    let done (t : State) (u : Team) : Prop := t.req? r.id = none ∧ t.team? r.team = some u ∧ (∀ e ∈ u.sb, e.req ≠ r.id)
      ∧ ∀ th ∈ r.threads, ∀ f, r.flag = some f → f < 12 → (u.thread th).flag f = (tm.thread th).flag f - 1
    let clear (s : State) : Prop := s.team? r.team = some tm ∧ ∃ b, s.req? r.id = some { r with begun := b }
    let flows (s w : State) : Prop := (r.begun = true ∧ s.pathHeld r.col r.path true = false ∧ w = s)
      ∨ (r.begun = false ∧ s.mayTransfer r.col (32 + r.id) r.path = true
        ∧ w = (s.startTransfer r.col (32 + r.id) r.path).modReq r.id fun q => { q with begun := true })
    let owns (s : State) (W : WSet) : Prop := r.step = 1 ∧ r.buf = [] ∧ (r.owned.map Prod.fst).Nodup ∧ (r.owned.map Prod.snd).Nodup
      ∧ (∀ b ∈ W, ∃ l ∈ r.owned, l.1 = b.1 / 128) ∧ ∀ l ∈ r.owned, (s.home l.2).owner = some r.id ∧ (s.home l.2).waiting = [] ∧ (s.home l.2).move = .unmoved
    let lands (s t : State) (W : WSet) : Prop := s.SameMem t ∧ (∃ q, t.req? r.id = some q ∧ q.step = 2)
      ∧ ∀ l ∈ r.owned, let mine := W.filter fun b => b.1 / 128 == l.1
        mine ≠ [] → ∃ h ∈ (t.home l.2).waiting, h.req = some r.id ∧ h.last = true ∧ h.op = .write (mine.map fun b => (b.1 % 128, b.2.1))
          ∧ h.poison = mine.any fun b => b.2.2.isSome
    (∀ k lines, k ∈ [ReqKind.copy, .scat, .tdset, .tdrd, .coll] → Happens (.engineOwnershipRequest r.id)
      (fun s => runs k s ∧ r.step = 0 ∧ s.listReady r = true ∧ s.ownLines r (r.destAddrs s (some tm)) = (u, .ok lines) ∧ clear u ∧ (∀ q ∈ u.reqs, r.id ≤ q.id)
        ∧ (∀ l ∈ lines, (u.home l.2).owner = none ∧ (u.home l.2).waiting = [] ∧ (u.home l.2).move ≠ .moving
          ∧ ∀ c, (u.cline c l.2).dirty = []) ∧ (∀ p ∈ u.cols, ∀ l ∈ lines, (sget {} p.2.lines l.2).dirty = [])
        ∧ ((u.col r.col).lines.map Prod.fst).Pairwise (· < ·))
      (fun _ t => u.SameMem t ∧ (∀ l ∈ lines, (t.home l.2).owner = some r.id)
        ∧ ∃ q, t.req? r.id = some q ∧ q.owned = lines ∧ q.step = 1))
    ∧ (∀ w, r.xm % 4 = 1 → r.xm / 4 % 4 < 2 → r.done = 0 → r.step < 2 → Happens (.copyComplete r.id)
      (fun s => runs .copy s ∧ tm.cpyReady r = true ∧ flows s w ∧ w.cpySource r tm 0 r.b = (u, bs, none) ∧ clear u ∧ bs.length = r.b)
      (fun _ t => ∃ tm', done t tm' ∧ (∀ j, j < r.b → tm'.spad.get (r.d + j) = (bs.getD j (0, false)).1)
        ∧ (∀ o, o < r.d ∨ r.d + r.b ≤ o → tm'.spad.get o = tm.spad.get o)))
    ∧ (∀ w, r.xm % 4 = 0 → r.xm / 4 % 4 < 2 → r.done = 0 → let W := WSet.put [] r.d (marked r.a bs)
      Happens (.copyComplete r.id)
        (fun s => runs .copy s ∧ tm.cpyReady r = true ∧ flows s w ∧ w.cpySource r tm 0 r.b = (u, bs, none) ∧ clear u ∧ bs.length = r.b ∧ owns u W)
        (fun _ t => lands u t W))
    ∧ (∀ w, r.xm % 4 = 2 → r.xm / 4 % 4 < 2 → r.b = 4096 → r.lines = [] → r.step < 2 →
      Happens (.copyComplete r.id) (fun s => runs .copy s ∧ tm.cpyReady r = true ∧ flows s w ∧ tm.frontAt r.id (r.d % 256) .empty = true)
        (fun _ t => ∃ tm', t.team? r.team = some tm' ∧ (tm'.tile (r.d % 256)).tag = .held ∧ ∃ b, t.req? r.id = some { r with begun := b })
      ∧ Happens (.copyComplete r.id)
        (fun s => runs .copy s ∧ tm.cpyReady r = true ∧ flows s w ∧ tm.frontAt r.id (r.d % 256) .held = true ∧ w.cpySource r tm 0 4096 = (u, bs, none) ∧ clear u
          ∧ bs.length = 4096)
        (fun _ t => ∃ tm', done t tm' ∧ (tm'.tile (r.d % 256)).tag = .valid ∧ (tm'.tile (r.d % 256)).poison = bs.any Prod.snd
          ∧ ∀ i, i < 4096 → sget 0 (tm'.tile (r.d % 256)).data i = (bs.getD i (0, false)).1))
    ∧ (∀ w, r.xm % 4 = 1 → r.xm / 4 % 4 = 2 → r.b = 4096 → r.lines = [] → r.step < 2 → Happens (.copyComplete r.id)
      (fun s => runs .copy s ∧ tm.cpyReady r = true ∧ flows s w ∧ tm.frontAt r.id (r.a % 256) .valid = true)
      (fun _ t => ∃ tm', done t tm' ∧ (∀ j, j < 4096 → tm'.spad.get (r.d + j) = sget 0 (tm.tile (r.a % 256)).data j)
        ∧ (tm'.tile (r.a % 256)).tag = if r.c then .empty else .valid))
    ∧ (∀ cs, ∀ p ∈ [(Instr.copyComplete r.id, ReqKind.copy), (.cpytComplete r.id, .cpyt), (.scatterComplete r.id, .scat), (.tensorIdWriteComplete r.id, .tdset),
        (.tensorIdReadComplete r.id, .tdrd), (.collectiveComplete r.id cs, .coll)], r.step = 2 → Happens p.1
      (fun s => runs p.2 s ∧ r.peerOut = 0 ∧ (∀ q ∈ s.puts, q.req ≠ some r.id) ∧ ∀ q ∈ s.dir, ∀ w ∈ q.2.waiting, w.req ≠ some r.id)
      (fun s t => s.SameMem t ∧ ∃ tm', done t tm' ∧ ∀ th ∈ r.threads, (tm'.thread th).horizon = max (tm.thread th).horizon r.t))
    ∧ (∀ w, r.xm % 2 = 0 → r.entry ≠ [] → r.lines = [] → r.cpytN = 1 → r.step < 2 →
      Happens (.cpytComplete r.id) (fun s => runs .cpyt s ∧ flows s w ∧ tm.frontAt r.id (r.d % 256) .empty = true)
        (fun _ t => ∃ tm', t.team? r.team = some tm' ∧ (tm'.tile (r.d % 256)).tag = .held ∧ ∃ b, t.req? r.id = some { r with begun := b })
      ∧ ∀ f : Fill, Happens (.cpytComplete r.id)
        (fun s => runs .cpyt s ∧ flows s w ∧ tm.frontAt r.id (r.d % 256) .held = true ∧ w.ldElems r {} (r.elems 0) = (u, .ok f) ∧ clear u ∧ f.exc = 0)
        (fun _ t => ∃ tm', done t tm' ∧ (tm'.tile (r.d % 256)).tag = .valid ∧ (tm'.tile (r.d % 256)).poison = f.poison
          ∧ ∀ i, i < 4096 → (sget 0 (tm'.tile (r.d % 256)).data i).toNat = f.bits / 2 ^ (8 * i) % 256))
    ∧ (∀ w, r.xm % 2 = 0 → r.done = 0 → let n := r.b / 2 ^ 23 + 1
      Happens (.gatherComplete r.id)
        (fun s => runs .gath s ∧ tm.sbOlder r.id false (r.b % 2 ^ 23) (4 * n) = false ∧ tm.sbOlder r.id true r.d (n * r.ty) = false ∧ flows s w
          ∧ w.gathRead r (tm.indices r) = (u, bs, none) ∧ clear u)
        (fun _ t => ∃ tm', done t tm' ∧ ∀ j, j < bs.length → tm'.spad.get (r.d + j) = (bs.getD j (0, false)).1))
    ∧ (∀ w d a, r.xm % 2 = 1 → r.done = 0 → let n := r.b / 2 ^ 23 + 1
      Happens (.gatherComplete r.id)
        (fun s => runs .gath s ∧ tm.sbOlder r.id false (r.b % 2 ^ 23) (4 * n) = false ∧ flows s w ∧ w.gathRead r (tm.indices r) = (u, bs, none) ∧ clear u
          ∧ tm.accesses.find? (fun a => a.id == r.id) = some a ∧ a.dests = [d] ∧ d.thread < tm.threads.length ∧ (tm.thread d.thread).exited = false
          ∧ bs.length = 4 * d.cnt ∧ d.reg + d.cnt ≤ tm.n d.thread)
        (fun _ t => ∃ tm', done t tm' ∧ tm'.accesses = tm.accesses.filter (fun a => a.id != r.id)
          ∧ ∀ j, j < d.cnt → (tm'.thread d.thread).get (d.reg + j) = nw (leNat (((bs.drop (4 * j)).take 4).map Prod.fst))))
    ∧ (∀ w, let n := r.b / 2 ^ 23 + 1
      let src := if r.xm % 2 = 1 then marked 0 ((wordsBytes r.quad).map fun b => (b, false)) else marked r.d (tm.spadBytes r.d (n * r.ty))
      let W := r.scatBytes (tm.indices r) src []
      Happens (.scatterComplete r.id)
        (fun s => runs .scat s ∧ (r.xm % 2 = 0 → tm.sbOlder r.id false r.d (n * r.ty) = false) ∧ flows s w ∧ owns w W ∧ clear w)
        (fun s t => lands s t W))
    ∧ (let ent := bytesWords (bs.map Prod.fst)
      let read (s : State) : Prop := runs .tdset s ∧ r.step = 1 ∧ s.engRead r r.priv r.a 64 = (u, .ok bs) ∧ clear u
      let W := WSet.put [] (u.tdAddr r.ctx (r.d % 256)) (marked r.a bs)
      Happens (.tensorIdWriteComplete r.id) (fun s => read s ∧ (tdV ent = false ∨ tdBad ent = false) ∧ owns u W) (fun _ t => lands u t W)
      ∧ ∀ i ∈ [Instr.tensorIdWriteComplete r.id, .engineFault r.id],
        Happens i (fun s => read s ∧ tdV ent = true ∧ tdBad ent = true ∧ u.Parking r.ctx ∧ tm.frozen = none ∧ tm.freezing = none)
        (fun _ t => (∃ tm', t.team? r.team = some tm' ∧ (tm'.freezing = some 0x50 ∨ tm'.frozen = some 0x50))
          ∧ (∃ q, t.req? r.id = some q ∧ q.discard = true)
          ∧ ∃ w, (t.ctx r.ctx).parked = (u.ctx r.ctx).parked ++ [w] ∧ bits (wd w 0) 15 0 = 0x50 ∧ wd w 7 = nw (r.d % 256)))
    ∧ Happens (.engineFault r.id)
        (fun s => runs .coll s ∧ s.collFirst r = true ∧ r.step = 1 ∧ s.collDiffers r = true ∧ s.Parking r.ctx ∧ tm.frozen = none ∧ tm.freezing = none)
        (fun s t => (∃ tm', t.team? r.team = some tm' ∧ (tm'.freezing = some 0x51 ∨ tm'.frozen = some 0x51))
          ∧ ∃ w, (t.ctx r.ctx).parked = (s.ctx r.ctx).parked ++ [w] ∧ bits (wd w 0) 15 0 = 0x51 ∧ wd w 7 = nw (r.b / 2 ^ 16 % 256))
    ∧ Happens (.engineFault r.id) (fun s => runs .coll s ∧ s.collDiffers r = false) State.Same
    ∧ (let addr := u.tdAddr r.ctx (r.a % 256)
      let W := WSet.put [] r.d (marked addr bs)
      let reads (s : State) : Prop := runs .tdrd s ∧ s.engRead r true (s.tdAddr r.ctx (r.a % 256)) 64 = (u, .ok bs) ∧ clear u ∧ owns u W
      (r.xm % 2 = 0 → Happens (.tensorIdReadComplete r.id) reads (fun _ t => lands u t W))
      ∧ ∀ key, r.xm % 2 = 1 → key % 64 = 0 → key / 128 ∉ r.owned.map Prod.snd → let ent := bytesWords (bs.map Prod.fst)
        Happens (.tensorIdReadComplete r.id)
        (fun s => reads s ∧ (∀ i, i < 64 → u.xlateAgent none r.ctx (addr + i) kEngW true true false = (u, .ok (.hbm (key + i))))
          ∧ key < winAt 0 ∧ (u.home (key / 128)).waiting = [] ∧ (u.home (key / 128)).owner = none ∧ (u.home (key / 128)).move = .unmoved
          ∧ ∀ p ∈ u.puts, p.id < u.idNext)
        (fun _ t => lands u t W ∧ ∃ h h', (t.home (key / 128)).waiting = [h, h'] ∧ h.op = .count (key % 128 + 56) (.sub (wd ent 14).toNat)
          ∧ h'.op = .count (key % 128 + 60) (.subLow ((wd ent 15).toNat % 2 ^ 16))))
    ∧ Happens (.ttagApply r.id) (fun s => runs .ttag s ∧ (tm.tile r.d).queue.head? = some r.id ∧ (tm.tile r.d).tag ≠ .held)
        (fun _ t => ∃ tm', done t tm' ∧ (tm'.tile r.d).tag = (if r.a = 1 then .valid else .empty) ∧ (tm'.tile r.d).data = (tm.tile r.d).data)
    ∧ (∀ g : Grid, let w : Card := g.card
      let rem := w.rcnt - g.next
      let res (s : State) : Nat := (s.teams.filter fun p => p.2.grid = tm.grid).length
      let d (s : State) : Nat := if w.div = 0 then 2 * max 1 (res s) else w.div
      let cnt (s : State) : Nat := if rem = 0 then 0 else min rem (max w.minch ((rem + d s - 1) / d s))
      let dealt (s t : State) : Prop := ∃ g', sfind t.grids tm.grid = some g' ∧ g'.next = g.next + cnt s
      let turn (s : State) : Prop := runs .jnext s ∧ r.step = 0 ∧ s.jnextFirst tm.grid r = true ∧ sfind s.grids tm.grid = some g ∧ w.persist = true ∧ g.next ≤ w.rcnt
      Happens (.jnextServe r.id) (fun s => turn s ∧ tm.sbOlder r.id true r.d 8 = false)
        (fun s t => (∃ tm', done t tm' ∧ tm'.spadGet r.d 4 = g.next ∧ tm'.spadGet (r.d + 4) 4 = cnt s) ∧ dealt s t)
      ∧ Happens (.jnextServe r.id) (fun s => turn s ∧ tm.sbOlder r.id true r.d 8 = true)
        (fun s t => (∃ q, t.req? r.id = some q ∧ q.step = 1 ∧ q.a = g.next ∧ q.b = cnt s) ∧ dealt s t))
    ∧ (∀ cs : List (List Word), let g := r.b / 2 ^ 16 % 256
      let n := r.b % 2 ^ 16
      let mask (s : State) : Nat := (s.rget (key0 0 (0x181000 + 16 * g))).toNat + 2 ^ 32 * (s.rget (key0 0 (0x181000 + 16 * g + 4))).toNat
      let dev (s : State) : Nat := s.rbits (key0 0 0x180000) 5 0
      let others (s : State) : List Nat := (List.range 64).filter fun d => (mask s).testBit d && d != dev s
      let all (s : State) : List (List Word) := let b := ((others s).filter fun d => decide (d < dev s)).length
        cs.take b ++ [bytesWords (bs.map Prod.fst)] ++ cs.drop b
      let W (s : State) : WSet := WSet.put [] r.d (marked r.d ((wordsBytes (combine r.xm r.ty (all s))).zip (bs.map Prod.snd)))
      Happens (.collectiveComplete r.id cs)
        (fun s => runs .coll s ∧ s.collFirst r = true ∧ s.collDiffers r = false
          ∧ cs.length = (others s).length ∧ (∀ l ∈ cs, l.length = n) ∧ s.engRead r r.priv r.d (4 * n) = (u, .ok bs) ∧ clear u ∧ u.csr = s.csr ∧ owns u (W s))
        (fun s t => lands u t (W s) ∧ t.rget (key0 0 (0x181000 + 16 * g + 12)) = s.rget (key0 0 (0x181000 + 16 * g + 12)) + 1))
    ∧ ∀ (col slot l rel : Nat) (e : Engine), let k := teamKey col slot
      Happens (.mxrelComplete col slot) (fun s => s.team? k = some tm ∧ tm.engine = some e ∧ e.releasing = some rel ∧ tm.place = .core l)
        (fun s t => t.team? k = some { tm with engine := none, engBacking := none }
          ∧ (rel / 2 ^ 5 % 2 = 1 → (l, rel % 32, s.clock col + 4096) ∈ (t.col col).batons) ∧ (rel / 2 ^ 5 % 2 = 0 → t.cols = s.cols))
      ∧ Happens (.batonExpiry col l) (fun _ => True)
        (fun s t => t.teams = s.teams ∧ ∀ b, b ∈ (t.col col).batons ↔ b ∈ (s.col col).batons ∧ (b.1 ≠ l ∨ s.clock col < b.2.2))

/-- R168 to R175, R180, R184, R187 to R189, R335, R476: a page moves line by line, and its leaf is marked, rewritten and released; a peer move takes its
descriptors; dirty lines go back to their homes and leave the write-back buffer in time; releases and acquires end as their horizons let them. -/
def Obligations.LinesAndPagesMove : Prop :=
  ∀ r : Req,
    let runs (s : State) (step : Nat) : Prop := s.req? r.id = some r ∧ r.kind = .plmv ∧ r.stopped = false ∧ r.discard = false ∧ r.step = step
    let still (s : State) (l : Nat) : Prop := (s.home l).owner = none ∧ (s.home l).waiting = [] ∧ (s.home l).e < s.dt
      ∧ ∀ p ∈ s.cols, (sget {} p.2.lines l).dirty = []
    let clean (s : State) (l : Nat) : Prop := ∀ p ∈ s.cols, (sget {} p.2.lines l).dirty = []
    let open_ (s : State) (l : Nat) (id : Nat) : Prop := (s.home l).owner = some id ∧ (s.home l).waiting = [] ∧ (s.home l).move = .unmoved ∧ clean s l
    let sends (t : State) (key id : Nat) (last : Bool) (ws : List Word) : Prop := ∃ h ∈ (t.home (key / 128)).waiting,
      h.op = .write (lineBytes key ws) ∧ h.req = some id ∧ h.last = last
    (∀ pte base size frame plait w0 w3 line,
      let found (s : State) : Prop := runs s 0 ∧ s.winOf r.ctx r.d = none ∧ s.walk r.ctx r.d = .leaf pte base size frame plait w0 w3
      Happens (.plmvLineMove r.id line)
        (fun s => found s ∧ r.done = 0 ∧ (s.rget (kXl r.ctx 0)).getLsbD 0 = true ∧ s.winHeld r.ctx r.d = false ∧ s.xlatOf r.column r.ctx r.d = none)
        (fun s t => s.SameMem t ∧ t.dir = s.dir ∧ ∃ q, t.req? r.id = some q ∧ q.step = 0 ∧ q.done = 1)
      ∧ Happens (.plmvLineMove r.id line)
        (fun s => found s ∧ r.done ≠ 0 ∧ (bits w0 5 5 = 0 ∨ r.priv = true) ∧ s.plmvFails r size plait w0 = none ∧ still s (pte / 128)
          ∧ (s.home (pte / 128)).move ≠ .moving ∧ s.memOk = true)
        (fun _ t => (t.home (pte / 128)).owner = some r.id ∧ wd (t.wordsAt pte 1) 0 = w0 ||| 0x40
          ∧ ∃ q, t.req? r.id = some q ∧ q.step = 1 ∧ q.pte = pte % 2 ^ 64 ∧ q.oldFrame = frame % 2 ^ 64 ∧ q.pageBase = base % 2 ^ 64 ∧ q.pageSize = size % 2 ^ 32
            ∧ q.oldPlait = plait)
      ∧ ∀ i tm, Happens (.plmvLineMove r.id line)
        (fun s => found s ∧ r.done ≠ 0 ∧ (bits w0 5 5 = 0 ∨ r.priv = true) ∧ s.plmvFails r size plait w0 = some i ∧ s.Parking r.ctx
          ∧ s.team? r.team = some tm ∧ tm.age = r.age ∧ tm.frozen = none ∧ tm.freezing = none)
        (fun s t => s.SameMem t ∧ (∃ tm', t.team? r.team = some tm' ∧ (tm'.freezing = some 0x1020 ∨ tm'.frozen = some 0x1020))
          ∧ (∃ q, t.req? r.id = some q ∧ q.discard = true)
          ∧ ∃ w, (t.ctx r.ctx).parked = (s.ctx r.ctx).parked ++ [w] ∧ bits (wd w 0) 15 0 = 0x1020 ∧ wd w 7 = nw (7 + 16 * i)))
    ∧ (∀ line, let old := r.oldLine line
      let new := r.newLine line
      128 * line < r.pageSize → line ∉ r.lines →
      (old ≠ new → old < winLine0 → new < winLine0 → Happens (.plmvLineMove r.id line)
        (fun s => runs s 1 ∧ (s.home old).move = .unmoved ∧ (s.home new).move = .unmoved ∧ still s old ∧ still s new)
        (fun s t => (t.home old).move = .moving ∧ s.SameMem t)
      ∧ Happens (.plmvLineMove r.id line)
        (fun s => runs s 1 ∧ (s.home old).move = .moving ∧ (s.home new).move = .unmoved ∧ still s old ∧ still s new ∧ s.mem.wf = true)
        (fun s t => (t.home old).move = .moved new ∧ t.isPoison new = s.isPoison old
          ∧ (∀ j, j < 128 → t.byteAt (new * 128 + j) = s.byteAt (old * 128 + j) ∧ t.byteAt (old * 128 + j) = s.byteAt (old * 128 + j))
          ∧ ∃ q, t.req? r.id = some q ∧ q.lines = line :: r.lines))
      ∧ (old = new → Happens (.plmvLineMove r.id line) (fun s => runs s 1)
        (fun s t => s.SameMem t ∧ t.dir = s.dir ∧ ∃ q, t.req? r.id = some q ∧ q.lines = line :: r.lines)))
    ∧ Happens (.plmvSwap r.id) (fun s => runs s 1 ∧ 128 * r.lines.length = r.pageSize ∧ open_ s (r.pte / 128) r.id)
        (fun s t => s.SameMem t ∧ (∃ q, t.req? r.id = some q ∧ q.step = 2)
          ∧ sends t r.pte r.id true [nw (bits (wd (s.wordsAt r.pte 1) 0) 5 0 + r.a % 2 ^ 32), nw (r.a / 2 ^ 32), nw (bits (nw r.b) 23 0 + 2 ^ 24 * pCls r.oldPlait)])
    ∧ Happens (.plmvSwap r.id) (fun s => runs s 1 ∧ 128 * r.lines.length < r.pageSize) State.Same
    ∧ (∀ th, Happens (.plmvRetire r.id)
        (fun s => runs s 2 ∧ s.agentDone r.id = true ∧ r.owned = [] ∧ r.threads = [th] ∧ (∀ p ∈ s.cols, p.2.lines = []) ∧ ∃ tm, s.team? r.team = some tm
          ∧ tm.age = r.age ∧ th < tm.threads.length ∧ ∃ w, w < tm.threads.length ∧ w ≠ th ∧ (tm.thread w).exited = false)
        (fun s t => s.SameMem t ∧ t.req? r.id = none ∧ (∀ f, r.flag = some f → f < 12 → (t.th r.team th).flag f = (s.th r.team th).flag f - 1)
          ∧ (∀ i, i < r.pageSize / 128 → r.oldLine i ≠ r.newLine i → (t.home (r.oldLine i)).move = .unmoved)
          ∧ ∀ p ∈ t.cols, ∀ x ∈ p.2.tlb, x.ctx = r.ctx → x.base + x.size ≤ r.pageBase ∨ r.pageBase + r.pageSize ≤ x.base))
    ∧ Happens (.plmvRetire r.id) (fun s => runs s 2 ∧ s.agentDone r.id = false) State.Same
    ∧ ∀ (fn c va dev : Nat) (v : Word), c < 256 → let ck := ctxKey fn c
      let page := va / 2 ^ 16 * 2 ^ 16
      (∀ pte frame plait w0 w3,
        let asks (s : State) : Prop := (s.rget (kPm ck 0x18)).getLsbD 31 = true ∧ (∀ m ∈ s.peerMoves, m.ctx ≠ ck ∨ m.va ≠ page)
          ∧ s.walk ck va = .leaf pte page (2 ^ 16) frame plait w0 w3
        let tries (s : State) : Prop := asks s ∧ (pCls plait = 0 ∨ pCls plait = 3) ∧ bits w3 28 28 = 1 ∧ bits w0 6 6 = 0
            ∧ s.pmTriggered ck va dev = true ∧ (s.rget (kPm ck 0x14) - s.rget (kPm ck 0x10)).toNat < s.pmSize ck ∧ still s (pte / 128)
            ∧ (s.home (pte / 128)).move ≠ .moving ∧ s.memOk = true
        let now (s : State) : Nat := s.dt / 1000 % 2 ^ 28
        Happens (.peerMoveAttempt fn c va ⟨dev, true⟩) (fun s => tries s ∧ bits w3 29 29 = 0 ∧ bits w3 31 30 = 0)
          (fun s t => t.peerMoves = { id := s.idNext, ctx := ck, va := page, dev, frame, plait, pte } :: s.peerMoves ∧ t.csr = s.csr
            ∧ (t.home (pte / 128)).owner = some s.idNext ∧ wd (t.wordsAt pte 4) 0 = wd (s.wordsAt pte 4) 0 ||| 0x40
            ∧ wd (t.wordsAt pte 4) 3 = nw (2 ^ 30 + 2 ^ 28 + now s))
        ∧ Happens (.peerMoveAttempt fn c va ⟨dev, true⟩)
          (fun s => tries s ∧ bits w3 29 29 = 0 ∧ bits w3 31 30 = 3 ∧ (now s + 2 ^ 28 - bits w3 27 0) % 2 ^ 28 < 1000)
          (fun s t => t.peerMoves = s.peerMoves ∧ (t.home (pte / 128)).owner = none ∧ t.rget (kPm ck 0x1C) = s.rget (kPm ck 0x1C) + 1
            ∧ wd (t.wordsAt pte 4) 3 = nw (3 * 2 ^ 30 + 2 ^ 29 + 2 ^ 28 + (now s + 16000) % 2 ^ 28))
        ∧ Happens (.peerMoveAttempt fn c va ⟨dev, false⟩) (fun s => asks s ∧ (pCls plait = 0 ∨ pCls plait = 3)) State.Same
        ∧ (∀ ready, Happens (.peerMoveAttempt fn c va ⟨dev, ready⟩)
          (fun s => asks s ∧ pCls plait = 2 ∧ bits plait 5 0 = dev ∧ s.rget (kPm ck 0x0C) ≠ s.rget (kPm ck 8)
            ∧ s.lineHeld (s.pmKey ck false (s.rget (kPm ck 8)).toNat / 128) = false)
          (fun s t => s.SameMem t ∧ t.rget (kPm ck 8) = s.rget (kPm ck 8) + 1 ∧ ∃ m, t.peerMoves = m :: s.peerMoves ∧ m.ctx = ck ∧ m.va = page ∧ m.dev = dev
            ∧ m.comes = true ∧ m.pte = pte ∧ m.plait = wd (s.wordsAt (s.pmKey ck false (s.rget (kPm ck 8)).toNat) 3) 2)))
      ∧ (∀ (m : PeerMove) (leaf : PeerLeaf), leaf.dev = dev →
        let found (s : State) : Prop := s.peerMoves.find? (fun m => m.ctx == ck && m.va == page && m.dev == dev) = some m
        let l := m.line leaf.line
        let ready (s : State) : Prop := found s ∧ 512 ≤ leaf.line ∧ 512 ≤ m.lines.length ∧ s.agentDone m.id = true
        let w0 (s : State) : Word := wd (s.wordsAt m.pte 4) 0
        let event := Instr.peerMoveComplete fn c va leaf
        let key (s : State) : Nat := s.pmKey ck true (s.rget (kPm ck 0x14)).toNat
        (leaf.line < 512 → leaf.line ∉ m.lines → m.comes = false →
          Happens event (fun s => found s ∧ (s.home l).move = .unmoved ∧ still s l) (fun s t => s.SameMem t ∧ (t.home l).move = .moving)
          ∧ Happens event (fun s => found s ∧ (s.home l).move = .moving ∧ (s.home l).e < s.dt)
            (fun s t => s.SameMem t ∧ (t.home l).move = .away dev (m.va + 128 * leaf.line) ∧ { m with lines := leaf.line :: m.lines } ∈ t.peerMoves
              ∧ ∃ o, t.outbox = o :: s.outbox ∧ o.dev = some dev ∧ o.addr = m.va + 128 * leaf.line ∧ o.poison = s.isPoison l
                ∧ o.leaf = [w0 s &&& ~~~0x40, wd (s.wordsAt m.pte 4) 3] ∧ (s.isPoison l = false → o.data = s.bytesAt (l * 128) 128)))
        ∧ (leaf.line < 512 → leaf.line ∉ m.lines → m.comes = true → l < winLine0 →
          Happens event (fun s => found s ∧ (s.home l).move = .unmoved ∧ still s l ∧ s.mem.wf = true)
            (fun s t => (∀ j, j < 128 → t.byteAt (l * 128 + j) = Config.outside s.cyc (m.va + 128 * leaf.line + j)) ∧ t.isPoison l = leaf.poison
              ∧ { m with lines := leaf.line :: m.lines } ∈ t.peerMoves))
        ∧ (m.comes = false →
          (m.step = 0 → Happens event (fun s => ready s ∧ open_ s (m.pte / 128) m.id)
            (fun s t => { m with step := 1 } ∈ t.peerMoves ∧ sends t m.pte m.id true [nw (bits (w0 s) 5 0), 0, nw (2 * 2 ^ 24 + dev)]))
          ∧ (m.step = 1 → Happens event
            (fun s => ready s ∧ (∀ p ∈ s.cols, p.2.lines = []) ∧ still s (key s / 128) ∧ (s.home (key s / 128)).move = .unmoved ∧ ∀ i, i < 512 → m.line i ≠ key s / 128)
            (fun s t => { m with step := 2 } ∈ t.peerMoves ∧ (∀ i, i < 512 → (t.home (m.line i)).move = .unmoved)
              ∧ sends t (key s) m.id false [nw (m.frame % 2 ^ 32 / 512 * 512), nw (m.frame / 2 ^ 32), m.plait, 0]
              ∧ ∀ p ∈ t.cols, ∀ x ∈ p.2.tlb, x.ctx = ck → x.base + x.size ≤ m.va ∨ m.va + 2 ^ 16 ≤ x.base))
          ∧ (m.step = 2 → Happens event ready
            (fun s t => s.SameMem t ∧ t.rget (kPm ck 0x14) = s.rget (kPm ck 0x14) + 1 ∧ ∀ q, q ∈ t.peerMoves ↔ q ∈ s.peerMoves ∧ q.id ≠ m.id)))
        ∧ (m.comes = true →
          (m.step = 0 → Happens event (fun s => ready s ∧ still s (m.pte / 128) ∧ (s.home (m.pte / 128)).move = .unmoved)
            (fun _ t => { m with step := 1 } ∈ t.peerMoves
              ∧ sends t m.pte m.id false [nw (3 + bits leaf.w0 5 2 * 4 + m.frame % 2 ^ 32 / 512 * 512), nw (m.frame / 2 ^ 32), nw (bits m.plait 23 0), leaf.w3]))
          ∧ (m.step = 1 → Happens event (fun s => ready s ∧ ∀ p ∈ s.cols, p.2.lines = [])
            (fun s t => s.SameMem t ∧ (∀ q, q ∈ t.peerMoves ↔ q ∈ s.peerMoves ∧ q.id ≠ m.id)
              ∧ ∃ o, t.outbox = o :: s.outbox ∧ o.dev = some dev ∧ o.addr = m.va ∧ o.kind = .reply))))
      ∧ Happens (.peerMoveControlWrite fn c v) (fun _ => True)
        (fun s t => ∃ w, s.Sets t [(kPm ck 0x18, w)] ∧ bits w 31 31 = bits v 31 31 ∧ bits w 15 8 = bits v 15 8
          ∧ bits w 3 0 = if s.rbits (kPm ck 0x18) 31 31 = 0 ∧ 4 ≤ bits v 3 0 ∧ bits v 3 0 ≤ 12 then bits v 3 0 else s.rbits (kPm ck 0x18) 3 0)
      ∧ (bits v 3 0 ∈ [5, 6, 7, 8, 9] → Happens (.leasecfgWrite v) (fun _ => True) (fun s t => s.Sets t [(key0 0 0x150000, nw (bits v 3 0))]))
      ∧ (bits v 3 0 ∉ [5, 6, 7, 8, 9] → Happens (.leasecfgWrite v) (fun _ => True) State.Same)
      ∧ ∀ (col slot th line : Nat) (tm : Team) (h : Hold), let k := teamKey col slot
        Happens (.columnCacheWriteBack col line)
          (fun s => (s.cline col line).dirty ≠ [] ∧ (s.home line).owner = none ∧ (s.home line).move = .unmoved ∧ (s.home line).waiting = []
            ∧ ((s.col col).lines.map Prod.fst).Pairwise (· < ·))
          (fun s t => (∀ p ∈ (t.col col).lines, p.1 ≠ line) ∧ s.SameMem t
            ∧ ∃ w ∈ (t.home line).waiting, w.op = .write (s.cline col line).dirtyBytes ∧ w.t = max s.dt (s.home line).e + 1)
        ∧ Happens (.writeBackBufferRelease col line) (fun _ => True)
          (fun s t => s.SameMem t ∧ ∀ e, e ∈ (t.col col).wbuf ↔ e ∈ (s.col col).wbuf ∧ (e.1 ≠ line ∨ s.dt < e.2.2 + 2))
        ∧ (let waits (s : State) : Prop := s.team? k = some tm ∧ th < tm.threads.length ∧ tm.accesses = [] ∧ (tm.thread th).hold = some h ∧ h.access = none
            ∧ h.rel = false ∧ slot < 32
          let holds (s : State) : Prop := waits s ∧ h.prm = false
          Happens (.horizonWaitEnd col slot th)
            (fun s => waits s ∧ h.prm = true ∧ (tm.thread th).horizon + 2 ≤ s.dt ∧ (h.scope = 3 → (tm.thread th).peerOut = 0))
            (fun s t => s.OnlyTeam t k ∧ (t.th k th).hold = none)
          ∧ Happens (.horizonWaitEnd col slot th) (fun s => holds s ∧ s.countedHold tm h = false)
            (fun s t => s.OnlyTeam t k ∧ (t.th k th).hold = none ∧ (t.th k th).floor = if h.scope = 0 then (tm.thread th).floor else s.dt)
          ∧ Happens (.countedAcquireGrant col slot th)
            (fun s => holds s ∧ h.acq = true ∧ h.scope = 3 ∧ h.granted = false ∧ s.counted (s.teamCtx tm) = true ∧ s.rbits (key0 0 0x170040) 30 30 = 0
              ∧ ∀ p ∈ s.dir, ∀ w ∈ p.2.waiting, w.inbound ≠ some (s.teamCtx tm))
            (fun s t => (t.th k th).hold = some { h with granted := true } ∧ t.rget (key0 0 0x170058) = s.rget (key0 0 0x170058) + 1))
        ∧ ∀ n, let owes (s : State) : Prop := s.team? k = some tm ∧ th < tm.threads.length ∧ (tm.thread th).peerOut = n + 1
          Happens (.peerAcknowledgement col slot th) (fun s => owes s ∧ (tm.thread th).routedPeer = 0)
            (fun s t => s.OnlyTeam t k ∧ t.th k th =
              { tm.thread th with peerOut := n, redOut := (tm.thread th).redOut && n != 0, horizon := max (tm.thread th).horizon s.dt })
          ∧ ∀ j, Happens (.peerAcknowledgement col slot th)
            (fun s => owes s ∧ (tm.thread th).routedPeer = j + 1 ∧ s.pathHeld col tm.returnPath true = false)
            (fun s t => t.th k th =
                { tm.thread th with peerOut := n, redOut := (tm.thread th).redOut && n != 0, routedPeer := j, horizon := max (tm.thread th).horizon s.dt }
              ∧ ∃ u, t.team? k = some u ∧ u.counters.stakeBytes = (tm.counters.stakeBytes + 256) % 2 ^ 64)

/-- R381 to R389, R463: the estimator keeps the last eight estimates and throttles a column over budget; the hoop hands out the margin without making any, and
no column's raise passes RCAP; regulators, guard bands, layer gates and thresholds change as their rules say, and a write out of order sets ERR. Each of
estimatorPeriod, hoopBaseStop, hoopLayerStop, hoopcfgWrite, frequencyChange, frequencyChangeComplete, regulatorSelectWrite, ageingMonitorRead,
layerGateRequest, layerEvacuationComplete, layerGateRelease, layerWakeComplete, governorPolicyWrite and tripThresholdWrite answers a next state. -/
def Obligations.PowerIsBudgeted : Prop :=
  ∀ (col layer k : Nat) (v : Word),
    let field (s : State) (o hi lo : Nat) : Nat := s.rbits (key0 0 o) hi lo
    let err (s t : State) : Prop := s.Sets t [(key0 0 0x160004, s.rget (key0 0 0x160004) ||| 0x80000000)]
    let timed (s t : State) (o : Nat) : Prop := s.SameMem t ∧ t.teams = s.teams ∧ (∀ x, x ≠ o → t.rget x = s.rget x)
      ∧ ∀ c, c < s.ncol → t.clock c = s.clock c
    (∀ counts temps, let weight (s : State) (k : Nat) : Nat := bits ((s.inForce col).getD (k / 2) 0) (16 * (k % 2) + 15) (16 * (k % 2))
      let site (s : State) (l : Nat) : Nat := ((List.range 48).map fun k => weight s k * counts.getD (48 * l + k) 0).sum
        + Config.leakage (s.siteOf col) (l + 1) (temps.getD l 0)
      let est (s : State) : Nat := (((List.range 4).map (site s)).sum * s.colFreq col + (256 * 5120 * 500 - 1)) / (256 * 5120 * 500)
      Happens (.estimatorPeriod col counts temps) (fun s => col < s.ncol ∧ (s.col col).estAt + 128 ≤ s.clock col ∧ (s.col col).softTrip = false)
        (fun s t => (t.col col).estimates = (est s :: (s.col col).estimates).take 8 ∧ (t.col col).weights = s.pwgt ∧ (t.col col).estAt = s.clock col
          ∧ (t.col col).throttle = if (s.col col).budget < est s then max 1 (16 * (s.col col).budget / est s) else 16)
      ∧ Happens (.estimatorPeriod col counts temps) (fun s => s.clock col < (s.col col).estAt + 128) State.Same)
    ∧ (let total (s : State) : Int := ((List.range s.ncol).map fun c => (s.col c).raise).sum
      Happens .hoopBaseStop (fun s => s.hoopNext = 0 ∧ s.hoopAt + 200 ≤ s.dt)
        (fun s t => t.hoopFree = (s.margin : Int) - total s ∧ field t 0x16000C 31 16 = (field s 0x16000C 31 16 + 1) % 2 ^ 16 ∧ t.cols = s.cols
          ∧ t.hoopNext = 1 ∧ t.hoopAt = s.dt)
      ∧ Happens .hoopBaseStop (fun s => s.hoopNext ≠ 0 ∨ s.dt < s.hoopAt + 200) State.Same
      ∧ (1 ≤ layer → layer ≤ 4 →
        Happens (.hoopLayerStop layer)
          (fun s => s.hoopNext = layer ∧ s.hoopAt + 200 ≤ s.dt ∧ 0 < s.ncol ∧ ∀ c, ((s.col c).shares.map Prod.fst).Pairwise (· < ·))
          (fun s t => t.hoopFree + total t = s.hoopFree + total s ∧ t.hoopNext = (layer + 1) % 5 ∧ t.hoopAt = s.dt
            ∧ (0 ≤ s.hoopFree → 0 ≤ t.hoopFree)
            ∧ ∀ c, c < s.ncol → (s.col c).raise ≤ s.rcap → (t.col c).raise ≤ s.rcap)
        ∧ Happens (.hoopLayerStop layer) (fun s => s.hoopNext ≠ layer ∨ s.dt < s.hoopAt + 200) State.Same))
    ∧ Happens (.hoopcfgWrite v) (fun _ => True)
        (fun s t => ∃ w, s.Sets t [(key0 0 0x160008, w)] ∧ bits w 20 16 = (if bits v 20 16 ≤ 20 then bits v 20 16 else s.rcap)
          ∧ bits w 11 0 = if bits v 11 0 ≤ 660 then bits v 11 0 else field s 0x160008 11 0)
    ∧ (50 ≤ bits v 6 0 → bits v 6 0 ≤ 80 → Happens (.frequencyChange k v) (fun s => s.rbits (kReg k) 31 31 = 0)
        (fun s t => timed s t (kReg k) ∧ t.rbits (kReg k) 6 0 = bits v 6 0 ∧ t.rbits (kReg k) 31 31 = 1 ∧ t.rbits (kReg k) 30 7 = s.rbits (kReg k) 30 7))
    ∧ Happens (.frequencyChange k v) (fun s => s.rbits (kReg k) 31 31 = 1 ∨ bits v 6 0 < 50 ∨ 80 < bits v 6 0) State.Same
    ∧ Happens (.frequencyChangeComplete k) (fun _ => True) (fun s t => s.Sets t [(kReg k, s.rget (kReg k) &&& 0x7FFFFFFF)])
    ∧ Happens (.regulatorSelectWrite k v) (fun _ => True)
        (fun s t => let o := 0x160030 + 4 * (k % 3)
          timed s t (key0 0 o) ∧ ∀ i, i < 16 → field t o (2 * i + 1) (2 * i) = if (s.col (16 * (k % 3) + i)).bound then field s o (2 * i + 1) (2 * i) else bits v (2 * i + 1) (2 * i))
    ∧ (∀ steps, let c := k / 4
      let reg (s : State) : Nat := s.colReg c
      Happens (.ageingMonitorRead k steps) (fun s => c < s.ncol ∧ s.gband (reg s) + 5 * steps ≤ 60)
        (fun s t => (∃ g, t = { s with guard := g }) ∧ t.gband (reg s) = s.gband (reg s) + 5 * steps ∧ ∀ j, j ≠ reg s → t.gband j = s.gband j)
      ∧ Happens (.ageingMonitorRead k steps) (fun s => c < s.ncol ∧ 60 < s.gband (reg s) + 5 * steps ∧ s.gband (reg s) ≤ 60)
        (fun s t => t.gband (reg s) = 60 ∧ (∀ j, j ≠ reg s → t.gband j = s.gband j) ∧ s.siteOf c ∈ t.worn.wornSites ∧ k % 4 + 1 ∈ (t.col c).wornCores))
    ∧ (1 ≤ layer → layer ≤ 4 →
      let req (s : State) : Nat := s.rbits kLgate (layer - 1) (layer - 1)
      let others (s t : State) : Prop := ∀ m, 1 ≤ m → m ≤ 4 → m ≠ layer → t.lgate m = s.lgate m
      Happens (.layerGateRequest layer) (fun s => s.lgate layer = 0 ∧ ∃ m, 1 ≤ m ∧ m ≤ 4 ∧ m ≠ layer ∧ s.lgate m = 0)
        (fun s t => t.lgate layer = 1 ∧ req t = 1 ∧ others s t ∧ ∀ c, c < s.ncol → layer ∈ (t.col c).evac)
      ∧ Happens (.layerGateRequest layer) (fun s => s.lgate layer = 0 ∧ ∀ m, 1 ≤ m → m ≤ 4 → m ≠ layer → s.lgate m ≠ 0) State.Same
      ∧ Happens (.layerEvacuationComplete layer) (fun s => s.lgate layer = 1 ∧ ∀ c, c < s.ncol → s.evacuated c layer = true)
        (fun s t => t.lgate layer = 2 ∧ others s t)
      ∧ Happens (.layerGateRelease layer) (fun s => s.lgate layer = 2) (fun s t => t.lgate layer = 3 ∧ req t = 0 ∧ others s t)
      ∧ Happens (.layerGateRelease layer) (fun s => s.lgate layer = 1) (fun s t => t.lgate layer = 0 ∧ req t = 0 ∧ others s t)
      ∧ Happens (.layerWakeComplete layer) (fun s => s.lgate layer = 3 ∧ req s = 0) (fun s t => t.lgate layer = 0 ∧ others s t))
    ∧ Happens (.governorPolicyWrite 0x160000 v) (fun _ => bits v 23 16 ≤ bits v 31 24 ∧ bits v 7 0 ≤ bits v 15 8)
        (fun s t => s.Sets t [(key0 0 0x160000, v)])
    ∧ Happens (.governorPolicyWrite 0x160000 v) (fun _ => bits v 31 24 < bits v 23 16 ∨ bits v 15 8 < bits v 7 0) err
    ∧ Happens (.governorPolicyWrite 0x160004 v) (fun _ => bits v 15 0 ≠ 0) (fun s t => ∃ w, s.Sets t [(key0 0 0x160004, w)] ∧ bits w 15 0 = bits v 15 0)
    ∧ Happens (.governorPolicyWrite 0x160004 v) (fun _ => bits v 15 0 = 0) err
    ∧ Happens (.tripThresholdWrite 0x160084 v) (fun s => s.thi < bits v 15 8 ∧ bits v 15 8 < bits v 7 0 ∧ bits v 7 0 ≤ 115)
        (fun s t => ∃ w, s.Sets t [(kTrip, w)] ∧ bits w 15 0 = bits v 15 0 ∧ bits w 31 16 = s.rbits kTrip 31 16)
    ∧ Happens (.tripThresholdWrite 0x160084 v) (fun s => bits v 15 8 ≤ s.thi ∨ bits v 7 0 ≤ bits v 15 8 ∨ 115 < bits v 7 0) err

/-- R464 to R467, R469, R470: a reading at TSOFT throttles its column and closes the core, until every reading is below TLO; an excursion makes the margin 0; a
hard trip writes its notice, halts every context to be saved and ends with the rails down; a worn part is marked, and a worn site's core closes. -/
def Obligations.TripsAndWear : Prop :=
  ∀ (col layer reading : Nat) (v : Word),
    (1 ≤ layer → layer ≤ 4 → reading < 256 → Happens (.thermalSoftTrip col layer reading) (fun s => col < s.ncol ∧ s.tsoft ≤ reading)
      (fun _ t => t.temp col layer = reading ∧ (t.col col).softTrip = true ∧ (t.col col).throttle = 1 ∧ layer ∈ (t.col col).closed
        ∧ layer ∈ (t.col col).evac))
    ∧ Happens (.softTripEnd col) (fun s => (s.col col).softTrip = true ∧ ∀ l, 1 ≤ l → l ≤ 4 → s.temp col l < s.tlo)
        (fun s t => (t.col col).softTrip = false ∧ (t.col col).throttle = 16 ∧ (t.col col).closed = (s.col col).wornCores ∧ t.csr = s.csr)
    ∧ Happens (.softTripEnd col) (fun s => ∃ l, 1 ≤ l ∧ l ≤ 4 ∧ s.tlo ≤ s.temp col l) State.Same
    ∧ Happens (.supplyExcursion v) (fun s => s.excursion = false) (fun _ t => t.excursion = true ∧ t.excursionBack = none ∧ t.margin = 0 ∧ t.rget kCool = v)
    ∧ Happens (.supplyExcursion v) (fun s => s.excursion = true)
        (fun s t => t.excursion = true ∧ t.excursionBack = none ∧ t.rget kCool = v ∧ t.heldEvents = s.heldEvents)
    ∧ (let inside : Prop := bits v 7 0 ≤ 40 ∧ 2000 ≤ bits v 31 16
      (inside →
        Happens (.supplyExcursionEnd v) (fun s => s.excursion = true ∧ s.excursionBack = none)
          (fun s t => t.excursion = true ∧ t.excursionBack = some s.dt ∧ t.rget kCool = v)
        ∧ ∀ d, Happens (.supplyExcursionEnd v) (fun s => s.excursion = true ∧ s.excursionBack = some d ∧ d + 1000000000 ≤ s.dt)
          (fun s t => t.excursion = false ∧ t.margin = s.rbits (key0 0 0x160008) 11 0 ∧ t.rget kCool = v))
      ∧ (¬ inside → Happens (.supplyExcursionEnd v) (fun s => s.excursion = true) (fun _ t => t.excursion = true ∧ t.excursionBack = none ∧ t.rget kCool = v)))
    ∧ (∀ cause ∈ [2, 3, 4],
        Happens (.hardTrip cause col layer reading) (fun s => s.hardTrip = none ∧ tripBeyond cause reading = true ∧ sfind s.tripFrom cause = none)
          (fun s t => t = { s with tripFrom := sins s.tripFrom cause s.dt })
        ∧ Happens (.hardTrip cause col layer reading) (fun s => s.hardTrip = none ∧ tripBeyond cause reading = false)
          (fun s t => t = { s with tripFrom := sdel s.tripFrom cause }))
    ∧ (∀ cause ∈ [1, 2, 3, 4],
      let trips (s : State) : Prop := (cause = 1 → s.thard ≤ reading ∧ 1 ≤ layer ∧ layer ≤ 4 ∧ col < s.ncol)
        ∧ (cause ≠ 1 → tripBeyond cause reading = true ∧ ∃ d, sfind s.tripFrom cause = some d ∧ d + (if cause = 4 then 10000000 else 1000000000) ≤ s.dt)
      Happens (.hardTrip cause col layer reading) (fun s => s.hardTrip = none ∧ trips s)
        (fun s t => t.hardTrip = some s.dt ∧ t.tripQueue = s.tripContexts.map Prod.fst ∧ t.teams.length = s.teams.length
          ∧ (s.rbits (key0 0 0x160088) 0 0 = 1 → s.hostUp = true →
            ∃ d, ({ dev := none, addr := s.rbits (key0 0 0x160088) 31 6 * 64 + 2 ^ 32 * s.rbits (key0 0 0x16008C) 31 0, data := d } : OutMsg) ∈ t.outbox
              ∧ wd (bytesWords d) 0 = nw (1 + 2 ^ 8 * cause) ∧ wd (bytesWords d) 1 = s.cfgw ∧ wd (bytesWords d) 2 = nw s.dt)
          ∧ ∀ p ∈ s.tripContexts, s.cstate p.1 = 0 → (t.ctx p.1).cmd ≠ none))
    ∧ (∀ d, Happens .hardTripPowerOff (fun s => s.hardTrip = some d ∧ d + 2000000 ≤ s.dt) (fun s t => t = { s with powered := false }))
    ∧ (∀ i, i < 136 → Happens (.partWorn 1 i) (fun s => i ∉ s.worn.wornSlices) (fun s t => t.worn.wornSlices = i :: s.worn.wornSlices))
    ∧ (∀ i, i < 8 → Happens (.partWorn 3 i) (fun s => i ∉ s.worn.wornStacks) (fun s t => t.worn.wornStacks = i :: s.worn.wornStacks))
    ∧ (1 ≤ layer → layer ≤ 4 → Happens (.partWorn 0 (4 * col + layer - 1)) (fun s => col < s.ncol ∧ s.siteOf col ∉ s.worn.wornSites)
        (fun s t => t.worn.wornSites = s.siteOf col :: s.worn.wornSites ∧ layer ∈ (t.col col).closed ∧ layer ∈ (t.col col).wornCores))

/-- R395, R397 to R399, R417, R447, R450, R473: the link registers, a link's loss and its return; a device out of reach for 10 ms holds what waits for it with
one record for each context; reads of peers and of the host are answered from the home, and their writes wait there; a refused access leaves one record. -/
def Obligations.LinksServeTheirPartners : Prop :=
  ∀ (dev link fn c off va dctx key : Nat) (v : Word) (bs : List Byte), c < 256 →
    let ck := ctxKey fn c
    let dom (s : State) : Nat := s.rbits (kLink 0) 31 31
    let up (s : State) (l : Nat) : Nat := s.rbits (kLink 4) l l
    let counts (n : Nat) (s t : State) : Prop := s.Sets t [(kErrCnt n, s.rget (kErrCnt n) + 1)]
    let quiet (s : State) (n : Nat) : Prop := s.rbits (kEr 0x0C) 15 0 = 0 ∧ s.rget (kErrCnt n) ≠ 0xFFFFFFFF
    Happens (.peerLinkControlWrite 0x180000 v) (fun s => dom s = 0)
      (fun s t => ∃ w, s.Sets t [(kLink 0, w)] ∧ bits w 31 31 = bits v 31 31 ∧ bits w 5 0 = bits v 5 0)
    ∧ Happens (.peerLinkControlWrite 0x180000 v) (fun s => dom s = 1)
      (fun s t => ∃ w, s.Sets t [(kLink 0, w)] ∧ bits w 31 31 = bits v 31 31 ∧ bits w 30 0 = s.rbits (kLink 0) 30 0)
    ∧ (dev < 64 → Happens (.peerLinkControlWrite (0x180010 + 4 * dev) v) (fun s => dom s = 0)
        (fun s t => ∃ w, s.Sets t [(kLink (0x10 + 4 * dev), w)] ∧ bits w 11 0 = bits v 11 0)
      ∧ Happens (.peerLinkControlWrite (0x180010 + 4 * dev) v) (fun s => dom s = 1) State.Same)
    ∧ (link < 12 → Happens (.linkFlitReplay true link) (fun s => quiet s 7) (counts 7)
      ∧ Happens (.linkLoss true link) (fun s => up s link = 1)
        (fun s t => up t link = 0 ∧ (∀ l, l ≠ link → l < 12 → up t l = up s l) ∧ 256 + link ∈ t.lostLinks
          ∧ (dev < 64 → s.rget (kLink (0x10 + 4 * dev)) = 1#32 <<< link → (∀ p ∈ s.lostRoutes, p.1 ≠ dev) → (dev, s.dt) ∈ t.lostRoutes))
      ∧ Happens (.linkRetrained true link) (fun s => s.rbits (kLink 8) link link = 1) (fun _ t => up t link = 1 ∧ 256 + link ∉ t.lostLinks))
    ∧ Happens (.linkFlitReplay false link) (fun s => quiet s 6) (counts 6)
    ∧ (∀ i ∈ [Instr.hostLinkDown, .linkLoss false link], Happens i (fun _ => True) (fun s t => t.hostUp = false ∧ 0 ∈ t.lostLinks ∧ t.teams = s.teams))
    ∧ Happens (.linkRetrained false link) (fun _ => True) (fun _ t => t.hostUp = true ∧ 0 ∉ t.lostLinks)
    ∧ (∀ k tm a, Happens (.peerRouteLost dev)
      (fun s => s.peerUp dev = false ∧ sget 0 s.lostRoutes dev + 10000000 ≤ s.dt ∧ (∀ x, s.Parking x) ∧ s.peerMoves = [] ∧ s.ordered ∧ s.team? k = some tm
        ∧ a ∈ tm.accesses ∧ a.state = .sent ∧ s.leafDev (s.teamCtx tm) a.va = some dev)
      (fun s t => (∃ tm', t.team? k = some tm' ∧ (∀ x ∈ tm'.accesses, x.id = a.id → x.state = .held)
          ∧ (a.kind = .load → { a with state := .held } ∈ tm'.accesses))
        ∧ ∃ r, (t.ctx (s.teamCtx tm)).parked = (s.ctx (s.teamCtx tm)).parked ++ [r] ∧ bits (wd r 0) 15 0 = 0x2070 ∧ wd r 7 = nw dev))
    ∧ (∀ hops dest scope,
      let here (s : State) : Prop := s.alive = true ∧ dom s = 1 ∧ dev < 64 ∧ (dest = none ∨ dest = some s.devNo) ∧ s.peerUp dev = true ∧ s.servingCtx dctx = some ck
      let offered (s : State) : Prop := here s ∧ (dev, dctx) ∉ s.frozenPeers
      let served (s : State) (kind : InboundKind) : Prop := offered s ∧ s.inboundTarget ck va kPeerIn (inboundRw kind) = .ok (.hbm key)
        ∧ s.lineHeld (key / 128) = false
      let refused (s t : State) : Prop := s.SameMem t ∧ t.teams = s.teams
        ∧ ∃ m e, t.outbox = m :: s.outbox ∧ m.dev = some dev ∧ m.addr = va ∧ m.kind = .reply ∧ m.err = some e
      (∀ size, Happens (.peerInboundRequest dev dctx va ⟨.read size, hops, dest, scope⟩ bs) (fun s => served s (.read size) ∧ s.isPoison (key / 128) = false)
        (fun s t => t =
          { s with outbox := { dev := some dev, addr := va, data := s.bytesAt key (min size (128 - key % 128)), kind := .reply } :: s.outbox }))
      ∧ Happens (.peerInboundRequest dev dctx va ⟨.write, hops, dest, scope⟩ bs) (fun s => served s .write)
        (fun s t => (s.home (key / 128)).move = .unmoved → ∃ w ∈ (t.home (key / 128)).waiting, w.reply = some (dev, va) ∧ w.inbound = some ck
          ∧ w.op = .write ((bs.take (128 - key % 128)).zipIdx.map fun b => (key % 128 + b.2, b.1)))
      ∧ (∀ op ty, let size := intWidth (aopTyOf op ty) / 8
        Happens (.peerInboundRequest dev dctx va ⟨.atomic op ty, hops, dest, scope⟩ bs)
          (fun s => served s (.atomic op ty) ∧ s.isPoison (key / 128) = false ∧ (s.home (key / 128)).move = .unmoved)
          (fun _ t => ∃ w ∈ (t.home (key / 128)).waiting, w.reply = some (dev, va) ∧ w.inbound = some ck
            ∧ w.op = .atomic (key % 128) size op (aopTyOf op ty) (leNat (bs.take size)) (leNat ((bs.drop size).take size))))
      ∧ (∀ d a kind, Happens (.peerInboundRequest dev dctx va ⟨kind, hops, dest, scope⟩ bs)
        (fun s => offered s ∧ s.inboundTarget ck va kPeerIn (inboundRw kind) = .ok (.peer d a) ∧ s.comeKey ck va d = none ∧ hops < 3 ∧ s.peerUp d = true)
        (fun s t => t = { s with outbox := forwarded d a dctx ⟨kind, hops + 1, dest, scope⟩ bs :: s.outbox }))
      ∧ (∀ d kind, Happens (.peerInboundRequest dev dctx va ⟨kind, hops, some d, scope⟩ bs)
        (fun s => s.alive = true ∧ dom s = 1 ∧ dev < 64 ∧ d < 64 ∧ d ≠ s.devNo ∧ s.peerUp d = true)
        (fun s t => ∃ m, t = { s with outbox := m :: s.outbox } ∧ m.dev = some d ∧ m.addr = va ∧ m.data = bs ∧ m.transit = some dev ∧ m.hops = hops))
      ∧ ∀ kind, Happens (.peerInboundRequest dev dctx va ⟨kind, hops, dest, scope⟩ bs) (fun s => here s ∧ (dev, dctx) ∈ s.frozenPeers) refused)
    ∧ (∀ hi, Happens (.peerUnfreeze hi v) (fun _ => True)
        (fun s t => let k := kEr (if hi = true then 8 else 4)
          (∃ c f, t = { s with csr := c, frozenPeers := f }) ∧ t.rget k = s.rget k &&& ~~~v ∧ (∀ x, x ≠ k → t.rget x = s.rget x)
          ∧ ∀ m, m ∈ t.frozenPeers ↔ m ∈ s.frozenPeers ∧ (m.1 / 32 = (if hi = true then 1 else 0) → v.getLsbD (m.1 % 32) = false)))
    ∧ (∀ relaxed, let addr (s : State) : Nat := s.rbits (kLk ck 0) 31 28 * 2 ^ 28 + 2 ^ 32 * s.rbits (kLk ck 4) 19 0 + off
      let offered (s : State) : Prop := s.alive = true ∧ s.hostUp = true ∧ off < 2 ^ 28 ∧ bs ≠ [] ∧ s.hostQueue = [] ∧ s.hostWriteWaits false = false
      let posted (s : State) : HostWrite := { ctx := ck, va := addr s, data := bs, ordered := !relaxed }
      (∀ write, Happens (.hostInboundAccess fn c off ⟨write, relaxed, true⟩ bs) (fun s => s.alive = true ∧ s.hostUp = true ∧ off < 2 ^ 28 ∧ bs ≠ [])
        (fun s t => ∃ m e, t = { s with outbox := m :: s.outbox } ∧ m.dev = none ∧ m.data = [] ∧ m.kind = .reply ∧ m.err = some e))
      ∧ (∀ keys, Happens (.hostInboundAccess fn c off ⟨false, relaxed, false⟩ bs)
        (fun s => offered s ∧ s.hostWriteWaits true = false ∧ s.hostJudgeAll ck (addr s) false bs.length = some (.ok keys)
          ∧ ∀ x ∈ keys, s.lineHeld (x / 128) = false)
        (fun s t => t = { s with outbox := { dev := none, addr := addr s, data := keys.map s.byteAt, kind := .reply } :: s.outbox }))
      ∧ (∀ b, bs = [b] → Happens (.hostInboundAccess fn c off ⟨true, relaxed, false⟩ bs)
          (fun s => offered s ∧ s.hostJudgeAll ck (addr s) true 1 = some (.ok [key]) ∧ s.lineHeld (key / 128) = false ∧ (s.home (key / 128)).move = .unmoved)
          (fun _ t => t.hostQueue = [] ∧ ∃ w ∈ (t.home (key / 128)).waiting, w.inbound = some ck ∧ w.ordered = !relaxed ∧ w.op = .write [(key % 128, b)])
        ∧ Happens (.hostInboundAccess fn c off ⟨true, relaxed, false⟩ bs)
          (fun s => offered s ∧ s.hostJudgeAll ck (addr s) true 1 = some (.ok [key]) ∧ s.lineHeld (key / 128) = true)
          (fun s t => t = { s with hostQueue := [posted s] }))
      ∧ ∀ cause code a,
        let told (s t : State) : Prop := s.SameMem t ∧ ∃ r, (t.ctx ck).parked = (s.ctx ck).parked ++ [r] ∧ bits (wd r 0) 15 0 = 0x1060
          ∧ wd r 7 = nw (9 + 16 * cause + 2 ^ 8 * code)
        Happens (.hostInboundAccess fn c off ⟨true, relaxed, false⟩ bs)
          (fun s => offered s ∧ s.hostJudgeAll ck (addr s) true bs.length = some (.error (cause, code, a)) ∧ s.Parking ck)
          (fun s t => told s t ∧ t.hostQueue = [] ∧ t.outbox = s.outbox)
        ∧ Happens (.hostInboundAccess fn c off ⟨false, relaxed, false⟩ bs)
          (fun s => offered s ∧ s.hostWriteWaits true = false ∧ s.hostJudgeAll ck (addr s) false bs.length = some (.error (cause, code, a)) ∧ s.Parking ck)
          (fun s t => told s t ∧ ∃ m e, t.outbox = m :: s.outbox ∧ m.dev = none ∧ m.kind = .reply ∧ m.err = some e))

/-- R393, R401 to R407, R474, R477: a checkpoint sends its image and raises vector 51; an attestation report leaves for host memory; a device reset returns
every register to its reset value and ends everything that runs, and device memory stays; a register write has the effect its map gives it. -/
def Obligations.ManagementWords : Prop :=
  ∀ (fn c q : Nat) (v : Word), fn < 9 → c < 256 → q < 64 →
    let bit (s : State) (k i : Nat) : Bool := (s.rget k).getLsbD i
    (v.getLsbD 0 = true →
      (∀ ts, Happens (.checkpointStart v)
        (fun s => let u := s.rwrite (kCkpt 8) v
          bit s (kCkpt 8) 31 = false ∧ u.targetList = ts.map some ∧ (ts.map fun t => t.2.2).sum = u.imageSize)
        (fun _ t => bit t (kCkpt 8) 31 = true ∧ t.ckpt = ts ∧ t.rget (kCkpt 0x0C) = 0))
      ∧ Happens (.checkpointStart v) (fun s => bit s (kCkpt 8) 31 = true) (fun s t => bit t (kCkpt 8) 30 = true ∧ bit t (kCkpt 8) 31 = true ∧ t.ckpt = s.ckpt)
      ∧ Happens (.attestationReport v) (fun s => bit s kAttest 31 = false) (fun s t => (∃ c, t = { s with csr := c }) ∧ bit t kAttest 31 = true)
      ∧ Happens (.attestationReport v) (fun s => bit s kAttest 31 = true) (fun s t => (∃ c, t = { s with csr := c }) ∧ bit t kAttest 30 = true))
    ∧ (∀ dev addr, let done (s : State) : Nat := s.rbits (kCkpt 0x0C) 31 0 * 2 ^ 20
      Happens .checkpointComplete
        (fun s => bit s (kCkpt 8) 31 = true ∧ s.alive = true ∧ s.ckpt = [(dev, addr, s.imageSize)]
          ∧ (match dev with | some d => s.peerUp d | none => s.hostUp) = true ∧ s.poison = [] ∧ done s < s.imageSize)
        (fun s t => bit t (kCkpt 8) 31 = false ∧ (0, 51) ∈ t.msix ∧ t.mem = s.mem ∧ t.rget (kCkpt 0x10) = nw s.dt
          ∧ t.rbits (kCkpt 0x0C) 31 0 * 2 ^ 20 = s.imageSize
          ∧ ∃ m ∈ t.outbox, m.dev = dev ∧ m.addr = addr + done s ∧ m.image = some (done s, s.imageSize - done s)
            ∧ ∀ p ∈ s.mem, s.stk.testBit (p.1 / 2 ^ 36) = true → p.1 % 2 ^ 31 < 3 * 2 ^ 29 → done s ≤ s.imageByte p.1 → s.imageByte p.1 < s.imageSize →
              (s.imageByte p.1, p.2) ∈ m.cells))
    ∧ Happens .attestationReportComplete (fun s => bit s kAttest 31 = true ∧ s.hostUp = true)
        (fun s t => bit t kAttest 31 = false ∧ (0, 51) ∈ t.msix ∧ ∃ m ∈ t.outbox, m.dev = none
          ∧ m.addr = (s.rbits (key0 0 0x170160) 31 0 + 2 ^ 32 * s.rbits (key0 0 0x170164) 31 0) / 64 * 64
          ∧ ∃ sig, m.data = s.reportBody ++ sig ∧ sig.length = 128)
    ∧ (∀ cause, cause ≤ 4 → Happens (.deviceReset cause) (fun s => s.hardTrip = none)
        (fun s t => t.teams = [] ∧ t.grids = [] ∧ t.reqs = [] ∧ (∀ p ∈ t.ctxs, p.2.cmd = none ∧ p.2.intakes = [] ∧ p.2.parked = []) ∧ t.cols = [] ∧ t.cyc = 0 ∧ t.fatal = false ∧ t.powered = true ∧ t.booting = true
          ∧ (cause ≠ 0 → t.mem = s.mem) ∧ (cause = 0 → t.mem = [] ∧ t.poison = [])
          ∧ (∀ k, k ≠ key0 0 0x170000 → t.rget k = (regAttr k).rst) ∧ t.rbits (key0 0 0x170000) 23 16 = cause ∧ bit t (key0 0 0x170000) 0 = false))
    ∧ (∀ cause, 4 < cause → Happens (.deviceReset cause) (fun _ => True) State.Same)
    ∧ (∀ s : State, s.booting = true → s.boot.booting = false ∧ (verified = true → s.bootable = true → bit s.boot (key0 0 0x170000) 0 = true ∧ s.boot.fatal = s.fatal)
        ∧ (verified = false ∨ s.bootable = false → s.boot.fatal = true ∧ bit s.boot (key0 0 0x170000) 0 = bit s (key0 0 0x170000) 0))
    ∧ Happens (.captureControlWrite 0x170040 v) (fun s => s.rbits (key0 0 0x170040) 31 30 = 0)
        (fun s t => ∃ w, s.Sets t [(key0 0 0x170040, w)] ∧ bits w 31 30 = bits v 31 30 ∧ bits w 19 16 = bits v 19 16 ∧ bits w 7 0 = bits v 7 0)
    ∧ Happens (.captureControlWrite 0x170040 v) (fun s => s.rbits (key0 0 0x170040) 31 30 ≠ 0)
        (fun s t => ∃ w, s.Sets t [(key0 0 0x170040, w)] ∧ bits w 31 30 = bits v 31 30 ∧ bits w 19 16 = s.rbits (key0 0 0x170040) 19 16
          ∧ bits w 7 0 = s.rbits (key0 0 0x170040) 7 0)
    ∧ Happens (.replayGateWrite v) (fun _ => True) (fun s t => s.Sets t [(key0 0 0x17005C, v)])
    ∧ Happens (.registerWrite fn 0 (0x100000 + 64 * c + 8) v) (fun _ => True)
        (fun s t => ∃ w, s.Sets t [(kPre (ctxKey fn c) 8, w)] ∧ bits w 31 12 = bits v 31 12)
    ∧ (∀ o, o % 4 ≠ 0 → Happens (.registerWrite fn 0 o v) (fun _ => True) State.Same)
    ∧ ∀ s, exec (.registerWrite fn 0 (4096 * c + 64 * q + 0x0C) v) s = exec (.doorbell fn c q v) s
      ∧ exec (.registerWrite fn 0 (0x100000 + 64 * c) 2) s = exec (.haltContext fn c) s
      ∧ exec (.registerWrite fn 0 (0x140000 + 32 * c + 0x10) v) s = exec (.invalidation fn c v) s
      ∧ exec (.registerWrite fn 4 (64 * c + 0x14) v) s = exec (.faultFlush fn c v) s
      ∧ exec (.registerWrite 0 0 0x150000 v) s = exec (.leasecfgWrite v) s

/-- R408, R410, R411, R414, R418, R448, R449, R452, R458, R459, R469: the fault and event blocks take legal writes and set ERR on others; FB_RD rises to FB_WR
at most; a flush starts the next GEN; errors are counted, poison what they hit, wear out a stack, or end in the fatal state; a die reset ends the teams of its
layer. -/
def Obligations.ErrorsAreReported : Prop :=
  ∀ (fn c : Nat) (v : Word), c < 256 →
    let ck := ctxKey fn c
    let fb (s : State) (o : Nat) : Word := s.rget (kFb ck o)
    let err (s t : State) : Prop := s.Sets t [(kFb ck 0x1C, fb s 0x1C ||| 0x80000000)]
    let quiet (s : State) (n : Nat) : Prop := s.rbits (kEr 0x0C) 15 0 = 0 ∧ s.rget (kErrCnt n) ≠ 0xFFFFFFFF
    let few (s : State) : Prop := s.exhausted = [] ∧ ∀ p ∈ s.wearUE, p.2 < 7
    (v.getLsbD 0 = true → Happens (.faultBlockConfigWrite fn c 0 v)
        (fun s => (s.ctx ck).parked = [] ∧ fb s 0x0C = fb s 0x10)
        (fun s t => ∃ w, s.Sets t [(kFb ck 0, w)] ∧ bits w 31 5 = bits v 31 5 ∧ bits w 0 0 = 1)
      ∧ Happens (.faultBlockConfigWrite fn c 0 v) (fun s => fb s 0x0C ≠ fb s 0x10) err)
    ∧ Happens (.faultBlockConfigWrite fn c 8 v) (fun s => (fb s 0).getLsbD 0 = false ∧ bits v 3 0 ≤ 11)
        (fun s t => ∃ w, s.Sets t [(kFb ck 8, w)] ∧ bits w 3 0 = bits v 3 0)
    ∧ Happens (.faultBlockConfigWrite fn c 8 v) (fun s => (fb s 0).getLsbD 0 = true) err
    ∧ Happens (.faultBufferConsume fn c v) (fun s => (s.ctx ck).parked = [] ∧ (v - fb s 0x10).toNat ≤ (fb s 0x0C - fb s 0x10).toNat)
        (fun s t => s.Sets t [(kFb ck 0x10, v)])
    ∧ Happens (.faultBufferConsume fn c v) (fun s => (fb s 0x0C - fb s 0x10).toNat < (v - fb s 0x10).toNat) err
    ∧ Happens (.faultFlush fn c v) (fun s => bits v 31 24 = s.gen ck ∧ s.Parking ck ∧ ∀ p ∈ s.teams, p.2.handover = none)
        (fun s t => t.gen ck = (s.gen ck + 1) % 256 ∧ s.SameMem t
          ∧ ∀ r, r ∈ (t.ctx ck).parked ↔ r ∈ (s.ctx ck).parked ∧ bits (wd r 0) 31 24 ≠ s.gen ck)
    ∧ Happens (.faultFlush fn c v) (fun s => bits v 31 24 ≠ s.gen ck) err
    ∧ Happens (.eventQueueControlWrite fn 8 v) (fun _ => True)
        (fun s t => ∃ w, s.Sets t [(kEv fn 8, w)] ∧ bits w 15 8 = bits v 15 8
          ∧ bits w 3 0 = if s.rbits (kEv fn 0) 0 0 = 0 ∧ bits v 3 0 ≤ 8 then bits v 3 0 else s.rbits (kEv fn 8) 3 0)
    ∧ (v.getLsbD 0 = false → Happens (.eventQueueControlWrite fn 0 v) (fun _ => True)
        (fun s t => ∃ w, s.Sets t [(kEv fn 0, w)] ∧ bits w 31 6 = bits v 31 6 ∧ bits w 0 0 = 0))
    ∧ (∀ n, n < 10 → n ≠ 3 → Happens (.correctedError n) (fun s => quiet s n) (fun s t => s.Sets t [(kErrCnt n, s.rget (kErrCnt n) + 1)]))
    ∧ Happens (.correctedError 3) (fun s => quiet s 3)
        (fun s t => t.rget (kErrCnt 3) = s.rget (kErrCnt 3) + 1 ∧ s.SameMem t ∧ t.teams = s.teams
          ∧ ∃ b, t.bankCE = sput 0 s.bankCE b (min 0xFFFF (sget 0 s.bankCE b + 1)))
    ∧ (∀ line bkh hbm, let b := line / 2 ^ 24 * 32 + bankAt (line % 2 ^ 24 * 128) bkh
      Happens (.uncorrectedError (.line line bkh hbm)) (fun s => quiet s 8 ∧ few s)
        (fun s t => t.isPoison line = true ∧ t.mem = s.mem ∧ t.rget (kErrCnt 8) = s.rget (kErrCnt 8) + 1
          ∧ t.bankUE = if hbm = true ∧ line < winLine0 then sput 0 s.bankUE b (min 0xFF (sget 0 s.bankUE b + 1)) else s.bankUE)
      ∧ Happens (.uncorrectedError (.line line bkh true)) (fun s => quiet s 8 ∧ line < winLine0 ∧ line / 2 ^ 29 < 8 ∧ line / 2 ^ 29 ∉ s.worn.wornStacks
          ∧ (63 ≤ sget 0 s.wearUE (2 ^ 11 + b / 32) ∨ b ∈ s.exhausted))
        (fun s t => t.worn.wornStacks = line / 2 ^ 29 :: s.worn.wornStacks))
    ∧ (∀ (col slot th r layer : Nat) (tm : Team) (g : Grid), let k := teamKey col slot
      (∀ u ∈ [PoisonUnit.granule col slot r, .tile col slot r, .accumulator col slot r], ∀ e, Happens (.uncorrectedError u)
        (fun s => quiet s 8 ∧ few s ∧ s.team? k = some tm ∧ 64 * r < tm.spadLen ∧ r < tm.tsl ∧ r < 64 ∧ tm.engine = some e)
        (fun s t => t.rget (kErrCnt 8) = s.rget (kErrCnt 8) + 1 ∧ ∃ tm' e', t.team? k = some tm' ∧ tm'.engine = some e' ∧ tm'.spad = tm.spad
          ∧ (match u with | .granule .. => r ∈ tm'.spadPoison | .tile .. => (tm'.tile r).poison = true | _ => (sget {} e'.accs r).poison = true)))
      ∧ Happens (.uncorrectedError (.register col slot th r)) (fun s => quiet s 8 ∧ s.team? k = some tm ∧ th < tm.threads.length ∧ r < tm.n th)
        (fun s t => r ∈ (t.th k th).poison ∧ (∀ u q, t.reg k u q = s.reg k u q) ∧ t.rget (kErrCnt 8) = s.rget (kErrCnt 8) + 1)
      ∧ (1 ≤ layer → layer ≤ 4 →
        let lost (_ t : State) : Prop := t.lgate layer = 3 ∧ t.team? k = none ∧ ∃ g', sfind t.grids tm.grid = some g' ∧ g'.failed = true
        Happens (.dieReset layer) (fun s => s.team? k = some tm ∧ tm.layer? = some layer ∧ sfind s.grids tm.grid = some g ∧ s.ordered ∧ s.busy k tm = false) lost
        ∧ Happens (.coreHaltTimeout col layer)
          (fun s => slot < 32 ∧ s.team? k = some tm ∧ tm.layer? = some layer ∧ tm.halting = true ∧ tm.allHalted = false ∧ tm.haltAt + 20000 ≤ s.cyc
            ∧ sfind s.grids tm.grid = some g ∧ s.ordered ∧ s.busy k tm = false) lost))
    ∧ ∀ code ∈ [0x20F1, 0x20F3, 0x20F4, 0x20F5], Happens (.fatalError code) (fun _ => True)
        (fun s t => t.fatal = true ∧ t.rbits (kEr 0) 31 31 = 1
          ∧ (s.rbits (kEr 0) 31 31 = 0 → t.rbits (kEr 0) 7 0 = code % 256) ∧ ∀ f, f < 9 → (f, 49) ∈ t.msix)
end

