-- ==== Sys2Proof/Laws/Sparse.lean ====
section
/-! SUPPORT. Reading what was written in a sparse map, and the canonical form that memory keeps. -/

namespace Sys2Proof.Machine

/-! ### Read after write, for every list -/

@[simp] theorem sget_sins {α : Type} (d : α) (l : List (Nat × α)) (k j : Nat) (v : α) :
    sget d (sins l k v) j = if j = k then v else sget d l j := by
  induction l with
  | nil => simp only [sins, sget]; split <;> simp_all
  | cons e t ih =>
    obtain ⟨i, w⟩ := e
    simp only [sins]
    split
    · subst_vars; simp only [sget]; split <;> rfl
    · split
      · simp only [sget]; split
        · rfl
        · split
          · rw [if_neg (by omega), if_pos (by omega)]
          · rfl
      · simp only [sget, ih]
        by_cases h1 : j = k <;> by_cases h2 : j = i <;> simp_all

@[simp] theorem sfind_sins {α : Type} (l : List (Nat × α)) (k j : Nat) (v : α) :
    sfind (sins l k v) j = if j = k then some v else sfind l j := by
  induction l with
  | nil => simp only [sins, sfind]; split <;> simp_all
  | cons e t ih =>
    obtain ⟨i, w⟩ := e
    simp only [sins]
    split
    · subst_vars; simp only [sfind]; split <;> rfl
    · split
      · simp only [sfind]; split
        · rfl
        · split
          · rw [if_neg (by omega), if_pos (by omega)]
          · rfl
      · simp only [sfind, ih]
        by_cases h1 : j = k <;> by_cases h2 : j = i <;> simp_all

/-- A second write to a key replaces the first. -/
@[simp] theorem sins_sins {α : Type} (l : List (Nat × α)) (k : Nat) (v w : α) : sins (sins l k v) k w = sins l k w := by
  induction l with
  | nil => simp [sins]
  | cons e t ih =>
    obtain ⟨i, u⟩ := e
    simp only [sins]
    split
    · simp [sins]
    · split
      · simp [sins]
      · simp only [sins, ih]
        rw [if_neg ‹_›, if_neg ‹_›]

/-! ### The canonical form -/

/-- A bound below every key of a canonical map may be lowered. -/
theorem sok_weaken {α : Type} {p : Nat → α → Bool} {l : List (Nat × α)} {b c : Nat} (h : sok p (some b) l = true) (hc : c ≤ b) :
    sok p (some c) l = true := by
  cases l with
  | nil => rfl
  | cons e t =>
    simp only [sok, Bool.and_eq_true, decide_eq_true_eq] at *
    exact ⟨⟨by omega, h.1.2⟩, h.2⟩

theorem sok_none {α : Type} {p : Nat → α → Bool} {l : List (Nat × α)} {b : Nat} (h : sok p (some b) l = true) : sok p none l = true := by
  cases l with
  | nil => rfl
  | cons e t => simp only [sok, Bool.and_eq_true, decide_eq_true_eq] at *; exact ⟨⟨trivial, h.1.2⟩, h.2⟩

theorem sok_sins {α : Type} {p : Nat → α → Bool} {l : List (Nat × α)} {k : Nat} {v : α} (hp : p k v = true) :
    ∀ {b : Option Nat}, (∀ c, b = some c → c < k) → sok p b l = true → sok p b (sins l k v) = true := by
  induction l with
  | nil => intro b hb _; cases b <;> simp_all [sins, sok]
  | cons e t ih =>
    obtain ⟨i, w⟩ := e
    intro b hb h
    simp only [sok, Bool.and_eq_true] at h
    obtain ⟨⟨h1, h2⟩, h3⟩ := h
    simp only [sins]
    split
    · subst_vars
      simp only [sok, Bool.and_eq_true]
      exact ⟨⟨h1, hp⟩, h3⟩
    · split
      · simp only [sok, Bool.and_eq_true, decide_eq_true_eq]
        refine ⟨⟨?_, hp⟩, ⟨by omega, h2⟩, h3⟩
        cases b <;> simp_all
      · simp only [sok, Bool.and_eq_true]
        exact ⟨⟨h1, h2⟩, ih (by intro c hc; cases hc; omega) h3⟩

theorem sok_sdel {α : Type} {p : Nat → α → Bool} {l : List (Nat × α)} {k : Nat} :
    ∀ {b : Option Nat}, sok p b l = true → sok p b (sdel l k) = true := by
  induction l with
  | nil => intro b h; exact h
  | cons e t ih =>
    obtain ⟨i, w⟩ := e
    intro b h
    have h' := h
    simp only [sok, Bool.and_eq_true] at h
    obtain ⟨⟨h1, h2⟩, h3⟩ := h
    simp only [sdel]
    split
    · cases b with
      | none => exact sok_none h3
      | some c => exact sok_weaken h3 (by simp at h1; omega)
    · split
      · exact h'
      · simp only [sok, Bool.and_eq_true]; exact ⟨⟨h1, h2⟩, ih h3⟩

/-- A key that a canonical map is bounded above reads as the default. -/
theorem sget_below {α : Type} {p : Nat → α → Bool} {l : List (Nat × α)} {d : α} {b j : Nat} (h : sok p (some b) l = true) (hj : j ≤ b) :
    sget d l j = d := by
  cases l with
  | nil => rfl
  | cons e t =>
    simp only [sok, Bool.and_eq_true, decide_eq_true_eq] at h
    simp only [sget]
    rw [if_neg (by omega), if_pos (by omega)]

theorem sget_sdel {α : Type} {p : Nat → α → Bool} {l : List (Nat × α)} {d : α} {k j : Nat} :
    ∀ {b : Option Nat}, sok p b l = true → sget d (sdel l k) j = if j = k then d else sget d l j := by
  induction l with
  | nil => intro b _; simp [sdel, sget]
  | cons e t ih =>
    obtain ⟨i, w⟩ := e
    intro b h
    simp only [sok, Bool.and_eq_true] at h
    simp only [sdel]
    split
    · subst_vars
      split
      · subst_vars; exact sget_below h.2 (Nat.le_refl _)
      · simp only [sget]
        split
        · exact absurd ‹_› ‹_›
        · split
          · exact sget_below h.2 (by omega)
          · rfl
    · split
      · by_cases h1 : j = k
        · subst_vars; simp only [sget]; rw [if_neg (by omega), if_pos (by omega)]; simp
        · rw [if_neg h1]
      · simp only [sget, ih h.2]
        by_cases h1 : j = k <;> by_cases h2 : j = i <;> simp_all

namespace Memory

@[simp] theorem wf_nil : Memory.wf [] = true := rfl

/-- A write keeps memory canonical. -/
theorem wf_put {m : Memory} (h : m.wf = true) (a : Nat) (b : Byte) : (m.put a b).wf = true := by
  simp only [Memory.put, sput, Memory.wf] at *
  split
  · exact sok_sdel h
  · exact sok_sins (by simp_all) (by simp) h

theorem wf_putList {m : Memory} (h : m.wf = true) (a : Nat) (l : List Byte) : (m.putList a l).wf = true := by
  induction l generalizing m a with
  | nil => exact h
  | cons b t ih => exact ih (wf_put h a b) (a + 1)

/-- A read after a write to the same byte gives the value written; every other byte reads as before. -/
theorem get_put {m : Memory} (h : m.wf = true) (a c : Nat) (b : Byte) : (m.put a b).get c = if c = a then b else m.get c := by
  simp only [Memory.put, sput, Memory.get]
  split
  · subst_vars; exact sget_sdel h
  · simp

end Memory

end Sys2Proof.Machine
end

