-- ==== Sys2Proof/Laws/State.lean ====
section
/-! SUPPORT. The named updates of State, field by field: each changes its own field and no other. -/

namespace Sys2Proof.Machine

/-! ### setTeam -/

@[simp] theorem State.setTeam_cyc (s : State) (k : Nat) (tm : Team) : (s.setTeam k tm).cyc = s.cyc := rfl
@[simp] theorem State.setTeam_agenda (s : State) (k : Nat) (tm : Team) : (s.setTeam k tm).agenda = s.agenda := rfl
@[simp] theorem State.setTeam_freeCount (s : State) (k : Nat) (tm : Team) : (s.setTeam k tm).freeCount = s.freeCount := rfl
@[simp] theorem State.setTeam_cur (s : State) (k : Nat) (tm : Team) : (s.setTeam k tm).cur = s.cur := rfl
@[simp] theorem State.setTeam_cfgw (s : State) (k : Nat) (tm : Team) : (s.setTeam k tm).cfgw = s.cfgw := rfl
@[simp] theorem State.setTeam_powered (s : State) (k : Nat) (tm : Team) : (s.setTeam k tm).powered = s.powered := rfl
@[simp] theorem State.setTeam_fatal (s : State) (k : Nat) (tm : Team) : (s.setTeam k tm).fatal = s.fatal := rfl
@[simp] theorem State.setTeam_csr (s : State) (k : Nat) (tm : Team) : (s.setTeam k tm).csr = s.csr := rfl
@[simp] theorem State.setTeam_mem (s : State) (k : Nat) (tm : Team) : (s.setTeam k tm).mem = s.mem := rfl
@[simp] theorem State.setTeam_poison (s : State) (k : Nat) (tm : Team) : (s.setTeam k tm).poison = s.poison := rfl
@[simp] theorem State.setTeam_dir (s : State) (k : Nat) (tm : Team) : (s.setTeam k tm).dir = s.dir := rfl
@[simp] theorem State.setTeam_win (s : State) (k : Nat) (tm : Team) : (s.setTeam k tm).win = s.win := rfl
@[simp] theorem State.setTeam_wins (s : State) (k : Nat) (tm : Team) : (s.setTeam k tm).wins = s.wins := rfl
@[simp] theorem State.setTeam_cols (s : State) (k : Nat) (tm : Team) : (s.setTeam k tm).cols = s.cols := rfl
@[simp] theorem State.setTeam_ctxs (s : State) (k : Nat) (tm : Team) : (s.setTeam k tm).ctxs = s.ctxs := rfl
@[simp] theorem State.setTeam_grids (s : State) (k : Nat) (tm : Team) : (s.setTeam k tm).grids = s.grids := rfl
@[simp] theorem State.setTeam_gridNext (s : State) (k : Nat) (tm : Team) : (s.setTeam k tm).gridNext = s.gridNext := rfl
@[simp] theorem State.setTeam_reqs (s : State) (k : Nat) (tm : Team) : (s.setTeam k tm).reqs = s.reqs := rfl
@[simp] theorem State.setTeam_idNext (s : State) (k : Nat) (tm : Team) : (s.setTeam k tm).idNext = s.idNext := rfl
@[simp] theorem State.setTeam_slewPtr (s : State) (k : Nat) (tm : Team) : (s.setTeam k tm).slewPtr = s.slewPtr := rfl
@[simp] theorem State.setTeam_slewFree (s : State) (k : Nat) (tm : Team) : (s.setTeam k tm).slewFree = s.slewFree := rfl
@[simp] theorem State.setTeam_admits (s : State) (k : Nat) (tm : Team) : (s.setTeam k tm).admits = s.admits := rfl
@[simp] theorem State.setTeam_coopGuard (s : State) (k : Nat) (tm : Team) : (s.setTeam k tm).coopGuard = s.coopGuard := rfl
@[simp] theorem State.setTeam_heldEvents (s : State) (k : Nat) (tm : Team) : (s.setTeam k tm).heldEvents = s.heldEvents := rfl
@[simp] theorem State.setTeam_evRetired (s : State) (k : Nat) (tm : Team) : (s.setTeam k tm).evRetired = s.evRetired := rfl
@[simp] theorem State.setTeam_outbox (s : State) (k : Nat) (tm : Team) : (s.setTeam k tm).outbox = s.outbox := rfl
@[simp] theorem State.setTeam_msix (s : State) (k : Nat) (tm : Team) : (s.setTeam k tm).msix = s.msix := rfl
@[simp] theorem State.setTeam_peerMoves (s : State) (k : Nat) (tm : Team) : (s.setTeam k tm).peerMoves = s.peerMoves := rfl
@[simp] theorem State.setTeam_candidates (s : State) (k : Nat) (tm : Team) : (s.setTeam k tm).candidates = s.candidates := rfl
@[simp] theorem State.setTeam_stakeOps (s : State) (k : Nat) (tm : Team) : (s.setTeam k tm).stakeOps = s.stakeOps := rfl
@[simp] theorem State.setTeam_laneGroups (s : State) (k : Nat) (tm : Team) : (s.setTeam k tm).laneGroups = s.laneGroups := rfl
@[simp] theorem State.setTeam_dueAt (s : State) (k : Nat) (tm : Team) : (s.setTeam k tm).dueAt = s.dueAt := rfl
@[simp] theorem State.setTeam_busyAt (s : State) (k : Nat) (tm : Team) : (s.setTeam k tm).busyAt = s.busyAt := rfl
@[simp] theorem State.setTeam_rowSwaps (s : State) (k : Nat) (tm : Team) : (s.setTeam k tm).rowSwaps = s.rowSwaps := rfl
@[simp] theorem State.setTeam_exhausted (s : State) (k : Nat) (tm : Team) : (s.setTeam k tm).exhausted = s.exhausted := rfl
@[simp] theorem State.setTeam_bankCE (s : State) (k : Nat) (tm : Team) : (s.setTeam k tm).bankCE = s.bankCE := rfl
@[simp] theorem State.setTeam_bankUE (s : State) (k : Nat) (tm : Team) : (s.setTeam k tm).bankUE = s.bankUE := rfl
@[simp] theorem State.setTeam_wearUE (s : State) (k : Nat) (tm : Team) : (s.setTeam k tm).wearUE = s.wearUE := rfl
@[simp] theorem State.setTeam_mraOps (s : State) (k : Nat) (tm : Team) : (s.setTeam k tm).mraOps = s.mraOps := rfl
@[simp] theorem State.setTeam_worn (s : State) (k : Nat) (tm : Team) : (s.setTeam k tm).worn = s.worn := rfl
@[simp] theorem State.setTeam_rowActs (s : State) (k : Nat) (tm : Team) : (s.setTeam k tm).rowActs = s.rowActs := rfl
@[simp] theorem State.setTeam_refreshAt (s : State) (k : Nat) (tm : Team) : (s.setTeam k tm).refreshAt = s.refreshAt := rfl
@[simp] theorem State.setTeam_excursion (s : State) (k : Nat) (tm : Team) : (s.setTeam k tm).excursion = s.excursion := rfl
@[simp] theorem State.setTeam_excursionBack (s : State) (k : Nat) (tm : Team) : (s.setTeam k tm).excursionBack = s.excursionBack := rfl
@[simp] theorem State.setTeam_tripFrom (s : State) (k : Nat) (tm : Team) : (s.setTeam k tm).tripFrom = s.tripFrom := rfl
@[simp] theorem State.setTeam_hardTrip (s : State) (k : Nat) (tm : Team) : (s.setTeam k tm).hardTrip = s.hardTrip := rfl
@[simp] theorem State.setTeam_tripQueue (s : State) (k : Nat) (tm : Team) : (s.setTeam k tm).tripQueue = s.tripQueue := rfl
@[simp] theorem State.setTeam_dups (s : State) (k : Nat) (tm : Team) : (s.setTeam k tm).dups = s.dups := rfl
@[simp] theorem State.setTeam_lostRoutes (s : State) (k : Nat) (tm : Team) : (s.setTeam k tm).lostRoutes = s.lostRoutes := rfl
@[simp] theorem State.setTeam_hostUp (s : State) (k : Nat) (tm : Team) : (s.setTeam k tm).hostUp = s.hostUp := rfl
@[simp] theorem State.setTeam_nonce (s : State) (k : Nat) (tm : Team) : (s.setTeam k tm).nonce = s.nonce := rfl
@[simp] theorem State.setTeam_ckpt (s : State) (k : Nat) (tm : Team) : (s.setTeam k tm).ckpt = s.ckpt := rfl
@[simp] theorem State.setTeam_lostLinks (s : State) (k : Nat) (tm : Team) : (s.setTeam k tm).lostLinks = s.lostLinks := rfl
@[simp] theorem State.setTeam_bootWorn (s : State) (k : Nat) (tm : Team) : (s.setTeam k tm).bootWorn = s.bootWorn := rfl
@[simp] theorem State.setTeam_hoopFree (s : State) (k : Nat) (tm : Team) : (s.setTeam k tm).hoopFree = s.hoopFree := rfl
@[simp] theorem State.setTeam_hoopNext (s : State) (k : Nat) (tm : Team) : (s.setTeam k tm).hoopNext = s.hoopNext := rfl
@[simp] theorem State.setTeam_hoopAt (s : State) (k : Nat) (tm : Team) : (s.setTeam k tm).hoopAt = s.hoopAt := rfl
@[simp] theorem State.setTeam_booting (s : State) (k : Nat) (tm : Team) : (s.setTeam k tm).booting = s.booting := rfl
@[simp] theorem State.setTeam_measured (s : State) (k : Nat) (tm : Team) : (s.setTeam k tm).measured = s.measured := rfl
@[simp] theorem State.setTeam_pageReqs (s : State) (k : Nat) (tm : Team) : (s.setTeam k tm).pageReqs = s.pageReqs := rfl
@[simp] theorem State.setTeam_atsAsked (s : State) (k : Nat) (tm : Team) : (s.setTeam k tm).atsAsked = s.atsAsked := rfl
@[simp] theorem State.setTeam_puts (s : State) (k : Nat) (tm : Team) : (s.setTeam k tm).puts = s.puts := rfl
@[simp] theorem State.setTeam_engTlb (s : State) (k : Nat) (tm : Team) : (s.setTeam k tm).engTlb = s.engTlb := rfl
@[simp] theorem State.setTeam_hostQueue (s : State) (k : Nat) (tm : Team) : (s.setTeam k tm).hostQueue = s.hostQueue := rfl
@[simp] theorem State.setTeam_guard (s : State) (k : Nat) (tm : Team) : (s.setTeam k tm).guard = s.guard := rfl
@[simp] theorem State.setTeam_members (s : State) (k : Nat) (tm : Team) : (s.setTeam k tm).members = s.members := rfl
@[simp] theorem State.setTeam_frozenPeers (s : State) (k : Nat) (tm : Team) : (s.setTeam k tm).frozenPeers = s.frozenPeers := rfl

/-! ### rset -/

@[simp] theorem State.rset_cyc (s : State) (k : Nat) (v : Word) : (s.rset k v).cyc = s.cyc := rfl
@[simp] theorem State.rset_agenda (s : State) (k : Nat) (v : Word) : (s.rset k v).agenda = s.agenda := rfl
@[simp] theorem State.rset_freeCount (s : State) (k : Nat) (v : Word) : (s.rset k v).freeCount = s.freeCount := rfl
@[simp] theorem State.rset_cur (s : State) (k : Nat) (v : Word) : (s.rset k v).cur = s.cur := rfl
@[simp] theorem State.rset_cfgw (s : State) (k : Nat) (v : Word) : (s.rset k v).cfgw = s.cfgw := rfl
@[simp] theorem State.rset_powered (s : State) (k : Nat) (v : Word) : (s.rset k v).powered = s.powered := rfl
@[simp] theorem State.rset_fatal (s : State) (k : Nat) (v : Word) : (s.rset k v).fatal = s.fatal := rfl
@[simp] theorem State.rset_mem (s : State) (k : Nat) (v : Word) : (s.rset k v).mem = s.mem := rfl
@[simp] theorem State.rset_poison (s : State) (k : Nat) (v : Word) : (s.rset k v).poison = s.poison := rfl
@[simp] theorem State.rset_dir (s : State) (k : Nat) (v : Word) : (s.rset k v).dir = s.dir := rfl
@[simp] theorem State.rset_win (s : State) (k : Nat) (v : Word) : (s.rset k v).win = s.win := rfl
@[simp] theorem State.rset_wins (s : State) (k : Nat) (v : Word) : (s.rset k v).wins = s.wins := rfl
@[simp] theorem State.rset_cols (s : State) (k : Nat) (v : Word) : (s.rset k v).cols = s.cols := rfl
@[simp] theorem State.rset_ctxs (s : State) (k : Nat) (v : Word) : (s.rset k v).ctxs = s.ctxs := rfl
@[simp] theorem State.rset_grids (s : State) (k : Nat) (v : Word) : (s.rset k v).grids = s.grids := rfl
@[simp] theorem State.rset_gridNext (s : State) (k : Nat) (v : Word) : (s.rset k v).gridNext = s.gridNext := rfl
@[simp] theorem State.rset_teams (s : State) (k : Nat) (v : Word) : (s.rset k v).teams = s.teams := rfl
@[simp] theorem State.rset_reqs (s : State) (k : Nat) (v : Word) : (s.rset k v).reqs = s.reqs := rfl
@[simp] theorem State.rset_idNext (s : State) (k : Nat) (v : Word) : (s.rset k v).idNext = s.idNext := rfl
@[simp] theorem State.rset_slewPtr (s : State) (k : Nat) (v : Word) : (s.rset k v).slewPtr = s.slewPtr := rfl
@[simp] theorem State.rset_slewFree (s : State) (k : Nat) (v : Word) : (s.rset k v).slewFree = s.slewFree := rfl
@[simp] theorem State.rset_admits (s : State) (k : Nat) (v : Word) : (s.rset k v).admits = s.admits := rfl
@[simp] theorem State.rset_coopGuard (s : State) (k : Nat) (v : Word) : (s.rset k v).coopGuard = s.coopGuard := rfl
@[simp] theorem State.rset_heldEvents (s : State) (k : Nat) (v : Word) : (s.rset k v).heldEvents = s.heldEvents := rfl
@[simp] theorem State.rset_evRetired (s : State) (k : Nat) (v : Word) : (s.rset k v).evRetired = s.evRetired := rfl
@[simp] theorem State.rset_outbox (s : State) (k : Nat) (v : Word) : (s.rset k v).outbox = s.outbox := rfl
@[simp] theorem State.rset_msix (s : State) (k : Nat) (v : Word) : (s.rset k v).msix = s.msix := rfl
@[simp] theorem State.rset_peerMoves (s : State) (k : Nat) (v : Word) : (s.rset k v).peerMoves = s.peerMoves := rfl
@[simp] theorem State.rset_candidates (s : State) (k : Nat) (v : Word) : (s.rset k v).candidates = s.candidates := rfl
@[simp] theorem State.rset_stakeOps (s : State) (k : Nat) (v : Word) : (s.rset k v).stakeOps = s.stakeOps := rfl
@[simp] theorem State.rset_laneGroups (s : State) (k : Nat) (v : Word) : (s.rset k v).laneGroups = s.laneGroups := rfl
@[simp] theorem State.rset_dueAt (s : State) (k : Nat) (v : Word) : (s.rset k v).dueAt = s.dueAt := rfl
@[simp] theorem State.rset_busyAt (s : State) (k : Nat) (v : Word) : (s.rset k v).busyAt = s.busyAt := rfl
@[simp] theorem State.rset_rowSwaps (s : State) (k : Nat) (v : Word) : (s.rset k v).rowSwaps = s.rowSwaps := rfl
@[simp] theorem State.rset_exhausted (s : State) (k : Nat) (v : Word) : (s.rset k v).exhausted = s.exhausted := rfl
@[simp] theorem State.rset_bankCE (s : State) (k : Nat) (v : Word) : (s.rset k v).bankCE = s.bankCE := rfl
@[simp] theorem State.rset_bankUE (s : State) (k : Nat) (v : Word) : (s.rset k v).bankUE = s.bankUE := rfl
@[simp] theorem State.rset_wearUE (s : State) (k : Nat) (v : Word) : (s.rset k v).wearUE = s.wearUE := rfl
@[simp] theorem State.rset_mraOps (s : State) (k : Nat) (v : Word) : (s.rset k v).mraOps = s.mraOps := rfl
@[simp] theorem State.rset_worn (s : State) (k : Nat) (v : Word) : (s.rset k v).worn = s.worn := rfl
@[simp] theorem State.rset_rowActs (s : State) (k : Nat) (v : Word) : (s.rset k v).rowActs = s.rowActs := rfl
@[simp] theorem State.rset_refreshAt (s : State) (k : Nat) (v : Word) : (s.rset k v).refreshAt = s.refreshAt := rfl
@[simp] theorem State.rset_excursion (s : State) (k : Nat) (v : Word) : (s.rset k v).excursion = s.excursion := rfl
@[simp] theorem State.rset_excursionBack (s : State) (k : Nat) (v : Word) : (s.rset k v).excursionBack = s.excursionBack := rfl
@[simp] theorem State.rset_tripFrom (s : State) (k : Nat) (v : Word) : (s.rset k v).tripFrom = s.tripFrom := rfl
@[simp] theorem State.rset_hardTrip (s : State) (k : Nat) (v : Word) : (s.rset k v).hardTrip = s.hardTrip := rfl
@[simp] theorem State.rset_tripQueue (s : State) (k : Nat) (v : Word) : (s.rset k v).tripQueue = s.tripQueue := rfl
@[simp] theorem State.rset_dups (s : State) (k : Nat) (v : Word) : (s.rset k v).dups = s.dups := rfl
@[simp] theorem State.rset_lostRoutes (s : State) (k : Nat) (v : Word) : (s.rset k v).lostRoutes = s.lostRoutes := rfl
@[simp] theorem State.rset_hostUp (s : State) (k : Nat) (v : Word) : (s.rset k v).hostUp = s.hostUp := rfl
@[simp] theorem State.rset_nonce (s : State) (k : Nat) (v : Word) : (s.rset k v).nonce = s.nonce := rfl
@[simp] theorem State.rset_ckpt (s : State) (k : Nat) (v : Word) : (s.rset k v).ckpt = s.ckpt := rfl
@[simp] theorem State.rset_lostLinks (s : State) (k : Nat) (v : Word) : (s.rset k v).lostLinks = s.lostLinks := rfl
@[simp] theorem State.rset_bootWorn (s : State) (k : Nat) (v : Word) : (s.rset k v).bootWorn = s.bootWorn := rfl
@[simp] theorem State.rset_hoopFree (s : State) (k : Nat) (v : Word) : (s.rset k v).hoopFree = s.hoopFree := rfl
@[simp] theorem State.rset_hoopNext (s : State) (k : Nat) (v : Word) : (s.rset k v).hoopNext = s.hoopNext := rfl
@[simp] theorem State.rset_hoopAt (s : State) (k : Nat) (v : Word) : (s.rset k v).hoopAt = s.hoopAt := rfl
@[simp] theorem State.rset_booting (s : State) (k : Nat) (v : Word) : (s.rset k v).booting = s.booting := rfl
@[simp] theorem State.rset_measured (s : State) (k : Nat) (v : Word) : (s.rset k v).measured = s.measured := rfl
@[simp] theorem State.rset_pageReqs (s : State) (k : Nat) (v : Word) : (s.rset k v).pageReqs = s.pageReqs := rfl
@[simp] theorem State.rset_atsAsked (s : State) (k : Nat) (v : Word) : (s.rset k v).atsAsked = s.atsAsked := rfl
@[simp] theorem State.rset_puts (s : State) (k : Nat) (v : Word) : (s.rset k v).puts = s.puts := rfl
@[simp] theorem State.rset_engTlb (s : State) (k : Nat) (v : Word) : (s.rset k v).engTlb = s.engTlb := rfl
@[simp] theorem State.rset_hostQueue (s : State) (k : Nat) (v : Word) : (s.rset k v).hostQueue = s.hostQueue := rfl
@[simp] theorem State.rset_guard (s : State) (k : Nat) (v : Word) : (s.rset k v).guard = s.guard := rfl
@[simp] theorem State.rset_members (s : State) (k : Nat) (v : Word) : (s.rset k v).members = s.members := rfl
@[simp] theorem State.rset_frozenPeers (s : State) (k : Nat) (v : Word) : (s.rset k v).frozenPeers = s.frozenPeers := rfl

/-! ### setCol -/

@[simp] theorem State.setCol_cyc (s : State) (c : Nat) (x : Column) : (s.setCol c x).cyc = s.cyc := rfl
@[simp] theorem State.setCol_agenda (s : State) (c : Nat) (x : Column) : (s.setCol c x).agenda = s.agenda := rfl
@[simp] theorem State.setCol_freeCount (s : State) (c : Nat) (x : Column) : (s.setCol c x).freeCount = s.freeCount := rfl
@[simp] theorem State.setCol_cur (s : State) (c : Nat) (x : Column) : (s.setCol c x).cur = s.cur := rfl
@[simp] theorem State.setCol_cfgw (s : State) (c : Nat) (x : Column) : (s.setCol c x).cfgw = s.cfgw := rfl
@[simp] theorem State.setCol_powered (s : State) (c : Nat) (x : Column) : (s.setCol c x).powered = s.powered := rfl
@[simp] theorem State.setCol_fatal (s : State) (c : Nat) (x : Column) : (s.setCol c x).fatal = s.fatal := rfl
@[simp] theorem State.setCol_csr (s : State) (c : Nat) (x : Column) : (s.setCol c x).csr = s.csr := rfl
@[simp] theorem State.setCol_mem (s : State) (c : Nat) (x : Column) : (s.setCol c x).mem = s.mem := rfl
@[simp] theorem State.setCol_poison (s : State) (c : Nat) (x : Column) : (s.setCol c x).poison = s.poison := rfl
@[simp] theorem State.setCol_dir (s : State) (c : Nat) (x : Column) : (s.setCol c x).dir = s.dir := rfl
@[simp] theorem State.setCol_win (s : State) (c : Nat) (x : Column) : (s.setCol c x).win = s.win := rfl
@[simp] theorem State.setCol_wins (s : State) (c : Nat) (x : Column) : (s.setCol c x).wins = s.wins := rfl
@[simp] theorem State.setCol_ctxs (s : State) (c : Nat) (x : Column) : (s.setCol c x).ctxs = s.ctxs := rfl
@[simp] theorem State.setCol_grids (s : State) (c : Nat) (x : Column) : (s.setCol c x).grids = s.grids := rfl
@[simp] theorem State.setCol_gridNext (s : State) (c : Nat) (x : Column) : (s.setCol c x).gridNext = s.gridNext := rfl
@[simp] theorem State.setCol_teams (s : State) (c : Nat) (x : Column) : (s.setCol c x).teams = s.teams := rfl
@[simp] theorem State.setCol_reqs (s : State) (c : Nat) (x : Column) : (s.setCol c x).reqs = s.reqs := rfl
@[simp] theorem State.setCol_idNext (s : State) (c : Nat) (x : Column) : (s.setCol c x).idNext = s.idNext := rfl
@[simp] theorem State.setCol_slewPtr (s : State) (c : Nat) (x : Column) : (s.setCol c x).slewPtr = s.slewPtr := rfl
@[simp] theorem State.setCol_slewFree (s : State) (c : Nat) (x : Column) : (s.setCol c x).slewFree = s.slewFree := rfl
@[simp] theorem State.setCol_admits (s : State) (c : Nat) (x : Column) : (s.setCol c x).admits = s.admits := rfl
@[simp] theorem State.setCol_coopGuard (s : State) (c : Nat) (x : Column) : (s.setCol c x).coopGuard = s.coopGuard := rfl
@[simp] theorem State.setCol_heldEvents (s : State) (c : Nat) (x : Column) : (s.setCol c x).heldEvents = s.heldEvents := rfl
@[simp] theorem State.setCol_evRetired (s : State) (c : Nat) (x : Column) : (s.setCol c x).evRetired = s.evRetired := rfl
@[simp] theorem State.setCol_outbox (s : State) (c : Nat) (x : Column) : (s.setCol c x).outbox = s.outbox := rfl
@[simp] theorem State.setCol_msix (s : State) (c : Nat) (x : Column) : (s.setCol c x).msix = s.msix := rfl
@[simp] theorem State.setCol_peerMoves (s : State) (c : Nat) (x : Column) : (s.setCol c x).peerMoves = s.peerMoves := rfl
@[simp] theorem State.setCol_candidates (s : State) (c : Nat) (x : Column) : (s.setCol c x).candidates = s.candidates := rfl
@[simp] theorem State.setCol_stakeOps (s : State) (c : Nat) (x : Column) : (s.setCol c x).stakeOps = s.stakeOps := rfl
@[simp] theorem State.setCol_laneGroups (s : State) (c : Nat) (x : Column) : (s.setCol c x).laneGroups = s.laneGroups := rfl
@[simp] theorem State.setCol_dueAt (s : State) (c : Nat) (x : Column) : (s.setCol c x).dueAt = s.dueAt := rfl
@[simp] theorem State.setCol_busyAt (s : State) (c : Nat) (x : Column) : (s.setCol c x).busyAt = s.busyAt := rfl
@[simp] theorem State.setCol_rowSwaps (s : State) (c : Nat) (x : Column) : (s.setCol c x).rowSwaps = s.rowSwaps := rfl
@[simp] theorem State.setCol_exhausted (s : State) (c : Nat) (x : Column) : (s.setCol c x).exhausted = s.exhausted := rfl
@[simp] theorem State.setCol_bankCE (s : State) (c : Nat) (x : Column) : (s.setCol c x).bankCE = s.bankCE := rfl
@[simp] theorem State.setCol_bankUE (s : State) (c : Nat) (x : Column) : (s.setCol c x).bankUE = s.bankUE := rfl
@[simp] theorem State.setCol_wearUE (s : State) (c : Nat) (x : Column) : (s.setCol c x).wearUE = s.wearUE := rfl
@[simp] theorem State.setCol_mraOps (s : State) (c : Nat) (x : Column) : (s.setCol c x).mraOps = s.mraOps := rfl
@[simp] theorem State.setCol_worn (s : State) (c : Nat) (x : Column) : (s.setCol c x).worn = s.worn := rfl
@[simp] theorem State.setCol_rowActs (s : State) (c : Nat) (x : Column) : (s.setCol c x).rowActs = s.rowActs := rfl
@[simp] theorem State.setCol_refreshAt (s : State) (c : Nat) (x : Column) : (s.setCol c x).refreshAt = s.refreshAt := rfl
@[simp] theorem State.setCol_excursion (s : State) (c : Nat) (x : Column) : (s.setCol c x).excursion = s.excursion := rfl
@[simp] theorem State.setCol_excursionBack (s : State) (c : Nat) (x : Column) : (s.setCol c x).excursionBack = s.excursionBack := rfl
@[simp] theorem State.setCol_tripFrom (s : State) (c : Nat) (x : Column) : (s.setCol c x).tripFrom = s.tripFrom := rfl
@[simp] theorem State.setCol_hardTrip (s : State) (c : Nat) (x : Column) : (s.setCol c x).hardTrip = s.hardTrip := rfl
@[simp] theorem State.setCol_tripQueue (s : State) (c : Nat) (x : Column) : (s.setCol c x).tripQueue = s.tripQueue := rfl
@[simp] theorem State.setCol_dups (s : State) (c : Nat) (x : Column) : (s.setCol c x).dups = s.dups := rfl
@[simp] theorem State.setCol_lostRoutes (s : State) (c : Nat) (x : Column) : (s.setCol c x).lostRoutes = s.lostRoutes := rfl
@[simp] theorem State.setCol_hostUp (s : State) (c : Nat) (x : Column) : (s.setCol c x).hostUp = s.hostUp := rfl
@[simp] theorem State.setCol_nonce (s : State) (c : Nat) (x : Column) : (s.setCol c x).nonce = s.nonce := rfl
@[simp] theorem State.setCol_ckpt (s : State) (c : Nat) (x : Column) : (s.setCol c x).ckpt = s.ckpt := rfl
@[simp] theorem State.setCol_lostLinks (s : State) (c : Nat) (x : Column) : (s.setCol c x).lostLinks = s.lostLinks := rfl
@[simp] theorem State.setCol_bootWorn (s : State) (c : Nat) (x : Column) : (s.setCol c x).bootWorn = s.bootWorn := rfl
@[simp] theorem State.setCol_hoopFree (s : State) (c : Nat) (x : Column) : (s.setCol c x).hoopFree = s.hoopFree := rfl
@[simp] theorem State.setCol_hoopNext (s : State) (c : Nat) (x : Column) : (s.setCol c x).hoopNext = s.hoopNext := rfl
@[simp] theorem State.setCol_hoopAt (s : State) (c : Nat) (x : Column) : (s.setCol c x).hoopAt = s.hoopAt := rfl
@[simp] theorem State.setCol_booting (s : State) (c : Nat) (x : Column) : (s.setCol c x).booting = s.booting := rfl
@[simp] theorem State.setCol_measured (s : State) (c : Nat) (x : Column) : (s.setCol c x).measured = s.measured := rfl
@[simp] theorem State.setCol_pageReqs (s : State) (c : Nat) (x : Column) : (s.setCol c x).pageReqs = s.pageReqs := rfl
@[simp] theorem State.setCol_atsAsked (s : State) (c : Nat) (x : Column) : (s.setCol c x).atsAsked = s.atsAsked := rfl
@[simp] theorem State.setCol_puts (s : State) (c : Nat) (x : Column) : (s.setCol c x).puts = s.puts := rfl
@[simp] theorem State.setCol_engTlb (s : State) (c : Nat) (x : Column) : (s.setCol c x).engTlb = s.engTlb := rfl
@[simp] theorem State.setCol_hostQueue (s : State) (c : Nat) (x : Column) : (s.setCol c x).hostQueue = s.hostQueue := rfl
@[simp] theorem State.setCol_guard (s : State) (c : Nat) (x : Column) : (s.setCol c x).guard = s.guard := rfl
@[simp] theorem State.setCol_members (s : State) (c : Nat) (x : Column) : (s.setCol c x).members = s.members := rfl
@[simp] theorem State.setCol_frozenPeers (s : State) (c : Nat) (x : Column) : (s.setCol c x).frozenPeers = s.frozenPeers := rfl

/-! ### setCtx -/

@[simp] theorem State.setCtx_cyc (s : State) (c : Nat) (x : Ctx) : (s.setCtx c x).cyc = s.cyc := rfl
@[simp] theorem State.setCtx_agenda (s : State) (c : Nat) (x : Ctx) : (s.setCtx c x).agenda = s.agenda := rfl
@[simp] theorem State.setCtx_freeCount (s : State) (c : Nat) (x : Ctx) : (s.setCtx c x).freeCount = s.freeCount := rfl
@[simp] theorem State.setCtx_cur (s : State) (c : Nat) (x : Ctx) : (s.setCtx c x).cur = s.cur := rfl
@[simp] theorem State.setCtx_cfgw (s : State) (c : Nat) (x : Ctx) : (s.setCtx c x).cfgw = s.cfgw := rfl
@[simp] theorem State.setCtx_powered (s : State) (c : Nat) (x : Ctx) : (s.setCtx c x).powered = s.powered := rfl
@[simp] theorem State.setCtx_fatal (s : State) (c : Nat) (x : Ctx) : (s.setCtx c x).fatal = s.fatal := rfl
@[simp] theorem State.setCtx_csr (s : State) (c : Nat) (x : Ctx) : (s.setCtx c x).csr = s.csr := rfl
@[simp] theorem State.setCtx_mem (s : State) (c : Nat) (x : Ctx) : (s.setCtx c x).mem = s.mem := rfl
@[simp] theorem State.setCtx_poison (s : State) (c : Nat) (x : Ctx) : (s.setCtx c x).poison = s.poison := rfl
@[simp] theorem State.setCtx_dir (s : State) (c : Nat) (x : Ctx) : (s.setCtx c x).dir = s.dir := rfl
@[simp] theorem State.setCtx_win (s : State) (c : Nat) (x : Ctx) : (s.setCtx c x).win = s.win := rfl
@[simp] theorem State.setCtx_wins (s : State) (c : Nat) (x : Ctx) : (s.setCtx c x).wins = s.wins := rfl
@[simp] theorem State.setCtx_cols (s : State) (c : Nat) (x : Ctx) : (s.setCtx c x).cols = s.cols := rfl
@[simp] theorem State.setCtx_grids (s : State) (c : Nat) (x : Ctx) : (s.setCtx c x).grids = s.grids := rfl
@[simp] theorem State.setCtx_gridNext (s : State) (c : Nat) (x : Ctx) : (s.setCtx c x).gridNext = s.gridNext := rfl
@[simp] theorem State.setCtx_teams (s : State) (c : Nat) (x : Ctx) : (s.setCtx c x).teams = s.teams := rfl
@[simp] theorem State.setCtx_reqs (s : State) (c : Nat) (x : Ctx) : (s.setCtx c x).reqs = s.reqs := rfl
@[simp] theorem State.setCtx_idNext (s : State) (c : Nat) (x : Ctx) : (s.setCtx c x).idNext = s.idNext := rfl
@[simp] theorem State.setCtx_slewPtr (s : State) (c : Nat) (x : Ctx) : (s.setCtx c x).slewPtr = s.slewPtr := rfl
@[simp] theorem State.setCtx_slewFree (s : State) (c : Nat) (x : Ctx) : (s.setCtx c x).slewFree = s.slewFree := rfl
@[simp] theorem State.setCtx_admits (s : State) (c : Nat) (x : Ctx) : (s.setCtx c x).admits = s.admits := rfl
@[simp] theorem State.setCtx_coopGuard (s : State) (c : Nat) (x : Ctx) : (s.setCtx c x).coopGuard = s.coopGuard := rfl
@[simp] theorem State.setCtx_heldEvents (s : State) (c : Nat) (x : Ctx) : (s.setCtx c x).heldEvents = s.heldEvents := rfl
@[simp] theorem State.setCtx_evRetired (s : State) (c : Nat) (x : Ctx) : (s.setCtx c x).evRetired = s.evRetired := rfl
@[simp] theorem State.setCtx_outbox (s : State) (c : Nat) (x : Ctx) : (s.setCtx c x).outbox = s.outbox := rfl
@[simp] theorem State.setCtx_msix (s : State) (c : Nat) (x : Ctx) : (s.setCtx c x).msix = s.msix := rfl
@[simp] theorem State.setCtx_peerMoves (s : State) (c : Nat) (x : Ctx) : (s.setCtx c x).peerMoves = s.peerMoves := rfl
@[simp] theorem State.setCtx_candidates (s : State) (c : Nat) (x : Ctx) : (s.setCtx c x).candidates = s.candidates := rfl
@[simp] theorem State.setCtx_stakeOps (s : State) (c : Nat) (x : Ctx) : (s.setCtx c x).stakeOps = s.stakeOps := rfl
@[simp] theorem State.setCtx_laneGroups (s : State) (c : Nat) (x : Ctx) : (s.setCtx c x).laneGroups = s.laneGroups := rfl
@[simp] theorem State.setCtx_dueAt (s : State) (c : Nat) (x : Ctx) : (s.setCtx c x).dueAt = s.dueAt := rfl
@[simp] theorem State.setCtx_busyAt (s : State) (c : Nat) (x : Ctx) : (s.setCtx c x).busyAt = s.busyAt := rfl
@[simp] theorem State.setCtx_rowSwaps (s : State) (c : Nat) (x : Ctx) : (s.setCtx c x).rowSwaps = s.rowSwaps := rfl
@[simp] theorem State.setCtx_exhausted (s : State) (c : Nat) (x : Ctx) : (s.setCtx c x).exhausted = s.exhausted := rfl
@[simp] theorem State.setCtx_bankCE (s : State) (c : Nat) (x : Ctx) : (s.setCtx c x).bankCE = s.bankCE := rfl
@[simp] theorem State.setCtx_bankUE (s : State) (c : Nat) (x : Ctx) : (s.setCtx c x).bankUE = s.bankUE := rfl
@[simp] theorem State.setCtx_wearUE (s : State) (c : Nat) (x : Ctx) : (s.setCtx c x).wearUE = s.wearUE := rfl
@[simp] theorem State.setCtx_mraOps (s : State) (c : Nat) (x : Ctx) : (s.setCtx c x).mraOps = s.mraOps := rfl
@[simp] theorem State.setCtx_worn (s : State) (c : Nat) (x : Ctx) : (s.setCtx c x).worn = s.worn := rfl
@[simp] theorem State.setCtx_rowActs (s : State) (c : Nat) (x : Ctx) : (s.setCtx c x).rowActs = s.rowActs := rfl
@[simp] theorem State.setCtx_refreshAt (s : State) (c : Nat) (x : Ctx) : (s.setCtx c x).refreshAt = s.refreshAt := rfl
@[simp] theorem State.setCtx_excursion (s : State) (c : Nat) (x : Ctx) : (s.setCtx c x).excursion = s.excursion := rfl
@[simp] theorem State.setCtx_excursionBack (s : State) (c : Nat) (x : Ctx) : (s.setCtx c x).excursionBack = s.excursionBack := rfl
@[simp] theorem State.setCtx_tripFrom (s : State) (c : Nat) (x : Ctx) : (s.setCtx c x).tripFrom = s.tripFrom := rfl
@[simp] theorem State.setCtx_hardTrip (s : State) (c : Nat) (x : Ctx) : (s.setCtx c x).hardTrip = s.hardTrip := rfl
@[simp] theorem State.setCtx_tripQueue (s : State) (c : Nat) (x : Ctx) : (s.setCtx c x).tripQueue = s.tripQueue := rfl
@[simp] theorem State.setCtx_dups (s : State) (c : Nat) (x : Ctx) : (s.setCtx c x).dups = s.dups := rfl
@[simp] theorem State.setCtx_lostRoutes (s : State) (c : Nat) (x : Ctx) : (s.setCtx c x).lostRoutes = s.lostRoutes := rfl
@[simp] theorem State.setCtx_hostUp (s : State) (c : Nat) (x : Ctx) : (s.setCtx c x).hostUp = s.hostUp := rfl
@[simp] theorem State.setCtx_nonce (s : State) (c : Nat) (x : Ctx) : (s.setCtx c x).nonce = s.nonce := rfl
@[simp] theorem State.setCtx_ckpt (s : State) (c : Nat) (x : Ctx) : (s.setCtx c x).ckpt = s.ckpt := rfl
@[simp] theorem State.setCtx_lostLinks (s : State) (c : Nat) (x : Ctx) : (s.setCtx c x).lostLinks = s.lostLinks := rfl
@[simp] theorem State.setCtx_bootWorn (s : State) (c : Nat) (x : Ctx) : (s.setCtx c x).bootWorn = s.bootWorn := rfl
@[simp] theorem State.setCtx_hoopFree (s : State) (c : Nat) (x : Ctx) : (s.setCtx c x).hoopFree = s.hoopFree := rfl
@[simp] theorem State.setCtx_hoopNext (s : State) (c : Nat) (x : Ctx) : (s.setCtx c x).hoopNext = s.hoopNext := rfl
@[simp] theorem State.setCtx_hoopAt (s : State) (c : Nat) (x : Ctx) : (s.setCtx c x).hoopAt = s.hoopAt := rfl
@[simp] theorem State.setCtx_booting (s : State) (c : Nat) (x : Ctx) : (s.setCtx c x).booting = s.booting := rfl
@[simp] theorem State.setCtx_measured (s : State) (c : Nat) (x : Ctx) : (s.setCtx c x).measured = s.measured := rfl
@[simp] theorem State.setCtx_pageReqs (s : State) (c : Nat) (x : Ctx) : (s.setCtx c x).pageReqs = s.pageReqs := rfl
@[simp] theorem State.setCtx_atsAsked (s : State) (c : Nat) (x : Ctx) : (s.setCtx c x).atsAsked = s.atsAsked := rfl
@[simp] theorem State.setCtx_puts (s : State) (c : Nat) (x : Ctx) : (s.setCtx c x).puts = s.puts := rfl
@[simp] theorem State.setCtx_engTlb (s : State) (c : Nat) (x : Ctx) : (s.setCtx c x).engTlb = s.engTlb := rfl
@[simp] theorem State.setCtx_hostQueue (s : State) (c : Nat) (x : Ctx) : (s.setCtx c x).hostQueue = s.hostQueue := rfl
@[simp] theorem State.setCtx_guard (s : State) (c : Nat) (x : Ctx) : (s.setCtx c x).guard = s.guard := rfl
@[simp] theorem State.setCtx_members (s : State) (c : Nat) (x : Ctx) : (s.setCtx c x).members = s.members := rfl
@[simp] theorem State.setCtx_frozenPeers (s : State) (c : Nat) (x : Ctx) : (s.setCtx c x).frozenPeers = s.frozenPeers := rfl

/-! ### setHome -/

@[simp] theorem State.setHome_cyc (s : State) (l : Nat) (x : DirLine) : (s.setHome l x).cyc = s.cyc := rfl
@[simp] theorem State.setHome_agenda (s : State) (l : Nat) (x : DirLine) : (s.setHome l x).agenda = s.agenda := rfl
@[simp] theorem State.setHome_freeCount (s : State) (l : Nat) (x : DirLine) : (s.setHome l x).freeCount = s.freeCount := rfl
@[simp] theorem State.setHome_cur (s : State) (l : Nat) (x : DirLine) : (s.setHome l x).cur = s.cur := rfl
@[simp] theorem State.setHome_cfgw (s : State) (l : Nat) (x : DirLine) : (s.setHome l x).cfgw = s.cfgw := rfl
@[simp] theorem State.setHome_powered (s : State) (l : Nat) (x : DirLine) : (s.setHome l x).powered = s.powered := rfl
@[simp] theorem State.setHome_fatal (s : State) (l : Nat) (x : DirLine) : (s.setHome l x).fatal = s.fatal := rfl
@[simp] theorem State.setHome_csr (s : State) (l : Nat) (x : DirLine) : (s.setHome l x).csr = s.csr := rfl
@[simp] theorem State.setHome_mem (s : State) (l : Nat) (x : DirLine) : (s.setHome l x).mem = s.mem := rfl
@[simp] theorem State.setHome_poison (s : State) (l : Nat) (x : DirLine) : (s.setHome l x).poison = s.poison := rfl
@[simp] theorem State.setHome_win (s : State) (l : Nat) (x : DirLine) : (s.setHome l x).win = s.win := rfl
@[simp] theorem State.setHome_wins (s : State) (l : Nat) (x : DirLine) : (s.setHome l x).wins = s.wins := rfl
@[simp] theorem State.setHome_cols (s : State) (l : Nat) (x : DirLine) : (s.setHome l x).cols = s.cols := rfl
@[simp] theorem State.setHome_ctxs (s : State) (l : Nat) (x : DirLine) : (s.setHome l x).ctxs = s.ctxs := rfl
@[simp] theorem State.setHome_grids (s : State) (l : Nat) (x : DirLine) : (s.setHome l x).grids = s.grids := rfl
@[simp] theorem State.setHome_gridNext (s : State) (l : Nat) (x : DirLine) : (s.setHome l x).gridNext = s.gridNext := rfl
@[simp] theorem State.setHome_teams (s : State) (l : Nat) (x : DirLine) : (s.setHome l x).teams = s.teams := rfl
@[simp] theorem State.setHome_reqs (s : State) (l : Nat) (x : DirLine) : (s.setHome l x).reqs = s.reqs := rfl
@[simp] theorem State.setHome_idNext (s : State) (l : Nat) (x : DirLine) : (s.setHome l x).idNext = s.idNext := rfl
@[simp] theorem State.setHome_slewPtr (s : State) (l : Nat) (x : DirLine) : (s.setHome l x).slewPtr = s.slewPtr := rfl
@[simp] theorem State.setHome_slewFree (s : State) (l : Nat) (x : DirLine) : (s.setHome l x).slewFree = s.slewFree := rfl
@[simp] theorem State.setHome_admits (s : State) (l : Nat) (x : DirLine) : (s.setHome l x).admits = s.admits := rfl
@[simp] theorem State.setHome_coopGuard (s : State) (l : Nat) (x : DirLine) : (s.setHome l x).coopGuard = s.coopGuard := rfl
@[simp] theorem State.setHome_heldEvents (s : State) (l : Nat) (x : DirLine) : (s.setHome l x).heldEvents = s.heldEvents := rfl
@[simp] theorem State.setHome_evRetired (s : State) (l : Nat) (x : DirLine) : (s.setHome l x).evRetired = s.evRetired := rfl
@[simp] theorem State.setHome_outbox (s : State) (l : Nat) (x : DirLine) : (s.setHome l x).outbox = s.outbox := rfl
@[simp] theorem State.setHome_msix (s : State) (l : Nat) (x : DirLine) : (s.setHome l x).msix = s.msix := rfl
@[simp] theorem State.setHome_peerMoves (s : State) (l : Nat) (x : DirLine) : (s.setHome l x).peerMoves = s.peerMoves := rfl
@[simp] theorem State.setHome_candidates (s : State) (l : Nat) (x : DirLine) : (s.setHome l x).candidates = s.candidates := rfl
@[simp] theorem State.setHome_stakeOps (s : State) (l : Nat) (x : DirLine) : (s.setHome l x).stakeOps = s.stakeOps := rfl
@[simp] theorem State.setHome_laneGroups (s : State) (l : Nat) (x : DirLine) : (s.setHome l x).laneGroups = s.laneGroups := rfl
@[simp] theorem State.setHome_dueAt (s : State) (l : Nat) (x : DirLine) : (s.setHome l x).dueAt = s.dueAt := rfl
@[simp] theorem State.setHome_busyAt (s : State) (l : Nat) (x : DirLine) : (s.setHome l x).busyAt = s.busyAt := rfl
@[simp] theorem State.setHome_rowSwaps (s : State) (l : Nat) (x : DirLine) : (s.setHome l x).rowSwaps = s.rowSwaps := rfl
@[simp] theorem State.setHome_exhausted (s : State) (l : Nat) (x : DirLine) : (s.setHome l x).exhausted = s.exhausted := rfl
@[simp] theorem State.setHome_bankCE (s : State) (l : Nat) (x : DirLine) : (s.setHome l x).bankCE = s.bankCE := rfl
@[simp] theorem State.setHome_bankUE (s : State) (l : Nat) (x : DirLine) : (s.setHome l x).bankUE = s.bankUE := rfl
@[simp] theorem State.setHome_wearUE (s : State) (l : Nat) (x : DirLine) : (s.setHome l x).wearUE = s.wearUE := rfl
@[simp] theorem State.setHome_mraOps (s : State) (l : Nat) (x : DirLine) : (s.setHome l x).mraOps = s.mraOps := rfl
@[simp] theorem State.setHome_worn (s : State) (l : Nat) (x : DirLine) : (s.setHome l x).worn = s.worn := rfl
@[simp] theorem State.setHome_rowActs (s : State) (l : Nat) (x : DirLine) : (s.setHome l x).rowActs = s.rowActs := rfl
@[simp] theorem State.setHome_refreshAt (s : State) (l : Nat) (x : DirLine) : (s.setHome l x).refreshAt = s.refreshAt := rfl
@[simp] theorem State.setHome_excursion (s : State) (l : Nat) (x : DirLine) : (s.setHome l x).excursion = s.excursion := rfl
@[simp] theorem State.setHome_excursionBack (s : State) (l : Nat) (x : DirLine) : (s.setHome l x).excursionBack = s.excursionBack := rfl
@[simp] theorem State.setHome_tripFrom (s : State) (l : Nat) (x : DirLine) : (s.setHome l x).tripFrom = s.tripFrom := rfl
@[simp] theorem State.setHome_hardTrip (s : State) (l : Nat) (x : DirLine) : (s.setHome l x).hardTrip = s.hardTrip := rfl
@[simp] theorem State.setHome_tripQueue (s : State) (l : Nat) (x : DirLine) : (s.setHome l x).tripQueue = s.tripQueue := rfl
@[simp] theorem State.setHome_dups (s : State) (l : Nat) (x : DirLine) : (s.setHome l x).dups = s.dups := rfl
@[simp] theorem State.setHome_lostRoutes (s : State) (l : Nat) (x : DirLine) : (s.setHome l x).lostRoutes = s.lostRoutes := rfl
@[simp] theorem State.setHome_hostUp (s : State) (l : Nat) (x : DirLine) : (s.setHome l x).hostUp = s.hostUp := rfl
@[simp] theorem State.setHome_nonce (s : State) (l : Nat) (x : DirLine) : (s.setHome l x).nonce = s.nonce := rfl
@[simp] theorem State.setHome_ckpt (s : State) (l : Nat) (x : DirLine) : (s.setHome l x).ckpt = s.ckpt := rfl
@[simp] theorem State.setHome_lostLinks (s : State) (l : Nat) (x : DirLine) : (s.setHome l x).lostLinks = s.lostLinks := rfl
@[simp] theorem State.setHome_bootWorn (s : State) (l : Nat) (x : DirLine) : (s.setHome l x).bootWorn = s.bootWorn := rfl
@[simp] theorem State.setHome_hoopFree (s : State) (l : Nat) (x : DirLine) : (s.setHome l x).hoopFree = s.hoopFree := rfl
@[simp] theorem State.setHome_hoopNext (s : State) (l : Nat) (x : DirLine) : (s.setHome l x).hoopNext = s.hoopNext := rfl
@[simp] theorem State.setHome_hoopAt (s : State) (l : Nat) (x : DirLine) : (s.setHome l x).hoopAt = s.hoopAt := rfl
@[simp] theorem State.setHome_booting (s : State) (l : Nat) (x : DirLine) : (s.setHome l x).booting = s.booting := rfl
@[simp] theorem State.setHome_measured (s : State) (l : Nat) (x : DirLine) : (s.setHome l x).measured = s.measured := rfl
@[simp] theorem State.setHome_pageReqs (s : State) (l : Nat) (x : DirLine) : (s.setHome l x).pageReqs = s.pageReqs := rfl
@[simp] theorem State.setHome_atsAsked (s : State) (l : Nat) (x : DirLine) : (s.setHome l x).atsAsked = s.atsAsked := rfl
@[simp] theorem State.setHome_puts (s : State) (l : Nat) (x : DirLine) : (s.setHome l x).puts = s.puts := rfl
@[simp] theorem State.setHome_engTlb (s : State) (l : Nat) (x : DirLine) : (s.setHome l x).engTlb = s.engTlb := rfl
@[simp] theorem State.setHome_hostQueue (s : State) (l : Nat) (x : DirLine) : (s.setHome l x).hostQueue = s.hostQueue := rfl
@[simp] theorem State.setHome_guard (s : State) (l : Nat) (x : DirLine) : (s.setHome l x).guard = s.guard := rfl
@[simp] theorem State.setHome_members (s : State) (l : Nat) (x : DirLine) : (s.setHome l x).members = s.members := rfl
@[simp] theorem State.setHome_frozenPeers (s : State) (l : Nat) (x : DirLine) : (s.setHome l x).frozenPeers = s.frozenPeers := rfl

/-! ### Reading what an update wrote -/

@[simp] theorem State.setTeam_team? (s : State) (k j : Nat) (tm : Team) : (s.setTeam k tm).team? j = if j = k then some tm else s.team? j := by
  simp [State.team?, State.setTeam]

@[simp] theorem State.setTeam_setTeam (s : State) (k : Nat) (a b : Team) : (s.setTeam k a).setTeam k b = s.setTeam k b := by
  simp [State.setTeam]

@[simp] theorem State.rset_rget (s : State) (k j : Nat) (v : Word) : (s.rset k v).rget j = if j = k then v else s.rget j := by
  simp [State.rget, State.rset]

@[simp] theorem State.setCol_col (s : State) (c e : Nat) (x : Column) : (s.setCol c x).col e = if e = c then x else s.col e := by
  simp [State.col, State.setCol]

@[simp] theorem State.setCtx_ctx (s : State) (c e : Nat) (x : Ctx) : (s.setCtx c x).ctx e = if e = c then x else s.ctx e := by
  simp [State.ctx, State.setCtx]

@[simp] theorem State.setHome_home (s : State) (l e : Nat) (x : DirLine) : (s.setHome l x).home e = if e = l then x else s.home e := by
  simp [State.home, State.setHome]

end Sys2Proof.Machine
end

