-- ==== Sys2Proof/Laws/Ops.lean ====
section
/-! SUPPORT. What the shared operations over threads, teams and words can do: registers after a write, settling without a freeze, going on to the
next word, and running a word that meets no issue fault. -/

namespace Sys2Proof.Machine

/-! ### Registers of a thread -/

@[simp] theorem Thread.get_put (th : Thread) (r j : Nat) (v : Word) : (th.put r v).get j = if j = r then v else th.get j := by
  simp [Thread.get, Thread.put]

/-- Writing `cnt` registers leaves every other register as it was. -/
theorem Thread.get_putN_other (th : Thread) (r v cnt j : Nat) (h : j < r ∨ r + cnt ≤ j) : (th.putN r v cnt).get j = th.get j := by
  induction cnt generalizing th r v with
  | zero => rfl
  | succ n ih =>
    simp only [Thread.putN]
    rw [ih _ _ _ (by omega), Thread.get_put, if_neg (by omega)]

/-- Register `i` of a written run holds word `i` of the number (R8). -/
theorem Thread.get_putN (th : Thread) (r v cnt i : Nat) (h : i < cnt) :
    (th.putN r v cnt).get (r + i) = BitVec.ofNat 32 (v / 2 ^ (32 * i)) := by
  induction cnt generalizing th r v i with
  | zero => omega
  | succ n ih =>
    simp only [Thread.putN]
    cases i with
    | zero => rw [Thread.get_putN_other _ _ _ _ _ (by omega)]; simp
    | succ j =>
      have := ih (th.put r (BitVec.ofNat 32 v)) (r + 1) (v / 2 ^ 32) j (by omega)
      have e : (2 : Nat) ^ (32 * (j + 1)) = 2 ^ 32 * 2 ^ (32 * j) := by rw [show 32 * (j + 1) = 32 + 32 * j by omega, Nat.pow_add]
      rw [show r + (j + 1) = r + 1 + j by omega, this, Nat.div_div_eq_div_mul, e]

/-- Everything of a thread but its registers and their poison. -/
theorem Thread.putN_fields (th : Thread) (r v cnt : Nat) : ∃ regs poison, th.putN r v cnt = { th with regs := regs, poison := poison } := by
  induction cnt generalizing th r v with
  | zero => exact ⟨th.regs, th.poison, rfl⟩
  | succ n ih =>
    obtain ⟨g, p, h⟩ := ih (th.put r (BitVec.ofNat 32 v)) (r + 1) (v / 2 ^ 32)
    exact ⟨g, p, by simpa [Thread.putN, Thread.put] using h⟩

/-! ### Threads of a team -/

@[simp] theorem Team.modThread_threads_length (tm : Team) (t : Nat) (f : Thread → Thread) : (tm.modThread t f).threads.length = tm.threads.length := by
  simp [Team.modThread]

theorem Team.modThread_thread (tm : Team) (t u : Nat) (f : Thread → Thread) :
    (tm.modThread t f).thread u = if u = t ∧ t < tm.threads.length then f (tm.thread t) else tm.thread u := by
  simp only [Team.modThread, Team.thread, List.getD_eq_getElem?_getD, List.getElem?_modify]
  by_cases h : u = t
  · subst h
    by_cases hl : u < tm.threads.length
    · simp [hl]
    · simp [hl]
  · rw [if_neg (by tauto)]
    have : ¬ t = u := fun e => h e.symm
    simp [this]

/-- A change of one thread keeps everything else of its team. -/
theorem Team.modThread_eq (tm : Team) (t : Nat) (f : Thread → Thread) : tm.modThread t f = { tm with threads := tm.threads.modify t f } := rfl

@[simp] theorem Team.modThread_n (tm : Team) (t u : Nat) (f : Thread → Thread) : (tm.modThread t f).n u = tm.n u := rfl

@[simp] theorem State.modTeam_of_team? {s : State} {k : Nat} {tm : Team} (h : s.team? k = some tm) (f : Team → Team) :
    s.modTeam k f = s.setTeam k (f tm) := by simp [State.modTeam, h]

/-! ### Settling and going on -/

/-- A team whose freeze is not requested does not settle. -/
theorem State.settle_of_not_freezing {s : State} {k : Nat} {tm : Team} (h : s.team? k = some tm) (hf : tm.freezing = none) : s.settle k = s := by
  simp [State.settle, h, hf]

/-- What going on to the next word, or ending a clause without a transfer, keeps of a team: everything but its bundles and program counters. -/
structure Team.WentOn (tm tm' : Team) : Prop where
  rest : tm'.rest = tm.rest
  length : tm'.threads.length = tm.threads.length
  thread : ∀ t, { tm'.thread t with pc := 0 } = { tm.thread t with pc := 0 }

theorem Team.WentOn.refl (tm : Team) : tm.WentOn tm := ⟨rfl, rfl, fun _ => rfl⟩

theorem Team.WentOn.trans {a b c : Team} (h : a.WentOn b) (g : b.WentOn c) : a.WentOn c :=
  ⟨g.rest.trans h.rest, g.length.trans h.length, fun t => (g.thread t).trans (h.thread t)⟩

theorem Team.WentOn.freezing {a b : Team} (h : a.WentOn b) : b.freezing = a.freezing := by
  show b.rest.freezing = a.rest.freezing; rw [h.rest]

theorem Team.WentOn.setPc (tm : Team) (t : Nat) (p : Thread → VAddr) : tm.WentOn (tm.modThread t fun th => { th with pc := p th }) := by
  refine ⟨rfl, by simp, fun u => ?_⟩
  rw [Team.modThread_thread]
  split
  · rename_i h; rw [h.1]
  · rfl

theorem Team.wentOn_endClause (tm : Team) (now idx next : Nat) (b : Bundle) (target : Nat → Option VAddr) (yld : Bool) :
    tm.WentOn (tm.endClause now idx next b target yld) := by
  have fold : ∀ (l : List Nat) (tm : Team),
      tm.WentOn (l.foldl (fun tm t => tm.modThread t fun th => { th with pc := (target t).getD (BitVec.ofNat 52 next) }) tm) := by
    intro l
    induction l with
    | nil => exact fun tm => .refl tm
    | cons t r ih => exact fun tm => (Team.WentOn.setPc tm t _).trans (ih _)
  have h := fold b.threads tm
  simp only [Team.endClause]
  split <;> exact ⟨h.rest, h.length, h.thread⟩

/-- Going on to the next word changes the word's own team alone, and of it only bundles and program counters. -/
theorem State.advance_eq {s : State} {x : Iss} {tm : Team} (h : s.team? x.k = some tm) (hf : tm.freezing = none) :
    ∃ tm', s.advance x = s.setTeam x.k tm' ∧ tm.WentOn tm' := by
  simp only [State.advance]
  split
  · have w := tm.wentOn_endClause s.cyc x.idx x.next x.b (fun _ => none) (x.hdr.yld || x.b.yielded)
    refine ⟨_, ?_, w⟩
    simp only [State.endClause, State.modTeam_of_team? h]
    refine State.settle_of_not_freezing (tm := _) (State.setTeam_team? _ _ _ _ |>.trans (if_pos rfl)) ?_
    exact w.freezing.trans hf
  · exact ⟨{ tm with bundles := tm.bundles.modify x.idx fun b => { b with pos := b.pos + 1, issued := false } },
      by simp [State.modBundle, h], ⟨rfl, rfl, fun _ => rfl⟩⟩

/-! ### Running a word that meets no issue fault -/

/-- The team and bundle of a word at issue. -/
theorem State.iss_team {s : State} {x : Iss} (h : s.iss = some x) : s.cur = some (.bundle x.k x.idx) ∧ s.team? x.k = some x.tm := by
  simp only [State.iss] at h
  split at h
  · split at h
    · split at h
      · split at h
        · split at h
          · cases h; constructor <;> assumption
          · cases h
        · cases h
      · cases h
    · cases h
  · cases h

/-- What holds no fault keeps none when it is narrowed. -/
theorem firstHeld_filter_none {p : Bool × Nat × Nat → Bool} {l : List (Bool × Nat × Nat)} (h : firstHeld l = none) : firstHeld (l.filter p) = none := by
  induction l with
  | nil => rfl
  | cons e r ih =>
    obtain ⟨c, code, info⟩ := e
    cases c
    · have := ih (by simpa [firstHeld] using h)
      cases hp : p (false, code, info) <;> simp [List.filter, hp, firstHeld, this]
    · simp [firstHeld] at h

/-- A thread in which a word breaks no shared rule, and none of its own, meets no issue fault. -/
theorem Iss.fault_of_clearAt {x : Iss} {f : Form} {t : Nat} {extra : List (Bool × Nat × Nat)} (h : x.clearAt f t)
    (he : firstHeld extra = none) : x.fault f t (x.tm.n t) extra = none := by
  obtain ⟨h1, h2, h3, h4⟩ := h
  have e1 : firstBeyond (x.tm.n t) (x.tm.n t) f.operands = none := by
    simp only [firstBeyond, ite_self, Option.map_eq_none_iff, List.find?_eq_none]
    intro o ho; simpa using h1 o ho
  have e3 : ((f.operands.flatMap Opnd.regs).find? fun r => (x.tm.thread t).pend.any fun p => p.1 == r) = none := by
    simp only [List.find?_eq_none, List.mem_flatMap, List.any_eq_true, beq_iff_eq]
    rintro r ⟨o, ho, hr⟩ ⟨p, hp, e⟩
    exact h3 o ho r hr p hp e
  have e4 : (((f.operands.filter fun o => !o.wr).flatMap Opnd.regs).find? fun r => (x.tm.thread t).poison.contains r) = none := by
    simp only [List.find?_eq_none, List.mem_flatMap, List.mem_filter, List.contains_eq_mem, decide_eq_true_eq, Bool.not_eq_true']
    rintro r ⟨o, ⟨ho, hw⟩, hr⟩
    exact h4 o ho hw r hr
  simp only [Iss.fault, e1, e3, e4, he, firstHeld_filter_none he, Option.map_none]
  cases hf : x.flagNo f with
  | none => simp
  | some i => have := h2 i hf; simp; omega

theorem Iss.firstFault_none {x : Iss} {f : Form} {n : Nat → Nat} {extra : Nat → List (Bool × Nat × Nat)} {ts : List Nat}
    (h : ∀ t ∈ ts, x.fault f t (n t) (extra t) = none) : x.firstFault f n extra ts = none := by
  induction ts with
  | nil => rfl
  | cons t r ih =>
    simp only [Iss.firstFault, h t (by simp)]
    exact ih fun u hu => h u (by simp [hu])

/-- A word that issues acts for its passing threads, when none of its own conditions holds either. -/
theorem runWord_of_issues {s : State} {i : Instr} {x : Iss} {f : Form} (h : s.Issues i x f) {extra : Iss → Nat → List (Bool × Nat × Nat)}
    (he : ∀ t ∈ x.judged f, firstHeld (extra x t) = none) (act : Iss → List Nat → State) :
    runWord s i nOf extra act = .next (act x (x.passing f.m)) := by
  obtain ⟨hi, hf, hb, -, -, hc⟩ := h
  have e : x.firstFault f (nOf x) (extra x) (x.judged f) = none :=
    Iss.firstFault_none fun t ht => Iss.fault_of_clearAt (hc t ht) (he t ht)
  simp only [runWord, hi, hf, hb, e]
  simp

theorem runWord_noExtra {s : State} {i : Instr} {x : Iss} {f : Form} (h : s.Issues i x f) (act : Iss → List Nat → State) :
    runWord s i nOf noExtra act = .next (act x (x.passing f.m)) :=
  runWord_of_issues h (fun _ _ => rfl) act

end Sys2Proof.Machine
end

