-- ==== Sys2Proof/Laws/Results.lean ====
section
/-! SUPPORT. What a register-to-register word does when it issues: its results, and its frame. -/

namespace Sys2Proof.Machine

/-- One thread's step of `writeResults`. -/
def Team.writeOne (once : Bool) (v0 : Nat × Flags) (tm0 : Team) (d cnt : Nat) (val : Val) (acc : Team) (t : Nat) : Team :=
  let (v, fl) := if once then v0 else val (tm0.thread t)
  (acc.putRegs t d v cnt).modThread t fun th => th.raise fl

theorem Team.writeResults_eq (tm : Team) (once : Bool) (d cnt : Nat) (val : Val) (ts : List Nat) :
    tm.writeResults once d cnt val ts = ts.foldl (Team.writeOne once (val (tm.thread (lowLane ts))) tm d cnt val) tm := rfl

theorem Team.writeOne_rest (once : Bool) (v0 : Nat × Flags) (tm0 : Team) (d cnt : Nat) (val : Val) (acc : Team) (t : Nat) :
    (Team.writeOne once v0 tm0 d cnt val acc t).rest = acc.rest
      ∧ (Team.writeOne once v0 tm0 d cnt val acc t).threads.length = acc.threads.length := by
  simp only [Team.writeOne, Team.putRegs]
  split <;> simp [Team.modThread, Team.rest]

/-- What one thread's step does to a thread: nothing to another, and to its own registers and status what the result says. -/
theorem Team.writeOne_thread (once : Bool) (v0 : Nat × Flags) (tm0 : Team) (d cnt : Nat) (val : Val) (acc : Team) (t u : Nat)
    (hl : t < acc.threads.length) :
    (Team.writeOne once v0 tm0 d cnt val acc t).thread u =
      if u = t then
        (if d + cnt ≤ acc.n t then (acc.thread t).putN d (if once then v0 else val (tm0.thread t)).1 cnt else acc.thread t).raise
          (if once then v0 else val (tm0.thread t)).2
      else acc.thread u := by
  simp only [Team.writeOne, Team.putRegs]
  split
  · rw [Team.modThread_thread, Team.modThread_thread]; simp [hl, Team.modThread_thread]; split <;> simp_all
  · rw [Team.modThread_thread]; simp [hl]

@[simp] theorem Thread.raise_get (th : Thread) (fl : Flags) (r : Nat) : (th.raise fl).get r = th.get r := rfl
@[simp] theorem Thread.raise_status (th : Thread) (fl : Flags) : (th.raise fl).status = th.status ||| fl.setWidth 32 := rfl
@[simp] theorem Thread.putN_status (th : Thread) (r v cnt : Nat) : (th.putN r v cnt).status = th.status := by
  obtain ⟨g, p, h⟩ := th.putN_fields r v cnt; rw [h]
@[simp] theorem Thread.putN_rest (th : Thread) (r v cnt : Nat) : (th.putN r v cnt).rest = th.rest := by
  obtain ⟨g, p, h⟩ := th.putN_fields r v cnt; rw [h]; rfl
@[simp] theorem Thread.raise_rest (th : Thread) (fl : Flags) : (th.raise fl).rest = th.rest := rfl

/-- What writing results has done after some threads: the invariant of the fold. -/
structure Team.Written (once : Bool) (v0 : Nat × Flags) (tm0 : Team) (d cnt : Nat) (val : Val) (done : List Nat) (acc : Team) : Prop where
  rest : acc.rest = tm0.rest
  length : acc.threads.length = tm0.threads.length
  thread : ∀ u, (acc.thread u).rest = (tm0.thread u).rest
  other : ∀ u, u ∉ done → acc.thread u = tm0.thread u
  regs : ∀ u r, r < d ∨ d + cnt ≤ r → (acc.thread u).get r = (tm0.thread u).get r
  result : ∀ u ∈ done, d + cnt ≤ tm0.n u → ∀ j, j < cnt →
    (acc.thread u).get (d + j) = BitVec.ofNat 32 ((if once then v0 else val (tm0.thread u)).1 / 2 ^ (32 * j))
  status : ∀ u ∈ done, (acc.thread u).status = (tm0.thread u).status ||| ((if once then v0 else val (tm0.thread u)).2).setWidth 32

theorem Team.Written.nil (once : Bool) (v0 : Nat × Flags) (tm0 : Team) (d cnt : Nat) (val : Val) :
    Team.Written once v0 tm0 d cnt val [] tm0 :=
  ⟨rfl, rfl, fun _ => rfl, fun _ _ => rfl, fun _ _ _ => rfl, by simp, by simp⟩

theorem or_or_self (a b : Word) : a ||| b ||| b = a ||| b := by
  ext i; simp only [BitVec.getElem_or, Bool.or_assoc, Bool.or_self]

theorem Team.Written.cons {once : Bool} {v0 : Nat × Flags} {tm0 : Team} {d cnt : Nat} {val : Val} {done : List Nat} {acc : Team} {t : Nat}
    (h : Team.Written once v0 tm0 d cnt val done acc) (hl : t < tm0.threads.length) :
    Team.Written once v0 tm0 d cnt val (done ++ [t]) (Team.writeOne once v0 tm0 d cnt val acc t) := by
  have hl' : t < acc.threads.length := h.length ▸ hl
  have hn : acc.n t = tm0.n t := by show acc.rest.n t = tm0.rest.n t; rw [h.rest]
  have ht := fun u => Team.writeOne_thread once v0 tm0 d cnt val acc t u hl'
  obtain ⟨f1, f2⟩ := Team.writeOne_rest once v0 tm0 d cnt val acc t
  refine ⟨f1.trans h.rest, f2.trans h.length, fun u => ?_, fun u hu => ?_, fun u r hr => ?_, fun u hu hn' j hj => ?_, fun u hu => ?_⟩
  all_goals
    rw [ht u]
    by_cases e : u = t
  · subst e
    rw [if_pos rfl, Thread.raise_rest, ← h.thread u]
    split <;> simp
  · rw [if_neg e]; exact h.thread u
  · simp at hu; tauto
  · rw [if_neg e]; exact h.other u (by simp at hu; tauto)
  · subst e
    rw [if_pos rfl, Thread.raise_get, ← h.regs u r hr]
    split
    · exact Thread.get_putN_other _ _ _ _ _ hr
    · rfl
  · rw [if_neg e]; exact h.regs u r hr
  · subst e
    rw [if_pos rfl, Thread.raise_get, if_pos (hn ▸ hn')]
    exact Thread.get_putN _ _ _ _ _ hj
  · rw [if_neg e]; exact h.result u (by simp at hu; tauto) hn' j hj
  · subst e
    have e : (if d + cnt ≤ acc.n u then (acc.thread u).putN d (if once then v0 else val (tm0.thread u)).1 cnt else acc.thread u).status
        = (acc.thread u).status := by split <;> simp
    rw [if_pos rfl, Thread.raise_status, e]
    by_cases hd : u ∈ done
    · rw [h.status u hd, or_or_self]
    · rw [h.other u hd]
  · rw [if_neg e]; exact h.status u (by simp at hu; tauto)

theorem Team.written (tm : Team) (once : Bool) (d cnt : Nat) (val : Val) (ts : List Nat) (hl : ∀ t ∈ ts, t < tm.threads.length) :
    Team.Written once (val (tm.thread (lowLane ts))) tm d cnt val ts (tm.writeResults once d cnt val ts) := by
  have go : ∀ (rest done : List Nat) (acc : Team), (∀ t ∈ rest, t < tm.threads.length) →
      Team.Written once (val (tm.thread (lowLane ts))) tm d cnt val done acc →
      Team.Written once (val (tm.thread (lowLane ts))) tm d cnt val (done ++ rest)
        (rest.foldl (Team.writeOne once (val (tm.thread (lowLane ts))) tm d cnt val) acc) := by
    intro rest
    induction rest with
    | nil => intro done acc _ h; simpa using h
    | cons t r ih =>
      intro done acc hr h
      have := ih (done ++ [t]) _ (fun u hu => hr u (by simp [hu])) (h.cons (hr t (by simp)))
      simpa using this
  exact go ts [] tm hl (.nil _ _ _ _ _ _)

/-- A register-to-register word that issues completes: its results are written in the passing threads, and nothing else changes. -/
theorem runArith_of_issues {s : State} {i : Instr} {x : Iss} {f : Form} (h : s.Issues i x f) (d : RegNo) (cnt : Nat) (val : Val) :
    ∃ t, runArith s i f.once d cnt val = .next t ∧ s.Wrote t x f d cnt (fun th => (val th).1) (fun th => (val th).2) := by
  obtain ⟨-, htm⟩ := State.iss_team h.1
  have hb : ∀ t ∈ x.passing f.m, t < x.tm.threads.length := by
    intro t ht
    simp only [Iss.passing, List.mem_filter] at ht
    exact h.2.2.2.2.1 t ht.1
  have w := x.tm.written f.once d.toNat cnt val (x.passing f.m) hb
  have e : (s.modTeam x.k fun tm => tm.writeResults f.once d.toNat cnt val (x.passing f.m))
      = s.setTeam x.k (x.tm.writeResults f.once d.toNat cnt val (x.passing f.m)) := State.modTeam_of_team? htm _
  have hfr : (x.tm.writeResults f.once d.toNat cnt val (x.passing f.m)).freezing = none := by
    have e : x.tm.rest.freezing = none := h.2.2.2.1
    rw [← w.rest] at e; exact e
  obtain ⟨tm', ha, g⟩ := State.advance_eq (s := s.setTeam x.k (x.tm.writeResults f.once d.toNat cnt val (x.passing f.m)))
    (x := x) (by simp) hfr
  refine ⟨_, (runWord_noExtra h _).trans (by rw [e, ha, State.setTeam_setTeam]), ?_⟩
  have hreg : ∀ th r, (s.setTeam x.k tm').reg x.k th r = ((x.tm.writeResults f.once d.toNat cnt val (x.passing f.m)).thread th).get r := by
    intro th r
    simp only [State.reg, State.setTeam_team?, if_pos]
    have e := congrArg Thread.regs (g.thread th)
    exact congrArg (fun l => sget 0 l r) e
  have hreg0 : ∀ th r, s.reg x.k th r = (x.tm.thread th).get r := by intro th r; simp [State.reg, htm]
  have hst : ∀ th, (s.setTeam x.k tm').status x.k th = ((x.tm.writeResults f.once d.toNat cnt val (x.passing f.m)).thread th).status := by
    intro th
    simp only [State.status, State.setTeam_team?, if_pos]
    have e := congrArg Thread.status (g.thread th)
    exact e
  have hst0 : ∀ th, s.status x.k th = (x.tm.thread th).status := by intro th; simp [State.status, htm]
  have hsrc : ∀ u, (if f.once then val (x.tm.thread (lowLane (x.passing f.m))) else val (x.tm.thread u)) = val (x.source f u) := by
    intro u; simp only [Iss.source]; split <;> rfl
  refine ⟨?_, ?_, ?_, ?_, ?_, ?_⟩
  · intro u hu hn j hj
    rw [hreg, w.result u hu hn j hj, hsrc]
  · intro u hu
    rw [hst, w.status u hu, hsrc, hst0]
  · exact ⟨tm', rfl⟩
  · intro u r hr
    rw [hreg, hreg0]
    rcases hr with hr | hr
    · rw [w.other u hr]
    · exact w.regs u r hr
  · intro u hu
    rw [hst, hst0, w.other u hu]
  · intro tm htm2
    obtain rfl : x.tm = tm := by rw [htm] at htm2; exact Option.some.inj htm2
    exact ⟨tm', by simp, g.rest.trans w.rest, g.length.trans w.length, fun u =>
      (show { tm'.thread u with pc := (0 : VAddr) }.rest = _ by rw [g.thread u]; rfl).trans (w.thread u)⟩

end Sys2Proof.Machine
end

