-- ==== Sys2Proof/Tests/Slice0.lean ====
section
/-! SUPPORT. Tests: ill-formed terms refused, decoding from words written out, single instructions against values worked out from the spec, and for every
statement a state and operands that meet the hypotheses of each of its clauses. -/

namespace Sys2Proof.Tests

open Sys2Proof.Machine

set_option synthInstance.maxSize 100000
set_option Elab.async false

/-! ### Hypotheses of clauses

A clause of a statement is named by its projection from the statement, `fun h : Obligations.X => h.1`. `MetE`, `MetW` and `MetS` take the hypothesis out of the
clause's type, so that it is the statement's own, and say that it holds at a state; the projection itself is used for its type only. -/

/-- The hypothesis of an event's clause holds in `s`. -/
abbrev MetE {X : Prop} {i : Instr} {ok : State → Prop} {post : State → State → Prop} (_ : X → Happens i ok post) (s : State) : Prop := ok s

/-- A bundle of all threads of a team but the last, at the one word of its clause. -/
def bundleAt (i : Instr) (tm : Team) : Bundle :=
  { threads := List.range (tm.threads.length - 1), slice := 0, stamp := 0, active := true, clause := some (oneWord i) }

/-- A team in slot 0 of column 0 whose bundle holds the issue slot with word `i`. -/
def onLane (i : Instr) (tm : Team) (s : State) : State :=
  { s with cur := some (.bundle 0 0), teams := [(0, { tm with bundles := [bundleAt i tm] })] }

/-- The word at issue in that state. -/
def issOn (i : Instr) (tm : Team) : Iss :=
  { k := 0, idx := 0, tm := { tm with bundles := [bundleAt i tm] }, b := bundleAt i tm, hdr := (oneWord i).hdr, off := 1, last := true,
    pc := (tm.thread ((bundleAt i tm).threads.headD 0)).pc.toNat }

/-- The form of a word. -/
def formOf (i : Instr) : Form := (form i).getD { m := { c := 0, ty := 0, xm := 0, sat := false, rm := 0, g := 127, gn := false }, ops := [] }

/-- Word `i` breaks no issue rule in that state. -/
def clearOf (i : Instr) (tm : Team) : Bool :=
  let x := issOn i tm
  let f := formOf i
  (form i).isSome && tm.freezing == none && (x.judged f).all fun t =>
    (f.operands.all fun o => decide (o.reg.toNat + o.cnt ≤ x.tm.n t))
      && (match x.flagNo f with | some g => decide ((x.tm.thread t).flag g < 15) | none => true)
      && (f.operands.all fun o => (Opnd.regs o).all fun r => (x.tm.thread t).pend.all fun p => p.1 != r)
      && (f.operands.all fun o => o.wr || (Opnd.regs o).all fun r => !(x.tm.thread t).poison.contains r)

theorem issues_of {i : Instr} {tm : Team} (s : State) (h : clearOf i tm = true) : (onLane i tm s).Issues i (issOn i tm) (formOf i) := by
  simp only [clearOf, Bool.and_eq_true, List.all_eq_true, decide_eq_true_eq, beq_iff_eq] at h
  obtain ⟨⟨hf, hz⟩, hc⟩ := h
  obtain ⟨f, hf⟩ := Option.isSome_iff_exists.mp hf
  refine ⟨rfl, by simp [formOf, hf], rfl, hz, ?_, ?_⟩
  · intro t ht
    simp only [issOn, bundleAt, List.mem_range] at ht ⊢
    omega
  · intro t ht
    obtain ⟨⟨⟨h1, h2⟩, h3⟩, h4⟩ := hc t ht
    refine ⟨h1, ?_, ?_, ?_⟩
    · intro g hg; simpa [hg] using h2
    · intro o ho r hr p hp; simpa using h3 o ho r hr p hp
    · intro o ho hw r hr; simpa [hw] using (by simpa [hw] using h4 o ho : ∀ r ∈ Opnd.regs o, r ∉ _) r hr

/-- Word `i` issues in the lane state of `tm` and `s`, and the hypothesis of its clause holds there. -/
abbrev MetW {X : Prop} {i : Instr} {ok : State → Iss → Form → Prop} {post : State → Iss → Form → State → Prop} (_ : X → Completes i ok post)
    (tm : Team) (s : State) : Prop := clearOf i tm = true ∧ ok (onLane i tm s) (issOn i tm) (formOf i)

theorem MetW.issues {X : Prop} {i : Instr} {ok : State → Iss → Form → Prop} {post : State → Iss → Form → State → Prop} {c : X → Completes i ok post}
    {tm : Team} {s : State} (h : MetW c tm s) : ∃ s x f, s.Issues i x f ∧ ok s x f := ⟨_, _, _, issues_of s h.1, h.2⟩

/-- A team in slot 0 of column 0 whose stream executes. -/
def onStream (tm : Team) (s : State) : State := { s with cur := some (.stream 0), teams := [(0, tm)] }

/-- The stream of a team executes, and the hypothesis of an M-word's clause holds there. -/
abbrev MetS {X : Prop} {i : Instr} {ok : State → Nat → Team → Engine → Prop} {post : State → Nat → Team → Engine → State → Team → Prop}
    (_ : X → StreamWord i ok post) (tm : Team) (e : Engine) (s : State) : Prop := (onStream tm s).Streams 0 tm e ∧ ok (onStream tm s) 0 tm e

/-! ### Deciding the hypotheses that speak of every key of a map -/

/-- A proposition that evaluates to true. -/
theorem met {P : Prop} (d : Decidable P) (h : @decide P d = true) : P := of_decide_eq_true h

theorem sget_of_not_mem {α : Type} (d : α) {l : List (Nat × α)} {k : Nat} (h : ∀ p ∈ l, p.1 ≠ k) : sget d l k = d := by
  induction l with
  | nil => rfl
  | cons p t ih =>
    have hp := h p (by simp)
    simp only [sget, if_neg (Ne.symm hp)]
    split
    · rfl
    · exact ih fun q hq => h q (by simp [hq])

theorem all_sget {α : Type} (d : α) (l : List (Nat × α)) (P : α → Prop) : (∀ k, P (sget d l k)) ↔ P d ∧ ∀ p ∈ l, P (sget d l p.1) := by
  refine ⟨fun h => ⟨?_, fun p _ => h p.1⟩, fun ⟨h0, hl⟩ k => ?_⟩
  · have := h ((l.map Prod.fst).sum + 1)
    rwa [sget_of_not_mem] at this
    intro p hp e
    have := List.single_le_sum (l := l.map Prod.fst) (by simp) p.1 (List.mem_map_of_mem hp)
    omega
  · by_cases hk : ∃ p ∈ l, p.1 = k
    · obtain ⟨p, hp, rfl⟩ := hk; exact hl p hp
    · rw [sget_of_not_mem]
      · exact h0
      · intro p hp e; exact hk ⟨p, hp, e⟩

theorem kEv_mod (fn : Nat) : kEv fn 0 % 2 ^ 32 = 268451840 := by
  have h : kEv fn 0 = fn * 2 ^ 32 + 268451840 := by show fn * 2 ^ 32 + 2 ^ 28 + (0x4000 + 0) = _; omega
  omega
theorem kEv_div (fn : Nat) : kEv fn 0 / 2 ^ 32 = fn := by
  have h : kEv fn 0 = fn * 2 ^ 32 + 268451840 := by show fn * 2 ^ 32 + 2 ^ 28 + (0x4000 + 0) = _; omega
  omega
theorem kEv_reset (fn : Nat) : (regAttr (kEv fn 0)).rst = 0 := by
  have h4 (n : Nat) : (attr4 n 16384).rst = 0 := by simp [attr4]
  simp only [regAttr, kEv_mod, if_neg (show ¬ (268451840 : Nat) < 2 ^ 28 by decide), show 268451840 - 2 ^ 28 = 16384 by decide]
  exact h4 _

/-- The bit that enables a function's event queue is 0 unless its register is listed. -/
theorem event_queue_off (s : State) :
    (∀ fn, s.rbits (kEv fn 0) 0 0 = 0) ↔ ∀ p ∈ s.csr, p.1 % 2 ^ 32 = 268451840 → s.rbits (kEv (p.1 / 2 ^ 32) 0) 0 0 = 0 := by
  refine ⟨fun h p _ _ => h _, fun h fn => ?_⟩
  by_cases hk : ∃ p ∈ s.csr, p.1 = kEv fn 0
  · obtain ⟨p, hp, e⟩ := hk
    have h1 := h p hp (by rw [e]; exact kEv_mod fn)
    rw [e, kEv_div] at h1
    exact h1
  · unfold State.rbits State.rget
    rw [sget_of_not_mem, kEv_reset]
    · decide
    · intro p hp e; exact hk ⟨p, hp, e⟩

theorem kFb_mod (ck : Nat) : kFb ck 0 % 2 ^ 32 = 268435456 + 64 * (ck % 256) := by
  have h : kFb ck 0 = ck / 256 * 2 ^ 32 + (268435456 + 64 * (ck % 256)) := by
    show ck / 256 * 2 ^ 32 + 2 ^ 28 + (64 * (ck % 256) + 0) = _; omega
  omega
theorem kFb_reset (ck : Nat) : (regAttr (kFb ck 0)).rst = 0 := by
  have h4 (n m : Nat) (hm : m < 0x4000) : (attr4 n m).rst = 0 := by
    simp only [attr4, if_pos hm]; split <;> rfl
  have h1 : ¬ 268435456 + 64 * (ck % 256) < 2 ^ 28 := by omega
  simp only [regAttr, kFb_mod, if_neg h1]
  exact h4 _ _ (by omega)

/-- With no register of the fault and event blocks listed but those of the error block, no record leaves any context. -/
theorem parking_all (s : State) (h : ∀ p ∈ s.csr, p.1 % 2 ^ 32 < 268435456 ∨ 268435456 + 0x8000 ≤ p.1 % 2 ^ 32)
    (he : s.rbits (kEr 0x0C) 15 0 = 0) (hc : s.ctxs = []) : ∀ ck, s.Parking ck := by
  intro ck
  refine ⟨?_, (event_queue_off s).mpr ?_, he, by simp [State.ctx, hc, sget]⟩
  · unfold State.rbits State.rget
    rw [sget_of_not_mem, kFb_reset]
    · decide
    · intro p hp e
      have h1 := h p hp
      have h2 := kFb_mod ck
      rw [e] at h1
      omega
  · intro p hp e
    have h1 := h p hp
    omega

def decParking (s : State) (ck : Nat) : Decidable (s.Parking ck) :=
  decidable_of_iff (s.rbits (kFb ck 0) 0 0 = 0 ∧ (∀ p ∈ s.csr, p.1 % 2 ^ 32 = 268451840 → s.rbits (kEv (p.1 / 2 ^ 32) 0) 0 0 = 0)
    ∧ s.rbits (kEr 0x0C) 15 0 = 0 ∧ (s.ctx ck).parked.length < 16) (by rw [← event_queue_off]; rfl)

def decEvents (s : State) : Decidable (∀ fn, s.rbits (kEv fn 0) 0 0 = 0) := decidable_of_iff _ (event_queue_off s).symm

theorem all_thread (tm : Team) (P : Thread → Prop) : (∀ t, P (tm.thread t)) ↔ P {} ∧ ∀ th ∈ tm.threads, P th := by
  refine ⟨fun h => ⟨?_, fun th hth => ?_⟩, fun ⟨h0, hl⟩ t => ?_⟩
  · have := h tm.threads.length
    simpa [Team.thread] using this
  · obtain ⟨n, hn, rfl⟩ := List.getElem_of_mem hth
    have := h n
    simpa [Team.thread, hn] using this
  · by_cases ht : t < tm.threads.length
    · have : tm.thread t = tm.threads[t] := by simp [Team.thread, ht]
      rw [this]; exact hl _ (List.getElem_mem ht)
    · have : tm.thread t = {} := by simp [Team.thread, Nat.not_lt.mp ht]
      rw [this]; exact h0

def decDrained (s : State) (x : Iss) : Decidable (s.Drained x) :=
  let P (th : Thread) : Prop := th.horizon + 2 ≤ s.dt ∧ th.peerOut = 0 ∧ th.redOut = false ∧ th.wait = {}
  decidable_of_iff (x.tm.accesses = [] ∧ (s.col (teamCol x.k)).sideLog = [] ∧ (s.col (teamCol x.k)).lines = [] ∧ (s.col (teamCol x.k)).wbuf = []
    ∧ (∀ p ∈ s.dir, ∀ w ∈ p.2.waiting, w.col ≠ some (teamCol x.k)) ∧ P {} ∧ ∀ th ∈ x.tm.threads, P th) (by rw [← all_thread x.tm P, State.Drained])

def decHomes (s : State) : Decidable (∀ line, (s.home line).waiting = []) :=
  decidable_of_iff _ (all_sget ({} : DirLine) s.dir fun d => d.waiting = []).symm
def decMoves (s : State) : Decidable (∀ line, (s.home line).move = .unmoved) :=
  decidable_of_iff _ (all_sget ({} : DirLine) s.dir fun d => d.move = .unmoved).symm
def decColumns (s : State) : Decidable (∀ c, (s.col c).lines = [] ∧ (s.col c).wbuf = []) :=
  decidable_of_iff _ (all_sget ({} : Column) s.cols fun c => c.lines = [] ∧ c.wbuf = []).symm
def decShares (s : State) : Decidable (∀ c, ((s.col c).shares.map Prod.fst).Pairwise (· < ·)) :=
  decidable_of_iff _ (all_sget ({} : Column) s.cols fun c => (c.shares.map Prod.fst).Pairwise (· < ·)).symm
def decClines (s : State) (line : Nat) : Decidable (∀ c, (s.cline c line).dirty = []) :=
  decidable_of_iff _ (all_sget ({} : Column) s.cols fun c => (sget ({} : CLine) c.lines line).dirty = []).symm

def decOk {α β ε : Type} [DecidableEq α] [DecidableEq β] [DecidableEq ε] (p : α × Except ε β) (s : α) : Decidable (∃ t, p = (s, .ok t)) :=
  match p with
  | (a, .ok b) => decidable_of_iff (a = s) (by simp)
  | (_, .error _) => isFalse (by simp)

def decOkAnd {α β ε : Type} [DecidableEq α] [DecidableEq β] [DecidableEq ε] (p : α × Except ε β) (s : α) (P : β → Prop) [DecidablePred P] :
    Decidable (∃ t, p = (s, .ok t) ∧ P t) :=
  match p with
  | (a, .ok b) => decidable_of_iff (a = s ∧ P b) (by constructor; rintro ⟨rfl, h⟩; exact ⟨b, rfl, h⟩; rintro ⟨t, h, hp⟩; cases h; exact ⟨rfl, hp⟩)
  | (_, .error _) => isFalse (by simp)

def decExists {α : Type} (o : Option α) (P : α → Prop) [DecidablePred P] : Decidable (∃ a, o = some a ∧ P a) :=
  match o with
  | some a => decidable_of_iff (P a) (by simp)
  | none => isFalse (by simp)
def decForall {α : Type} (o : Option α) (P : α → Prop) [DecidablePred P] : Decidable (∀ a, o = some a → P a) :=
  match o with
  | some a => decidable_of_iff (P a) (by simp)
  | none => isTrue (by simp)

def decExcept {ε β : Type} (p : Except ε β) (P : β → Prop) [DecidablePred P] : Decidable (∃ t, p = .ok t ∧ P t) :=
  match p with
  | .ok b => decidable_of_iff (P b) (by simp)
  | .error _ => isFalse (by simp)
def decExceptOk {ε β : Type} (p : Except ε β) : Decidable (∃ t, p = .ok t) :=
  match p with
  | .ok _ => isTrue (by simp)
  | .error _ => isFalse (by simp)

def decGroup (n g : Nat) (P : Nat → Prop) [DecidablePred P] : Decidable (∀ t, t / 32 = g → t < n → P t) :=
  decidable_of_iff (∀ t, t < n → t / 32 = g → P t) ⟨fun h t a b => h t b a, fun h t a b => h t b a⟩
def decEntries {α : Type} (l : List α) (P : Nat → α → Prop) [∀ j a, Decidable (P j a)] : Decidable (∀ j a, l[j]? = some a → P j a) :=
  let _ := @decForall
  decidable_of_iff (∀ j, j < l.length → ∀ a, l[j]? = some a → P j a)
    ⟨fun h j a e => h j (List.getElem?_eq_some_iff.mp e).1 a e, fun h j _ a e => h j a e⟩
def decLayers (P : Nat → Prop) [DecidablePred P] : Decidable (∃ l, 1 ≤ l ∧ l ≤ 4 ∧ P l) :=
  decidable_of_iff (∃ l, l < 5 ∧ 1 ≤ l ∧ P l) ⟨fun ⟨l, a, b, c⟩ => ⟨l, b, by omega, c⟩, fun ⟨l, a, b, c⟩ => ⟨l, by omega, a, c⟩⟩
def decLayersAll (P : Nat → Prop) [DecidablePred P] : Decidable (∀ l, 1 ≤ l → l ≤ 4 → P l) :=
  decidable_of_iff (P 1 ∧ P 2 ∧ P 3 ∧ P 4)
    ⟨fun ⟨h1, h2, h3, h4⟩ l a b => by
      have : l = 1 ∨ l = 2 ∨ l = 3 ∨ l = 4 := by omega
      rcases this with rfl | rfl | rfl | rfl <;> assumption,
     fun h => ⟨h 1 (by omega) (by omega), h 2 (by omega) (by omega), h 3 (by omega) (by omega), h 4 (by omega) (by omega)⟩⟩

def decMember {α : Type} (o : Option Nat) (g : Nat → Option α) (P : Nat → α → Prop) [∀ k a, Decidable (P k a)] :
    Decidable (∃ k a, o = some k ∧ g k = some a ∧ P k a) :=
  match o with
  | none => isFalse (by simp)
  | some k =>
    match h : g k with
    | none => isFalse (by rintro ⟨k', a, e, ha, _⟩; cases e; simp [h] at ha)
    | some a => decidable_of_iff (P k a) ⟨fun p => ⟨k, a, rfl, h, p⟩, by rintro ⟨k', a', e, ha, p⟩; cases e; rw [h] at ha; cases ha; exact p⟩
def decHost (t : Target) (P : Nat → Prop) [DecidablePred P] : Decidable (∀ va, t = .host va → P va) :=
  match t with
  | .host va => decidable_of_iff (P va) (by simp)
  | .hbm _ | .peer _ _ | .window _ => isTrue (by simp)
def decHbm {α ε : Type} [DecidableEq α] (p : α × Except ε Target) (s : α) : Decidable (∃ key, p = (s, .ok (.hbm key))) :=
  match p with
  | (a, .ok (.hbm key)) => decidable_of_iff (a = s) (by simp)
  | (_, .ok (.host _)) | (_, .ok (.peer _ _)) | (_, .ok (.window _)) | (_, .error _) => isFalse (by simp)
def decHbmEx (t : Target) (P : Nat → Prop) [DecidablePred P] : Decidable (∃ key, t = .hbm key ∧ P key) :=
  match t with
  | .hbm key => decidable_of_iff (P key) (by simp)
  | .host _ | .peer _ _ | .window _ => isFalse (by simp)
def decSome {α β : Type} [DecidableEq α] (p : α × Option β) (s : α) : Decidable (∃ t, p = (s, some t)) :=
  match p with
  | (a, some b) => decidable_of_iff (a = s) (by simp)
  | (_, none) => isFalse (by simp)
def decNotHbm (t : Target) : Decidable (∀ key, t ≠ .hbm key) :=
  match t with
  | .hbm key => isFalse fun h => h key rfl
  | .host _ | .peer _ _ | .window _ => isTrue fun _ h => by cases h
def decJudged (l : List Nat) (a : Nat) (P : Nat → Prop) [DecidablePred P] : Decidable (∀ t, t ∈ l ∨ t = a → P t) :=
  decidable_of_iff (P a ∧ ∀ t ∈ l, P t) ⟨fun ⟨h, k⟩ t e => e.elim (k t) fun e => e ▸ h, fun h => ⟨h a (.inr rfl), fun t e => h t (.inl e)⟩⟩
def decCons {α : Type} (l : List α) (P : α → Prop) [DecidablePred P] : Decidable (∃ a t, l = a :: t ∧ P a) :=
  match l with
  | [] => isFalse (by simp)
  | a :: t => decidable_of_iff (P a) (by simp)

/-! ### Small states -/

/-- A team of `n` threads with 64 registers each, on the core of layer 1. -/
def team (ths : List Thread) : Team := { grid := 0, index := 0, place := .core 1, age := 0, groups := [{ n := 64 }], threads := ths }
def plainTeam : Team := { team (List.replicate 3 {}) with groups := [{ n := 128 }] }
def grid0 : Grid := { ctx := 0, card := List.replicate 32 0, cardAddr := 0, queue := none, age := 0, pri := 0, next := 1, placed := 1 }
def withTeam (tm : Team) (g : Grid := grid0) : State := { State.reset with teams := [(0, tm)], grids := [(0, g)] }
def mods : Mods := { c := 127, ty := 0, xm := 0, sat := false, rm := 0, g := 127, gn := false }

/-- Context 0 translates the first GiB to the same addresses through its tables. -/
def tabled (s : State) (w2 : Word := 1) : State :=
  let s := (s.rset (kXl 0 0) 0x20001).rset (kXl 0 0x0C) 1
  { s with mem := (s.mem.putList 0x20000 (wordsBytes [0x30001, 0, 0, 0])).putList 0x30000 (wordsBytes [0x1F, 0, w2, 0]) }

/-- And column 0 holds a translation of the first 64 KiB. -/
def mapped (s : State) : State :=
  { tabled s with cols := [(0, { tlb := [{ ctx := 0, base := 0, size := 65536, frame := 0, plait := 1, perm := 0x1F }] })] }

/-- No corrected-error threshold is set. -/
def quietErr (s : State) : State := s.rset (kEr 0x0C) 0

/-- The state an event leads to. -/
def after (o : Host.Outcome State Fault Refusal) (s : State) : State := match o with | .next t => t | _ => s

/-- A state in which column 0 alone holds a translation, of the first 64 KiB of context 0. -/
def cached (s : State) : State :=
  ({ s with cols := [(0, { tlb := [{ ctx := 0, base := 0, size := 65536, frame := 0, plait := 1, perm := 0x1F }] })] } : State).rset (kXl 0 0) 1

/-- A team of four threads with registers listed, a scratchpad and 8 tile slots. Thread 1 has the addresses among them 8 higher; thread 3 has none. -/
def laneTeam (l : List (Nat × Word)) : Team :=
  { team [{ regs := l }, { regs := l.map fun p => (p.1, p.2 + if p.2.toNat ≥ 0x1000 then 8 else 0) }, { regs := l }, {}] with
    spadLen := 65536, spad := [(5, 6)], tsl := 8 }
def laneState : State := mapped { State.reset with cyc := 1000, grids := [(0, grid0)] }

namespace Clauses

def b0 : Bundle := { threads := [0,1,2], slice := 0, stamp := 0, active := true }
def tmA : Team := { plainTeam with bundles := [b0], threads := [{ pend := [(3,0),(4,1)] }, {}, {}] }
def hdrA : Header := { wait := 1, len := 1, av := true, af := 0, bv := true, bf := 1, yld := false }
def bsA : List Byte := wordsBytes [encHeader hdrA]
def wsA : List Byte := wordsBytes [encWord (.iadd (defaultMods (encR3 false false 0 3 1 2)) false 3 1 2)]
def sA : State := let s := cached (withTeam tmA); { s with mem := s.mem.putList 0 (bsA ++ wsA) }
def cA : Clause := match decodeClause (encHeader hdrA) (bytesWords wsA) with | .ok c => c | _ => ⟨hdrA, []⟩
/-- f0 of thread 1 is raised, and the header waits on it. -/
def tmB : Team := { plainTeam with bundles := [b0], threads := [{ pend := [(3,0)] }, { flags := 1 }, {}] }
def sB : State := { sA with teams := [(0, tmB)] }
def sP : State := sB.setTeam 0 (tmB.part 0 b0 [0, 2])
def cell (r : State × Except (Nat×Nat×Nat) (List Byte)) : List Byte := match r.2 with | .ok b => b | _ => []
def vt : Thread := { wait := { kind := .collective, word := 1 } }
def voteM : Mods := defaultMods (encR2I false false 12 5 6 1)
def cV : Clause := ⟨hdrA, [⟨1, .vote voteM 5 6 1⟩]⟩
def tmV : Team := { plainTeam with bundles := [{ b0 with clause := some cV, issued := true }], threads := [vt, { vt with regs := [(6,7)] }, { vt with exited := true }] }
def tmS : Team := { plainTeam with bundles := [{ b0 with clause := some cV }], threads := [{ wait := { kind := .sleep, until_ := 0 } }, { wait := { kind := .sleep, until_ := 9 } }, {}] }
def tmF : Team := { plainTeam with bundles := [{ b0 with threads := [0] }, { b0 with threads := [1], active := false, yielded := true }, { b0 with threads := [2], active := false, clause := some cV }], threads := (List.replicate 3 {}) }
theorem test_hypotheses_of_clauses_start_and_bundles_form :
    MetE (fun h : Obligations.ClausesStartAndBundlesForm => ((h.1 0 0 0 0 0 tmA).1 b0 hdrA cA bsA wsA sA sA)) sA
    ∧ MetE (fun h : Obligations.ClausesStartAndBundlesForm => ((h.1 0 0 0 0 0 tmB).2.1 b0 [0, 2] hdrA cA bsA wsA sP sP)) sB
    ∧ MetE (fun h : Obligations.ClausesStartAndBundlesForm => ((h.1 0 0 0 0 0 tmV).2.2.1 voteM 5 6 0)) (withTeam tmV)
    ∧ MetE (fun h : Obligations.ClausesStartAndBundlesForm => ((h.1 0 0 0 0 0 tmS).2.2.2.1)) (withTeam tmS)
    ∧ MetE (fun h : Obligations.ClausesStartAndBundlesForm => ((h.1 0 0 0 0 1 tmS).2.2.2.2)) (withTeam tmS)
    ∧ MetE (fun h : Obligations.ClausesStartAndBundlesForm => (h.2 0 0 1 0 tmF (by decide))) (withTeam tmF) := by
  refine ⟨?_, ?_, ?_, ?_, ?_, ?_⟩ <;>
    (refine met (let _ := @decParking; let _ := @decEvents; let _ := @decDrained; let _ := @decHomes; let _ := @decMoves; let _ := @decColumns; let _ := @decShares; let _ := @decClines; let _ := @decOk; let _ := @decOkAnd; let _ := @decExists; let _ := @decForall; let _ := @decExcept; let _ := @decExceptOk; let _ := @decGroup; let _ := @decEntries; let _ := @decLayers; let _ := @decLayersAll; let _ := @decMember; let _ := @decHost; let _ := @decHbm; let _ := @decJudged; let _ := @decCons; inferInstance) ?_; decide +kernel)

end Clauses

namespace Requests

def tG : Team := { plainTeam with groups := [{ n := 32, req := some 64 }], threads := [{ wait := { kind := .vgrow, word := 1, point := 5 }, regs := [(5, 9)] }, { wait := { kind := .vgrow, word := 1, point := 6 } }] }
def big : Team := { plainTeam with groups := [{ n := 128 }, {n:=0},{n:=0},{n:=0}, {n := 128},{n:=0},{n:=0},{n:=0},{n:=128},{n:=0},{n:=0},{n:=0},{n:=128}], threads := List.replicate 416 {} }
def sFull : State := { withTeam tG with teams := [(0, tG), (1, big)], cyc := 200000 }
def gL : Group := { n := 32, req := some 64, mark := some 0 }
def tGL : Team := { tG with groups := [gL] }
def sFullL : State := { withTeam tGL with teams := [(0, tGL), (1, big)], cyc := 200000 }
def tG2 : Team := { tG with groups := [{ n := 128, req := some 128 }] }
def tG3 : Team := { plainTeam with groups := [{ n := 32, req := some 64 }, {n:=0},{n:=0},{n:=0}, {n:=512}], threads := List.replicate 32 { wait := { kind := .vgrow, word := 1, point := 5 }} ++ List.replicate 96 { exited := true } ++ List.replicate 32 { wait := { kind := .vgrow, word := 1, point := 5 } } }
def tG4 : Team := { tG3 with groups := [{ n := 32, req := some 64 }, {n:=0},{n:=0},{n:=0}, {n:=128, req := some 128}] }
def tG5 : Team := { plainTeam with groups := [{ n := 500, req := some 600 }], threads := List.replicate 32 { wait := { kind := .vgrow, word := 1, point := 5 }} }
def tP : Team := { plainTeam with place := .parked, readyAt := 3 }
def heldPath : State := { withTeam tP with stakeOps := [{ col := 0, boundary := 1, direction := 0, group := 0, at_ := 0, running := true }, { col := 0, boundary := 0, direction := 0, group := 0, at_ := 0, running := true }, { col := 0, boundary := 0, direction := 1, group := 0, at_ := 0, running := true }, { col := 0, boundary := 2, direction := 0, group := 0, at_ := 0, running := true }, { col := 0, boundary := 3, direction := 1, group := 0, at_ := 0, running := true }] }
def eight (v : Team) : List (Nat × Team) := (List.range 32).map fun i => (i, if i = 0 then tP else { v with place := .core (i / 8 + 1) })
def vt2 : Team := { plainTeam with threads := [{ wait := { kind := .sleep } }], readyAt := 1 }
def sEight : State := { withTeam tP with teams := [(0,tP)] ++ (List.range 31).map fun i => (i+1, { plainTeam with groups := List.replicate 16 { n := 32 }, threads := List.replicate 512 {}, place := .core (i % 4 + 1), since := 0 }), cyc := 200000 }
def tM : Team := { plainTeam with place := .moving 0 1, bundles := [{ threads := [0,1,2], slice := 0, stamp := 0, active := false }] }
def tQ : Team := { plainTeam with parking := true, bundles := [{ threads := [0,1,2], slice := 0, stamp := 0, active := true }] }
def tV : Team := { plainTeam with parking := true, place := .moving 1 0, bundles := [{ threads := [0,1,2], slice := 0, stamp := 0, active := false }] }
theorem test_hypotheses_of_register_requests_and_parking :
    MetE (fun h : Obligations.RegisterRequestsAndParking => ((h.1 0 0 1 0 64 tG { n := 32, req := some 64 }).1)) (withTeam tG)
    ∧ MetE (fun h : Obligations.RegisterRequestsAndParking => ((h.1 0 0 1 0 64 tGL gL).2.1)) sFullL
    ∧ MetE (fun h : Obligations.RegisterRequestsAndParking => ((h.1 0 0 1 0 600 tG5 { n := 500, req := some 600 }).2.2 (by decide))) (withTeam tG5)
    ∧ MetE (fun h : Obligations.RegisterRequestsAndParking => ((h.2 0 0 1 tP).1)) (withTeam tP)
    ∧ MetE (fun h : Obligations.RegisterRequestsAndParking => ((h.2 0 0 1 tP).2.1)) heldPath
    ∧ MetE (fun h : Obligations.RegisterRequestsAndParking => ((h.2 0 0 1 tP).2.2.1 1 ((sEight.team? 1).getD tP) (by decide))) sEight
    ∧ MetE (fun h : Obligations.RegisterRequestsAndParking => ((h.2 0 0 1 tM).2.2.2.1)) (withTeam tM)
    ∧ MetE (fun h : Obligations.RegisterRequestsAndParking => ((h.2 0 0 1 tQ).2.2.2.2.1)) (withTeam tQ)
    ∧ MetE (fun h : Obligations.RegisterRequestsAndParking => ((h.2 0 0 1 tV).2.2.2.2.2 (by decide))) (withTeam tV) := by
  refine ⟨?_, ?_, ?_, ?_, ?_, ?_, ?_, ?_, ?_⟩ <;>
    (refine met (let _ := @decParking; let _ := @decEvents; let _ := @decDrained; let _ := @decHomes; let _ := @decMoves; let _ := @decColumns; let _ := @decShares; let _ := @decClines; let _ := @decOk; let _ := @decOkAnd; let _ := @decExists; let _ := @decForall; let _ := @decExcept; let _ := @decExceptOk; let _ := @decGroup; let _ := @decEntries; let _ := @decLayers; let _ := @decLayersAll; let _ := @decMember; let _ := @decHost; let _ := @decHbm; let _ := @decJudged; let _ := @decCons; inferInstance) ?_; decide +kernel)

end Requests

namespace Governor

def mg : Migration := { slot := 0, dst := 2, directed := true }
def withCol (s : State) (c : Column) : State := { s with cols := [(0, c)] }
def tC : Team := { plainTeam with bundles := [{ threads := [0,1,2], slice := 0, stamp := 0, active := true }] }
abbrev gv (h : Obligations.TheGovernorMigratesTeams) (tm : Team) (m : Migration) := h 0 0 1 2 tm m (by decide)
def hot : State := withCol { (withTeam tC).rset (key0 0 0x160000) 0x554B1812 with cyc := 60000000 } { power := [30, 0, 0, 0], hotRun := [(1, 3)] }
def dmw (layer slot ctx here : Nat) : Word := BitVec.ofNat 32 (0x20000000 + layer*2^24 + slot*2^16 + here*2^12 + ctx)
def atA (s : State) : State := s.rset (kCol 0 0x10) 0
def go (layer : Nat) : State := (withTeam tC).rset (kCol 0 8) (dmw layer 0 256 1)
def full : State := { go 1 with teams := (0, tC) :: (List.range 8).map fun i => (i + 1, { plainTeam with place := .core 2 }) }
def tT : Team := { tC with halting := true, accesses := [{ id := 3, kind := .load, va := 0, size := 4, ty := 0, scope := 0, dests := [{ thread := 0, reg := 3, cnt := 1, flag := some 0 }], state := .sent }] }
def tBusy : Team := { tC with bundles := [{ threads := [0,1,2], slice := 0, stamp := 0, active := true, clause := some (oneWord .mnop) }], halting := true, haltAt := 0, migFrom := some (0, 0) }
def tMv : Team := { tC with place := .moving 1 2 }
def mh : Migration := { mg with halted := true, flits := 9 }
def ac : Access := { id := 7, kind := .load, va := 0, size := 4, ty := 0, scope := 0, dests := [{ thread := 0, reg := 3, cnt := 1, flag := some 0 }], state := .ready, forwarded := true, value := 5 }
def tMvF : Team := { tMv with accesses := [ac] }
def tR : Team := { tMv with accesses := [{ ac with forwarded := false, routed := true }] }
theorem test_hypotheses_of_the_governor_migrates_teams :
    MetE (fun h : Obligations.TheGovernorMigratesTeams => (gv h tC mg).1) (withCol (withTeam tC) { migration := some mg })
    ∧ MetE (fun h : Obligations.TheGovernorMigratesTeams => ((gv h tC mg).2.1 10)) (withCol { withTeam tC with cyc := 100 } { evalAt := some 10 })
    ∧ MetE (fun h : Obligations.TheGovernorMigratesTeams => ((gv h tC mg).2.2.2.1 (by decide))) (withCol { (withTeam tC).rset (kCol 0 8) (dmw 1 0 256 0) with cyc := 100000 } { evalAt := some 1000 })
    ∧ MetE (fun h : Obligations.TheGovernorMigratesTeams => ((gv h tC mg).2.2.2.2.1 0xA1000000 (by decide) (by decide)).1) (withTeam tC)
    ∧ MetE (fun h : Obligations.TheGovernorMigratesTeams => ((gv h tC mg).2.2.2.2.1 0xA1000000 (by decide) (by decide)).2) ((withTeam tC).rset (kCol 0 8) 0x20000000)
    ∧ MetE (fun h : Obligations.TheGovernorMigratesTeams => ((gv h tC mg).2.2.2.2.2.1 (by decide)).1) (go 1)
    ∧ MetE (fun h : Obligations.TheGovernorMigratesTeams => ((gv h tC mg).2.2.2.2.2.1 (by decide)).2.1) (go 0)
    ∧ MetE (fun h : Obligations.TheGovernorMigratesTeams => ((gv h tC mg).2.2.2.2.2.1 (by decide)).2.2.1) full
    ∧ MetE (fun h : Obligations.TheGovernorMigratesTeams => ((gv h tC mg).2.2.2.2.2.1 (by decide)).2.2.2.1) ({ go 0 with teams := [] })
    ∧ MetE (fun h : Obligations.TheGovernorMigratesTeams => ((gv h tC mg).2.2.2.2.2.1 (by decide)).2.2.2.2) ((withTeam tC).rset (kCol 0 8) (dmw 0 0 256 0))
    ∧ MetE (fun h : Obligations.TheGovernorMigratesTeams => (gv h tT mg).2.2.2.2.2.2.1) (withCol (withTeam tT) { migration := some mg })
    ∧ MetE (fun h : Obligations.TheGovernorMigratesTeams => (gv h tBusy mg).2.2.2.2.2.2.2.1) (withCol { withTeam tBusy with cyc := 10000 } { migration := some mg })
    ∧ MetE (fun h : Obligations.TheGovernorMigratesTeams => ((gv h tMv mh).2.2.2.2.2.2.2.2.1 (by decide) (by decide)).1) (withCol { withTeam tMv with cyc := 100 } { migration := some mh })
    ∧ MetE (fun h : Obligations.TheGovernorMigratesTeams => ((gv h tMvF mh).2.2.2.2.2.2.2.2.1 (by decide) (by decide)).2 ac) (withCol { withTeam tMvF with cyc := 100 } { migration := some mh })
    ∧ MetE (fun h : Obligations.TheGovernorMigratesTeams => ((gv h tR mh).2.2.2.2.2.2.2.2.2 7)) (withCol (withTeam tR) { migration := some mh }) := by
  refine ⟨?_, ?_, ?_, ?_, ?_, ?_, ?_, ?_, ?_, ?_, ?_, ?_, ?_, ?_, ?_⟩ <;>
    (refine met (let _ := @decParking; let _ := @decEvents; let _ := @decDrained; let _ := @decHomes; let _ := @decMoves; let _ := @decColumns; let _ := @decShares; let _ := @decClines; let _ := @decOk; let _ := @decOkAnd; let _ := @decExists; let _ := @decForall; let _ := @decExcept; let _ := @decExceptOk; let _ := @decGroup; let _ := @decEntries; let _ := @decLayers; let _ := @decLayersAll; let _ := @decMember; let _ := @decHost; let _ := @decHbm; let _ := @decJudged; let _ := @decCons; inferInstance) ?_; decide +kernel)

def op (r : Bool) (at_ : Nat := 0) (t : Bool := false) : StakeOp := { col := 0, boundary := 0, direction := 0, group := 0, at_, running := r, test := t }
def sD (l : List StakeOp) (cyc : Nat := 0) : State := { withTeam tC with stakeOps := l, cyc }
abbrev hd (h : Obligations.LaneGroupsAreKeptAligned) (o : StakeOp) := h 0 0 0 0 o (by decide) (by decide) (by decide) (by decide)
abbrev hd1 (h : Obligations.LaneGroupsAreKeptAligned) (o : StakeOp) := h 0 1 0 0 o (by decide) (by decide) (by decide) (by decide)
def lg : LaneGroup := { aligned := some 10 }
theorem test_hypotheses_of_lane_groups_are_kept_aligned :
    MetE (fun h : Obligations.LaneGroupsAreKeptAligned => (hd h (op true)).1) (sD [])
    ∧ MetE (fun h : Obligations.LaneGroupsAreKeptAligned => (hd1 h (op true)).2.1) (withCol (withTeam tMv) { migration := some mh })
    ∧ MetE (fun h : Obligations.LaneGroupsAreKeptAligned => (hd h (op false)).2.2.2.1) (sD [op false])
    ∧ MetE (fun h : Obligations.LaneGroupsAreKeptAligned => (hd h (op false)).2.2.2.2.1) (sD [op false] 100000)
    ∧ MetE (fun h : Obligations.LaneGroupsAreKeptAligned => (hd h (op true)).2.2.2.2.2.1) (sD [op true] 100000)
    ∧ MetE (fun h : Obligations.LaneGroupsAreKeptAligned => (hd h (op true)).2.2.2.2.2.2.1) (sD [op true] 100000)
    ∧ MetE (fun h : Obligations.LaneGroupsAreKeptAligned => (hd h (op true)).2.2.2.2.2.2.2.2.1) (sD [])
    ∧ MetE (fun h : Obligations.LaneGroupsAreKeptAligned => (hd h (op true 0 true)).2.2.2.2.2.2.2.2.2.1) (sD [op true 0 true])
    ∧ MetE (fun h : Obligations.LaneGroupsAreKeptAligned => ((hd h (op true 0 true)).2.2.2.2.2.2.2.2.2.2.1 true)) (sD [op true 0 true] 5000)
    ∧ MetE (fun h : Obligations.LaneGroupsAreKeptAligned => ((hd h (op true 0 true)).2.2.2.2.2.2.2.2.2.2.1 false)) (sD [op true 0 true] 5000)
    ∧ MetE (fun h : Obligations.LaneGroupsAreKeptAligned => ((hd h (op true)).2.2.2.2.2.2.2.2.2.2.2 7).2.1) ((sD []).rset (kEr 0x0C) 0) := by
  refine ⟨?_, ?_, ?_, ?_, ?_, ?_, ?_, ?_, ?_, ?_, ?_⟩ <;>
    (refine met (let _ := @decParking; let _ := @decEvents; let _ := @decDrained; let _ := @decHomes; let _ := @decMoves; let _ := @decColumns; let _ := @decShares; let _ := @decClines; let _ := @decOk; let _ := @decOkAnd; let _ := @decExists; let _ := @decForall; let _ := @decExcept; let _ := @decExceptOk; let _ := @decGroup; let _ := @decEntries; let _ := @decLayers; let _ := @decLayersAll; let _ := @decMember; let _ := @decHost; let _ := @decHbm; let _ := @decJudged; let _ := @decCons; inferInstance) ?_; decide +kernel)

/-- A lane group whose direction had its last realignment less than 312.5 µs ago. -/
theorem test_hypotheses_of_an_early_realignment :
    MetE (fun h : Obligations.LaneGroupsAreKeptAligned => (hd h (op true)).2.2.1) { sD [] 1000 with dueAt := [((sD []).laneKey 0 0 0 0, 5)] } := by
  show (_ && match sfind [((sD []).laneKey 0 0 0 0, 5)] ((sD []).laneKey 0 0 0 0) with | some t => _ | none => _) = false
  simp only [sfind, if_true, Bool.and_eq_false_iff]
  right; decide

/-- The lane group whose third retry fails. -/
theorem test_hypotheses_of_a_third_failure :
    MetE (fun h : Obligations.LaneGroupsAreKeptAligned => (hd h (op true)).2.2.2.2.2.2.2.1)
      { sD [op true] 100000 with laneGroups := [((sD []).laneKey 0 0 0 0, { fails := 3 })] } := by
  refine ⟨⟨?_, ?_, ?_⟩, ?_⟩
  · decide
  · decide
  · decide
  · show 3 ≤ (sget ({} : LaneGroup) [((sD []).laneKey 0 0 0 0, { fails := 3 })] ((sD []).laneKey 0 0 0 0)).fails
    simp [sget]

/-- Lane group 0 of the first boundary as `l`, where no corrected-error threshold is set. -/
def sL (l : LaneGroup) : State := { (sD []).rset (kEr 0x0C) 0 with laneGroups := [((sD []).laneKey 0 0 0 0, l)] }
theorem lane_sL (l : LaneGroup) : (sL l).lane ((sL l).laneKey 0 0 0 0) = l := by
  show sget ({} : LaneGroup) [((sD []).laneKey 0 0 0 0, l)] ((sD []).laneKey 0 0 0 0) = l
  simp [sget]

/-- A parity failure where the lane group is disabled, and the fourth of one signal. -/
theorem test_hypotheses_of_parity_failures :
    MetE (fun h : Obligations.LaneGroupsAreKeptAligned => ((hd h (op true)).2.2.2.2.2.2.2.2.2.2.2 7).1) (sL { disabled := true })
    ∧ MetE (fun h : Obligations.LaneGroupsAreKeptAligned => ((hd h (op true)).2.2.2.2.2.2.2.2.2.2.2 7).2.2)
      (sL { failed := [(7, 0), (7, 0), (7, 0)] }) := by
  dsimp only [MetE]
  simp only [lane_sL]
  exact ⟨by decide, by decide⟩

theorem coolest_freeCount (u : State) (n c : Nat) (l : List Nat) : ({ u with freeCount := n } : State).coolest c l = u.coolest c l := by
  induction l with
  | nil => rfl
  | cons x t ih => simp only [State.coolest, ih]; rfl

theorem target_freeCount (u : State) (n c l k : Nat) (tm : Team) (e : Bool) :
    ({ u with freeCount := n } : State).target c l k tm e = u.target c l k tm e := coolest_freeCount u n c _

/-- A migration starts, when the sensors, which are free, read 0: the layer is hot by its power. -/
theorem test_hypotheses_of_a_governed_migration (hv : Config.freeWord 0 = 0) :
    MetE (fun h : Obligations.TheGovernorMigratesTeams => ((gv h tC mg).2.2.1 [])) hot := by
  have hf : hot.free = ({ hot with freeCount := 1 }, 0) := by
    show (({ hot with freeCount := 0 + 1 } : State), Config.freeWord 0) = _
    rw [hv]
  dsimp only [MetE]
  simp only [hf]
  refine ⟨by decide +kernel, by decide +kernel, by decide +kernel, by decide +kernel, by decide +kernel, by decide +kernel, by decide +kernel, ?_⟩
  intro n
  exact (target_freeCount _ n 0 1 0 tC false).trans (by decide +kernel)

end Governor

namespace Queues

def cd : List Word := (((((List.replicate 32 (0 : Word)).set 4 (BitVec.ofNat 32 (1*2^25 + 1*2^22))).set 8 0x10000).set 9 1).set 10 (BitVec.ofNat 32 (256*2^16))).set 31 0x20000
def cdb : List Byte := wordsBytes cd
def sqq (bs : List Byte) (head tail : Word := 0) : State := 
  let s := tabled State.reset
  let s := { s with mem := s.mem.putList 0x1000 bs }
  (((s.rset (kQueue 0 3 0) 0x1000).rset (kQueue 0 3 8) 0x84).rset (kQueue 0 3 0x0C) tail).rset (kQueue 0 3 0x10) head
abbrev hq (h : Obligations.QueuesTakeCards) (bs : List Byte) (v : Word := 0) := h 0 0 3 v bs (by decide) (by decide)
def bad : List Byte := wordsBytes (cd.set 8 0)
def cin : CardIn := { words := cd.set 12 0x80000000 |>.set 11 0x2000 |>.set 13 5, addr := 0x1000, launch := false }
def sdep (n : Nat) : State := let s := tabled State.reset; { { s with mem := s.mem.putList 0x2000 (leBytes n 8) }.setIntake 0 3 [cin] with gridNext := 4 }
theorem test_hypotheses_of_queues_take_cards :
    MetE (fun h : Obligations.QueuesTakeCards => (hq h cdb 0x88).1) (sqq cdb)
    ∧ MetE (fun h : Obligations.QueuesTakeCards => (hq h cdb 0x08).1) State.reset
    ∧ MetE (fun h : Obligations.QueuesTakeCards => (hq h cdb 16).2.1) (sqq cdb)
    ∧ MetE (fun h : Obligations.QueuesTakeCards => (hq h cdb 17).2.2.1) ((sqq cdb).rset (kEr 0x0C) 0)
    ∧ MetE (fun h : Obligations.QueuesTakeCards => (hq h cdb 17).2.2.2.1) (sqq cdb)
    ∧ MetE (fun h : Obligations.QueuesTakeCards => (hq h cdb 0).2.2.2.2.1) ((sqq cdb).modCtx 0 fun x => { x with frozenQueues := [3] })
    ∧ MetE (fun h : Obligations.QueuesTakeCards => (hq h cdb 0).2.2.2.2.2.1) (sqq cdb 0 1)
    ∧ MetE (fun h : Obligations.QueuesTakeCards => ((hq h bad 0).2.2.2.2.2.2.1 7)) (((sqq bad 0 1)).rset (kEr 0x0C) 0)
    ∧ MetE (fun h : Obligations.QueuesTakeCards => (((hq h bad 0).2.2.2.2.2.2.2 cin [] (fun _ => 5)).1)) (sdep 5)
    ∧ MetE (fun h : Obligations.QueuesTakeCards => (((hq h bad 0).2.2.2.2.2.2.2 cin [] (fun _ => 4)).2 0 (by decide) (by decide) (by decide) (by decide))) (sdep 4) := by
  refine ⟨?_, ?_, ?_, ?_, ?_, ?_, ?_, ?_, ?_, ?_⟩ <;>
    (refine met (let _ := @decParking; let _ := @decEvents; let _ := @decDrained; let _ := @decHomes; let _ := @decMoves; let _ := @decColumns; let _ := @decShares; let _ := @decClines; let _ := @decOk; let _ := @decOkAnd; let _ := @decExists; let _ := @decForall; let _ := @decExcept; let _ := @decExceptOk; let _ := @decGroup; let _ := @decEntries; let _ := @decLayers; let _ := @decLayersAll; let _ := @decMember; let _ := @decHost; let _ := @decHbm; let _ := @decJudged; let _ := @decCons; inferInstance) ?_; decide +kernel)

end Queues

namespace Grids

def cdG : List Word := (((((List.replicate 32 (0 : Word)).set 4 (BitVec.ofNat 32 (1*2^25 + 1*2^22))).set 8 0x10010).set 9 3).set 10 (BitVec.ofNat 32 (256*2^16))).set 6 0x100
def gG : Grid := { ctx := 0, card := cdG, cardAddr := 0, queue := some 3, age := 0, pri := 0 }
def sG (g : Grid) : State := { State.reset with grids := [(0, g)], cyc := 77 }
def gC : Grid := { gG with card := cdG.set 4 (BitVec.ofNat 32 (1*2^25 + 1*2^22 + 2^19)) }
def gS : Grid := { gG with card := ((cdG.set 27 0x2008).set 28 0x80000000).set 29 5, complete := true }
def hostTab (s : State) : State := { s with engTlb := [(63, { ctx := 0, base := 0x2000, size := 4096, frame := 0, plait := 0x01000000, perm := 0x1F, ats := some { rd := true, wr := true, addr := 0x2000 } })], mem := s.mem.putList 0x30000 (wordsBytes [0x1F, 0, 0x01000000, 0]) }
def tB : Team := { plainTeam with admitting := true, threads := [{ wait := { kind := .gbar, word := 1 } }, {}] }
def hv : Handover := { card := 0x1000, mask := 0x103, thread := 0, step := 3, words := cdG }
def tH : Team := { plainTeam with handover := some hv, threads := List.replicate 32 { regs := [(4, 7), (20, 8), (40, 9)], wait := { kind := .rets, word := 1 } }, groups := [{ n := 64 }], spad := [(5,6)], spadLen := 1024 }
/-- A successor in a cluster of two, whose other member has not handed over. -/
def hvc : Handover := { hv with words := cdG.set 4 (BitVec.ofNat 32 (1*2^25 + 2*2^22)) }
def tHc : Team := { tH with handover := some hvc, cluster := [0, 1] }
def gH : Grid := { gG with next := 1, placed := 1 }
def tW : Team := { plainTeam with place := .parked, successor := true, threads := List.replicate 32 {} }
theorem test_hypotheses_of_grids_and_successors :
    MetE (fun h : Obligations.GridsAndSuccessors => ((h.1 0 0 gG cdG rfl).1 (0,36864) (0,0) 0)) (sG gG)
    ∧ MetE (fun h : Obligations.GridsAndSuccessors => ((h.1 0 0 gC gC.card rfl).2.1)) ({ sG gC with cyc := 3000000 } : State)
    ∧ MetE (fun h : Obligations.GridsAndSuccessors => ((h.1 0 0 gS gS.card rfl).2.2.1.2 0x2008)) (tabled (sG gS))
    ∧ MetE (fun h : Obligations.GridsAndSuccessors => ((h.1 0 0 gS gS.card rfl).2.2.1.1 0x2008)) (hostTab (tabled (sG gS)))
    ∧ MetE (fun h : Obligations.GridsAndSuccessors => ((h.1 0 0 gG cdG rfl).2.2.2 0 10 tB)) ({ withTeam tB with cyc := 20, admits := [(10,0)] } : State)
    ∧ MetE (fun h : Obligations.GridsAndSuccessors => ((h.2 0 0 tHc gH).1 hvc rfl).1) (withTeam tHc gH)
    ∧ MetE (fun h : Obligations.GridsAndSuccessors => ((h.2 0 0 tH gH).1 hv rfl).2) (withTeam tH gH)
    ∧ MetE (fun h : Obligations.GridsAndSuccessors => ((h.2 0 0 tW gH).2 (0,36864) (0,0))) (withTeam tW gH) := by
  refine ⟨?_, ?_, ?_, ?_, ?_, ?_, ?_, ?_⟩ <;>
    (refine met (let _ := @decParking; let _ := @decEvents; let _ := @decDrained; let _ := @decHomes; let _ := @decMoves; let _ := @decColumns; let _ := @decShares; let _ := @decClines; let _ := @decOk; let _ := @decOkAnd; let _ := @decExists; let _ := @decForall; let _ := @decExcept; let _ := @decExceptOk; let _ := @decGroup; let _ := @decEntries; let _ := @decLayers; let _ := @decLayersAll; let _ := @decMember; let _ := @decHost; let _ := @decHbm; let _ := @decJudged; let _ := @decCons; inferInstance) ?_; decide +kernel)

abbrev hx (h : Obligations.ContextsHaltAndResume) := h 0 0 3 (by decide) (by decide)
def gX : Grid := { gH with queue := some 3 }
def tX : Team := { plainTeam with bundles := [{ threads := [0,1,2], slice := 0, stamp := 0, active := true }] }
def cmdX : Command := { op := 2, queue := 0, step := 0, start := 0 }
def tX2 : Team := { tX with halting := true }
def cmdS : Command := { op := 3, queue := 0, step := 2, start := 0 }
def cmdT : Command := { op := 3, queue := 0, step := 2, start := 0 }
def tXp : Team := { tX2 with place := .parked, halted := true }
theorem test_hypotheses_of_contexts_halt_and_resume :
    MetE (fun h : Obligations.ContextsHaltAndResume => (hx h).1) (withTeam tX gX)
    ∧ MetE (fun h : Obligations.ContextsHaltAndResume => (hx h).2.1) (withTeam tX gX)
    ∧ MetE (fun h : Obligations.ContextsHaltAndResume => (hx h).2.2.1) (withTeam tX gX)
    ∧ MetE (fun h : Obligations.ContextsHaltAndResume => ((hx h).2.2.2.1 (.haltQueue 0 0 3) (by simp))) ((withTeam tX gX).modCtx 0 fun x => { x with cmd := some cmdX })
    ∧ MetE (fun h : Obligations.ContextsHaltAndResume => (hx h).2.2.2.2.1) ((withTeam { tX with halted := true, place := .parked } { gX with halted := true }).setQhalt 0 3 1)
    ∧ MetE (fun h : Obligations.ContextsHaltAndResume => (hx h).2.2.2.2.2.1) ((withTeam { tX with halted := true, place := .parked } { gX with halted := true }).setCstate 0 1)
    ∧ MetE (fun h : Obligations.ContextsHaltAndResume => ((hx h).2.2.2.2.2.2.1 cmdX)) (((withTeam tXp { gX with halted := true }).modCtx 0 fun x => { x with cmd := some cmdX }).setBusy 0 1)
    ∧ MetE (fun h : Obligations.ContextsHaltAndResume => ((hx h).2.2.2.2.2.2.2.2.1 cmdT)) ({ ((withTeam tXp { gX with halted := true }).modCtx 0 fun x => { x with cmd := some cmdT }) with cyc := 100 })
    ∧ MetE (fun h : Obligations.ContextsHaltAndResume => ((hx h).2.2.2.2.2.2.2.2.2 { cmdS with step := 6 } State.reset).2.2)
        ((withTeam tXp { gX with halted := true }).modCtx 0 fun x => { x with cmd := some { cmdS with step := 6 } }) := by
  refine ⟨?_, ?_, ?_, ?_, ?_, ?_, ?_, ?_, ?_⟩ <;>
    (refine met (let _ := @decParking; let _ := @decEvents; let _ := @decDrained; let _ := @decHomes; let _ := @decMoves; let _ := @decColumns; let _ := @decShares; let _ := @decClines; let _ := @decOk; let _ := @decOkAnd; let _ := @decExists; let _ := @decForall; let _ := @decExcept; let _ := @decExceptOk; let _ := @decGroup; let _ := @decEntries; let _ := @decLayers; let _ := @decLayersAll; let _ := @decMember; let _ := @decHost; let _ := @decHbm; let _ := @decJudged; let _ := @decCons; inferInstance) ?_; decide +kernel)

/-- A context with nothing to save, whose save stands at a step, with its area in a base-scratchpad range. -/
def saving (step : Nat) : State :=
  ({ State.reset.rset (kXl 0 0) 1 with wins := [{ ctx := 0, base := 0, size := 2 ^ 24, live := true }] }).modCtx 0 fun x => { x with cmd := some { cmdS with step } }

theorem intake_length : (intakeBlock []).length = 2048 := by decide +kernel

theorem fit_length (n : Nat) (l : List Byte) : (fit n l).length = n := by simp [fit]; omega
theorem saving_area_length (step st : Nat) (cmd : Command) : ((saving step).area 0 st cmd).length = 135168 := by
  have h1 : (saving step).saveGrids 0 = [] := rfl
  have h2 : (saving step).saveTeams 0 = [] := rfl
  have h3 (q : Nat) : ((saving step).ctx 0).intake q = [] := rfl
  have h4 : ((List.range 64).flatMap fun _ => intakeBlock []).length = 131072 := by
    rw [List.length_flatMap, intake_length, List.map_const', List.sum_replicate, List.length_range]
    decide
  simp only [State.area, h1, h2, h3, State.imagesFrom, List.length_append, fit_length, h4, pad256]
  rfl

theorem targets_ok (s : State) (h : ∀ a, a < 2 ^ 24 → ∃ key, s.xlateAgent none 0 a kEngW true true false = (s, .ok (.window key))) (n va : Nat) (hn : va + n ≤ 2 ^ 24) :
    ∃ l, s.writeTargets 0 kEngW true va n = (s, .ok l) := by
  induction n generalizing va with
  | zero => exact ⟨[], rfl⟩
  | succ n ih =>
    obtain ⟨key, hk⟩ := h va (by omega)
    obtain ⟨l, hl⟩ := ih (va + 1) (by omega)
    exact ⟨.window key :: l, by simp [State.writeTargets, hk, State.targetUp, hl]⟩
theorem window_ok (s : State) (h1 : s.rbits (kXl 0 0) 0 0 ≠ 0) (h2 : s.rbits (kL2 0 0) 15 15 = 0)
    (h3 : s.wins = [{ ctx := 0, base := 0, size := 2 ^ 24, live := true }]) (a : Nat) (ha : a < 2 ^ 24) :
    ∃ key, s.xlateAgent none 0 a kEngW true true false = (s, .ok (.window key)) := by
  have hw : s.winHeld 0 a = false := by simp [State.winHeld, h2]
  have hf : s.winOf 0 a = some { ctx := 0, base := 0, size := 2 ^ 24, live := true } := by simp [State.winOf, h3]; omega
  refine ⟨winKey 0 (a - 0), ?_⟩
  have e : ¬ (0 + 2 ^ 24 ≤ a) := by omega
  simp only [State.xlateAgent, State.xlate, h1, hw, hf, kindFetch, kEngW, if_neg e]
  simp

/-- A write to that range meets no fault. -/
theorem write_ok (s : State) (h1 : s.rbits (kXl 0 0) 0 0 ≠ 0) (h2 : s.rbits (kL2 0 0) 15 15 = 0)
    (h3 : s.wins = [{ ctx := 0, base := 0, size := 2 ^ 24, live := true }]) (va : Nat) (bs : List Byte) (hb : va + bs.length ≤ 2 ^ 24) :
    (s.virtWrite 0 va bs .save).2 = none := by
  obtain ⟨l, hl⟩ := targets_ok _ (window_ok { s with
      idNext := s.idNext + 1, puts := s.puts ++ [{ id := s.idNext, ck := 0, end_ := .save, todo := some (.bytes va bs) }] } h1 h2 h3) bs.length va hb
  simp only [State.virtWrite, State.sendPut, hl]

/-- A save's state whose writes meet no fault. -/
theorem save_ok (s : State) (hc : s.csr = (saving 1).csr) (h3 : s.wins = (saving 1).wins) (bs : List Byte) (hb : bs.length ≤ 2 ^ 24) :
    ∃ u, s.virtWrite 0 (s.saveBase 0 + 0) bs .save = (u, none) := by
  have e : s.saveBase 0 = 0 := by simp only [State.saveBase, State.rbits, State.rget, hc]; decide +kernel
  refine ⟨_, Prod.ext rfl (write_ok s ?_ ?_ h3 _ bs (by omega))⟩
  · simp only [State.rbits, State.rget, hc]; decide +kernel
  · simp only [State.rbits, State.rget, hc]; decide +kernel

/-- The writes of a save: the header under a new SEQ, the area, and the header again. -/
theorem test_hypotheses_of_the_writes_of_a_save :
    (∃ u, MetE (fun h : Obligations.ContextsHaltAndResume => ((hx h).2.2.2.2.2.2.2.1 { cmdS with step := 1 } u)) (saving 1))
    ∧ (∃ u, MetE (fun h : Obligations.ContextsHaltAndResume => ((hx h).2.2.2.2.2.2.2.2.2 { cmdS with step := 4 } u).1) (saving 4))
    ∧ ∃ u, MetE (fun h : Obligations.ContextsHaltAndResume => ((hx h).2.2.2.2.2.2.2.2.2 { cmdS with step := 5 } u).2.1) (saving 5) := by
  refine ⟨?_, ?_, ?_⟩
  · obtain ⟨u, h⟩ := save_ok ((saving 1).modCtx 0 fun x => { x with saveSeq := (x.saveSeq + 1) % 2 ^ 24 }) rfl rfl
      ((((saving 1).modCtx 0 fun x => { x with saveSeq := (x.saveSeq + 1) % 2 ^ 24 }).area 0 1 { cmdS with step := 1 }).take 52) (by rw [List.length_take]; omega)
    exact ⟨u, rfl, rfl, rfl, by decide +kernel, h⟩
  · obtain ⟨u, h⟩ := save_ok (saving 4) rfl rfl ((saving 4).area 0 1 { cmdS with step := 4 }) (by rw [saving_area_length]; omega)
    exact ⟨u, ⟨rfl, rfl, rfl⟩, by decide +kernel, by decide +kernel, h⟩
  · obtain ⟨u, h⟩ := save_ok (saving 5) rfl rfl (((saving 5).area 0 2 { cmdS with step := 5 }).take 52) (by rw [List.length_take]; omega)
    exact ⟨u, ⟨rfl, rfl, rfl⟩, by decide +kernel, h⟩

end Grids

namespace Translations

abbrev hT1 (h : Obligations.TranslationsAreControlled) (v : Word) := h 0 0 0x2008 v (by decide)
def sT := tabled State.reset
def sTh := hostTab' sT where hostTab' (s : State) : State := { s with mem := s.mem.putList 0x30000 (wordsBytes [0x1F, 0, 0x01000000, 0]) }
def wk (s : State) : Nat × Nat × Nat × Nat × Word × Word × Word := match s.walk 0 0x2008 with | .leaf a b c d e f g => (a,b,c,d,e,f,g) | _ => default
def k1 := wk sT
def sInv : State := ({ sT with cols := [(0, { tlb := [{ ctx := 0, base := 0, size := 65536, frame := 0, plait := 1, perm := 0x1F }] })] }).modCtx 0 fun x => { x with inval := some (0, 0) }
def aH : Access := { id := 1, kind := .load, va := 0x2000, size := 4, ty := 2, scope := 0, dests := [], state := .held }
def tmI : Team := { plainTeam with accesses := [aH] }
def k2 := wk sTh
abbrev hAts (h : Obligations.TranslationsAreControlled) := (hT1 h 0).2.2.2.2.2.2.2.2.2.2.1
def xH (base : Nat) : Xlat := { ctx := 0, base, size := 4096, frame := 0, plait := 0x01000000, perm := 0x1F, ats := some { rd := true, wr := false, addr := 0 } }
def sAsk (s : State) : State := { s with atsAsked := [(3, 0, 2)], cols := [(3, { tlb := [xH 0x2000, xH 0x8000] })], engTlb := [(2, xH 0x2000)] }
def pq : PageReq := { fn := 0, pasid := 0, va := 0x2000, write := true, ctxs := [0], sent := true }
theorem test_hypotheses_of_translations_are_controlled :
    MetE (fun h : Obligations.TranslationsAreControlled => ((hT1 h 0).1 0 k1.1 k1.2.1 k1.2.2.1 k1.2.2.2.1 k1.2.2.2.2.1 k1.2.2.2.2.2.1 k1.2.2.2.2.2.2)) sT
    ∧ MetE (fun h : Obligations.TranslationsAreControlled => (hT1 h 0).2.1 0 k2.1 k2.2.1 k2.2.2.1 k2.2.2.2.1 k2.2.2.2.2.1 k2.2.2.2.2.2.1 k2.2.2.2.2.2.2) sTh
    ∧ MetE (fun h : Obligations.TranslationsAreControlled => (hT1 h 0xABC).2.2.1) sT
    ∧ MetE (fun h : Obligations.TranslationsAreControlled => (hT1 h 0xABCD0001).2.2.2.1 (by decide)) sT
    ∧ MetE (fun h : Obligations.TranslationsAreControlled => (hT1 h 0xABCD0000).2.2.2.2.1 (by decide)) sT
    ∧ MetE (fun h : Obligations.TranslationsAreControlled => (hT1 h 0xABCD0000).2.2.2.2.2.1 4 (by decide)) sT
    ∧ MetE (fun h : Obligations.TranslationsAreControlled => (hT1 h 0xABCD0000).2.2.2.2.2.2.1) sT
    ∧ MetE (fun h : Obligations.TranslationsAreControlled => (hT1 h 0x00010001).2.2.2.2.2.2.2.1 (by decide)) sT
    ∧ MetE (fun h : Obligations.TranslationsAreControlled => (hT1 h 0x00010001).2.2.2.2.2.2.2.2.1) (sT.rset (kXl 0 0x10) 2)
    ∧ MetE (fun h : Obligations.TranslationsAreControlled => ((hT1 h 0).2.2.2.2.2.2.2.2.2.1 0 0).1) sInv
    ∧ MetE (fun h : Obligations.TranslationsAreControlled => ((hT1 h 0).2.2.2.2.2.2.2.2.2.1 0 0).2 0 tmI aH) ({ sInv with teams := [(0, tmI)], grids := [(0, grid0)] } : State)
    ∧ MetE (fun h : Obligations.TranslationsAreControlled => (hAts h 3 12 0x7000 k2.1 k2.2.1 k2.2.2.1 k2.2.2.2.1 k2.2.2.2.2.1 k2.2.2.2.2.2.1 k2.2.2.2.2.2.2 (by decide) (by decide) (by decide)).1 true true) (sAsk sTh)
    ∧ MetE (fun h : Obligations.TranslationsAreControlled => (hAts h 3 13 0x7000 k2.1 k2.2.1 k2.2.2.1 k2.2.2.2.1 k2.2.2.2.2.1 k2.2.2.2.2.2.1 k2.2.2.2.2.2.2 (by decide) (by decide) (by decide)).2 2 true true (by decide)) (sAsk sTh)
    ∧ MetE (fun h : Obligations.TranslationsAreControlled => (hT1 h 0).2.2.2.2.2.2.2.2.2.2.2.1 pq) ({ sTh with pageReqs := [pq] }.rset (kEr 0x0C) 0)
    ∧ MetE (fun h : Obligations.TranslationsAreControlled => (hT1 h 0).2.2.2.2.2.2.2.2.2.2.2.2 12) (sAsk sTh) := by
  refine ⟨?_, ?_, ?_, ?_, ?_, ?_, ?_, ?_, ?_, ?_, ?_, ?_, ?_, ?_, ?_⟩ <;>
    (refine met (let _ := @decParking; let _ := @decEvents; let _ := @decDrained; let _ := @decHomes; let _ := @decMoves; let _ := @decColumns; let _ := @decShares; let _ := @decClines; let _ := @decOk; let _ := @decOkAnd; let _ := @decExists; let _ := @decForall; let _ := @decExcept; let _ := @decExceptOk; let _ := @decGroup; let _ := @decEntries; let _ := @decLayers; let _ := @decLayersAll; let _ := @decMember; let _ := @decHost; let _ := @decHbm; let _ := @decJudged; let _ := @decCons; inferInstance) ?_; decide +kernel)

end Translations

namespace Windows

abbrev hW1 (h : Obligations.WindowsAndMemoryBlocks) (v : Word) (p : Nat := 0) := h 0 0 p v (by decide)
def vW : Word := 0x02002100
def rW := after (exec (.l2partChange 0 0 true vW) State.reset) State.reset
abbrev hm (h : Obligations.WindowsAndMemoryBlocks) (v : Word) (ch bk : Nat) := (hW1 h v).2.2.2.2.2.2.2 0 ch bk 7
def rE := State.reset.rset (kEr 0x0C) 0
def vm (op : Nat) : Word := nw (op * 2^30 + 1*2^19 + 2 * 2^14)
theorem test_hypotheses_of_windows_and_memory_blocks :
    MetE (fun h : Obligations.WindowsAndMemoryBlocks => ((hW1 h 0x00102030).1 (by decide) (by decide))) State.reset
    ∧ MetE (fun h : Obligations.WindowsAndMemoryBlocks => ((hW1 h 0x00FFFFFF).2.1 (by decide))) State.reset
    ∧ MetE (fun h : Obligations.WindowsAndMemoryBlocks => ((hW1 h 0x00FFFFFF).2.2.1)) State.reset
    ∧ MetE (fun h : Obligations.WindowsAndMemoryBlocks => ((hW1 h vW).2.2.2.1 (by decide) (by decide))) State.reset
    ∧ MetE (fun h : Obligations.WindowsAndMemoryBlocks => ((hW1 h vW).2.2.2.2.1)) (State.reset.rset (kL2 0 0) 0x8000)
    ∧ MetE (fun h : Obligations.WindowsAndMemoryBlocks => ((hW1 h 0xF).2.2.2.2.1)) ({ State.reset with cfgw := 0xA23FD030 } : State)
    ∧ MetE (fun h : Obligations.WindowsAndMemoryBlocks => ((hW1 h 0).2.2.2.2.2.1 33554432 2097152)) (rW.rset (kEr 0x0C) 0)
    ∧ MetE (fun h : Obligations.WindowsAndMemoryBlocks => ((hW1 h 0).2.2.2.2.2.2.1)) ({ rW with dir := [(winAt (winKey 0 0) / 128, { waiting := [{ t := 9, op := .write [] }] })] } : State)
    ∧ MetE (fun h : Obligations.WindowsAndMemoryBlocks => (hm h 0 1 2).1) rE
    ∧ MetE (fun h : Obligations.WindowsAndMemoryBlocks => (hm h 0 1 2).2.1) rE
    ∧ MetE (fun h : Obligations.WindowsAndMemoryBlocks => ((hm h 0 1 2).2.2.1 5 (by decide)).1) rE
    ∧ MetE (fun h : Obligations.WindowsAndMemoryBlocks => ((hm h 0 1 2).2.2.1 4096 (by decide)).2.1) rE
    ∧ MetE (fun h : Obligations.WindowsAndMemoryBlocks => ((hm h 0 1 2).2.2.1 4096 (by decide)).2.2) ({ rE with rowSwaps := (List.range 32).map fun i => (bankKey 0 1 2 * 49152 + i, i) } : State)
    ∧ MetE (fun h : Obligations.WindowsAndMemoryBlocks => (hm h 0 1 2).2.2.2.1) rE
    ∧ MetE (fun h : Obligations.WindowsAndMemoryBlocks => (hm h 0 1 2).2.2.2.2.1) ({ rE with cyc := 64000000 } : State)
    ∧ MetE (fun h : Obligations.WindowsAndMemoryBlocks => ((hm h 5 1 2).2.2.2.2.2.1 (by decide) (.mraReadBankCounts 0 5, 1) (by simp)).1) rE
    ∧ MetE (fun h : Obligations.WindowsAndMemoryBlocks => ((hm h 5 1 2).2.2.2.2.2.1 (by decide) (.mraReadBankCounts 0 5, 1) (by simp)).2) (rE.rset (kMra 0 4) 0x80000000)
    ∧ MetE (fun h : Obligations.WindowsAndMemoryBlocks => ((hm h 0x40088000 1 2).2.2.2.2.2.2 1 (by decide) (by decide) (by decide) (by decide) (by decide))) (after (exec (.mraReadBankCounts 0 0x88000) rE) rE)
    ∧ MetE (fun h : Obligations.WindowsAndMemoryBlocks => ((hm h 0x80088000 1 2).2.2.2.2.2.2 2 (by decide) (by decide) (by decide) (by decide) (by decide))) (after (exec (.mraReadModeRegister 0 0x88000) rE) rE)
    ∧ MetE (fun h : Obligations.WindowsAndMemoryBlocks => ((hm h 0xC0088000 1 2).2.2.2.2.2.2 3 (by decide) (by decide) (by decide) (by decide) (by decide))) (after (exec (.mraClearBankCounts 0 0x88000) rE) rE) := by
  refine ⟨?_, ?_, ?_, ?_, ?_, ?_, ?_, ?_, ?_, ?_, ?_, ?_, ?_, ?_, ?_, ?_, ?_, ?_, ?_, ?_⟩ <;>
    (refine met (let _ := @decParking; let _ := @decEvents; let _ := @decDrained; let _ := @decHomes; let _ := @decMoves; let _ := @decColumns; let _ := @decShares; let _ := @decClines; let _ := @decOk; let _ := @decOkAnd; let _ := @decExists; let _ := @decForall; let _ := @decExcept; let _ := @decExceptOk; let _ := @decGroup; let _ := @decEntries; let _ := @decLayers; let _ := @decLayersAll; let _ := @decMember; let _ := @decHost; let _ := @decHbm; let _ := @decJudged; let _ := @decCons; inferInstance) ?_; decide +kernel)

end Windows

namespace Engines

def sE (r : Req) (tm : Team) (g : Grid := grid0) : State :=
  let s := tabled { State.reset with teams := [(0, tm)], grids := [(0, g)], reqs := [r], cyc := 1000 }
  { s with cols := [(0, { tlb := [{ ctx := 0, base := 0, size := 65536, frame := 0, plait := 1, perm := 0x1F }] })] }
def rq (k : ReqKind) : Req := { id := 5, kind := k, ctx := 0, col := 0, team := 0, age := 0, threads := [0], flag := some 3, begun := true }
def tE : Team := { plainTeam with spad := [(5,6)], spadLen := 1024, tsl := 8, threads := [{ flags := 0x1000 }, {}, {}], sb := [⟨true, 0, 0, 5⟩] }
def rC : Req := { rq .copy with xm := 4, d := 0x2000, a := 0, b := 64 }
def ow := (sE rC tE).ownLines rC (rC.destAddrs (sE rC tE) (some tE))
def owl := match ow.2 with | .ok l => l | _ => []
def rG : Req := { rq .copy with xm := 1, a := 0x2000, d := 64, b := 64 }
def srcG := (sE rG tE).cpySource rG tE 0 rG.b
def rG2 : Req := { rG with begun := false }
def wG2 : State := ((sE rG2 tE).startTransfer rG2.col (32 + rG2.id) rG2.path).modReq rG2.id fun q => { q with begun := true }
def srcG2 := wG2.cpySource rG2 tE 0 rG2.b
def rO : Req := { rC with step := 1, owned := [(64, 64)] }
def sO := (sE rO tE).setHome 64 { owner := some 5 }
def rL (k : ReqKind) : Req := { rq k with step := 2, t := 7, b := 5 }
def ent : List Word := (List.replicate 16 0).set 0 0x8000
def rT1 : Req := { rq .cpyt with xm := 0, d := 1, entry := ent, ty := 2 }
def tT1 : Team := { tE with tiles := [(1, { queue := [5] })] }
def tT2 : Team := { tE with tiles := [(1, { queue := [5], tag := .held })] }
def fl := (sE rT1 tT2).ldElems rT1 {} (rT1.elems 0)
def okOr {α β ε : Type} (p : α × Except ε β) (d : β) : β := match p.2 with | .ok f => f | _ => d
def flf := okOr fl {}
def rGr : Req := { rq .gath with xm := 1, d := 3, a := 0x2000, b := 128, ty := 4 }
def tGr : Team := { tE with accesses := [{ id := 5, kind := .gather, va := 0, size := 4, ty := 2, scope := 0, dests := [{ thread := 0, reg := 3, cnt := 1, flag := some 3 }], state := .sent }] }
def gr := (sE rGr tGr).gathRead rGr (tGr.indices rGr)
def rTl : Req := { rq .copy with xm := 6, a := 0, d := 1, b := 4096 }
def rTs : Req := { rq .copy with xm := 9, a := 1, d := 64, b := 4096 }
def tTs : Team := { tE with tiles := [(1, { queue := [5], tag := .valid })] }
def srcO := sO.cpySource rO tE 0 64
def rGa : Req := { rq .gath with xm := 0, d := 64, a := 0x2000, b := 128, ty := 4 }
def ga := (sE rGa tE).gathRead rGa (tE.indices rGa)
def rSc : Req := { rq .scat with xm := 0, d := 64, a := 0x2000, b := 128, ty := 4, step := 1, owned := [(64,64)] }
def sSc := (sE rSc tE).setHome 64 { owner := some 5 }
def rTd : Req := { rq .tdset with d := 1, a := 0x2000, step := 1, owned := [(0, 0)] }
def sTd := (sE rTd tE).setHome 0 { owner := some 5 }
def rd := sTd.engRead rTd rTd.priv rTd.a 64
def okBytes (p : State × Except (Nat × Nat × Nat) (List PByte)) : List PByte := match p.2 with | .ok l => l | _ => []
def sTb := ({ sTd with mem := sTd.mem.putList 0x2000 (wordsBytes [0x8000801E]) }).rset (kEr 0x0C) 0
def rdb := sTb.engRead rTd rTd.priv rTd.a 64
def rCo : Req := { rq .coll with b := 3 * 2^16 + 2, d := 0x2000 }
def rTr (xm : Nat) : Req := { rq .tdrd with xm, a := 1, d := 0x2000, step := 1, owned := [(64,64)] }
def sTr (xm : Nat) := (sE (rTr xm) tE).setHome 64 { owner := some 5 }
def rr (xm : Nat) := (sTr xm).engRead (rTr xm) true ((sTr xm).tdAddr 0 1) 64
def rTt : Req := { rq .ttag with d := 1, a := 1 }
def rJ : Req := { rq .jnext with d := 64 }
def gJ : Grid := { grid0 with card := (((List.replicate 32 (0 : Word)).set 9 5).set 8 0x10000).set 4 0x02440000 }
def tJ : Team := { tE with sb := [⟨true, 1, 1, 4⟩] }
def rCl : Req := { rq .coll with b := 3 * 2^16 + 2, d := 0x2000, step := 1, owned := [(64,64)], xm := 0, ty := 6 }
def sCl := (((sE rCl tE).setHome 64 { owner := some 5 }).rset (key0 0 (0x181000 + 48)) 1)
def rc := sCl.engRead rCl rCl.priv 0x2000 8
def eX : Engine := { releasing := some 33 }
def tX : Team := { tE with engine := some eX }
def aNone : Access := { id := 0, kind := .load, va := 0, size := 4, ty := 0, scope := 0, dests := [], state := .sent }
theorem test_hypotheses_of_engine_requests_complete :
    MetE (fun h : Obligations.EngineRequestsComplete => ((h rC tE ow.1 []).1 .copy owl (by simp))) (sE rC tE)
    ∧ MetE (fun h : Obligations.EngineRequestsComplete => ((h rG tE srcG.1 srcG.2.1).2.1 (sE rG tE) rfl (by decide) rfl (by decide))) (sE rG tE)
    ∧ MetE (fun h : Obligations.EngineRequestsComplete => ((h rG2 tE srcG2.1 srcG2.2.1).2.1 wG2 rfl (by decide) rfl (by decide))) (sE rG2 tE)
    ∧ MetE (fun h : Obligations.EngineRequestsComplete => ((h rO tE srcO.1 srcO.2.1).2.2.1 sO rfl (by decide) rfl)) sO
    ∧ MetE (fun h : Obligations.EngineRequestsComplete => ((h rTl tT1 State.reset []).2.2.2.1 (sE rTl tT1) rfl (by decide) rfl rfl (by decide)).1) (sE rTl tT1)
    ∧ MetE (fun h : Obligations.EngineRequestsComplete => ((h rTs tTs State.reset []).2.2.2.2.1 (sE rTs tTs) rfl rfl rfl rfl (by decide))) (sE rTs tTs)
    ∧ MetE (fun h : Obligations.EngineRequestsComplete => ((h (rL .copy) tE State.reset []).2.2.2.2.2.1 [] (.copyComplete 5, .copy) (by simp [rL, rq]) rfl)) (sE (rL .copy) tE)
    ∧ MetE (fun h : Obligations.EngineRequestsComplete => ((h (rL .cpyt) tE State.reset []).2.2.2.2.2.1 [] (.cpytComplete 5, .cpyt) (by simp [rL, rq]) rfl)) (sE (rL .cpyt) tE)
    ∧ MetE (fun h : Obligations.EngineRequestsComplete => ((h (rL .scat) tE State.reset []).2.2.2.2.2.1 [] (.scatterComplete 5, .scat) (by simp [rL, rq]) rfl)) (sE (rL .scat) tE)
    ∧ MetE (fun h : Obligations.EngineRequestsComplete => ((h (rL .tdset) tE State.reset []).2.2.2.2.2.1 [] (.tensorIdWriteComplete 5, .tdset) (by simp [rL, rq]) rfl)) (sE (rL .tdset) tE)
    ∧ MetE (fun h : Obligations.EngineRequestsComplete => ((h (rL .tdrd) tE State.reset []).2.2.2.2.2.1 [] (.tensorIdReadComplete 5, .tdrd) (by simp [rL, rq]) rfl)) (sE (rL .tdrd) tE)
    ∧ MetE (fun h : Obligations.EngineRequestsComplete => ((h (rL .coll) tE State.reset []).2.2.2.2.2.1 [] (.collectiveComplete 5 [], .coll) (by simp [rL, rq]) rfl)) (sE (rL .coll) tE)
    ∧ MetE (fun h : Obligations.EngineRequestsComplete => ((h rT1 tT1 State.reset []).2.2.2.2.2.2.1 (sE rT1 tT1) rfl (by decide) rfl rfl (by decide)).1) (sE rT1 tT1)
    ∧ MetE (fun h : Obligations.EngineRequestsComplete => ((h rGa tE ga.1 ga.2.1).2.2.2.2.2.2.2.1 (sE rGa tE) rfl rfl)) (sE rGa tE)
    ∧ MetE (fun h : Obligations.EngineRequestsComplete => ((h rGr tGr gr.1 gr.2.1).2.2.2.2.2.2.2.2.1 (sE rGr tGr) { thread := 0, reg := 3, cnt := 1, flag := some 3 } (tGr.accesses.headD aNone) rfl rfl)) (sE rGr tGr)
    ∧ MetE (fun h : Obligations.EngineRequestsComplete => ((h rSc tE State.reset []).2.2.2.2.2.2.2.2.2.1 sSc)) sSc
    ∧ MetE (fun h : Obligations.EngineRequestsComplete => ((h rTd tE rd.1 (okBytes rd)).2.2.2.2.2.2.2.2.2.2.1).1) sTd
    ∧ MetE (fun h : Obligations.EngineRequestsComplete => ((h rTd tE rdb.1 (okBytes rdb)).2.2.2.2.2.2.2.2.2.2.1).2 (.tensorIdWriteComplete 5) (by simp [rTd, rq])) sTb
    ∧ MetE (fun h : Obligations.EngineRequestsComplete => ((h rTd tE rdb.1 (okBytes rdb)).2.2.2.2.2.2.2.2.2.2.1).2 (.engineFault 5) (by simp [rTd, rq])) sTb
    ∧ MetE (fun h : Obligations.EngineRequestsComplete => ((h rCo tE State.reset []).2.2.2.2.2.2.2.2.2.2.2.2.1)) (sE rCo tE)
    ∧ MetE (fun h : Obligations.EngineRequestsComplete => ((h (rTr 0) tE (rr 0).1 (okBytes (rr 0))).2.2.2.2.2.2.2.2.2.2.2.2.2.1).1 rfl) (sTr 0)
    ∧ MetE (fun h : Obligations.EngineRequestsComplete => ((h (rTr 1) tE (rr 1).1 (okBytes (rr 1))).2.2.2.2.2.2.2.2.2.2.2.2.2.1).2 64 rfl rfl (by decide)) (sTr 1)
    ∧ MetE (fun h : Obligations.EngineRequestsComplete => ((h rTt tT1 State.reset []).2.2.2.2.2.2.2.2.2.2.2.2.2.2.1)) (sE rTt tT1)
    ∧ MetE (fun h : Obligations.EngineRequestsComplete => ((h rJ tE State.reset []).2.2.2.2.2.2.2.2.2.2.2.2.2.2.2.1 gJ).1) (sE rJ tE gJ)
    ∧ MetE (fun h : Obligations.EngineRequestsComplete => ((h rJ tJ State.reset []).2.2.2.2.2.2.2.2.2.2.2.2.2.2.2.1 gJ).2) (sE rJ tJ gJ)
    ∧ MetE (fun h : Obligations.EngineRequestsComplete => ((h rCl tE rc.1 (okBytes rc)).2.2.2.2.2.2.2.2.2.2.2.2.2.2.2.2.1 [])) sCl
    ∧ MetE (fun h : Obligations.EngineRequestsComplete => ((h (rq .coll) tX State.reset []).2.2.2.2.2.2.2.2.2.2.2.2.2.2.2.2.2 0 0 1 33 eX).1) (sE rCl tX)
    ∧ MetE (fun h : Obligations.EngineRequestsComplete => ((h (rq .coll) tX State.reset []).2.2.2.2.2.2.2.2.2.2.2.2.2.2.2.2.2 0 0 1 33 eX).2) ({ sE rCl tX with cyc := 9, cols := [(0, { batons := [(1,0,5),(1,0,12),(2,0,3)] })] } : State) := by
  refine ⟨?_, ?_, ?_, ?_, ?_, ?_, ?_, ?_, ?_, ?_, ?_, ?_, ?_, ?_, ?_, ?_, ?_, ?_, ?_, ?_, ?_, ?_, ?_, ?_, ?_, ?_, ?_, ?_⟩ <;>
    (refine met (let _ := @decParking; let _ := @decEvents; let _ := @decDrained; let _ := @decHomes; let _ := @decMoves; let _ := @decColumns; let _ := @decShares; let _ := @decClines; let _ := @decOk; let _ := @decOkAnd; let _ := @decExists; let _ := @decForall; let _ := @decExcept; let _ := @decExceptOk; let _ := @decGroup; let _ := @decEntries; let _ := @decLayers; let _ := @decLayersAll; let _ := @decMember; let _ := @decHost; let _ := @decHbm; let _ := @decJudged; let _ := @decCons; inferInstance) ?_; decide +kernel)

theorem ok_of {α β ε : Type} (p : α × Except ε β) (d : β) (h : (match p.2 with | .ok _ => true | .error _ => false) = true) :
    p = (p.1, .ok (okOr p d)) := by
  obtain ⟨a, b⟩ := p
  cases b
  · cases h
  · rfl

/-- A held tile that a copy from the scratchpad fills, and one that a CPYT fills. -/
theorem test_hypotheses_of_tile_loads :
    MetE (fun h : Obligations.EngineRequestsComplete => ((h rTl tT2 (sE rTl tT2) (tT2.spadBytes 0 4096)).2.2.2.1 (sE rTl tT2) rfl (by decide) rfl rfl (by decide)).2) (sE rTl tT2)
    ∧ MetE (fun h : Obligations.EngineRequestsComplete => ((h rT1 tT2 fl.1 []).2.2.2.2.2.2.1 (sE rT1 tT2) rfl (by decide) rfl rfl (by decide)).2 flf) (sE rT1 tT2) := by
  have run (k : ReqKind) (r : Req) (hr : r = rTl ∧ k = .copy ∨ r = rT1 ∧ k = .cpyt) :
      (sE r tT2).req? r.id = some r ∧ r.kind = k ∧ r.stopped = false ∧ r.discard = false ∧ r.ctx ∉ ((sE r tT2).col r.col).frozenCopy
        ∧ (sE r tT2).team? r.team = some tT2 ∧ tT2.age = r.age ∧ (∃ t, t < tT2.threads.length ∧ t ∉ r.threads ∧ (tT2.thread t).exited = false)
        ∧ r.threads.Nodup ∧ (∀ t ∈ r.threads, t < tT2.threads.length) ∧ tT2.spad.wf = true ∧ (sE r tT2).mem.wf = true := by
    rcases hr with ⟨rfl, rfl⟩ | ⟨rfl, rfl⟩ <;>
      exact ⟨rfl, rfl, rfl, rfl, by decide +kernel, rfl, rfl, ⟨1, by decide +kernel, by decide +kernel, rfl⟩, by decide +kernel, by decide +kernel, by decide +kernel, by decide +kernel⟩
  have flow (r : Req) (hr : r = rTl ∨ r = rT1) : r.begun = true ∧ (sE r tT2).pathHeld r.col r.path true = false := by
    rcases hr with rfl | rfl <;> exact ⟨rfl, by decide +kernel⟩
  have hfl : fl = (fl.1, .ok flf) := ok_of fl {} (by decide +kernel)
  constructor
  · refine ⟨run _ _ (.inl ⟨rfl, rfl⟩), by decide +kernel, .inl ⟨(flow _ (.inl rfl)).1, (flow _ (.inl rfl)).2, ?_⟩, by decide +kernel, ?_, ?_, ?_⟩
    · rfl
    · rfl
    · exact ⟨rfl, true, rfl⟩
    · simp [Team.spadBytes]
  · refine ⟨run _ _ (.inr ⟨rfl, rfl⟩), .inl ⟨(flow _ (.inr rfl)).1, (flow _ (.inr rfl)).2, ?_⟩, by decide +kernel, ?_, ?_, by decide +kernel⟩
    · rfl
    · exact hfl
    · exact ⟨by decide +kernel, true, by decide +kernel⟩

/-- Two collectives of one group that differ in the operation, so that one of them differs from what device 1 issued. -/
def rDf (op : Nat) : Req := { rq .coll with b := 3 * 2^16 + 2, d := 0x2000, step := 1, xm := op }
def sDf (op : Nat) : State := ((sE (rDf op) tE).rset (key0 0 (0x181000 + 48)) 3).rset (kEr 0x0C) 0
theorem differs_eq (op : Nat) (h : op < 2) : (sDf op).collDiffers (rDf op) = (Config.collMember 3 0 1 != (2, op, 0)) := by
  have e : (sDf op).collOthers 3 = [1] := by
    have : op = 0 ∨ op = 1 := by omega
    rcases this with rfl | rfl <;> decide +kernel
  have k : ((sDf op).rget (key0 0 (0x181000 + 16 * 3 + 12))).toNat = 0 := by
    have : op = 0 ∨ op = 1 := by omega
    rcases this with rfl | rfl <;> decide +kernel
  have b : (rDf op).b / 2 ^ 16 % 256 = 3 := by show (3 * 2^16 + 2) / 2 ^ 16 % 256 = 3; decide
  have c : (rDf op).b % 2 ^ 16 = 2 := by show (3 * 2^16 + 2) % 2 ^ 16 = 2; decide
  simp only [State.collDiffers, b, c, e, k, List.any_cons, List.any_nil, Bool.or_false]
  rfl
theorem test_hypotheses_of_a_collective_that_differs :
    ∃ op, MetE (fun h : Obligations.EngineRequestsComplete => ((h (rDf op) tE State.reset []).2.2.2.2.2.2.2.2.2.2.2.1)) (sDf op) := by
  have both : (sDf 0).collDiffers (rDf 0) = true ∨ (sDf 1).collDiffers (rDf 1) = true := by
    rw [differs_eq 0 (by omega), differs_eq 1 (by omega)]
    by_cases h : Config.collMember 3 0 1 = (2, 0, 0)
    · right; rw [h]; decide
    · left; simpa using h
  rcases both with h | h
  · refine ⟨0, ?_, by decide +kernel, rfl, h, met (decParking _ _) (by decide +kernel), rfl, rfl⟩
    refine met inferInstance ?_; decide +kernel
  · refine ⟨1, ?_, by decide +kernel, rfl, h, met (decParking _ _) (by decide +kernel), rfl, rfl⟩
    refine met inferInstance ?_; decide +kernel

end Engines

namespace Lines

def tab64 (s : State) (w2 : Nat := 1) (w3 : Nat := 0) : State :=
  let s := (((s.rset (kXl 0 0) 0x20001).rset (kXl 0 0x0C) 1))
  { s with mem := ((((s.mem.putList 0x20000 (wordsBytes [0x30001, 0, 0, 0])).putList 0x30000 (wordsBytes [0x40001, 0, 0, 0])).putList 0x40000 (wordsBytes [0x50001, 0, 0, 0])).putList 0x50000 (wordsBytes [0x1F, 0, nw w2, nw w3])) }
def S0 := { (tab64 { State.reset with cyc := 1000, teams := [(0, { plainTeam with threads := [{ flags := 0x1000 }, {}] })], grids := [(0, grid0)] }) with ctxs := [] }
def rP : Req := { id := 5, kind := .plmv, ctx := 0, col := 0, team := 0, age := 0, threads := [0], flag := some 3, d := 0, a := 0x10000, b := 1 }
def wk (s : State) (va : Nat := 0) : Nat × Nat × Nat × Nat × Word × Word × Word := match s.walk 0 va with | .leaf a b c d e f g => (a,b,c,d,e,f,g) | _ => default
def sP (r : Req) := { S0 with reqs := [r] }
def k1 := wk (sP rP)
def rPt : Req := { rP with done := 1 }
def rPb : Req := { rPt with a := 1 }
def sP1 := after (exec (.plmvLineMove 5 0) (sP rPt)) (sP rPt)
def rP1 : Req := sP1.reqs.getD 0 rP
def rP2 : Req := { rP1 with lines := List.range 512 }
def rP3 : Req := { rP2 with step := 2, owned := [] }
def rPs : Req := { rP1 with a := 0 }
abbrev hv (h : Obligations.LinesAndPagesMove) (va dev : Nat) (v : Word) := (h rP).2.2.2.2.2.2 0 0 va dev v (by decide)
abbrev hm (h : Obligations.LinesAndPagesMove) (m : PeerMove) (leaf : PeerLeaf) (e : leaf.dev = 2) := (hv h 0 2 0).2.1 m leaf e
def sPm (w2 w3 : Nat) (dt : Nat := 1000) : State :=
  { (tab64 { State.reset with cyc := dt } w2 w3) with candidates := [{ dctx := 0, page := 0, dev := 2, count := 5, localWrite := false }] }.rset (kPm 0 0x18) 0x80000004
def sA := sPm 1 0x10000000
def k2 := wk sA
def sAl := sPm 1 0xD0000000 4000
def k2l := wk sAl
def sB := (sPm 0x02000002 0x10000000).rset (kPm 0 0x0C) 4
def k3 := wk sB
/-- A page that leaves, and one that comes. -/
def mA : PeerMove := { id := 9, ctx := 0, va := 0, dev := 2, frame := 0x10000, plait := 1, pte := 0x50000 }
def mC : PeerMove := { mA with comes := true }
def all512 (m : PeerMove) (step : Nat) : PeerMove := { m with lines := List.range 512, step }
def lf (line : Nat) : PeerLeaf := { dev := 2, w0 := 0x1F, w3 := 0, line }
def sM (m : PeerMove) : State := { sA with peerMoves := [m] }
def tH : Team := { plainTeam with threads := [{ hold := some { acq := true, rel := false, scope := 3 }, peerOut := 3 }, {}] }
def hH : Hold := { acq := true, rel := false, scope := 3 }
def hP : Hold := { acq := true, rel := false, scope := 2, prm := true }
def tP : Team := { plainTeam with threads := [{ hold := some hP }, {}] }
def tR : Team := { plainTeam with threads := [{ peerOut := 3, routedPeer := 1 }, {}] }
abbrev hz (h : Obligations.LinesAndPagesMove) (tm : Team) (o : Hold) := (hv h 0 2 0).2.2.2.2.2 0 0 0 7 tm o
def sDt (tm : Team) : State := { withTeam tm with cols := [(0, { lines := [(7, { data := [(3, 9)], dirty := [3] })], wbuf := [(7,[],20),(7,[],900),(8,[],3)] })], cyc := 1000 }
def sD : State := sDt tH
theorem test_hypotheses_of_lines_and_pages_move :
    MetE (fun h : Obligations.LinesAndPagesMove => ((h rP).1 k1.1 k1.2.1 k1.2.2.1 k1.2.2.2.1 k1.2.2.2.2.1 k1.2.2.2.2.2.1 k1.2.2.2.2.2.2 3).1) (sP rP)
    ∧ MetE (fun h : Obligations.LinesAndPagesMove => ((h rPt).1 k1.1 k1.2.1 k1.2.2.1 k1.2.2.2.1 k1.2.2.2.2.1 k1.2.2.2.2.2.1 k1.2.2.2.2.2.2 3).2.1) (sP rPt)
    ∧ MetE (fun h : Obligations.LinesAndPagesMove => ((h rPb).1 k1.1 k1.2.1 k1.2.2.1 k1.2.2.2.1 k1.2.2.2.2.1 k1.2.2.2.2.2.1 k1.2.2.2.2.2.2 3).2.2 2 ((S0.team? 0).getD plainTeam)) ((sP rPb).rset (kEr 0x0C) 0)
    ∧ MetE (fun h : Obligations.LinesAndPagesMove => (((h rP1).2.1 3 (by decide +kernel) (by decide +kernel)).1 (by decide +kernel) (by decide +kernel) (by decide +kernel)).1) sP1
    ∧ MetE (fun h : Obligations.LinesAndPagesMove => (((h rP1).2.1 3 (by decide +kernel) (by decide +kernel)).1 (by decide +kernel) (by decide +kernel) (by decide +kernel)).2) (after (exec (.plmvLineMove 5 3) sP1) sP1)
    ∧ MetE (fun h : Obligations.LinesAndPagesMove => ((h rPs).2.1 3 (by decide +kernel) (by decide +kernel)).2 (by decide +kernel)) ({ sP1 with reqs := [rPs] } : State)
    ∧ MetE (fun h : Obligations.LinesAndPagesMove => ((h rP2).2.2.1)) ({ sP1 with reqs := [rP2] } : State)
    ∧ MetE (fun h : Obligations.LinesAndPagesMove => ((h rP1).2.2.2.1)) sP1
    ∧ MetE (fun h : Obligations.LinesAndPagesMove => ((h rP3).2.2.2.2.1 0)) ({ sP1 with reqs := [rP3] } : State)
    ∧ MetE (fun h : Obligations.LinesAndPagesMove => ((h rP3).2.2.2.2.2.1)) ({ sP1 with reqs := [rP3], dir := [(4, { waiting := [{ t := 9, op := .write [], req := some 5 }] })] } : State)
    ∧ MetE (fun h : Obligations.LinesAndPagesMove => ((hv h 0 2 0).1 k2.1 k2.2.2.2.1 k2.2.2.2.2.1 k2.2.2.2.2.2.1 k2.2.2.2.2.2.2).1) sA
    ∧ MetE (fun h : Obligations.LinesAndPagesMove => ((hv h 0 2 0).1 k2l.1 k2l.2.2.2.1 k2l.2.2.2.2.1 k2l.2.2.2.2.2.1 k2l.2.2.2.2.2.2).2.1) sAl
    ∧ MetE (fun h : Obligations.LinesAndPagesMove => ((hv h 0 2 0).1 k2.1 k2.2.2.2.1 k2.2.2.2.2.1 k2.2.2.2.2.2.1 k2.2.2.2.2.2.2).2.2.1) sA
    ∧ MetE (fun h : Obligations.LinesAndPagesMove => ((hv h 0 2 0).1 k3.1 k3.2.2.2.1 k3.2.2.2.2.1 k3.2.2.2.2.2.1 k3.2.2.2.2.2.2).2.2.2 false) sB
    ∧ MetE (fun h : Obligations.LinesAndPagesMove => ((hm h mA (lf 3) rfl).1 (by decide +kernel) (by decide +kernel) rfl).1) (sM mA)
    ∧ MetE (fun h : Obligations.LinesAndPagesMove => ((hm h mA (lf 3) rfl).1 (by decide +kernel) (by decide +kernel) rfl).2) ({ sM mA with dir := [(515, { move := .moving })] } : State)
    ∧ MetE (fun h : Obligations.LinesAndPagesMove => ((hm h mC (lf 3) rfl).2.1 (by decide +kernel) (by decide +kernel) rfl (by decide +kernel))) (sM mC)
    ∧ MetE (fun h : Obligations.LinesAndPagesMove => ((hm h (all512 mA 0) (lf 512) rfl).2.2.1 rfl).1 rfl) ({ sM (all512 mA 0) with dir := [(0xA00, { owner := some 9 })] } : State)
    ∧ MetE (fun h : Obligations.LinesAndPagesMove => ((hm h (all512 mA 1) (lf 512) rfl).2.2.1 rfl).2.1 rfl) (sM (all512 mA 1))
    ∧ MetE (fun h : Obligations.LinesAndPagesMove => ((hm h (all512 mA 2) (lf 512) rfl).2.2.1 rfl).2.2 rfl) (sM (all512 mA 2))
    ∧ MetE (fun h : Obligations.LinesAndPagesMove => ((hm h (all512 mC 0) (lf 512) rfl).2.2.2 rfl).1 rfl) (sM (all512 mC 0))
    ∧ MetE (fun h : Obligations.LinesAndPagesMove => ((hm h (all512 mC 1) (lf 512) rfl).2.2.2 rfl).2 rfl) (sM (all512 mC 1))
    ∧ MetE (fun h : Obligations.LinesAndPagesMove => ((hv h 0 2 0xFFFFFFFF).2.2.1)) State.reset
    ∧ MetE (fun h : Obligations.LinesAndPagesMove => ((hv h 0 2 6).2.2.2.1 (by decide))) State.reset
    ∧ MetE (fun h : Obligations.LinesAndPagesMove => ((hv h 0 2 4).2.2.2.2.1 (by decide))) State.reset
    ∧ MetE (fun h : Obligations.LinesAndPagesMove => (hz h tH hH).1) sD
    ∧ MetE (fun h : Obligations.LinesAndPagesMove => (hz h tH hH).2.1) sD
    ∧ MetE (fun h : Obligations.LinesAndPagesMove => (hz h tP hP).2.2.1.1) (sDt tP)
    ∧ MetE (fun h : Obligations.LinesAndPagesMove => (hz h tH hH).2.2.1.2.1) sD
    ∧ MetE (fun h : Obligations.LinesAndPagesMove => (hz h tH hH).2.2.1.2.2) (sD.rset (key0 0 0x170040) 0x80000000)
    ∧ MetE (fun h : Obligations.LinesAndPagesMove => ((hz h tH hH).2.2.2 2).1) sD
    ∧ MetE (fun h : Obligations.LinesAndPagesMove => ((hz h tR hH).2.2.2 2).2 0) (sDt tR) := by
  refine ⟨?_, ?_, ?_, ?_, ?_, ?_, ?_, ?_, ?_, ?_, ?_, ?_, ?_, ?_, ?_, ?_, ?_, ?_, ?_, ?_, ?_, ?_, ?_, ?_, ?_, ?_, ?_, ?_, ?_, ?_, ?_, ?_⟩ <;>
    (refine met (let _ := @decParking; let _ := @decEvents; let _ := @decDrained; let _ := @decHomes; let _ := @decMoves; let _ := @decColumns; let _ := @decShares; let _ := @decClines; let _ := @decOk; let _ := @decOkAnd; let _ := @decExists; let _ := @decForall; let _ := @decExcept; let _ := @decExceptOk; let _ := @decGroup; let _ := @decEntries; let _ := @decLayers; let _ := @decLayersAll; let _ := @decMember; let _ := @decHost; let _ := @decHbm; let _ := @decJudged; let _ := @decCons; inferInstance) ?_; decide +kernel)

end Lines

namespace Power

abbrev ht (h : Obligations.TripsAndWear) (v : Word) := h 0 2 110 v
abbrev hr (h : Obligations.TripsAndWear) (_ reading : Nat) := h 0 2 reading 5
def in_ : Word := 0x07D00014
def ex (b : Option Nat) : State := { State.reset with excursion := true, excursionBack := b, cyc := 4000000000 }
def sS : State := { State.reset with cols := [(0, { softTrip := true })] }
theorem test_hypotheses_of_trips_and_wear :
    MetE (fun h : Obligations.TripsAndWear => ((ht h 0).1 (by decide) (by decide) (by decide))) State.reset
    ∧ MetE (fun h : Obligations.TripsAndWear => (ht h 0).2.1) (sS.rset (kCol 0 0) 0x28282828)
    ∧ MetE (fun h : Obligations.TripsAndWear => (ht h 0).2.2.1) (sS.rset (kCol 0 0) 0x00006E00)
    ∧ MetE (fun h : Obligations.TripsAndWear => (ht h 5).2.2.2.1) State.reset
    ∧ MetE (fun h : Obligations.TripsAndWear => (ht h 5).2.2.2.2.1) ({ State.reset with excursion := true } : State)
    ∧ MetE (fun h : Obligations.TripsAndWear => ((ht h in_).2.2.2.2.2.1.1 (by decide)).1) (ex none)
    ∧ MetE (fun h : Obligations.TripsAndWear => ((ht h in_).2.2.2.2.2.1.1 (by decide)).2 5) (ex (some 5))
    ∧ MetE (fun h : Obligations.TripsAndWear => (ht h 50).2.2.2.2.2.1.2 (by decide)) (ex none)
    ∧ MetE (fun h : Obligations.TripsAndWear => ((hr h 2 46).2.2.2.2.2.2.1 2 (by decide)).1) State.reset
    ∧ MetE (fun h : Obligations.TripsAndWear => ((hr h 2 45).2.2.2.2.2.2.1 2 (by decide)).2) State.reset
    ∧ MetE (fun h : Obligations.TripsAndWear => ((ht h 5).2.2.2.2.2.2.2.1 1 (by decide))) ((State.reset.rset (key0 0 0x160088) 0x1041))
    ∧ MetE (fun h : Obligations.TripsAndWear => ((hr h 4 43999).2.2.2.2.2.2.2.1 4 (by decide))) ({ State.reset with cyc := 40000000, tripFrom := [(4, 3)] } : State)
    ∧ MetE (fun h : Obligations.TripsAndWear => ((ht h 5).2.2.2.2.2.2.2.2.1 3)) ({ State.reset with hardTrip := some 3, cyc := 8000000 } : State)
    ∧ MetE (fun h : Obligations.TripsAndWear => ((ht h 5).2.2.2.2.2.2.2.2.2.1 3 (by decide))) State.reset
    ∧ MetE (fun h : Obligations.TripsAndWear => ((ht h 5).2.2.2.2.2.2.2.2.2.2.1 3 (by decide))) State.reset
    ∧ MetE (fun h : Obligations.TripsAndWear => ((ht h 5).2.2.2.2.2.2.2.2.2.2.2 (by decide) (by decide))) State.reset := by
  refine ⟨?_, ?_, ?_, ?_, ?_, ?_, ?_, ?_, ?_, ?_, ?_, ?_, ?_, ?_, ?_, ?_⟩ <;>
    (refine met (let _ := @decParking; let _ := @decEvents; let _ := @decDrained; let _ := @decHomes; let _ := @decMoves; let _ := @decColumns; let _ := @decShares; let _ := @decClines; let _ := @decOk; let _ := @decOkAnd; let _ := @decExists; let _ := @decForall; let _ := @decExcept; let _ := @decExceptOk; let _ := @decGroup; let _ := @decEntries; let _ := @decLayers; let _ := @decLayersAll; let _ := @decMember; let _ := @decHost; let _ := @decHbm; let _ := @decJudged; let _ := @decCons; inferInstance) ?_; decide +kernel)

abbrev hp (h : Obligations.PowerIsBudgeted) (layer k : Nat) (v : Word) := h 0 layer k v
def rP0 := State.reset.rset (kEr 0x0C) 0
def kick (s : State) (n : Nat) : State := s.rset (key0 0 0x160100) (BitVec.ofNat 32 (n * 65536 + n))
def sHoop : State := { State.reset with cols := [(0, { shares := [(1, 2), (2, 6)], estimates := List.replicate 8 70 }), (3, { shares := [(1, 4)], estimates := List.replicate 8 3 })], hoopFree := 5 }
def sRun : State := { State.reset with cyc := 4000, guard := [(0, 0), (1, 0), (2, 0), (3, 0)], cols := [(1, { clkSum := 7, clkAt := 3 }), (2, { bound := true })] }
abbrev hg (h : Obligations.PowerIsBudgeted) (layer : Nat) (h1 : 1 ≤ layer) (h4 : layer ≤ 4) := (hp h layer 0 0).2.2.2.2.2.2.2.2.1 h1 h4
def sEv : State := after (execLayerGateRequest 2 sRun) sRun
abbrev ht2 (h : Obligations.PowerIsBudgeted) (v : Word) := (hp h 1 0 v).2.2.2.2.2.2.2.2.2
theorem test_hypotheses_of_power_is_budgeted :
    MetE (fun h : Obligations.PowerIsBudgeted => ((hp h 1 0 0).1 [100000, 200000, 3] [50]).1) ({ kick State.reset 60000 with cyc := 400, cols := [(0, { estimates := [1,2,3,4,5,6,7,8,9], shares := [(2, 6)], clkSum := 200 })] } : State)
    ∧ MetE (fun h : Obligations.PowerIsBudgeted => ((hp h 1 0 0).1 [100000, 200000, 3] [50]).2) State.reset
    ∧ MetE (fun h : Obligations.PowerIsBudgeted => (hp h 1 0 0).2.1.1) { sHoop with cyc := 2000 }
    ∧ MetE (fun h : Obligations.PowerIsBudgeted => (hp h 1 0 0).2.1.2.1) sHoop
    ∧ MetE (fun h : Obligations.PowerIsBudgeted => ((hp h 1 0 0).2.1.2.2 (by decide) (by decide)).1) { sHoop with cyc := 2000, hoopNext := 1 }
    ∧ MetE (fun h : Obligations.PowerIsBudgeted => ((hp h 1 0 0).2.1.2.2 (by decide) (by decide)).2) sHoop
    ∧ MetE (fun h : Obligations.PowerIsBudgeted => (hp h 1 0 0xFFFFF123).2.2.1) sHoop
    ∧ MetE (fun h : Obligations.PowerIsBudgeted => ((hp h 1 1 60).2.2.2.1 (by decide) (by decide))) sRun
    ∧ MetE (fun h : Obligations.PowerIsBudgeted => (hp h 1 1 90).2.2.2.2.1) sRun
    ∧ MetE (fun h : Obligations.PowerIsBudgeted => (hp h 1 1 90).2.2.2.2.2.1) (sRun.rset (kReg 1) 0x80000050)
    ∧ MetE (fun h : Obligations.PowerIsBudgeted => (hp h 1 0 0xFFFF0000).2.2.2.2.2.2.1) sRun
    ∧ MetE (fun h : Obligations.PowerIsBudgeted => ((hp h 1 1 0).2.2.2.2.2.2.2.1 3).1) sRun
    ∧ MetE (fun h : Obligations.PowerIsBudgeted => ((hp h 1 1 0).2.2.2.2.2.2.2.1 13).2) sRun
    ∧ MetE (fun h : Obligations.PowerIsBudgeted => (hg h 2 (by decide) (by decide)).1) sRun
    ∧ MetE (fun h : Obligations.PowerIsBudgeted => (hg h 2 (by decide) (by decide)).2.1) (((sRun.setLgate 1 2).setLgate 3 1).setLgate 4 3)
    ∧ MetE (fun h : Obligations.PowerIsBudgeted => (hg h 2 (by decide) (by decide)).2.2.1) sEv
    ∧ MetE (fun h : Obligations.PowerIsBudgeted => (hg h 2 (by decide) (by decide)).2.2.2.1) (sRun.setLgate 2 2)
    ∧ MetE (fun h : Obligations.PowerIsBudgeted => (hg h 2 (by decide) (by decide)).2.2.2.2.1) sEv
    ∧ MetE (fun h : Obligations.PowerIsBudgeted => (hg h 2 (by decide) (by decide)).2.2.2.2.2) (sRun.setLgate 2 3)
    ∧ MetE (fun h : Obligations.PowerIsBudgeted => (ht2 h 0x5A501810).1) State.reset
    ∧ MetE (fun h : Obligations.PowerIsBudgeted => (ht2 h 0x505A1810).2.1) State.reset
    ∧ MetE (fun h : Obligations.PowerIsBudgeted => (ht2 h 30).2.2.1) State.reset
    ∧ MetE (fun h : Obligations.PowerIsBudgeted => (ht2 h 0).2.2.2.1) State.reset
    ∧ MetE (fun h : Obligations.PowerIsBudgeted => (ht2 h 0x5F69).2.2.2.2.1) State.reset
    ∧ MetE (fun h : Obligations.PowerIsBudgeted => (ht2 h 0x5069).2.2.2.2.2) State.reset := by
  refine ⟨?_, ?_, ?_, ?_, ?_, ?_, ?_, ?_, ?_, ?_, ?_, ?_, ?_, ?_, ?_, ?_, ?_, ?_, ?_, ?_, ?_, ?_, ?_, ?_, ?_⟩ <;>
    (refine met (let _ := @decParking; let _ := @decEvents; let _ := @decDrained; let _ := @decHomes; let _ := @decMoves; let _ := @decColumns; let _ := @decShares; let _ := @decClines; let _ := @decOk; let _ := @decOkAnd; let _ := @decExists; let _ := @decForall; let _ := @decExcept; let _ := @decExceptOk; let _ := @decGroup; let _ := @decEntries; let _ := @decLayers; let _ := @decLayersAll; let _ := @decMember; let _ := @decHost; let _ := @decHbm; let _ := @decJudged; let _ := @decCons; inferInstance) ?_; decide +kernel)

end Power

namespace Links

abbrev hk (h : Obligations.LinksServeTheirPartners) (v : Word) (bs : List Byte := []) := h 2 3 0 0 0x2008 0x2008 0 0x2008 v bs (by decide)
def rE := State.reset.rset (kEr 0x0C) 0
def aP : Access := { id := 1, kind := .load, va := 0x2000, size := 4, ty := 2, scope := 0, dests := [], state := .sent }
def tP : Team := { plainTeam with accesses := [aP] }
def peerTab (s : State) : State := let s := tabled s; { s with mem := s.mem.putList 0x30000 (wordsBytes [0x1F, 0, 0x02000002, 0]) }
def sPR := ((peerTab { withTeam tP with cyc := 30000000 }).rset (kEr 0x0C) 0)
def sV := (((((tabled { State.reset with cyc := 1000, members := [0] }).rset (kLk 0 8) 0x80000000).rset (kLk 0 0) 1).rset (kLink 0) 0x80000001).rset (kLink 4) 0xF).rset (kLink 0x18) 8
abbrev hin (h : Obligations.LinksServeTheirPartners) (bs : List Byte) := (hk h 5 bs).2.2.2.2.2.2.2.2.1 1 none 0
def sFw := { sV with mem := sV.mem.putList 0x30000 (wordsBytes [0x1F, 0, 0x02000002, 0]) }
abbrev hh (h : Obligations.LinksServeTheirPartners) (bs : List Byte) := (hk h 5 bs).2.2.2.2.2.2.2.2.2.2 true
abbrev hho (h : Obligations.LinksServeTheirPartners) (bs : List Byte) := (hk h 5 bs).2.2.2.2.2.2.2.2.2.2 false
def sW := State.reset.rset (kEr 0x0C) 0
def jd := match sW.hostJudgeAll 0 0x2008 true 2 with | some (.error e) => e | _ => (0,0,0)
def jd2 := match sW.hostJudgeAll 0 0x2008 false 2 with | some (.error e) => e | _ => (0,0,0)
theorem test_hypotheses_of_links_serve_their_partners :
    MetE (fun h : Obligations.LinksServeTheirPartners => (hk h 0x80000025).1) State.reset
    ∧ MetE (fun h : Obligations.LinksServeTheirPartners => (hk h 0x80000025).2.1) (State.reset.rset (kLink 0) 0x80000003)
    ∧ MetE (fun h : Obligations.LinksServeTheirPartners => ((hk h 5).2.2.1 (by decide)).1) State.reset
    ∧ MetE (fun h : Obligations.LinksServeTheirPartners => ((hk h 5).2.2.1 (by decide)).2) (State.reset.rset (kLink 0) 0x80000003)
    ∧ MetE (fun h : Obligations.LinksServeTheirPartners => ((hk h 5).2.2.2.1 (by decide)).1) rE
    ∧ MetE (fun h : Obligations.LinksServeTheirPartners => ((hk h 5).2.2.2.1 (by decide)).2.1) ((State.reset.rset (kLink 4) 0xF).rset (kLink 0x18) 8)
    ∧ MetE (fun h : Obligations.LinksServeTheirPartners => ((hk h 5).2.2.2.1 (by decide)).2.2) (State.reset.rset (kLink 8) 8)
    ∧ MetE (fun h : Obligations.LinksServeTheirPartners => (hk h 5).2.2.2.2.1) rE
    ∧ MetE (fun h : Obligations.LinksServeTheirPartners => ((hk h 5).2.2.2.2.2.1 .hostLinkDown (by simp))) State.reset
    ∧ MetE (fun h : Obligations.LinksServeTheirPartners => (hk h 5).2.2.2.2.2.2.1) ({ State.reset with hostUp := false, lostLinks := [0] } : State)
    ∧ MetE (fun h : Obligations.LinksServeTheirPartners => ((hin h []).1 4)) sV
    ∧ MetE (fun h : Obligations.LinksServeTheirPartners => (hin h [1,2,3]).2.1) sV
    ∧ MetE (fun h : Obligations.LinksServeTheirPartners => ((hin h [1,2,3]).2.2.2.1 2 0x2008 .write)) sFw
    ∧ MetE (fun h : Obligations.LinksServeTheirPartners => ((hin h [1,2,3]).2.2.2.2.2 .write)) ({ sV with frozenPeers := [(2, 0)] } : State)
    ∧ MetE (fun h : Obligations.LinksServeTheirPartners => ((hin h [1,2,3]).2.2.1 0 7)) sV
    ∧ MetE (fun h : Obligations.LinksServeTheirPartners => ((hin h [1,2,3]).2.2.2.2.1 5 .write)) (sV.rset (kLink (0x10 + 20)) 8)
    ∧ MetE (fun h : Obligations.LinksServeTheirPartners => ((hk h 5 [1,2,3]).2.2.2.2.2.2.2.2.2.1 false)) ({ (State.reset.rset (kEr 4) 7) with frozenPeers := [(2,0),(1,5),(33,0)] } : State)
    ∧ MetE (fun h : Obligations.LinksServeTheirPartners => ((hk h 5 [1,2,3]).2.2.2.2.2.2.2.2.2.1 true)) ({ (State.reset.rset (kEr 8) 7) with frozenPeers := [(2,0),(1,5),(32,0)] } : State)
    ∧ MetE (fun h : Obligations.LinksServeTheirPartners => ((hh h [1,2]).1 true)) sV
    ∧ MetE (fun h : Obligations.LinksServeTheirPartners => ((hh h [1,2]).2.1 [0x2008, 0x2009])) sV
    ∧ MetE (fun h : Obligations.LinksServeTheirPartners => ((hh h [1]).2.2.1 1 rfl).1) sV
    ∧ MetE (fun h : Obligations.LinksServeTheirPartners => ((hho h [1]).2.2.1 1 rfl).1) sV
    ∧ MetE (fun h : Obligations.LinksServeTheirPartners => ((hho h [1]).2.2.1 1 rfl).2) (sV.setHome (0x2008 / 128) { owner := some 3 })
    ∧ MetE (fun h : Obligations.LinksServeTheirPartners => ((hho h [1,2]).2.2.2 jd.1 jd.2.1 jd.2.2).1) sW
    ∧ MetE (fun h : Obligations.LinksServeTheirPartners => ((hho h [1,2]).2.2.2 jd2.1 jd2.2.1 jd2.2.2).2) sW := by
  refine ⟨?_, ?_, ?_, ?_, ?_, ?_, ?_, ?_, ?_, ?_, ?_, ?_, ?_, ?_, ?_, ?_, ?_, ?_, ?_, ?_, ?_, ?_, ?_, ?_, ?_⟩ <;>
    (refine met (let _ := @decParking; let _ := @decEvents; let _ := @decDrained; let _ := @decHomes; let _ := @decMoves; let _ := @decColumns; let _ := @decShares; let _ := @decClines; let _ := @decOk; let _ := @decOkAnd; let _ := @decExists; let _ := @decForall; let _ := @decExcept; let _ := @decExceptOk; let _ := @decGroup; let _ := @decEntries; let _ := @decLayers; let _ := @decLayersAll; let _ := @decMember; let _ := @decHost; let _ := @decHbm; let _ := @decJudged; let _ := @decCons; inferInstance) ?_; decide +kernel)

end Links

namespace Manage

abbrev hm (h : Obligations.ManagementWords) (v : Word) := h 0 0 3 v (by decide) (by decide) (by decide)
abbrev hc (h : Obligations.ManagementWords) := (hm h 1).1 (by decide)
theorem test_hypotheses_of_management_words :
    MetE (fun h : Obligations.ManagementWords => (hc h).2.1) (State.reset.rset (kCkpt 8) 0x80000000)
    ∧ MetE (fun h : Obligations.ManagementWords => (hc h).2.2.1) State.reset
    ∧ MetE (fun h : Obligations.ManagementWords => (hc h).2.2.2) (State.reset.rset kAttest 0x80000000)
    ∧ MetE (fun h : Obligations.ManagementWords => ((hm h 1).2.1 none 0x5000)) ({ State.reset.rset (kCkpt 8) 0x80000000 with ckpt := [(none, 0x5000, State.reset.imageSize)], mem := [(3,5)] })
    ∧ MetE (fun h : Obligations.ManagementWords => (hm h 1).2.2.1) (State.reset.rset kAttest 0x80000000)
    ∧ MetE (fun h : Obligations.ManagementWords => ((hm h 1).2.2.2.1 3 (by decide))) (withTeam plainTeam)
    ∧ MetE (fun h : Obligations.ManagementWords => ((hm h 1).2.2.2.2.1 9 (by decide))) (withTeam plainTeam)
    ∧ MetE (fun h : Obligations.ManagementWords => (hm h 0x800F00FF).2.2.2.2.2.2.1) State.reset
    ∧ MetE (fun h : Obligations.ManagementWords => (hm h 0x400F00FF).2.2.2.2.2.2.2.1) (State.reset.rset (key0 0 0x170040) 0x80030007)
    ∧ MetE (fun h : Obligations.ManagementWords => (hm h 0x400F00FF).2.2.2.2.2.2.2.2.1) State.reset
    ∧ MetE (fun h : Obligations.ManagementWords => (hm h 0x400F00FF).2.2.2.2.2.2.2.2.2.1) State.reset
    ∧ MetE (fun h : Obligations.ManagementWords => ((hm h 0x400F00FF).2.2.2.2.2.2.2.2.2.2.1 0x100009 (by decide))) State.reset := by
  refine ⟨?_, ?_, ?_, ?_, ?_, ?_, ?_, ?_, ?_, ?_, ?_, ?_⟩ <;>
    (refine met (let _ := @decParking; let _ := @decEvents; let _ := @decDrained; let _ := @decHomes; let _ := @decMoves; let _ := @decColumns; let _ := @decShares; let _ := @decClines; let _ := @decOk; let _ := @decOkAnd; let _ := @decExists; let _ := @decForall; let _ := @decExcept; let _ := @decExceptOk; let _ := @decGroup; let _ := @decEntries; let _ := @decLayers; let _ := @decLayersAll; let _ := @decMember; let _ := @decHost; let _ := @decHbm; let _ := @decJudged; let _ := @decCons; inferInstance) ?_; decide +kernel)

/-- A device whose boot has begun. -/
theorem test_a_boot_can_begin : (State.reset.resetDevice 1).booting = true ∧ (State.reset.resetDevice 1).bootable = true := by decide +kernel
end Manage

namespace Errors

def rE := State.reset.rset (kEr 0x0C) 0
abbrev hr (h : Obligations.ErrorsAreReported) (v : Word) := h 0 0 v (by decide)
def g0 := rE.gen 0
/-- A team with an engine, and one that has not halted. -/
def tU : Team := { plainTeam with spadLen := 1024, tsl := 8, engine := some {} }
def tHa : Team := { plainTeam with halting := true, bundles := [{ threads := [0,1,2], slice := 0, stamp := 0, active := true, clause := some (oneWord .mnop) }], haltAt := 0 }
abbrev hx (h : Obligations.ErrorsAreReported) := (hr h 0).2.2.2.2.2.2.2.2.2.2.2.2.1 0 0 1 5 1 plainTeam grid0
abbrev hy (h : Obligations.ErrorsAreReported) := (hr h 0).2.2.2.2.2.2.2.2.2.2.2.2.1 0 0 1 5 1 tU grid0
abbrev hz (h : Obligations.ErrorsAreReported) := (hr h 0).2.2.2.2.2.2.2.2.2.2.2.2.1 0 0 1 5 1 tHa grid0
def on (tm : Team) : State := (withTeam tm).rset (kEr 0x0C) 0
theorem test_hypotheses_of_errors_are_reported :
    MetE (fun h : Obligations.ErrorsAreReported => ((hr h 0xABCDEF01).1 (by decide)).1) State.reset
    ∧ MetE (fun h : Obligations.ErrorsAreReported => ((hr h 0xABCDEF01).1 (by decide)).2) (State.reset.rset (kFb 0 0x0C) 5)
    ∧ MetE (fun h : Obligations.ErrorsAreReported => (hr h 0x7).2.1) State.reset
    ∧ MetE (fun h : Obligations.ErrorsAreReported => (hr h 0x7).2.2.1) (State.reset.rset (kFb 0 0) 1)
    ∧ MetE (fun h : Obligations.ErrorsAreReported => (hr h 0x7).2.2.2.1) ((State.reset.rset (kFb 0 0) 1).rset (kFb 0 0x0C) 9)
    ∧ MetE (fun h : Obligations.ErrorsAreReported => (hr h 0xA).2.2.2.2.1) ((State.reset.rset (kFb 0 0) 1).rset (kFb 0 0x0C) 9)
    ∧ MetE (fun h : Obligations.ErrorsAreReported => (hr h 0).2.2.2.2.2.1) ({ rE with ctxs := [(0, { parked := [[0x00001001],[0x01001001]] })] })
    ∧ MetE (fun h : Obligations.ErrorsAreReported => (hr h 0x55000000).2.2.2.2.2.2.1) rE
    ∧ MetE (fun h : Obligations.ErrorsAreReported => (hr h 0x55000205).2.2.2.2.2.2.2.1) rE
    ∧ MetE (fun h : Obligations.ErrorsAreReported => ((hr h 0x55000200).2.2.2.2.2.2.2.2.1 (by decide))) rE
    ∧ MetE (fun h : Obligations.ErrorsAreReported => ((hr h 0x55000200).2.2.2.2.2.2.2.2.2.1 4 (by decide) (by decide))) rE
    ∧ MetE (fun h : Obligations.ErrorsAreReported => ((hr h 0x55000200).2.2.2.2.2.2.2.2.2.2.1)) rE
    ∧ MetE (fun h : Obligations.ErrorsAreReported => ((hr h 0x55000200).2.2.2.2.2.2.2.2.2.2.2.1 3 2 true).1) rE
    ∧ MetE (fun h : Obligations.ErrorsAreReported => ((hr h 0x55000200).2.2.2.2.2.2.2.2.2.2.2.1 3 2 true).2) ({ rE with wearUE := [(2 ^ 11, 63)] } : State)
    ∧ MetE (fun h : Obligations.ErrorsAreReported => ((hy h).1 (.granule 0 0 5) (by simp) {})) (on tU)
    ∧ MetE (fun h : Obligations.ErrorsAreReported => (hx h).2.1) (on plainTeam)
    ∧ MetE (fun h : Obligations.ErrorsAreReported => ((hx h).2.2 (by decide) (by decide)).1) (on plainTeam)
    ∧ MetE (fun h : Obligations.ErrorsAreReported => ((hz h).2.2 (by decide) (by decide)).2) ({ on tHa with cyc := 30000 } : State)
    ∧ MetE (fun h : Obligations.ErrorsAreReported => ((hr h 0).2.2.2.2.2.2.2.2.2.2.2.2.2 0x20F3 (by decide))) State.reset := by
  refine ⟨?_, ?_, ?_, ?_, ?_, ?_, ?_, ?_, ?_, ?_, ?_, ?_, ?_, ?_, ?_, ?_, ?_, ?_, ?_⟩ <;>
    (refine met (let _ := @decParking; let _ := @decEvents; let _ := @decDrained; let _ := @decHomes; let _ := @decMoves; let _ := @decColumns; let _ := @decShares; let _ := @decClines; let _ := @decOk; let _ := @decOkAnd; let _ := @decExists; let _ := @decForall; let _ := @decExcept; let _ := @decExceptOk; let _ := @decGroup; let _ := @decEntries; let _ := @decLayers; let _ := @decLayersAll; let _ := @decMember; let _ := @decHost; let _ := @decHbm; let _ := @decJudged; let _ := @decCons; inferInstance) ?_; decide +kernel)

/-- R469, R470: the site of a worn core is marked and the core closes; the 64th uncorrected error of a channel marks its stack. -/
theorem test_wear_of_a_site : let t := State.reset.wearSite 0 2
    t.worn.wornSites.length = 1 ∧ (t.col 0).wornCores = [2] ∧ (t.col 0).closed = [2] := by decide +kernel
theorem test_wear_of_a_stack : (({ State.reset with wearUE := [(2 ^ 11 + 40, 63)] } : State).bankWear (40 * 32 + 3)).worn.wornStacks = [1] := by decide +kernel
end Errors

namespace Memory

def t1 := laneTeam [(4, 0x2000), (5, 0), (6, 0x100), (7, 0), (10, 77), (11, 5)]
def key (th : Nat) : Nat := if th = 1 then 0x2010 else 0x2008
def key16 (_ : Nat) : Nat := 0x2020
def t16 : Team := { laneTeam [] with threads := List.replicate 4 { regs := [(4, 0x2000), (5, 0), (10, 77), (11, 5), (12, 6), (13, 7)] } }
theorem test_hypotheses_of_loads_and_stores_issue :
    MetW (fun h : Obligations.LoadsAndStoresIssue => (h.1 mods false false 20 4 3).1) t1 laneState
    ∧ MetW (fun h : Obligations.LoadsAndStoresIssue => ((h.1 mods false false 20 6 3).2 (by decide))) t1 laneState
    ∧ MetW (fun h : Obligations.LoadsAndStoresIssue => ((h.2 mods 10 4 2).1 key).1 (by decide)) t1 laneState
    ∧ MetW (fun h : Obligations.LoadsAndStoresIssue => ((h.2 { mods with ty := 13 } 10 4 2).1 key16).2 (by decide)) t16 laneState
    ∧ MetW (fun h : Obligations.LoadsAndStoresIssue => (h.2 { mods with xm := 8 } 10 4 2).2) t1 laneState := by
  refine ⟨?_, ?_, ?_, ?_, ?_⟩ <;>
    (refine met (let _ := @decParking; let _ := @decEvents; let _ := @decDrained; let _ := @decHomes; let _ := @decMoves; let _ := @decColumns; let _ := @decShares; let _ := @decClines; let _ := @decOk; let _ := @decOkAnd; let _ := @decExists; let _ := @decForall; let _ := @decExcept; let _ := @decExceptOk; let _ := @decGroup; let _ := @decEntries; let _ := @decLayers; let _ := @decLayersAll; let _ := @decMember; let _ := @decHost; let _ := @decHbm; let _ := @decHbmEx; let _ := @decSome; let _ := @decNotHbm; let _ := @decJudged; let _ := @decCons; inferInstance) ?_; decide +kernel)

abbrev hb (h : Obligations.ScratchpadWords) := h mods false 20 6 3
abbrev hq (h : Obligations.ScratchpadWords) := h { mods with ty := 13 } false 20 6 1
def t3 : Team := { t1 with threads := List.replicate 4 { regs := [(6, 0x100)] } }
def t3b : Team := { t1 with threads := List.replicate 4 { regs := [(6, 0x100)], wait := { started := true, token := 6 } } }
theorem test_hypotheses_of_scratchpad_words :
    MetW (fun h : Obligations.ScratchpadWords => (hq h).1) t3 laneState
    ∧ MetW (fun h : Obligations.ScratchpadWords => (hb h).2.1) t1 laneState
    ∧ MetW (fun h : Obligations.ScratchpadWords => (hq h).2.1) t3b laneState
    ∧ MetW (fun h : Obligations.ScratchpadWords => (hq h).2.2.1) t3 laneState
    ∧ MetW (fun h : Obligations.ScratchpadWords => (hb h).2.2.2.1) t1 laneState
    ∧ MetW (fun h : Obligations.ScratchpadWords => (hq h).2.2.2.1) t3b laneState
    ∧ MetW (fun h : Obligations.ScratchpadWords => (hb h).2.2.2.2) ({ t1 with sb := [⟨false, 4, 4, 9⟩] } : Team) laneState := by
  refine ⟨?_, ?_, ?_, ?_, ?_, ?_, ?_⟩ <;>
    (refine met (let _ := @decParking; let _ := @decEvents; let _ := @decDrained; let _ := @decHomes; let _ := @decMoves; let _ := @decColumns; let _ := @decShares; let _ := @decClines; let _ := @decOk; let _ := @decOkAnd; let _ := @decExists; let _ := @decForall; let _ := @decExcept; let _ := @decExceptOk; let _ := @decGroup; let _ := @decEntries; let _ := @decLayers; let _ := @decLayersAll; let _ := @decMember; let _ := @decHost; let _ := @decHbm; let _ := @decHbmEx; let _ := @decSome; let _ := @decJudged; let _ := @decCons; inferInstance) ?_; decide +kernel)

theorem test_hypotheses_of_atomic_words :
    MetW (fun h : Obligations.AtomicWords => (h mods false 20 6 10).1) t1 laneState
    ∧ MetW (fun h : Obligations.AtomicWords => (h { mods with ty := 7, rm := 0, xm := 0 } false 20 4 10).2.1) t1 laneState
    ∧ MetW (fun h : Obligations.AtomicWords => ((h mods false 20 4 10).2.2 (by decide))) t1 laneState := by
  refine ⟨?_, ?_, ?_⟩ <;>
    (refine met (let _ := @decParking; let _ := @decEvents; let _ := @decDrained; let _ := @decHomes; let _ := @decMoves; let _ := @decColumns; let _ := @decShares; let _ := @decClines; let _ := @decOk; let _ := @decOkAnd; let _ := @decExists; let _ := @decForall; let _ := @decExcept; let _ := @decExceptOk; let _ := @decGroup; let _ := @decEntries; let _ := @decLayers; let _ := @decLayersAll; let _ := @decMember; let _ := @decHost; let _ := @decHbm; let _ := @decHbmEx; let _ := @decSome; let _ := @decJudged; let _ := @decCons; inferInstance) ?_; decide +kernel)

theorem test_hypotheses_of_fences_and_performed_accesses :
    MetW (fun h : Obligations.FencesAndPerformedAccesses => (h.1 mods 4 1 1 2).1) t1 laneState
    ∧ MetW (fun h : Obligations.FencesAndPerformedAccesses => (h.1 mods 4 1 1 2).2.1) t1 laneState
    ∧ MetW (fun h : Obligations.FencesAndPerformedAccesses => (h.1 mods 4 1 1 2).2.2) t1 laneState := by
  refine ⟨?_, ?_, ?_⟩ <;>
    (refine met (let _ := @decParking; let _ := @decEvents; let _ := @decDrained; let _ := @decHomes; let _ := @decMoves; let _ := @decColumns; let _ := @decShares; let _ := @decClines; let _ := @decOk; let _ := @decOkAnd; let _ := @decExists; let _ := @decForall; let _ := @decExcept; let _ := @decExceptOk; let _ := @decGroup; let _ := @decEntries; let _ := @decLayers; let _ := @decLayersAll; let _ := @decMember; let _ := @decHost; let _ := @decHbm; let _ := @decHbmEx; let _ := @decSome; let _ := @decJudged; let _ := @decCons; inferInstance) ?_; decide +kernel)

end Memory

namespace EngineWords

def entF : List Word := (List.replicate 16 0).set 0 0x800E
abbrev mG : Mods := { mods with xm := 4 }
def tc := laneTeam [(4, 0x2000), (5, 0), (6, 0x100), (10, 64), (20, 0x400), (21,0),(22,0),(23,0)]
def ent : List Word := (List.replicate 16 0).set 0 0x800E
def sTd : State := ({ laneState with mem := laneState.mem.putList (laneState.tdAddr 0 3) (wordsBytes ent) }).rset (kTd 0 0) 1
def tct := laneTeam [(4, 3), (20, 0x001), (40, 0)]
def tcg := laneTeam [(4, 0x2000), (5, 0), (6, 0x200), (20, 0x400)]
theorem test_hypotheses_of_copy_engine_words_make_requests :
    MetW (fun h : Obligations.CopyEngineWordsMakeRequests => (h { mods with xm := 1 } false 20 4 10).1) tc laneState
    ∧ MetW (fun h : Obligations.CopyEngineWordsMakeRequests => ((h mods false 20 4 40).2.1 ent)) tct sTd
    ∧ MetW (fun h : Obligations.CopyEngineWordsMakeRequests => ((h mods false 20 4 6).2.2.1)) tcg laneState
    ∧ MetW (fun h : Obligations.CopyEngineWordsMakeRequests => ((h { mods with xm := 1 } false 20 4 6).2.2.2.1)) tcg laneState
    ∧ MetW (fun h : Obligations.CopyEngineWordsMakeRequests => ((h mods false 20 4 6).2.2.2.2.1)) (laneTeam [(4, 3), (6, 0x400), (7,0)]) laneState
    ∧ MetW (fun h : Obligations.CopyEngineWordsMakeRequests => ((h mods false 20 4 6).2.2.2.2.2)) (laneTeam [(4, 3), (6, 0x400), (7,0)]) laneState := by
  refine ⟨?_, ?_, ?_, ?_, ?_, ?_⟩ <;>
    (refine met (let _ := @decParking; let _ := @decEvents; let _ := @decDrained; let _ := @decHomes; let _ := @decMoves; let _ := @decColumns; let _ := @decShares; let _ := @decClines; let _ := @decOk; let _ := @decOkAnd; let _ := @decExists; let _ := @decForall; let _ := @decExcept; let _ := @decExceptOk; let _ := @decGroup; let _ := @decEntries; let _ := @decLayers; let _ := @decLayersAll; let _ := @decMember; let _ := @decHost; let _ := @decHbm; let _ := @decJudged; let _ := @decCons; inferInstance) ?_; decide +kernel)

def tco : Team := { laneTeam [] with threads := List.replicate 4 { regs := [(4, 0x400), (6, 0x30002)] } }
def sCo := ((laneState.rset (key0 0 (0x181000 + 48)) 1).rset (key0 0 (0x181000 + 56)) 0x80000000).rset (kLk 0 8) 0x80000000
theorem test_hypotheses_of_distributor_and_link_words_make_requests :
    MetW (fun h : Obligations.DistributorAndLinkWordsMakeRequests => (h mods false 4 6).1) (laneTeam [(4, 3), (6, 1)]) laneState
    ∧ MetW (fun h : Obligations.DistributorAndLinkWordsMakeRequests => (h mods false 4 6).2.1) (laneTeam [(4, 0x100), (6, 1)]) laneState
    ∧ MetW (fun h : Obligations.DistributorAndLinkWordsMakeRequests => (h mods false 4 6).2.2.1) tco sCo
    ∧ MetW (fun h : Obligations.DistributorAndLinkWordsMakeRequests => ((h mods false 4 8).2.2.2 (by decide))) (laneTeam [(4, 0x2000), (8, 0x2000)]) laneState := by
  refine ⟨?_, ?_, ?_, ?_⟩ <;>
    (refine met (let _ := @decParking; let _ := @decEvents; let _ := @decDrained; let _ := @decHomes; let _ := @decMoves; let _ := @decColumns; let _ := @decShares; let _ := @decClines; let _ := @decOk; let _ := @decOkAnd; let _ := @decExists; let _ := @decForall; let _ := @decExcept; let _ := @decExceptOk; let _ := @decGroup; let _ := @decEntries; let _ := @decLayers; let _ := @decLayersAll; let _ := @decMember; let _ := @decHost; let _ := @decHbm; let _ := @decJudged; let _ := @decCons; inferInstance) ?_; decide +kernel)

def tx := { laneTeam [(4, 3), (6, 0x2000), (7,0)] with engine := some {} }
def sB := ({ laneState with cols := [(0, { bound := true })] }).rset (kCsplan 0) 0x01404001
def rm := (onLane (.mxacq mods 20) (laneTeam []) laneState).engineRoom 0 (laneTeam [])
theorem test_hypotheses_of_matrix_engine_hold_words :
    MetW (fun h : Obligations.MatrixEngineHoldWords => (h mods 20 4 6).1) tx laneState
    ∧ MetW (fun h : Obligations.MatrixEngineHoldWords => (h mods 20 4 6).2.1) (laneTeam []) ({ laneState with cols := [(0, { batons := [(1, 5, 5000)] })] } : State)
    ∧ MetW (fun h : Obligations.MatrixEngineHoldWords => ((h mods 20 4 6).2.2.1 (0,524288))) (laneTeam []) laneState
    ∧ MetW (fun h : Obligations.MatrixEngineHoldWords => ((h mods 20 4 6).2.2.2.1 {})) tx laneState
    ∧ MetW (fun h : Obligations.MatrixEngineHoldWords => ((h mods 20 4 6).2.2.2.2.1)) (laneTeam []) laneState
    ∧ MetW (fun h : Obligations.MatrixEngineHoldWords => ((h { mods with xm := 6 } 20 4 6).2.2.2.2.2.1 (by decide))) tx laneState
    ∧ MetW (fun h : Obligations.MatrixEngineHoldWords => ((h { mods with xm := 1 } 20 6 4).2.2.2.2.2.2 (by decide) (by decide) 0x2000)) tx laneState := by
  refine ⟨?_, ?_, ?_, ?_, ?_, ?_, ?_⟩ <;>
    (refine met (let _ := @decParking; let _ := @decEvents; let _ := @decDrained; let _ := @decHomes; let _ := @decMoves; let _ := @decColumns; let _ := @decShares; let _ := @decClines; let _ := @decOk; let _ := @decOkAnd; let _ := @decExists; let _ := @decForall; let _ := @decExcept; let _ := @decExceptOk; let _ := @decGroup; let _ := @decEntries; let _ := @decLayers; let _ := @decLayersAll; let _ := @decMember; let _ := @decHost; let _ := @decHbm; let _ := @decJudged; let _ := @decCons; inferInstance) ?_; decide +kernel)

end EngineWords

namespace Control

def th3 (l : List (Nat × Word)) : List Thread := (List.replicate 3 { regs := l, pc := 0x1000 }) ++ [({} : Thread)]
def tb : Team := { laneTeam [] with threads := th3 [(4, 0x400), (5, 1)] }
abbrev hA1 (h : Obligations.BranchesAndCalls) (a : RegNo) := h mods a 0x1234
theorem test_hypotheses_of_branches_and_calls :
    MetW (fun h : Obligations.BranchesAndCalls => (hA1 h 4).1) tb laneState
    ∧ MetW (fun h : Obligations.BranchesAndCalls => (hA1 h 4).2.1) tb laneState
    ∧ MetW (fun h : Obligations.BranchesAndCalls => (hA1 h 9).2.1) tb laneState
    ∧ MetW (fun h : Obligations.BranchesAndCalls => (hA1 h 4).2.2.1) tb laneState
    ∧ MetW (fun h : Obligations.BranchesAndCalls => (hA1 h 4).2.2.2.1) ({ tb with threads := th3 [(4, 0x400)] } : Team) laneState
    ∧ MetW (fun h : Obligations.BranchesAndCalls => (hA1 h 4).2.2.2.2.1) ({ tb with threads := th3 [(4, 0x400)] } : Team) laneState
    ∧ MetW (fun h : Obligations.BranchesAndCalls => (hA1 h 4).2.2.2.2.2.1) tb laneState
    ∧ MetW (fun h : Obligations.BranchesAndCalls => (hA1 h 4).2.2.2.2.2.2) ({ tb with threads := th3 [(4, 0x400)] } : Team) laneState := by
  refine ⟨?_, ?_, ?_, ?_, ?_, ?_, ?_, ?_⟩ <;>
    (refine met (let _ := @decParking; let _ := @decEvents; let _ := @decDrained; let _ := @decHomes; let _ := @decMoves; let _ := @decColumns; let _ := @decShares; let _ := @decClines; let _ := @decOk; let _ := @decOkAnd; let _ := @decExists; let _ := @decForall; let _ := @decExcept; let _ := @decExceptOk; let _ := @decGroup; let _ := @decEntries; let _ := @decLayers; let _ := @decLayersAll; let _ := @decMember; let _ := @decHost; let _ := @decHbm; let _ := @decJudged; let _ := @decCons; inferInstance) ?_; decide +kernel)

theorem test_hypotheses_of_nop_yield_exit_and_rets :
    MetW (fun h : Obligations.NopYieldExitAndRets => (h.1 mods (.nop mods) (by simp))) tb laneState
    ∧ MetW (fun h : Obligations.NopYieldExitAndRets => (h.1 mods (.yield mods) (by simp))) tb laneState
    ∧ MetW (fun h : Obligations.NopYieldExitAndRets => (h.2 mods 4 6).1) tb laneState
    ∧ MetW (fun h : Obligations.NopYieldExitAndRets => (h.2 mods 4 6).2) ({ tb with threads := th3 [(4, 0x400), (6, 5)] } : Team) laneState := by
  refine ⟨?_, ?_, ?_, ?_⟩ <;>
    (refine met (let _ := @decParking; let _ := @decEvents; let _ := @decDrained; let _ := @decHomes; let _ := @decMoves; let _ := @decColumns; let _ := @decShares; let _ := @decClines; let _ := @decOk; let _ := @decOkAnd; let _ := @decExists; let _ := @decForall; let _ := @decExcept; let _ := @decExceptOk; let _ := @decGroup; let _ := @decEntries; let _ := @decLayers; let _ := @decLayersAll; let _ := @decMember; let _ := @decHost; let _ := @decHbm; let _ := @decJudged; let _ := @decCons; inferInstance) ?_; decide +kernel)

def cd : List Word := (((((List.replicate 32 (0 : Word)).set 4 (BitVec.ofNat 32 (1*2^25 + 1*2^22))).set 8 0x10000).set 9 1).set 10 (BitVec.ofNat 32 (256*2^16))).set 31 0x20000
def tl : Team := { laneTeam [] with threads := List.replicate 4 { regs := [(4, 0x1000), (6, 3)] } }
def sLa := { laneState with mem := laneState.mem.putList 0x1000 (wordsBytes cd) }
def sLb := (sLa.rset (kQueue 0 3 8) 0x80)
def rdc := (onLane (.launch mods 20 4 6) tl sLb).colRead 0 0 kLoad false 0x1000 128
def gc : Grid := { grid0 with card := (List.replicate 32 (0 : Word)).set 4 0x80000 }
theorem test_hypotheses_of_sleep_and_grid_barrier :
    MetW (fun h : Obligations.SleepAndGridBarrier => (h mods 4).1) tb laneState
    ∧ MetW (fun h : Obligations.SleepAndGridBarrier => (h mods 9).1) tb laneState
    ∧ MetW (fun h : Obligations.SleepAndGridBarrier => ((h mods 9).2 gc)) tb ({ laneState with grids := [(0, gc)] } : State) := by
  refine ⟨?_, ?_, ?_⟩ <;>
    (refine met (let _ := @decParking; let _ := @decEvents; let _ := @decDrained; let _ := @decHomes; let _ := @decMoves; let _ := @decColumns; let _ := @decShares; let _ := @decClines; let _ := @decOk; let _ := @decOkAnd; let _ := @decExists; let _ := @decForall; let _ := @decExcept; let _ := @decExceptOk; let _ := @decGroup; let _ := @decEntries; let _ := @decLayers; let _ := @decLayersAll; let _ := @decMember; let _ := @decHost; let _ := @decHbm; let _ := @decJudged; let _ := @decCons; inferInstance) ?_; decide +kernel)

def z1 : RzPoint := { e := 5, a := 1, p := 7 }
def z2 : RzPoint := { e := 4, a := 1, p := 0xFFFF }
def tz (z : RzPoint) : Team := { laneTeam [] with threads := List.replicate 4 { regs := [(4, 7)] }, rz := [(3, z)] }
theorem test_hypotheses_of_rendezvous_words :
    MetW (fun h : Obligations.RendezvousWords => (h.1 mods 20 4 3 {}).1) (tz {}) laneState
    ∧ MetW (fun h : Obligations.RendezvousWords => (h.1 mods 20 4 3 z1).2.1) (tz z1) laneState
    ∧ MetW (fun h : Obligations.RendezvousWords => (h.1 mods 20 4 3 z2).2.1) (tz z2) laneState
    ∧ MetW (fun h : Obligations.RendezvousWords => (h.1 mods 20 9 3 z1).2.2.1) (tz z1) laneState
    ∧ MetW (fun h : Obligations.RendezvousWords => (h.1 mods 20 4 3 z1).2.2.2) (tz z1) laneState
    ∧ MetW (fun h : Obligations.RendezvousWords => (h.2 mods 20 4 3 z1).1) (tz z1) laneState
    ∧ MetW (fun h : Obligations.RendezvousWords => (h.2 mods 20 4 3 z2).1) (tz z2) laneState
    ∧ MetW (fun h : Obligations.RendezvousWords => (h.2 mods 20 4 3 z1).2) (tz z1) laneState
    ∧ MetW (fun h : Obligations.RendezvousWords => (h.2 mods 20 4 3 z2).2) (tz z2) laneState := by
  refine ⟨?_, ?_, ?_, ?_, ?_, ?_, ?_, ?_, ?_⟩ <;>
    (refine met (let _ := @decParking; let _ := @decEvents; let _ := @decDrained; let _ := @decHomes; let _ := @decMoves; let _ := @decColumns; let _ := @decShares; let _ := @decClines; let _ := @decOk; let _ := @decOkAnd; let _ := @decExists; let _ := @decForall; let _ := @decExcept; let _ := @decExceptOk; let _ := @decGroup; let _ := @decEntries; let _ := @decLayers; let _ := @decLayersAll; let _ := @decMember; let _ := @decHost; let _ := @decHbm; let _ := @decJudged; let _ := @decCons; inferInstance) ?_; decide +kernel)

theorem test_hypotheses_of_register_count_words :
    MetW (fun h : Obligations.RegisterCountWords => (h mods 20 64).1) tb laneState
    ∧ MetW (fun h : Obligations.RegisterCountWords => (h mods 20 96).2.1) tb laneState := by
  refine ⟨?_, ?_⟩ <;>
    (refine met (let _ := @decParking; let _ := @decEvents; let _ := @decDrained; let _ := @decHomes; let _ := @decMoves; let _ := @decColumns; let _ := @decShares; let _ := @decClines; let _ := @decOk; let _ := @decOkAnd; let _ := @decExists; let _ := @decForall; let _ := @decExcept; let _ := @decExceptOk; let _ := @decGroup; let _ := @decEntries; let _ := @decLayers; let _ := @decLayersAll; let _ := @decMember; let _ := @decHost; let _ := @decHbm; let _ := @decJudged; let _ := @decCons; inferInstance) ?_; decide +kernel)

def tr : Team := { laneTeam [] with threads := List.replicate 4 { regs := [(4, 0x0), (20, 7)] } }
def te : Team := { laneTeam [] with threads := List.replicate 4 { regs := [(4, 0x1000)] } }
def r1 := (onLane (.evpost mods 20 4) te laneState).colRead 0 0 kLoad false 0x1000 64
def r1b := match r1.2 with | .ok b => b | _ => []
theorem test_hypotheses_of_launch_copies_a_card :
    MetW (fun h : Obligations.LaunchCopiesACard => ((h mods 20 4 6).2 (wordsBytes cd) rdc.1)) tl sLb
    ∧ MetW (fun h : Obligations.LaunchCopiesACard => (h mods 20 4 6).1) tl (laneState.setQhalt 0 3 1) := by
  refine ⟨?_, ?_⟩ <;>
    (refine met (let _ := @decParking; let _ := @decEvents; let _ := @decDrained; let _ := @decHomes; let _ := @decMoves; let _ := @decColumns; let _ := @decShares; let _ := @decClines; let _ := @decOk; let _ := @decOkAnd; let _ := @decExists; let _ := @decForall; let _ := @decExcept; let _ := @decExceptOk; let _ := @decGroup; let _ := @decEntries; let _ := @decLayers; let _ := @decLayersAll; let _ := @decMember; let _ := @decHost; let _ := @decHbm; let _ := @decJudged; let _ := @decCons; inferInstance) ?_; decide +kernel)

def sP := { laneState with grids := [(0, { grid0 with priv := true })] }
def tr2 : Team := { laneTeam [] with threads := List.replicate 4 { regs := [(4, 0x100000), (20, 0x7000)] } }
def uC := let s := onLane (.csrwr mods 20 4 2) tr2 sP; s.csrWrite 0 0x100008 0x7000
def tr3 : Team := { laneTeam [] with threads := List.replicate 4 { regs := [(4, 0x130000), (20, 0x80002100)] } }
def sPg := sP.rset (kL2 0 0) 0x2000
def uW := let s := onLane (.csrwr mods 20 4 0) tr3 sPg; s.csrWrite 0 0x130000 0x80002100
theorem test_hypotheses_of_special_values_and_device_registers :
    MetW (fun h : Obligations.SpecialValuesAndDeviceRegisters => (h.1 mods 20 4 1).1) tb laneState
    ∧ MetW (fun h : Obligations.SpecialValuesAndDeviceRegisters => (h.1 mods 20 4 10).1) tb laneState
    ∧ MetW (fun h : Obligations.SpecialValuesAndDeviceRegisters => (h.1 mods 20 4 10).2) tb laneState
    ∧ MetW (fun h : Obligations.SpecialValuesAndDeviceRegisters => (h.2 mods 20 4 3).1) tr laneState
    ∧ MetW (fun h : Obligations.SpecialValuesAndDeviceRegisters => ((h.2 mods 20 4 2).2 uC).1) tr2 sP
    ∧ MetW (fun h : Obligations.SpecialValuesAndDeviceRegisters => ((h.2 mods 20 4 0).2 uW).2 0) tr3 sPg := by
  refine ⟨?_, ?_, ?_, ?_, ?_, ?_⟩ <;>
    (refine met (let _ := @decParking; let _ := @decEvents; let _ := @decDrained; let _ := @decHomes; let _ := @decMoves; let _ := @decColumns; let _ := @decShares; let _ := @decClines; let _ := @decOk; let _ := @decOkAnd; let _ := @decExists; let _ := @decForall; let _ := @decExcept; let _ := @decExceptOk; let _ := @decGroup; let _ := @decEntries; let _ := @decLayers; let _ := @decLayersAll; let _ := @decMember; let _ := @decHost; let _ := @decHbm; let _ := @decJudged; let _ := @decCons; inferInstance) ?_; decide +kernel)

def sE := (laneState.rset (kEv 0 0) 0x1).rset (kEv 0 8) 4
def re := (onLane (.evpost mods 20 4) te sE).colRead 0 0 kLoad false 0x1000 64
def reb := match re.2 with | .ok b => b | _ => []
def vE := re.1.postEvent 0 (eventWords (re.1.ctxId 0) 1 0 ((bytesWords reb).drop 4))
def tf (v : Word) : Team := { laneTeam [] with threads := List.replicate 4 { regs := [(4, v)] } }
theorem test_hypotheses_of_trap_event_post_and_freeze :
    MetW (fun h : Obligations.TrapEventPostAndFreeze => (h.1 mods 4)) tb (laneState.rset (kEr 0x0C) 0)
    ∧ MetW (fun h : Obligations.TrapEventPostAndFreeze => ((h.2 mods 20 4).1 r1b r1.1)) te laneState
    ∧ MetW (fun h : Obligations.TrapEventPostAndFreeze => ((h.2 mods 20 4).2.2.1 0)) (tf (2 + 16 * 256)) sP
    ∧ MetW (fun h : Obligations.TrapEventPostAndFreeze => ((h.2 mods 20 4).2.2.2)) (tf (1 + 2^26)) sP := by
  refine ⟨?_, ?_, ?_, ?_⟩ <;>
    (refine met (let _ := @decParking; let _ := @decEvents; let _ := @decDrained; let _ := @decHomes; let _ := @decMoves; let _ := @decColumns; let _ := @decShares; let _ := @decClines; let _ := @decOk; let _ := @decOkAnd; let _ := @decExists; let _ := @decForall; let _ := @decExcept; let _ := @decExceptOk; let _ := @decGroup; let _ := @decEntries; let _ := @decLayers; let _ := @decLayersAll; let _ := @decMember; let _ := @decHost; let _ := @decHbm; let _ := @decJudged; let _ := @decCons; inferInstance) ?_; decide +kernel)

/-- An event queue of function 0 takes the record. -/
theorem test_hypotheses_of_a_posted_event :
    MetW (fun h : Obligations.TrapEventPostAndFreeze => ((h.2 mods 20 4).2.1 reb re.1 vE)) te sE := by
  refine ⟨?_, ⟨?_, ?_, ?_, ?_, ?_⟩, ?_, ?_, rfl, ?_⟩ <;>
    (refine met (let _ := @decParking; let _ := @decEvents; let _ := @decDrained; let _ := @decHomes; let _ := @decMoves; let _ := @decColumns; let _ := @decShares; let _ := @decClines; let _ := @decOk; let _ := @decOkAnd; let _ := @decExists; let _ := @decForall; let _ := @decExcept; let _ := @decExceptOk; let _ := @decGroup; let _ := @decEntries; let _ := @decLayers; let _ := @decLayersAll; let _ := @decMember; let _ := @decHost; let _ := @decHbm; let _ := @decJudged; let _ := @decCons; inferInstance) ?_; decide +kernel)

end Control

namespace Stream

def tile (b : Byte) : Tile := { tag := .valid, data := (List.range 200).map fun i => (i, b + BitVec.ofNat 8 i) }
def tS : Team := { laneTeam [] with engine := some {}, stream := { run := true, pos := 0x100, ir := some 5 }, mregs := [(2, 1), (3, 7)], rz := [(4, { e := 2, a := 1, p := 9 }), (5, { e := 3, a := 1, p := 9 })], tiles := [(1, tile 7), (2, tile 9)] }
abbrev ha (h : Obligations.StreamRegistersAndWaits) := h.1 2 3 55 0x3FFFF0 0x3FFFF
abbrev hb (h : Obligations.StreamRegistersAndWaits) (z : BitVec 5) (ts : BitVec 8) (tag : BitVec 2) := h.2 z ts 3 tag false 0
def ent : List Word := (List.replicate 16 0).set 0 0x800E
def sTd : State := ({ laneState with mem := laneState.mem.putList (laneState.tdAddr 0 3) (wordsBytes ent) }).rset (kTd 0 0) 1
theorem test_hypotheses_of_stream_registers_and_waits :
    MetS (fun h : Obligations.StreamRegistersAndWaits => (ha h).1) tS ((tS).engine.getD {}) laneState
    ∧ MetS (fun h : Obligations.StreamRegistersAndWaits => (ha h).2.1) tS ((tS).engine.getD {}) laneState
    ∧ MetS (fun h : Obligations.StreamRegistersAndWaits => (ha h).2.2.1) tS ((tS).engine.getD {}) laneState
    ∧ MetS (fun h : Obligations.StreamRegistersAndWaits => (ha h).2.2.2.1) tS ((tS).engine.getD {}) laneState
    ∧ MetS (fun h : Obligations.StreamRegistersAndWaits => (h.1 3 3 55 0x3FFFF0 0x3FFFF).2.2.2.1) tS ((tS).engine.getD {}) laneState
    ∧ MetS (fun h : Obligations.StreamRegistersAndWaits => (ha h).2.2.2.2) tS ((tS).engine.getD {}) laneState
    ∧ MetS (fun h : Obligations.StreamRegistersAndWaits => (hb h 4 1 1).1) tS ((tS).engine.getD {}) laneState
    ∧ MetS (fun h : Obligations.StreamRegistersAndWaits => (hb h 5 1 1).2.1) tS ((tS).engine.getD {}) laneState
    ∧ MetS (fun h : Obligations.StreamRegistersAndWaits => (hb h 4 1 1).2.1) tS ((tS).engine.getD {}) laneState
    ∧ MetS (fun h : Obligations.StreamRegistersAndWaits => ((hb h 4 1 1).2.2.1 9)) ({ tS with stream := { tS.stream with token := some 9 } } : Team) (({ tS with stream := { tS.stream with token := some 9 } }).engine.getD {}) laneState
    ∧ MetS (fun h : Obligations.StreamRegistersAndWaits => ((hb h 4 1 1).2.2.1 8)) ({ tS with stream := { tS.stream with token := some 8 } } : Team) (({ tS with stream := { tS.stream with token := some 8 } }).engine.getD {}) laneState
    ∧ MetS (fun h : Obligations.StreamRegistersAndWaits => (hb h 4 1 1).2.2.2.1) tS ((tS).engine.getD {}) laneState
    ∧ MetS (fun h : Obligations.StreamRegistersAndWaits => (hb h 4 3 1).2.2.2.1) tS ((tS).engine.getD {}) laneState
    ∧ MetS (fun h : Obligations.StreamRegistersAndWaits => ((hb h 4 3 1).2.2.2.2 ent)) tS ((tS).engine.getD {}) sTd := by
  refine ⟨?_, ?_, ?_, ?_, ?_, ?_, ?_, ?_, ?_, ?_, ?_, ?_, ?_, ?_⟩ <;>
    (refine met (let _ := @decParking; let _ := @decEvents; let _ := @decDrained; let _ := @decHomes; let _ := @decMoves; let _ := @decColumns; let _ := @decShares; let _ := @decClines; let _ := @decOk; let _ := @decOkAnd; let _ := @decExists; let _ := @decForall; let _ := @decExcept; let _ := @decExceptOk; let _ := @decGroup; let _ := @decEntries; let _ := @decLayers; let _ := @decLayersAll; let _ := @decMember; let _ := @decHost; let _ := @decHbm; let _ := @decHbmEx; let _ := @decSome; let _ := @decJudged; let _ := @decCons; inferInstance) ?_; decide +kernel)

theorem test_hypotheses_of_stream_loads :
    MetS (fun h : Obligations.StreamLoads => (h 1 0xF false false 0 false 0).1) tS ((tS).engine.getD {}) laneState
    ∧ MetS (fun h : Obligations.StreamLoads => (h 2 0xF true true 0 false 0).2.1) ({ tS with tiles := [(2, tile 9), (3, tile 11)] } : Team) (({ tS with tiles := [(2, tile 9), (3, tile 11)] }).engine.getD {}) laneState
    ∧ MetS (fun h : Obligations.StreamLoads => (h 5 0xF false false 0 false 0).2.2) tS ((tS).engine.getD {}) laneState := by
  refine ⟨?_, ?_, ?_⟩ <;>
    (refine met (let _ := @decParking; let _ := @decEvents; let _ := @decDrained; let _ := @decHomes; let _ := @decMoves; let _ := @decColumns; let _ := @decShares; let _ := @decClines; let _ := @decOk; let _ := @decOkAnd; let _ := @decExists; let _ := @decForall; let _ := @decExcept; let _ := @decExceptOk; let _ := @decGroup; let _ := @decEntries; let _ := @decLayers; let _ := @decLayersAll; let _ := @decMember; let _ := @decHost; let _ := @decHbm; let _ := @decHbmEx; let _ := @decSome; let _ := @decJudged; let _ := @decCons; inferInstance) ?_; decide +kernel)

def nx (o : Host.Outcome State Fault Refusal) : State := match o with | .next t => t | _ => laneState
def eOf (s : State) : Engine := match s.team? 0 with | some t => t.engine.getD {} | none => {}
def eT : Engine := eOf (nx (execMldb 2 0xF false false 4 false 0 (nx (execMlda 1 false 4 false 0 (onStream tS laneState)))))
def tS0 : Team := { tS with mregs := [(15, 1)] }
def opsN := (eT.operands 1 0 6).getD []
def tM : Team := { tS with engine := some eT }
def tS2 : Team := { tS with tiles := [(1, tile 7), (2, tile 9), (3, tile 100), (4, tile 20)] }
def eR : Engine := eOf (nx (execMldb 2 0xF false true 0 false 0 (nx (execMlda 4 false 0 false 0 (nx (execMlda 1 false 0 false 0 (onStream tS2 laneState)))))))
def eR2 : Engine := eOf (nx (execMldb 2 0xF false true 0 false 0 (nx (execMlda 5 false 0 false 0 (nx (execMlda 4 false 0 false 0 (onStream { tS2 with tiles := [(2, tile 9), (3, tile 100), (4, tile 20), (5, tile 30)] } laneState)))))))
def tR : Team := { tS2 with engine := some eR2 }
def opsR := (eR2.operands 4 1 0).getD []
def tC : Team := { tS with engine := some { accs := [(8, { kind := .s32, data := [(0, 0x7FFFFFFF), (5, 3)] }), (9, { kind := .s32, data := [(0, 5)] }), (10, { kind := .f32, data := [(0, 0x3F800000), (3, 0x40490FDB)] }), (11, { kind := .f32, data := [(0, 0xBF800001), (3, 0x7F800000)] })] } }
theorem test_hypotheses_of_stream_arithmetic :
    MetS (fun h : Obligations.StreamArithmetic => ((h 8 3 9 1 0 0 6 false false).1 opsN)) tM ((tM).engine.getD {}) laneState
    ∧ MetS (fun h : Obligations.StreamArithmetic => ((h 8 3 9 1 0 2 6 false false).1 opsN)) tM ((tM).engine.getD {}) laneState
    ∧ MetS (fun h : Obligations.StreamArithmetic => ((h 8 3 9 4 1 1 0 false false).2.1 opsR)) tR ((tR).engine.getD {}) laneState
    ∧ MetS (fun h : Obligations.StreamArithmetic => ((h 8 3 9 4 1 2 0 false false).1 opsR)) tR ((tR).engine.getD {}) laneState
    ∧ MetS (fun h : Obligations.StreamArithmetic => (h 8 3 9 4 1 2 0 false false).2.2.2.1) tR ((tR).engine.getD {}) laneState
    ∧ MetS (fun h : Obligations.StreamArithmetic => (h 8 3 9 4 1 2 0 false false).2.2.2.2) tC ((tC).engine.getD {}) laneState
    ∧ MetS (fun h : Obligations.StreamArithmetic => (h 8 3 9 4 1 2 0 true false).2.2.2.2) tC ((tC).engine.getD {}) laneState
    ∧ MetS (fun h : Obligations.StreamArithmetic => (h 10 3 11 4 1 2 0 true false).2.2.2.2) tC ((tC).engine.getD {}) laneState := by
  refine ⟨?_, ?_, ?_, ?_, ?_, ?_, ?_, ?_⟩ <;>
    (refine met (let _ := @decParking; let _ := @decEvents; let _ := @decDrained; let _ := @decHomes; let _ := @decMoves; let _ := @decColumns; let _ := @decShares; let _ := @decClines; let _ := @decOk; let _ := @decOkAnd; let _ := @decExists; let _ := @decForall; let _ := @decExcept; let _ := @decExceptOk; let _ := @decGroup; let _ := @decEntries; let _ := @decLayers; let _ := @decLayersAll; let _ := @decMember; let _ := @decHost; let _ := @decHbm; let _ := @decHbmEx; let _ := @decSome; let _ := @decJudged; let _ := @decCons; inferInstance) ?_; decide +kernel)

theorem test_hypotheses_of_stream_stores :
    MetS (fun h : Obligations.StreamStores => (h 8 5 5 false false 0).1) tC ((tC).engine.getD {}) laneState
    ∧ MetS (fun h : Obligations.StreamStores => (h 10 5 0 false false 0).1) tC ((tC).engine.getD {}) laneState
    ∧ MetS (fun h : Obligations.StreamStores => (h 10 5 2 false false 0).1) tC ((tC).engine.getD {}) laneState
    ∧ MetS (fun h : Obligations.StreamStores => ((h 10 9 0 false false 0).2 (.mstc 10 9 0 false false 0) (by simp))) tC ((tC).engine.getD {}) (laneState.rset (kEr 0x0C) 0) := by
  refine ⟨?_, ?_, ?_, ?_⟩ <;>
    (refine met (let _ := @decParking; let _ := @decEvents; let _ := @decDrained; let _ := @decHomes; let _ := @decMoves; let _ := @decColumns; let _ := @decShares; let _ := @decClines; let _ := @decOk; let _ := @decOkAnd; let _ := @decExists; let _ := @decForall; let _ := @decExcept; let _ := @decExceptOk; let _ := @decGroup; let _ := @decEntries; let _ := @decLayers; let _ := @decLayersAll; let _ := @decMember; let _ := @decHost; let _ := @decHbm; let _ := @decHbmEx; let _ := @decSome; let _ := @decJudged; let _ := @decCons; inferInstance) ?_; decide +kernel)

end Stream

/-! ### Hypotheses of the statements that are not a list of clauses -/

namespace Whole

/-- Every word of a few families issues in a small state (the statements on results ask no more than that). -/
def words : List Instr := [.iadd mods false 20 4 10, .iaddc mods false 20 4 10, .isub mods false 20 4 10, .imul mods false 20 4 10,
  .shl mods false 20 4 10, .bfn3 { mods with c := 12 } false 20 4 10, .clz mods false 20 4, .mov mods false 20 4,
  .movi mods false 20 5, .fadd mods false 20 4 10, .ffma { mods with c := 12 } false 20 4 10, .uadd mods 20 4 10, .lea mods false 20 4 10]

theorem test_words_issue : words.all (fun i => clearOf i (laneTeam [(4, 1), (10, 2)])) = true := by decide +kernel
theorem test_words_issue_somewhere : ∃ (s : State) (x : Iss) (f : Form), s.Issues (.iadd mods false 20 4 10) x f :=
  ⟨_, _, _, issues_of State.reset (show clearOf (.iadd mods false 20 4 10) (laneTeam [(4, 1), (10, 2)]) = true by decide +kernel)⟩

/-- A team whose one group stands whole at a collective. -/
def voteTeam : Team :=
  { team [{ regs := [(4, 1)] }, { regs := [(4, 0)] }, { regs := [(4, 1)] }, { exited := true }] with bundles := [] }

theorem test_collective_is_whole : ∀ i ∈ [Instr.vote mods 20 4 1, .lxch mods 20 4 10, .ball mods 20 4 0, .gred mods 20 4 false 0, .gscn mods 20 4 true 0],
    clearOf i (voteTeam) = true ∧ (issOn i (voteTeam)).Whole i 0 := by
  intro i hi
  fin_cases hi <;> refine ⟨by decide +kernel, by decide, ?_, by decide +kernel⟩ <;> intro t <;>
    simp only [issOn, bundleAt, voteTeam, team, List.mem_range, List.length_cons, List.length_nil] <;> constructor
  all_goals first
    | (intro h; have : t = 0 ∨ t = 1 ∨ t = 2 := by omega
       rcases this with rfl | rfl | rfl <;> decide)
    | (rintro ⟨_, h, he⟩; have : t = 0 ∨ t = 1 ∨ t = 2 ∨ t = 3 := by omega
       rcases this with rfl | rfl | rfl | rfl <;> first | omega | exact absurd he (by decide))

/-- VSHRK: every register it names lies below the count it shrinks to. -/
theorem test_shrink_hypotheses :
    let i := Instr.vshrk mods 20 40
    clearOf i plainTeam = true ∧ (∀ t ∈ (issOn i plainTeam).judged (formOf i), ∀ o ∈ (formOf i).operands, o.reg.toNat + o.cnt ≤ 40)
      ∧ ∀ t ∈ (issOn i plainTeam).passing (formOf i).m, t / 32 < plainTeam.groups.length := by decide +kernel

/-- Encoding and decoding: a lane word with a prefix, an M-word, and words the decoder accepts. -/
theorem test_encoding_hypotheses :
    (modsOf (.imul { mods with c := 9, ty := 8, g := 4, gn := true } false 3 1 2)).isSome = true
    ∧ wf (.imul { mods with c := 9, ty := 8, g := 4, gn := true } false 3 1 2) = false
    ∧ wf (.imad { mods with c := 9, ty := 8, g := 4, gn := true } false 3 1 2) = true
    ∧ isMword (.mma 8 12 2 1 3 false false) = true ∧ wf (.mma 8 12 2 1 3 false false) = true := by decide +kernel

/-- The invariants hold at reset, and in a state with memory, a team, a grid and registers listed. -/
theorem test_invariants_hold :
    State.reset.memOk = true ∧ State.reset.spadsOk = true ∧ State.reset.ordered
    ∧ let s := tabled (withTeam { laneTeam [(4, 1), (10, 2)] with bundles := [] })
      s.memOk = true ∧ s.spadsOk = true ∧ s.ordered ∧ s.mem ≠ [] := by decide +kernel

end Whole

/-! #### Issue faults -/

namespace IssueFaults

/-- What the statement on issue faults asks of every word. -/
def common (s : State) (i : Instr) (x : Iss) (f : Form) (t : Nat) (rest : List Nat) : Prop :=
  s.iss = some x ∧ form i = some f ∧ x.b.issued = false ∧ x.tm.freezing = none ∧ x.tm.frozen = none
    ∧ (∀ w ∈ x.b.threads, w < x.tm.threads.length) ∧ x.judged f = t :: rest ∧ s.Parking (s.teamCtx x.tm)

def add : Instr := .iadd mods false 20 4 10
def at_ (th : Thread) : Team := team [th, {}, {}, {}]
def st (i : Instr) (th : Thread) : State := onLane i (at_ th) (quietErr (withTeam plainTeam))

theorem common_of {i : Instr} {th : Thread} (h : (form i).isSome = true) (hj : (issOn i (at_ th)).judged (formOf i) = [0, 1, 2]) :
    common (st i th) i (issOn i (at_ th)) (formOf i) 0 [1, 2] := by
  obtain ⟨f, hf⟩ := Option.isSome_iff_exists.mp h
  refine ⟨rfl, by simp [formOf, hf], rfl, rfl, rfl, ?_, hj, ?_⟩
  · intro w hw
    simp only [issOn, bundleAt, at_, team, List.mem_range, List.length_cons, List.length_nil] at hw ⊢
    omega
  · exact parking_all _ (show ∀ p ∈ (quietErr (withTeam plainTeam)).csr, _ by decide) (show (quietErr (withTeam plainTeam)).rbits (kEr 0x0C) 15 0 = 0 by decide) rfl _

/-- Register 100 of 64; a flag at 15; a pending register; a poisoned source. -/
theorem test_hypotheses_of_issue_faults_take_a_trap :
    (let i := Instr.iadd mods false 20 100 10;
      common (st i {}) i (issOn i (at_ {})) (formOf i) 0 [1, 2]
      ∧ ∃ pre o post, (formOf i).operands = pre ++ o :: post ∧ (∀ p ∈ pre, p.reg.toNat + p.cnt ≤ (issOn i (at_ {})).tm.n 0)
        ∧ ¬ o.reg.toNat + o.cnt ≤ (issOn i (at_ {})).tm.n 0)
    ∧ (let i := Instr.ld mods false false 20 4 0;
      let th : Thread := { flags := 15 };
      common (st i th) i (issOn i (at_ th)) (formOf i) 0 [1, 2]
      ∧ (∀ o ∈ (formOf i).operands, o.reg.toNat + o.cnt ≤ (issOn i (at_ th)).tm.n 0) ∧ (issOn i (at_ th)).flagNo (formOf i) = some 0 ∧ th.flag 0 = 15)
    ∧ (let th : Thread := { pend := [(10, 2)], flags := 256 };
      common (st add th) add (issOn add (at_ th)) (formOf add) 0 [1, 2]
      ∧ (∀ o ∈ (formOf add).operands, o.reg.toNat + o.cnt ≤ (issOn add (at_ th)).tm.n 0) ∧ (issOn add (at_ th)).flagNo (formOf add) = none
      ∧ ∃ pre post, (formOf add).operands.flatMap Opnd.regs = pre ++ 10 :: post ∧ (∀ r ∈ pre, ∀ p ∈ th.pend, p.1 ≠ r))
    ∧ (let th : Thread := { poison := [10] };
      common (st add th) add (issOn add (at_ th)) (formOf add) 0 [1, 2]
      ∧ (∀ o ∈ (formOf add).operands, o.reg.toNat + o.cnt ≤ (issOn add (at_ th)).tm.n 0) ∧ (issOn add (at_ th)).flagNo (formOf add) = none
      ∧ ∃ pre post, ((formOf add).operands.filter fun o => !o.wr).flatMap Opnd.regs = pre ++ 10 :: post ∧ (∀ r ∈ pre, r ∉ th.poison)) := by
  refine ⟨⟨common_of (by decide +kernel) (by decide +kernel), [⟨20, 1, 1, true⟩], ⟨100, 1, 1, false⟩, [⟨10, 1, 1, false⟩], by decide +kernel, by decide +kernel,
      by decide +kernel⟩,
    ⟨common_of (by decide +kernel) (by decide +kernel), by decide +kernel, by decide +kernel, by decide +kernel⟩,
    ⟨common_of (by decide +kernel) (by decide +kernel), by decide +kernel, by decide +kernel, [20, 4], [], by decide +kernel, by decide +kernel⟩,
    ⟨common_of (by decide +kernel) (by decide +kernel), by decide +kernel, by decide +kernel, [4], [], by decide +kernel, by decide +kernel⟩⟩

end IssueFaults

/-! #### The turn a step takes -/

namespace Turns

def nop : Instr := .nop mods
def laneTurn : State := { onLane nop (laneTeam []) laneState with cur := none, agenda := [.issue 0 0, .tick] }
def laneTm : Team := (laneTurn.team? 0).getD plainTeam
def streamTm (w : Option Word) : Team := { laneTeam [] with engine := some {}, stream := { run := true, pos := 0x100, ir := w } }
def streamTurn (w : Option Word) : State := { onStream (streamTm w) laneState with cur := none, agenda := [.stream 0] }

theorem test_hypotheses_of_the_turns :
    ((∀ p ∈ laneTurn.dir, p.2.waiting = []) ∧ laneTurn.agenda = [.issue 0 0, .tick] ∧ laneTurn.alive = true ∧ laneTurn.team? 0 = some laneTm
      ∧ laneTm.place = .core 1 ∧ laneTm.bundles[0]? = some (bundleAt nop (laneTeam [])) ∧ laneTm.mayIssue (bundleAt nop (laneTeam [])) = true
      ∧ (bundleAt nop (laneTeam [])).clause = some (oneWord nop) ∧ (oneWord nop).slots[0]? = some ⟨1, nop⟩ ∧ (modsOf nop).isSome = true)
    ∧ (let w : Word := encWord .mnop;
      (∀ p ∈ (streamTurn (some w)).dir, p.2.waiting = []) ∧ (streamTurn (some w)).alive = true ∧ (streamTurn (some w)).team? 0 = some (streamTm (some w))
      ∧ (streamTm (some w)).streams = true ∧ (streamTm (some w)).stream.ir = some w ∧ decodeM w = .ok .mnop)
    ∧ (let s := streamTurn none;
      let u : State := { s with cyc := s.cyc + 1, cur := none, agenda := [] };
      let bs : List Byte := wordsBytes [encWord .mnop];
      let u' : State := { u with mem := u.mem.putList 0x100 bs }
      (streamTm none).streams = true ∧ (streamTm none).stream.ir = none ∧ (streamTm none).stream.pos < 2 ^ 52
      ∧ (u'.colRead 0 (u'.teamCtx (streamTm none)) kStream (u'.teamPriv (streamTm none)) 0x100 4).2 = .ok bs
      ∧ (u'.colRead 0 (u'.teamCtx (streamTm none)) kStream (u'.teamPriv (streamTm none)) 0x100 4).1.team? 0 = some (streamTm none)
      ∧ decodeM (BitVec.ofNat 32 (leNat bs)) = .ok .mnop)
    ∧ isEvent (.sleepExpiry 0 0 0) = true := by
  refine ⟨?_, ?_, ?_, ?_⟩ <;> decide +kernel

end Turns

/-! #### What becomes of an access -/

namespace Performed

def acc (k : AccKind) (scope : Nat) (state : AccState := .sent) : Access :=
  { id := 1, kind := k, va := 0x2008, size := 4, ty := 7, scope, dests := [{ thread := 0, reg := 4, cnt := 1, flag := some 0 }], state }
def tm (a : Access) : Team := { laneTeam [] with accesses := [a] }
def st (a : Access) (w : List HomeWrite := []) : State :=
  { laneState with teams := [(0, tm a)], dir := if w = [] then [] else [(64, { waiting := w })] }

/-- The access is one that may reach its home, at key 0x2008. -/
abbrev arrives (a : Access) : Prop :=
  let s := st a
  s.team? 0 = some (tm a) ∧ (s.col 0).orphans.find? (fun o => o.acc.id == 1) = none
    ∧ (tm a).accesses.find? (fun a => a.id == 1 && a.kind != .gather) = some a ∧ s.mayPerform 0 (tm a) a = true ∧ (tm a).lanesOf a = [a]
    ∧ s.gated (tm a) a = false
    ∧ s.xlate (some 0) (s.teamCtx (tm a)) a.part.va a.kind.code (a.kind.code != kLoad) (s.teamPriv (tm a)) (a.scope == 3) = (s, .ok (.hbm 0x2008))
    ∧ s.lineHeld 64 = false ∧ s.isPoison 64 = false ∧ (s.home 64).waiting = [] ∧ (s.cline 0 64).dirty = []
    ∧ ∀ i, i < a.part.size → s.ownByte 0 (0x2008 + i) = none

/-- One write waits at the line, and its time has come. -/
abbrev applies (a : Access) (w : HomeWrite) : Prop :=
  let s := st a [w]
  (s.home 64).waiting = [w] ∧ (s.home 64).owner = none ∧ w.t ≤ s.dt ∧ s.memOk = true ∧ w.team = some 0 ∧ w.access = some 1
    ∧ (tm a).accesses.find? (fun a => a.id == 1) = some a ∧ s.isPoison 64 = false

/-- A value is ready for its registers. -/
abbrev delivers (a : Access) : Prop :=
  (tm a).accesses.find? (fun a => a.id == 1 && a.state == .ready) = some a ∧ a.routed = false ∧ (a.forwarded = true → (tm a).layer?.isSome = true)
    ∧ a.t ≤ (st a).dt ∧ a.poison = false ∧ (a.dests.map Dest.thread).Nodup
    ∧ ∀ d ∈ a.dests, d.thread < (tm a).threads.length ∧ d.reg + d.cnt ≤ (tm a).n d.thread

theorem test_hypotheses_of_performed_accesses :
    (arrives (acc .load 0) ∧ arrives (acc .load 3) ∧ arrives (acc (.store 5) 3) ∧ arrives (acc (.atomic 0 8 1 0) 3) ∧ arrives (acc (.reduction 0 8 1) 3))
    ∧ applies (acc (.store 5) 3 .atHome) { t := 1, op := .write [(8, 5), (9, 0)], team := some 0, access := some 1 }
    ∧ applies (acc (.atomic 0 8 1 0) 3 .atHome) { t := 500, op := .atomic 124 4 0 8 1 0, team := some 0, access := some 1 }
    ∧ delivers (acc .load 0 .ready) ∧ delivers { acc (.atomic 0 8 1 0) 3 .ready with forwarded := true, t := 500 } := by
  refine ⟨⟨?_, ?_, ?_, ?_, ?_⟩, ?_, ?_, ?_, ?_⟩ <;> decide +kernel

theorem test_no_line_moves : ∀ l, ((st (acc .load 0)).home l).move = .unmoved := met (decMoves _) (by decide +kernel)

end Performed
/-! ### Ill-formed terms

One term, or word, for each check of the decoder and of `wf`, which the check refuses. -/

namespace IllFormed

def m0 (c : RegNo) : Mods := { c, ty := 0, xm := 0, sat := false, rm := 0, g := 127, gn := false }

/-- R425: field checks on instructions as syntax. A well-formed term stands beside them. -/
theorem test_ill_formed_words :
    wf (.iadd (m0 3) false 3 1 2) = true
    ∧ wf (.iadd { m0 3 with ty := 14 } false 3 1 2) = false
    ∧ wf (.iadd { m0 3 with xm := 1 } false 3 1 2) = false
    ∧ wf (.iadd { m0 3 with rm := 1 } false 3 1 2) = false
    ∧ wf (.iadd { m0 4 with ty := 0 } false 3 1 2) = false
    ∧ wf (.iadd { m0 3 with ty := 9, sat := true } false 3 1 2) = false
    ∧ wf (.iadd { m0 3 with gn := true } false 3 1 2) = false
    ∧ wf (.iadd { m0 3 with ty := 10 } false 3 2 4) = false
    ∧ wf (.mov { m0 4 with ty := 13 } false 4 6) = false
    ∧ wf (.iset { m0 3 with xm := 10 } false 3 1 2) = false
    ∧ wf (.fset { m0 3 with xm := 12 } false 3 1 2) = false
    ∧ wf (.bfn3 { m0 6 with ty := 2 } false 7 4 5) = false
    ∧ wf (.imadw (m0 3) false 4 1 2) = false
    ∧ wf (.iaddc { m0 5 with xm := 0 } false 4 1 2) = false
    ∧ wf (.cvt { m0 0 with ty := 12 } false 4 1) = false
    ∧ wf (.rzinit (m0 0) 4 24) = false
    ∧ wf (.vgrow (m0 4) 4 12) = false
    ∧ wf (.vshrk (m0 4) 4 136) = false
    ∧ wf (.srd (m0 4) 4 23) = false
    ∧ wf (.swr (m0 0) 4 1) = false := by decide +kernel

/-- R255, R429: reserved codes of the M-words. -/
theorem test_ill_formed_stream_words :
    wf (.mlda 1 false 6 false 0) = false ∧ wf (.mldb 1 0 false false 1 false 0) = false ∧ wf (.mma 1 1 0 3 1 false false) = false
    ∧ wf (.mma 1 1 0 0 8 false false) = false ∧ wf (.mstc 1 1 7 false false 0) = false ∧ wf (.mwtg 1 3 false 0) = false := by decide +kernel

/-- R425: each decode fault of a clause, by name. -/
theorem test_each_decode_fault_has_a_word :
    decodeHeader 0 = .error .headerLen
    ∧ decodeHeader 0x00010001 = .error .headerReserved
    ∧ decodeHeader 0x0001E000 = .error .headerFlag
    ∧ decodeLane [0x30000000] = .error .fmt6
    ∧ decodeLane [0x07E00000] = .error .reservedCell
    ∧ decodeLane [0x38000000, 0x38000000] = .error .badPrefix
    ∧ decodeInstr none (encWord (.bra (m0 0) 1)) false true true = .error .transferNotLast
    ∧ decodeInstr none (encWord (.fence (m0 0) 0 2)) false true true = .error .holdNotLast
    ∧ decodeLane [0x01400001] = .error .unusedField
    ∧ decodeLane [0x383810FE, 0x0000C082] = .error .prefixField
    ∧ decodeLane [0x383700FE, 0x0000C082] = .error .badType
    ∧ decodeLane [0x383050FE, 0x0300C082] = .error .reservedCode
    ∧ decodeLane [0x383000FF, 0x0000C082] = .error .guardField
    ∧ decodeLane [0x383500FE, 0x0000C082] = .error .registerAlign
    ∧ decodeInstr none (encWord (.ld (m0 4) false true 4 6 0)) true true false = .error .flagInvalid
    ∧ decodeLane [encWord (.rzinit (m0 0) 4 24)] = .error .badPoint
    ∧ decodeLane [encWord (.vgrow (m0 4) 4 12)] = .error .badCount
    ∧ decodeLane [encWord (.srd (m0 4) 4 23)] = .error .badSelector
    ∧ decodeM 0x00000001 = .error .mwordReserved
    ∧ decodeM (encWord (.mma 1 1 0 3 1 false false)) = .error .mwordCode := by decide +kernel

/-- R13 to R17, R28, R46, R89, R392: a step of another agent whose numbers name no part of an S4, for each range. -/
theorem test_ill_formed_steps :
    wf (.sleepExpiry 47 31 1023) = true ∧ wf (.sleepExpiry 48 0 0) = false ∧ wf (.mxrelComplete 0 32) = false ∧ wf (.sleepExpiry 0 0 1024) = false
    ∧ wf (.vgrowGrant 0 0 32) = false ∧ wf (.layerGateRequest 0) = false ∧ wf (.layerGateRequest 5) = false ∧ wf (.batonExpiry 0 5) = false
    ∧ wf (.formationPoint 0 1 4) = false ∧ wf (.governorEvaluation 48) = false ∧ wf (.realignmentStart 0 4 0) = false ∧ wf (.realignmentStart 0 0 2) = false
    ∧ wf (.stopClear 9 0 0) = false ∧ wf (.stopClear 0 256 0) = false ∧ wf (.stopClear 0 0 64) = false ∧ wf (.cardIntake 0 0 65) = false
    ∧ wf (.teamPlacement 0 48) = false ∧ wf (.haltContext 9 0) = false ∧ wf (.translationControlWrite 0 0 32 0) = false
    ∧ wf (.faultBlockConfigWrite 0 0 64 0) = false ∧ wf (.eventQueueControlWrite 0 32 0) = false ∧ wf (.pageTableWalk 0 0 0 (2 ^ 52)) = false
    ∧ wf (.peerMoveAttempt 0 0 0 ⟨64, true⟩) = false ∧ wf (.peerRouteLost 64) = false ∧ wf (.hostInboundAccess 0 0 (2 ^ 28) ⟨false, false, false⟩ []) = false
    ∧ wf (.csplanWrite 8 0) = false ∧ wf (.hbmScrub 8 0 0 false) = false ∧ wf (.hbmScrub 0 32 0 false) = false ∧ wf (.hbmRefreshWindow 8) = false
    ∧ wf (.frequencyChangeComplete 4) = false ∧ wf (.regulatorSelectWrite 3 0) = false ∧ wf (.correctedError 10) = false ∧ wf (.deviceReset 8) = false
    ∧ wf (.registerWrite 0 1 0 0) = false ∧ wf (.registerWrite 0 0 (2 ^ 22) 0) = false := by decide +kernel

end IllFormed

/-! ### Words written out

Words of the spec's opcode maps (R239, R247 to R254), and those its worked examples print, with the instruction each stands for. -/

namespace Words

def m0 (c : RegNo) : Mods := { c, ty := 0, xm := 0, sat := false, rm := 0, g := 127, gn := false }

/-- R247 to R249: format, opcode and fields bit by bit, with the operands v3, v1, v2 where there are three. -/
theorem test_lane_words_decode :
    decodeLane [0b00000000000000001100000010000010] = .ok (.iadd (m0 3) false 3 1 2)
    ∧ decodeLane [0b00000001110000001100000010000010] = .ok (.sar (m0 3) false 3 1 2)
    ∧ decodeLane [0b00000010010000001100000010000010] = .ok (.and (m0 3) false 3 1 2)
    ∧ decodeLane [0b00000100000000001100000010000010] = .ok (.fadd (m0 3) false 3 1 2)
    ∧ decodeLane [0b00000110011000001100000010000010] = .ok (.pkadd (m0 3) false 3 1 2)
    ∧ decodeLane [0b00000111010000001100000010000000] = .ok (.cvt (m0 0) false 3 1)
    ∧ decodeLane [0b00000011111000001100000010000010] = .ok (.lxch (m0 3) 3 1 2)
    ∧ decodeLane [0b00001000000000110000001111111111] = .ok (.iaddi (m0 3) false 3 1 0x1FF)
    ∧ decodeLane [0b00001110000000110000001000000001] = .ok (.vote (m0 3) 3 1 1)
    ∧ decodeLane [0b00001111100000110000001000001000] = .ok (.gscn (m0 3) 3 1 true 0)
    ∧ decodeLane [0b00010000000000111111111111111110] = .ok (.movi (m0 3) false 3 0xFFFE)
    ∧ decodeLane [0b01000010010000001100000010000010] = .ok (.and (m0 3) true 3 1 2) := by decide +kernel

/-- R250 to R252: memory, engine, branch, uniform and control words. -/
theorem test_other_words_decode :
    decodeLane [0b00011000001000001100000100000101] = .ok (.ld (m0 3) false true 3 2 5)
    ∧ decodeLane [0b00011000010000001100000100000101] = .ok (.st (m0 3) 3 2 5)
    ∧ decodeLane [0b00011001100000111000000000000000] = .ok (.fence (m0 14) 3 2)
    ∧ decodeLane [0b00100000000000001100000100000001] = .ok (.atom (m0 3) false 3 2 1)
    ∧ decodeLane [0b00100000111000011000000100001000] = .ok (.cpy (m0 6) true 6 2 8)
    ∧ decodeLane [0b00101000000000010000000000000010] = .ok (.brl (m0 0) 1 2)
    ∧ decodeLane [0b10000000000000001100000010000010] = .ok (.uadd (m0 3) 3 1 2)
    ∧ decodeLane [0b10010000000000111111111111111110] = .ok (.umovi (m0 3) 3 0xFFFE)
    ∧ decodeLane [0b11000000010000000000000000000000] = .ok (.exit (m0 0))
    ∧ decodeLane [0b11001001100000110000000000000011] = .ok (.rzarw (m0 3) 3 3)
    ∧ decodeLane [0b11001100000001000000000000000001] = .ok (.srd (m0 4) 4 1)
    ∧ decodeLane [0b11101000000000001111111111111111] = .ok (.bra (m0 0) 0xFFFF)
    ∧ decodeM 0b00000000000000000000000000000000 = .ok .mnop
    ∧ decodeM 0x10004530 = .ok (.mma 0 4 1 1 3 false false)
    ∧ decodeM 0b00001100000100000100001100000000 = .ok (.mldb 4 1 false false 3 false 0)
    ∧ decodeM 0b00101100010000000000000001001101 = .ok (.mset 1 77) := by decide +kernel

/-- The prefixed words of the chapters' examples: a carry chain (R288), BFN3 (R294), FSET (R308), CVPK (R319), and `atom.exch` and `atom.fmax` (R338). -/
theorem test_printed_words_decode :
    decodeLane [0x389008FE, 0x00228083] = .ok (.iaddc { m0 9 with xm := 1 } false 10 1 3)
    ∧ decodeLane [0x386096FE, 0x0221C205] = .ok (.bfn3 { m0 6 with ty := 1, xm := 2, sat := true, rm := 2 } false 7 4 5)
    ∧ decodeLane [0x383010FE, 0x04C0C082] = .ok (.fset { m0 3 with xm := 2 } false 3 1 2)
    ∧ decodeLane [0x389920FE, 0x07620200] = .ok (.cvpk { m0 9 with ty := 18, xm := 4 } false 8 4)
    ∧ decodeLane [0x0F860A08] = .ok (.gscn (m0 6) 6 5 true 0)
    ∧ decodeLane [0x20020206] = .ok (.atom (m0 8) false 8 4 6)
    ∧ decodeLane [0x388006FE, 0x20020206] = .ok (.atom { m0 8 with sat := true, rm := 2 } false 8 4 6)
    ∧ decodeLane [0x388702FE, 0x20020206] = .ok (.atom { m0 8 with ty := 14, rm := 2 } false 8 4 6)
    ∧ decodeHeader 0x00040000 = .ok { wait := 0, len := 4, av := false, af := 0, bv := false, bf := 0, yld := false } := by decide +kernel

end Words

/-! ### Values

Words and operands of the chapters' worked examples, with the results they print. The word runs once, in thread 0 of a small team. -/

namespace Values

/-- Thread 0 after the word: `none` where the word does not decode or takes no next state. -/
def thread (ws : List Word) (regs : List (Nat × Word)) : Option Thread :=
  match decodeLane ws with
  | .ok i =>
    match exec i (onLane i (laneTeam regs) laneState) with
    | .next t => (t.team? 0).map fun tm => tm.thread 0
    | _ => none
  | .error _ => none

/-- Register `r` and the status word after the word. -/
def val (ws : List Word) (regs : List (Nat × Word)) (r : Nat) : Option (Word × Word) := (thread ws regs).map fun th => (th.get r, th.status)

/-- The prefix that carries a type, modifier bits, `.sat` and a rounding mode with c. -/
def pfx (c : RegNo) (ty xm : Nat) (sat : Bool := false) (rm : Nat := 0) : Word :=
  7#5 ++ c ++ BitVec.ofNat 5 ty ++ BitVec.ofNat 4 xm ++ BitVec.ofBool sat ++ BitVec.ofNat 2 rm ++ 127#7 ++ 0#1

/-- R288: a 64-bit add by carry chain. -/
theorem test_carry_chain :
    val [0x00220002] [(0, 0xFFFFFFFF), (2, 1)] 8 = some (0, 0) ∧ val [0x00220002] [(0, 0xFFFFFFFF), (2, 1)] 9 = some (1, 0)
    ∧ val [0x389008FE, 0x00228083] [(1, 1), (3, 2), (9, 1)] 10 = some (4, 0) ∧ val [0x389008FE, 0x00228083] [(1, 1), (3, 2), (9, 1)] 11 = some (0, 0) := by
  decide +kernel

/-- The edges of the integer forms (the table after R301). -/
theorem test_integer_edges :
    val [0x01C04103] [(2, 0x80000000), (3, 40)] 1 = some (0xFFFFFFFF, 0)
    ∧ val [0x01804103] [(2, 1), (3, 32)] 1 = some (0, 0)
    ∧ val [pfx 1 0 0 true, 0x01404100] [(2, 0x80000000)] 1 = some (0x7FFFFFFF, 0x20)
    ∧ val [0x00804103] [(2, 0xFFFFFFFF), (3, 0xFFFFFFFF)] 1 = some (0, 0)
    ∧ val [pfx 1 8 0, 0x00804103] [(2, 0xFFFFFFFF), (3, 0xFFFFFFFF)] 1 = some (0xFFFFFFFE, 0)
    ∧ val [pfx 1 8 0 true, 0x00004103] [(2, 0xFFFFFFF0), (3, 0x20)] 1 = some (0xFFFFFFFF, 0x20)
    ∧ val [0x02A04103] [(2, 0xF00), (3, 0x408)] 1 = some (0xFFFFFFFF, 0)
    ∧ val [pfx 1 8 0, 0x02A04103] [(2, 0xF00), (3, 0x408)] 1 = some (0xF, 0)
    ∧ val [0x02A04103] [(2, 0xF0000000), (3, 0x81C)] 1 = some (0xFFFFFFFF, 0) := by decide +kernel

/-- R292, R294, R297, R301: funnel shifts, BFN3 of the three constants, bytes, and dot products. -/
theorem test_three_source_forms :
    val [pfx 4 0 0, 0x01E04103] [(2, 0x12345678), (3, 0x9ABCDEF0), (4, 8)] 1 = some (0x3456789A, 0)
    ∧ val [pfx 4 0 0, 0x02004103] [(2, 0x12345678), (3, 0x9ABCDEF0), (4, 8)] 1 = some (0x789ABCDE, 0)
    ∧ val [0x386096FE, 0x0221C205] [(4, 0xAA), (5, 0xCC), (6, 0xF0)] 7 = some (0x96, 0)
    ∧ val [0x3860E8FE, 0x02220205] [(4, 0xAA), (5, 0xCC), (6, 0xF0)] 8 = some (0xE8, 0)
    ∧ val [pfx 4 0 0, 0x02E04103] [(2, 0x44332211), (3, 0x88776655), (4, 0x000407F8)] 1 = some (0x44FF8811, 0)
    ∧ val [0x03A04103] [(1, 10), (2, 0xFF020381), (3, 0x01040502)] 1 = some (0xFFFFFF22, 0)
    ∧ val [pfx 1 0 1, 0x03A04103] [(1, 10), (2, 0xFF020381), (3, 0x01040502)] 1 = some (0x222, 0) := by decide +kernel

/-- R284: ULEA with a signed and an unsigned offset. -/
theorem test_ulea :
    val [pfx 10 0 3, 0x81628502] [(2, 0xFFFFFFFF), (10, 0x1000)] 10 = some (0xFF8, 0)
    ∧ val [pfx 10 0 3, 0x81628502] [(2, 0xFFFFFFFF), (10, 0x1000)] 11 = some (0, 0)
    ∧ val [pfx 10 0 11, 0x81628502] [(2, 0xFFFFFFFF), (10, 0x1000)] 11 = some (8, 0) := by decide +kernel

/-- R308, and the edges of the floating forms (the table after R321). -/
theorem test_float_edges :
    val [0x383010FE, 0x04C0C082] [(1, 0x7FC00000), (2, 0x3F800000)] 3 = some (0, 1)
    ∧ val [0x383030FE, 0x04C0C082] [(1, 0x7FC00000), (2, 0x3F800000)] 3 = some (0, 0)
    ∧ val [0x04804103] [(2, 0x80000000)] 1 = some (0x80000000, 0)
    ∧ val [0x04A04103] [(2, 0x7F800001), (3, 0x40400000)] 1 = some (0x40400000, 1)
    ∧ val [0x04004103] [(2, 0x7F800000), (3, 0xFF800000)] 1 = some (0x7FC00000, 1)
    ∧ val [pfx 1 0 0 false 3, 0x04004103] [(2, 0x3F800000), (3, 0xBF800000)] 1 = some (0x80000000, 0)
    ∧ val [0x04404103] [(2, 0x0D800000), (3, 0x0D800000)] 1 = some (0, 0x18)
    ∧ val [0x05404103] [(2, 0x3FC00000), (3, 0xFFFFFF7E)] 1 = some (0x000C0000, 0) := by decide +kernel

/-- Rounding, classes and roots (R310 to R315). -/
theorem test_float_unary :
    val [0x05004100] [(2, 0x40200000)] 1 = some (0x40000000, 0)
    ∧ val [pfx 1 0 1, 0x05004100] [(2, 0x40200000)] 1 = some (0x40000000, 0x10)
    ∧ val [0x05204100] [(2, 0xBFA00000)] 1 = some (0xBE800000, 0)
    ∧ val [0x05604100] [(2, 1)] 1 = some (0xFFFFFF6B, 0)
    ∧ val [pfx 1 0 1, 0x05604100] [(2, 1)] 1 = some (0x3F800000, 0)
    ∧ val [0x0D810400] [(2, 0xFF800000)] 1 = some (4, 0)
    ∧ val [pfx 1 0 0 false 2, 0x05C04100] [(2, 0x40000000)] 1 = some (0x3FB504F4, 0x10)
    ∧ val [0x05C04100] [(2, 0x40000000)] 1 = some (0x3FB504F3, 0x10)
    ∧ val [0x05804100] [(2, 0x00400000)] 1 = some (0x7F000000, 0)
    ∧ val [0x05804100] [(2, 0x00200000)] 1 = some (0x7F800000, 0x14) := by decide +kernel

/-- R316 to R320: packed adds and conversions. -/
theorem test_packed_and_conversions :
    val [0x0660C082] [(1, 0x3C003C00), (2, 0x3C007BFF)] 3 = some (0x40007BFF, 0x10)
    ∧ val [pfx 3 0 1, 0x0660C082] [(1, 0x3C003C00), (2, 0x3C007BFF)] 3 = some (0x7BFF7BFF, 0x10)
    ∧ val [pfx 3 0 2, 0x0660C082] [(1, 0x3C003C00), (2, 0x3C007BFF)] 3 = some (0x40004000, 0)
    ∧ val [pfx 3 0 0 false 2, 0x0660C082] [(1, 0x3C003C00), (2, 0x3C007BFF)] 3 = some (0x40007C00, 0x14)
    ∧ val [pfx 14 7 0, 0x07404100] [(2, 0xC0200000)] 1 = some (0xFFFFFFFE, 0x10)
    ∧ val [pfx 7 18 0, 0x07404100] [(2, 1000)] 1 = some (0x7F, 0x14)
    ∧ val [pfx 18 14 0, 0x07404100] [(2, 0x80)] 1 = some (0x7FC00000, 0)
    ∧ val [0x388900FE, 0x07620200] [(4, 0x3F800000), (5, 0xC0200000), (6, 0x43FA0000), (7, 0x7FC00000)] 8 = some (0x807FC238, 0x14)
    ∧ val [0x389920FE, 0x07620200] [(4, 0x3F800000), (5, 0xC0200000), (6, 0x43FA0000), (7, 0x7FC00000), (9, 1)] 8 = some (0x8078BA30, 0x10) := by
  decide +kernel

end Values

/-! ### Clauses whose hypotheses speak of every context, and of a waiting thread -/

namespace More

/-- An access of a team waits for device 2, whose route has been lost for longer than the link's limit. -/
theorem test_hypotheses_of_a_lost_route :
    MetE (fun h : Obligations.LinksServeTheirPartners => (h 2 3 0 0 0x2008 0x2008 0 0x2008 5 [] (by decide)).2.2.2.2.2.2.2.1 0 Links.tP Links.aP) Links.sPR := by
  refine ⟨by decide +kernel, by decide +kernel, ?_, by decide +kernel, by decide +kernel, by decide +kernel, by decide +kernel, by decide +kernel, by decide +kernel⟩
  exact parking_all _ (by decide +kernel) (by decide +kernel) rfl

/-- Thread 3 of the group has not reached the collective that threads 0 to 2 reach. -/
theorem test_hypotheses_of_a_collective_that_waits :
    MetW (fun h : Obligations.CollectivesWaitAndExchange => h.1 mods 20 4 10 1 false 0 (.vote mods 20 4 1) (by simp) 0 3) (laneTeam [(4, 1)]) laneState := by
  decide +kernel

/-- An access is the one of its team that is performed next, at the home of `key`. -/
def performs (tm : Team) (a : Access) (key : Nat) (s : State) : Prop :=
  let u := s.demand 0 tm.outPath
  s.team? (teamKey 0 0) = some tm ∧ (s.col 0).orphans.find? (fun o => o.acc.id == a.id) = none
  ∧ tm.accesses.find? (fun b => b.id == a.id && b.kind != .gather) = some a ∧ s.mayPerform 0 tm a = true ∧ tm.lanesOf a = [a] ∧ s.gated tm a = false
  ∧ s.pathHeld 0 tm.outPath true = false
  ∧ u.xlate (some 0) (u.teamCtx tm) a.part.va a.kind.code (a.kind.code != kLoad) (u.teamPriv tm) (a.scope == 3) = (u, .ok (.hbm key))
  ∧ s.lineOf (key / 128) = key / 128 ∧ s.lineHeld (key / 128) = false ∧ s.isPoison (key / 128) = false
def acc (kind : AccKind) (size scope : Nat) : Access :=
  { id := 1, kind, va := 0x2010, size, ty := 0, scope, dests := [{ thread := 0, reg := 20, cnt := 1, flag := some 4 }], state := .sent }
def tA (a : Access) : Team := { laneTeam [] with accesses := [a] }
def sA (a : Access) : State := { laneState with teams := [(0, tA a)] }

/-- A load, in one part and in two, a store and an atomic at the home. -/
theorem test_hypotheses_of_performed_accesses :
    (∀ a ∈ [acc .load 4 0, acc .load 16 1, acc .load 16 3, acc (.store 9) 4 3, acc (.store 9) 16 3, acc (.atomic 0 0 7 0) 4 0, acc (.reduction 0 0 7) 4 1],
      performs (tA a) a 0x2010 (sA a) ∧ ((sA a).home (0x2010 / 128)).waiting = [] ∧ ((sA a).cline 0 (0x2010 / 128)).dirty = []
      ∧ ∀ i, i < 16 → (sA a).ownByte 0 (0x2010 + i) = none) := by
  unfold performs
  decide +kernel

/-- The time of a write, and of an atomic, has come at the home of its line. -/
def sW (op : HomeOp) : State :=
  { sA (acc (.atomic 0 0 7 0) 4 0) with dir := [(0x40, { waiting := [{ t := 5, op, team := some (teamKey 0 0), access := some 1 }] })] }
theorem test_hypotheses_of_writes_applied_at_the_home :
    (∀ op ∈ [HomeOp.write [(16, 1), (17, 2)], .atomic 16 4 0 0 7 0],
      ((sW op).home 0x40).waiting = [{ t := 5, op, team := some (teamKey 0 0), access := some 1 }] ∧ ((sW op).home 0x40).owner = none ∧ 5 ≤ (sW op).dt
      ∧ (sW op).memOk = true ∧ (∀ l, ((sW op).home l).move = .unmoved) ∧ (sW op).isPoison 0x40 = false ∧ (sW op).team? (teamKey 0 0) = some (tA (acc (.atomic 0 0 7 0) 4 0)))
    ∧ (tA (acc (.atomic 0 0 7 0) 4 0)).accesses.find? (fun a => a.id == 1) = some (acc (.atomic 0 0 7 0) 4 0) := by
  refine met (let _ := @decMoves; inferInstance) ?_
  decide +kernel

/-- A load that has been performed comes back to its thread. -/
def aR : Access := { acc .load 4 0 with state := .ready, value := 77, t := 5 }
theorem test_hypotheses_of_a_result_delivered :
    (tA aR).accesses.find? (fun a => a.id == 1 && a.state == .ready) = some aR ∧ (sA aR).pathHeld 0 (tA aR).backPath true = false ∧ aR.routed = false
    ∧ aR.forwarded = false ∧ aR.t ≤ (sA aR).dt ∧ aR.poison = false ∧ (aR.dests.map Dest.thread).Nodup
    ∧ ∀ d ∈ aR.dests, d.thread < (tA aR).threads.length ∧ d.reg + d.cnt ≤ (tA aR).n d.thread := by
  decide +kernel

end More

/-! ### A checkpoint's target list

The list lies in host memory, whose bytes are free: the hypotheses are met when the host holds one target that covers the image. -/

namespace Checkpoint

theorem test_hypotheses_of_a_checkpoint (h : (State.reset.rwrite (kCkpt 8) 1).outsideBytes 0 32 = wordsBytes [0, 0x5000, 0, 0, 0, 0x60, 0, 0]) :
    MetE (fun h : Obligations.ManagementWords => ((h 0 0 3 1 (by decide) (by decide) (by decide)).1 (by decide)).1 [(none, 0x5000, 0x6000000000)]) State.reset := by
  refine ⟨by decide +kernel, ?_, by decide +kernel⟩
  unfold State.targetList
  have hb : (State.reset.rwrite (kCkpt 8) 1).rbits (kCkpt 0) 31 5 * 32 + 2 ^ 32 * (State.reset.rwrite (kCkpt 8) 1).rbits (kCkpt 4) 31 0 = 0 := by decide +kernel
  have hn : (State.reset.rwrite (kCkpt 8) 1).rbits (kCkpt 8) 7 4 = 0 := by decide +kernel
  rw [hb, hn]
  simp only [List.range_succ, List.range_zero, List.nil_append, List.map_cons, List.map_nil, Nat.mul_zero, Nat.add_zero, h]
  decide +kernel

end Checkpoint

end Sys2Proof.Tests
end

section
/-! SUPPORT. What every step keeps of the canonical forms (R10, R131, R137): memory, the base-scratchpad windows and the scratchpads of the teams.

The idea: few functions of the model write these three maps, and each writes through `put`, `putList`, a filter or an empty map, which keep the canonical form.
`State.Keeps s₀ t` says that `t` has the canonical forms that `s₀` has; it is stated against a fixed first state so that it goes along with a state through the
model's functions by one lemma for each function, whatever hypothesis about `s₀` is at hand. Those lemmas stand in the model's order, file by file. A function
that writes none of the three maps keeps them by the definition of `Keeps` alone (`:= h`). -/

namespace Sys2Proof.Machine

-- One proof after another: side by side they take more threads, and so more stack, than the check's memory limit allows.
set_option Elab.async false

/-- `t` has the canonical forms that `s₀` has. -/
def State.Keeps (s₀ t : State) : Prop :=
  (s₀.memOk = true → t.mem.wf = true ∧ t.win.wf = true) ∧ (s₀.spadsOk = true → ∀ p ∈ t.teams, p.2.spad.wf = true)

/-- The scratchpad of a team is canonical where those of `s₀` are. -/
def State.SpadOk (s₀ : State) (tm : Team) : Prop := s₀.spadsOk = true → tm.spad.wf = true

/-- `State.Keeps` of the state an outcome goes on with, if it does. -/
def State.KeepsOut (s₀ : State) (o : Host.Outcome State Fault Refusal) : Prop := ∀ t, o = .next t → s₀.Keeps t

/-- `State.Keeps` of the state an option holds, if it does. -/
def State.KeepsOpt (s₀ : State) (o : Option State) : Prop := ∀ t, o = some t → s₀.Keeps t

variable {s₀ s t : State} {α β : Type} {tm : Team}

/-! ### Sorted maps -/

theorem mem_of_sfind {l : List (Nat × α)} {k : Nat} {a : α} (e : sfind l k = some a) : (k, a) ∈ l := by
  induction l with
  | nil => simp [sfind] at e
  | cons p l ih =>
    obtain ⟨j, v⟩ := p
    simp only [sfind] at e
    split at e
    · simp_all
    · split at e
      · simp at e
      · exact .tail _ (ih e)

theorem mem_sins {l : List (Nat × α)} {k : Nat} {a : α} {p : Nat × α} (e : p ∈ sins l k a) : p = (k, a) ∨ p ∈ l := by
  induction l with
  | nil => simpa [sins] using e
  | cons q l ih =>
    obtain ⟨j, v⟩ := q
    simp only [sins] at e
    split at e
    · grind
    · split at e <;> grind

theorem mem_of_sdel {l : List (Nat × α)} {k : Nat} {p : Nat × α} (e : p ∈ sdel l k) : p ∈ l := by
  induction l with
  | nil => simp [sdel] at e
  | cons q l ih =>
    obtain ⟨j, v⟩ := q
    simp only [sdel] at e
    split at e
    · grind
    · split at e <;> grind

theorem sok_filter {p : Nat → α → Bool} {f : Nat × α → Bool} {l : List (Nat × α)} {b : Option Nat} (h : sok p b l = true) :
    sok p b (l.filter f) = true := by
  induction l generalizing b with
  | nil => exact h
  | cons q l ih =>
    obtain ⟨j, v⟩ := q
    simp only [sok, Bool.and_eq_true] at h
    obtain ⟨⟨hj, hv⟩, ht⟩ := h
    rw [List.filter_cons]
    split
    · simp [sok, hj, hv, ih ht]
    · cases b with
      | none => exact ih (sok_none ht)
      | some b => exact ih (sok_weaken ht (by simpa using Nat.le_of_lt (of_decide_eq_true hj)))

/-! ### Outcomes, options, pairs, cases and folds -/

theorem State.Keeps.refl : s.Keeps s := ⟨fun h => by simpa [memOk] using h, fun h => by simpa [spadsOk] using h⟩

theorem State.KeepsOut.next (h : s₀.Keeps t) : s₀.KeepsOut (.next t) := by
  rintro _ ⟨⟩
  exact h

theorem State.KeepsOpt.some (h : s₀.Keeps t) : s₀.KeepsOpt (some t) := by
  rintro _ ⟨⟩
  exact h

theorem State.KeepsOut.fault {f} : s₀.KeepsOut (.fault f) := by
  rintro _ ⟨⟩

theorem State.KeepsOpt.none : s₀.KeepsOpt Option.none := fun _ e => (Option.some_ne_none _ e.symm).elim

theorem State.KeepsOpt.of_eq {o} (h : s₀.KeepsOpt o) (e : o = .some t) : s₀.Keeps t := h t e

theorem State.KeepsOpt.getD {o} (ho : s₀.KeepsOpt o) (h : s₀.Keeps s) : s₀.Keeps (o.getD s) := by
  cases o with
  | none => exact h
  | some t => exact ho t rfl

theorem State.KeepsOpt.map {f : α → State} {o : Option α} (h : ∀ a, s₀.Keeps (f a)) : s₀.KeepsOpt (o.map f) := by
  intro t e
  obtain ⟨a, -, rfl⟩ := Option.map_eq_some_iff.1 e
  exact h a

theorem State.KeepsOpt.mapState {o : Option State} {f : State → State} (ho : s₀.KeepsOpt o) (hf : ∀ t, s₀.Keeps t → s₀.Keeps (f t)) :
    s₀.KeepsOpt (o.map f) := by
  intro t e
  obtain ⟨u, hu, rfl⟩ := Option.map_eq_some_iff.1 e
  exact hf u (ho u hu)

theorem State.KeepsOpt.bind {o : Option State} {f : State → Option State} (ho : s₀.KeepsOpt o) (hf : ∀ t, s₀.Keeps t → s₀.KeepsOpt (f t)) :
    s₀.KeepsOpt (o.bind f) := by
  intro t e
  obtain ⟨u, hu, ht⟩ := Option.bind_eq_some_iff.1 e
  exact hf u (ho u hu) t ht

theorem State.KeepsOpt.foldl {f : Option State → α → Option State} {l : List α} {o} (h : s₀.KeepsOpt o)
    (hf : ∀ o a, s₀.KeepsOpt o → s₀.KeepsOpt (f o a)) : s₀.KeepsOpt (l.foldl f o) := by
  induction l generalizing o with
  | nil => exact h
  | cons a l ih => exact ih (hf _ _ h)

theorem State.Keeps.frame (h : s₀.Keeps s) (hm : t.mem = s.mem) (hw : t.win = s.win) (ht : t.teams = s.teams) : s₀.Keeps t := by
  unfold State.Keeps at *
  rwa [hm, hw, ht]

theorem State.Keeps.of_eq {p : State × α} {x} (h : s₀.Keeps p.1) (e : p = (t, x)) : s₀.Keeps t := by
  subst e
  exact h

theorem keeps_ite {c : Prop} [Decidable c] (ht : s₀.Keeps s) (he : s₀.Keeps t) : s₀.Keeps (if c then s else t) := by
  split <;> assumption

theorem keeps_ite_fst {c : Prop} [Decidable c] {p q : State × α} (hp : s₀.Keeps p.1) (hq : s₀.Keeps q.1) : s₀.Keeps (if c then p else q).1 := by
  split <;> assumption

theorem State.Keeps.foldl {f : State → α → State} {l : List α} (h : s₀.Keeps s) (hf : ∀ t a, s₀.Keeps t → s₀.Keeps (f t a)) :
    s₀.Keeps (l.foldl f s) := by
  induction l generalizing s with
  | nil => exact h
  | cons a l ih => exact ih (hf _ _ h)

theorem State.Keeps.foldlFst {f : State × β → α → State × β} {l : List α} {p} (h : s₀.Keeps p.1) (hf : ∀ p a, s₀.Keeps p.1 → s₀.Keeps (f p a).1) :
    s₀.Keeps (l.foldl f p).1 := by
  induction l generalizing p with
  | nil => exact h
  | cons a l ih => exact ih (hf _ _ h)

/-! ### Writes of the three maps -/

theorem State.Keeps.putByte {k b} (h : s₀.Keeps s) : s₀.Keeps (s.putByte k b) := by
  unfold State.putByte
  split
  · exact ⟨fun hr => ⟨Memory.wf_put (h.1 hr).1 _ _, (h.1 hr).2⟩, h.2⟩
  · exact ⟨fun hr => ⟨(h.1 hr).1, Memory.wf_put (h.1 hr).2 _ _⟩, h.2⟩

theorem State.Keeps.putMem {a l} (h : s₀.Keeps s) : s₀.Keeps { s with mem := s.mem.putList a l } :=
  ⟨fun hr => ⟨Memory.wf_putList (h.1 hr).1 _ _, (h.1 hr).2⟩, h.2⟩

theorem State.Keeps.filterWin {f q} (h : s₀.Keeps s) : s₀.Keeps { s with win := s.win.filter f, poison := q } :=
  ⟨fun hr => ⟨(h.1 hr).1, sok_filter (h.1 hr).2⟩, h.2⟩

theorem State.Keeps.putLine {line : Nat} {l} (h : s₀.Keeps s) : s₀.Keeps (s.putLine line l) := by
  induction l generalizing s with
  | nil => exact h
  | cons p l ih => exact ih h.putByte

theorem State.SpadOk.of_eq {u : Team} (h : s₀.SpadOk tm) (e : u.spad = tm.spad := by simp) : s₀.SpadOk u := by
  unfold State.SpadOk
  rwa [e]

theorem State.SpadOk.putList (h : s₀.SpadOk tm) (o l) : s₀.SpadOk { tm with spad := tm.spad.putList o l } :=
  fun hr => Memory.wf_putList (h hr) _ _

theorem State.SpadOk.foldl {f : Team → α → Team} {l : List α} {tm} (h : s₀.SpadOk tm) (hf : ∀ tm a, s₀.SpadOk tm → s₀.SpadOk (f tm a)) :
    s₀.SpadOk (l.foldl f tm) := by
  induction l generalizing tm with
  | nil => exact h
  | cons a l ih => exact ih (hf _ _ h)

theorem State.SpadOk.spadPut {o size v} (h : s₀.SpadOk tm) : s₀.SpadOk (tm.spadPut o size v) := h.putList _ _

theorem State.SpadOk.spadPiece {p} (h : s₀.SpadOk tm) : s₀.SpadOk (tm.spadPiece p) := h.putList _ _

theorem State.SpadOk.spadWrite {o bs} (h : s₀.SpadOk tm) : s₀.SpadOk (tm.spadWrite o bs) := h.foldl fun _ _ ht => ht.spadPiece

/-! ### The teams of a state -/

theorem State.Keeps.team {k} (h : s₀.Keeps s) (e : s.team? k = .some tm) : s₀.SpadOk tm := fun hr => h.2 hr _ (mem_of_sfind e)

theorem State.Keeps.iss {x} (h : s₀.Keeps s) (e : s.iss = .some x) : s₀.SpadOk x.tm := h.team (State.iss_team e).2

theorem State.Keeps.setTeam {k tm} (h : s₀.Keeps s) (ht : s₀.SpadOk tm) : s₀.Keeps (s.setTeam k tm) :=
  ⟨h.1, fun hr p hp => (mem_sins hp).elim (fun e => e ▸ ht hr) (h.2 hr p)⟩

theorem State.Keeps.modTeamOk {k f} (h : s₀.Keeps s) (hf : ∀ tm, s₀.SpadOk tm → s₀.SpadOk (f tm)) : s₀.Keeps (s.modTeam k f) := by
  unfold State.modTeam
  split
  · exact h.setTeam (hf _ (h.team ‹_›))
  · exact h

theorem State.Keeps.modTeam {k f} (h : s₀.Keeps s) (hf : ∀ tm, (f tm).spad = tm.spad := by simp) : s₀.Keeps (s.modTeam k f) :=
  h.modTeamOk fun tm ht => ht.of_eq (hf tm)

theorem State.Keeps.mapTeams {f : Nat × Team → Nat × Team} (h : s₀.Keeps s) (hf : ∀ p, (f p).2.spad = p.2.spad := by simp) :
    s₀.Keeps { s with teams := s.teams.map f } :=
  ⟨h.1, fun hr p hp => by
    obtain ⟨q, hq, rfl⟩ := List.mem_map.1 hp
    rw [hf]
    exact h.2 hr q hq⟩

theorem State.Keeps.delTeam {k} (h : s₀.Keeps s) : s₀.Keeps { s with teams := sdel s.teams k } :=
  ⟨h.1, fun hr p hp => h.2 hr p (mem_of_sdel hp)⟩

/-! ### What leaves a team's scratchpad as it is -/

@[simp] theorem Team.ite_spad {c : Prop} [Decidable c] {a b : Team} : (if c then a else b).spad = if c then a.spad else b.spad := apply_ite _ _ _ _

@[simp] theorem Team.foldl_spad {f : Team → α → Team} {l : List α} (hf : ∀ tm a, (f tm a).spad = tm.spad) : (l.foldl f tm).spad = tm.spad := by
  induction l generalizing tm with
  | nil => rfl
  | cons a l ih => rw [List.foldl_cons, ih, hf]

@[simp] theorem Team.modThread_spad {t : Nat} {f} : (tm.modThread t f).spad = tm.spad := by
  simp [Team.modThread]

@[simp] theorem Team.modThreads_spad {f : Thread → Thread} {l : List Nat} : (tm.modThreads f l).spad = tm.spad := by
  induction l generalizing tm with
  | nil => rfl
  | cons t l ih => exact ih

@[simp] theorem Team.ack_spad {id t old bad} : (tm.ack id t old bad).spad = tm.spad := by
  unfold Team.ack
  repeat' split
  all_goals rfl

@[simp] theorem Team.putRegs_spad {t r v cnt} : (tm.putRegs t r v cnt).spad = tm.spad := by
  simp [Team.putRegs]

@[simp] theorem Team.leave_spad {now clk p} : (tm.leave now clk p).spad = tm.spad := by
  simp [Team.leave]

@[simp] theorem Team.unplace_spad : tm.unplace.spad = tm.spad := by
  unfold Team.unplace
  split <;> rfl

@[simp] theorem Team.release_spad : tm.release.spad = tm.spad := by
  simp [Team.release]

@[simp] theorem Team.endClause_spad {now idx next b tgt yld} : (tm.endClause now idx next b tgt yld).spad = tm.spad := by
  unfold Team.endClause
  extract_lets
  split <;> exact Team.foldl_spad fun _ _ => rfl

@[simp] theorem Team.endRendezvous_spad {now t} : (tm.endRendezvous now t).spad = tm.spad := by
  simp [Team.endRendezvous]

@[simp] theorem Team.writeResults_spad {once d cnt val ts} : (tm.writeResults once d cnt val ts).spad = tm.spad := by
  simp [Team.writeResults]

@[simp] theorem Team.onto_spad {l now cyc clk} : (tm.onto l now cyc clk).spad = tm.spad := by
  simp [Team.onto]

@[simp] theorem Team.leaveBarrier_spad {now} : (tm.leaveBarrier now).spad = tm.spad := by
  simp [Team.leaveBarrier]

@[simp] theorem Team.passBarrier_spad {now cyc} : (tm.passBarrier now cyc).spad = tm.spad := by
  refine Team.foldl_spad fun tm p => ?_
  repeat' split
  all_goals simp

@[simp] theorem Team.stopStream_spad : tm.stopStream.spad = tm.spad := by
  simp [Team.stopStream]

@[simp] theorem Team.setPoint_spad {z p} : (tm.setPoint z p).spad = tm.spad := by
  simp [Team.setPoint]

@[simp] theorem Team.arriveAll_spad {z l} : (tm.arriveAll z l).1.spad = tm.spad := by
  induction l generalizing tm with
  | nil => rfl
  | cons t l ih => exact ih

@[simp] theorem Team.arriveN_spad {z n} : (tm.arriveN z n).spad = tm.spad := by
  induction n generalizing tm with
  | zero => rfl
  | succ n ih => exact ih

@[simp] theorem Team.grow_spad {clk off d m t} : (tm.grow clk off d m t).spad = tm.spad := by
  simp [Team.grow]

@[simp] theorem Team.shrink_spad {g n} : (tm.shrink g n).spad = tm.spad := by
  simp [Team.shrink]

@[simp] theorem Team.converge_spad {g} : (tm.converge g).spad = tm.spad := by
  unfold Team.converge
  extract_lets live
  clear_value live
  split
  · rfl
  extract_lets
  split
  · split
    · rfl
    split
    · rfl
    extract_lets act tm'
    have htm' : tm'.spad = tm.spad := by
      unfold tm'
      split
      · exact Team.foldl_spad fun _ _ => by simp
      · rfl
    rw [← htm']
    exact Team.foldl_spad fun _ _ => rfl
  · rfl

@[simp] theorem Team.cleanGranules_spad {ws} : (tm.cleanGranules ws).spad = tm.spad := by
  simp [Team.cleanGranules]

@[simp] theorem Team.setTile_spad {ts x} : (tm.setTile ts x).spad = tm.spad := by
  simp [Team.setTile]

@[simp] theorem Team.modTile_spad {ts f} : (tm.modTile ts f).spad = tm.spad := by
  simp [Team.modTile]

@[simp] theorem Team.join_spad {id slots} : (tm.join id slots).spad = tm.spad := by
  simp [Team.join]

@[simp] theorem Team.readAll_spad {id} : (tm.readAll id).spad = tm.spad := by
  simp [Team.readAll]

@[simp] theorem Team.readDone_spad {ts c} : (tm.readDone ts c).spad = tm.spad := by
  simp [Team.readDone]

@[simp] theorem Team.writeDone_spad {ts bs} : (tm.writeDone ts bs).spad = tm.spad := by
  simp [Team.writeDone]

@[simp] theorem Team.setM_spad {k v} : (tm.setM k v).spad = tm.spad := by
  simp [Team.setM]

@[simp] theorem Team.mRaise_spad {f} : (tm.mRaise f).spad = tm.spad := by
  simp [Team.mRaise]

@[simp] theorem Team.modAudit_spad {f} : (tm.modAudit f).spad = tm.spad := by
  simp [Team.modAudit]

@[simp] theorem Team.audit_spad {k b f} : (tm.audit k b f).spad = tm.spad := by
  simp [Team.audit]

@[simp] theorem Team.part_spad {idx b ts} : (tm.part idx b ts).spad = tm.spad := by
  simp [Team.part]

@[simp] theorem Team.closeMoves_spad {clk} : (tm.closeMoves clk).spad = tm.spad := by
  simp [Team.closeMoves]

@[simp] theorem Team.firstIssue_spad {now clk} : (tm.firstIssue now clk).spad = tm.spad := by
  simp [Team.firstIssue]

@[simp] theorem Team.reform_spad {sl pcs} : (tm.reform sl pcs).spad = tm.spad := by
  simp [Team.reform]

@[simp] theorem Team.endRequest_spad {g v} : (tm.endRequest g v).spad = tm.spad := by
  simp [Team.endRequest]

@[simp] theorem Team.grant_spad {g} : (tm.grant g).spad = tm.spad := by
  unfold Team.grant
  repeat' split
  all_goals simp

@[simp] theorem Team.requestHalt_spad {now cyc} : (tm.requestHalt now cyc).spad = tm.spad := by
  simp [Team.requestHalt]

@[simp] theorem Team.reissue_spad : tm.reissue.spad = tm.spad := by
  simp [Team.reissue]

@[simp] theorem Team.accJoin_spad {a t p} : (tm.accJoin a t p).spad = tm.spad := by
  simp [Team.accJoin]

@[simp] theorem Team.deliverAll_spad {a} : (tm.deliverAll a).spad = tm.spad := by
  simp [Team.deliverAll]

@[simp] theorem Team.denyLong_spad {clk} : (tm.denyLong clk).spad = tm.spad := by
  simp [Team.denyLong]

theorem State.SpadOk.atomsOne (h : s₀.SpadOk tm) {op ty d q} : s₀.SpadOk (tm.atomsOne op ty d q) := by
  obtain ⟨o, b, c, l⟩ := q
  exact (h.spadPut (o := o) (size := 4) (v := aopApply op ty (tm.spadGet o 4) b c)).of_eq (Team.foldl_spad fun _ _ => by simp)

theorem Team.poisonUnit_spad {u tm'} (e : tm.poisonUnit u = some tm') : tm'.spad = tm.spad := by
  unfold Team.poisonUnit at e
  repeat' split at e
  all_goals grind [Team.modTile_spad, Team.modThread_spad]

/-! ### Registers and translation tables (Csr) -/

theorem State.Keeps.rset {k v} (h : s₀.Keeps s) : s₀.Keeps (s.rset k v) := h

theorem State.Keeps.rwrite {k v} (h : s₀.Keeps s) : s₀.Keeps (s.rwrite k v) := h

theorem State.Keeps.rsetBits {k hi lo v} (h : s₀.Keeps s) : s₀.Keeps (s.rsetBits k hi lo v) := h

theorem State.Keeps.setCol {c x} (h : s₀.Keeps s) : s₀.Keeps (s.setCol c x) := h

theorem State.Keeps.modCol {c f} (h : s₀.Keeps s) : s₀.Keeps (s.modCol c f) := h

theorem State.Keeps.modCtx {ck f} (h : s₀.Keeps s) : s₀.Keeps (s.modCtx ck f) := h

theorem State.Keeps.noteClocks (h : s₀.Keeps s) : s₀.Keeps s.noteClocks := h.foldl fun _ _ ht => ht.modCol

/-! ### Homes, leases and translation (Memory) -/

theorem State.Keeps.setHome {line d} (h : s₀.Keeps s) : s₀.Keeps (s.setHome line d) := h

theorem State.Keeps.setPoison {line p} (h : s₀.Keeps s) : s₀.Keeps (s.setPoison line p) := h

theorem State.Keeps.setCline {c line l} (h : s₀.Keeps s) : s₀.Keeps (s.setCline c line l) := h

theorem State.Keeps.grantNow {line} (h : s₀.Keeps s) : s₀.Keeps (s.grantNow line).1 := keeps_ite_fst h.setHome h

theorem State.Keeps.keepLine {line c t} (h : s₀.Keeps s) : s₀.Keeps (s.keepLine line c t) := by
  unfold State.keepLine
  split
  · split
    · exact (h.grantNow.of_eq ‹_›).setCline
    · exact h.grantNow.of_eq ‹_›
  · exact h

theorem State.Keeps.applyWrite {line w} (h : s₀.Keeps s) : s₀.Keeps (s.applyWrite line w) := by
  unfold State.applyWrite
  extract_lets ack
  have hack : ∀ t a a', s₀.Keeps t → s₀.Keeps (ack t a a') := by
    intro t a a' ht
    unfold ack
    split
    · split
      · exact ht.setTeam (ht.team ‹_›).of_eq
      · exact ht
    · split <;> exact ht
  split
  · extract_lets s₁ s₂ _ s₃
    have hs₁ : s₀.Keeps s₁ := h.putLine
    have hs₂ : s₀.Keeps s₂ := keeps_ite hs₁.setPoison hs₁
    have hs₃ : s₀.Keeps s₃ := keeps_ite hs₂.setHome hs₂
    refine hack _ _ _ ?_
    split
    · exact hs₃.keepLine
    · exact hs₃
  · exact keeps_ite (hack _ _ _ h) (hack _ _ _ h.putLine)
  · exact hack _ _ _ h.putLine

theorem State.Keeps.applyWrites {line l} (h : s₀.Keeps s) : s₀.Keeps (s.applyWrites line l) := by
  induction l generalizing s with
  | nil =>
    unfold State.applyWrites
    exact h
  | cons a l ih =>
    unfold State.applyWrites
    exact ih h.applyWrite

theorem State.Keeps.applyDue {line} (h : s₀.Keeps s) : s₀.Keeps (s.applyDue line) := by
  unfold State.applyDue
  extract_lets
  split
  · exact h
  split
  · exact keeps_ite h h.setHome.applyWrites
  split
  · exact h
  · exact h.setHome.applyWrite

theorem State.Keeps.homeArrive {line w} (h : s₀.Keeps s) : s₀.Keeps (s.homeArrive line w).1 := by
  unfold State.homeArrive
  extract_lets _ s₁
  have hs₁ : s₀.Keeps s₁ := h.applyDue
  split
  exact hs₁.setHome

theorem State.Keeps.grant {line} (h : s₀.Keeps s) : s₀.Keeps (s.grant line).1 := h.applyDue.grantNow

theorem State.Keeps.colStore {c slot key bs} (h : s₀.Keeps s) : s₀.Keeps (s.colStore c slot key bs) := by
  unfold State.colStore
  extract_lets
  split
  exact keeps_ite h.setCline.setHome h.setCline

theorem State.Keeps.dropLine {c line} (h : s₀.Keeps s) : s₀.Keeps (s.dropLine c line) := h

theorem State.Keeps.writeBack {c line team keep} (h : s₀.Keeps s) : s₀.Keeps (s.writeBack c line team keep).1 := by
  unfold State.writeBack
  extract_lets _ _ _ leave
  have hleave : ∀ t a, s₀.Keeps t → s₀.Keeps (leave t a) := by
    intro t a ht
    unfold leave
    exact ht.dropLine.modCol
  split
  · exact keeps_ite h (hleave _ _ h)
  split
  exact keeps_ite_fst (h.homeArrive.of_eq ‹_›).setCline (hleave _ _ (h.homeArrive.of_eq ‹_›))

theorem State.Keeps.recallDirty {line} (h : s₀.Keeps s) : s₀.Keeps (s.recallDirty line) := h.foldl fun _ _ ht => ht.writeBack

theorem State.Keeps.evict {c line} (h : s₀.Keeps s) : s₀.Keeps (s.evict c line) := by
  unfold State.evict
  extract_lets
  split
  exact (h.writeBack.of_eq ‹_›).modCol

theorem State.Keeps.writeBackAll {c team l} (h : s₀.Keeps s) : s₀.Keeps (s.writeBackAll c team l).1 := by
  induction l generalizing s with
  | nil =>
    unfold State.writeBackAll
    exact h
  | cons a l ih =>
    unfold State.writeBackAll
    split
    split
    exact (ih (h.writeBack.of_eq ‹_›)).of_eq ‹_›

theorem State.Keeps.askAts {col ck va} (h : s₀.Keeps s) : s₀.Keeps (s.askAts col ck va) := keeps_ite h h

theorem State.Keeps.sendPage {fn} (h : s₀.Keeps s) : s₀.Keeps (s.sendPage fn) := by
  unfold State.sendPage
  split
  · exact keeps_ite h h
  · exact h

theorem State.Keeps.requestPage {ck va write} (h : s₀.Keeps s) : s₀.Keeps (s.requestPage ck va write) := by
  unfold State.requestPage
  extract_lets
  split
  · exact keeps_ite h h
  · exact .sendPage h

theorem State.Keeps.xlatKeep {col x} (h : s₀.Keeps s) : s₀.Keeps (s.xlatKeep col x) := keeps_ite h.modCol (keeps_ite h h)

theorem State.Keeps.xlateLeaf {col x va kind write priv} (h : s₀.Keeps s) : s₀.Keeps (s.xlateLeaf col x va kind write priv).1 := by
  unfold State.xlateLeaf
  split
  · exact keeps_ite_fst h.askAts h.requestPage
  · exact h

theorem State.Keeps.xlate {col ck va kind write priv sys} (h : s₀.Keeps s) : s₀.Keeps (s.xlate col ck va kind write priv sys).1 := by
  unfold State.xlate
  split
  · exact h
  split
  · exact h
  split
  · exact keeps_ite_fst h (keeps_ite_fst h (keeps_ite_fst h h))
  split
  · exact h.xlateLeaf
  split
  · exact h
  · exact (keeps_ite h h.xlatKeep).xlateLeaf

theorem State.Keeps.xlateAgent {col ck va kind write priv sys} (h : s₀.Keeps s) : s₀.Keeps (s.xlateAgent col ck va kind write priv sys).1 := by
  unfold State.xlateAgent
  split
  · exact h.xlate.of_eq ‹_›
  · exact h.xlate

theorem State.Keeps.agentByte {cache own me ck kind priv va} (h : s₀.Keeps s) : s₀.Keeps (s.agentByte cache own me ck kind priv va).1 := by
  unfold State.agentByte
  split
  · exact h
  split
  · exact h.xlateAgent.of_eq ‹_›
  · exact keeps_ite_fst (h.xlateAgent.of_eq ‹_›) (h.xlateAgent.of_eq ‹_›)

theorem State.Keeps.agentBytes {cache own me ck kind priv va n} (h : s₀.Keeps s) : s₀.Keeps (s.agentBytes cache own me ck kind priv va n).1 := by
  induction n generalizing s cache own me ck kind priv va with
  | zero =>
    unfold State.agentBytes
    exact h
  | succ n ih =>
    unfold State.agentBytes
    split
    · exact h.agentByte.of_eq ‹_›
    split
    exact (ih (h.agentByte.of_eq ‹_›)).of_eq ‹_›

theorem State.Keeps.sendReads {ck} {l : List (Target × β)} (h : s₀.Keeps s) : s₀.Keeps (s.sendReads ck l) := by
  unfold State.sendReads
  refine h.foldl fun _ _ ht => ?_
  extract_lets
  split <;> exact ht

theorem State.Keeps.agentRead {cache own ck kind priv va n} (h : s₀.Keeps s) : s₀.Keeps (s.agentRead cache own ck kind priv va n).1 := by
  unfold State.agentRead
  split
  · exact h.agentBytes.of_eq ‹_›
  split
  · exact h.agentBytes.of_eq ‹_›
  · exact (h.agentBytes.of_eq ‹_›).sendReads

theorem State.Keeps.virtRead {ck kind priv va n} (h : s₀.Keeps s) : s₀.Keeps (s.virtRead ck kind priv va n).1 := h.agentRead

theorem State.Keeps.colRead {c ck kind priv va n} (h : s₀.Keeps s) : s₀.Keeps (s.colRead c ck kind priv va n).1 := h.agentRead

theorem State.Keeps.writeTargets {ck kind priv va n} (h : s₀.Keeps s) : s₀.Keeps (s.writeTargets ck kind priv va n).1 := by
  induction n generalizing s ck kind priv va with
  | zero =>
    unfold State.writeTargets
    exact h
  | succ n ih =>
    unfold State.writeTargets
    split
    · exact h.xlateAgent.of_eq ‹_›
    refine keeps_ite_fst (h.xlateAgent.of_eq ‹_›) ?_
    split <;> exact (ih (h.xlateAgent.of_eq ‹_›)).of_eq ‹_›

theorem State.Keeps.modPut {id f} (h : s₀.Keeps s) : s₀.Keeps (s.modPut id f) := h

theorem State.Keeps.putPiece {ck id p} (h : s₀.Keeps s) : s₀.Keeps (s.putPiece ck id p) := by
  unfold State.putPiece
  split
  · split
    exact (h.recallDirty.homeArrive.of_eq ‹_›).modPut
  · split
    exact (h.homeArrive.of_eq ‹_›).modPut
  · exact h
  · exact .modPut h

theorem State.Keeps.localWrite {ck va} (h : s₀.Keeps s) : s₀.Keeps (s.localWrite ck va) := h

theorem State.Keeps.sendPut {id ck todo} (h : s₀.Keeps s) : s₀.Keeps (s.sendPut id ck todo).1 := by
  unfold State.sendPut
  extract_lets sent
  have hsent : ∀ t, s₀.Keeps t → s₀.Keeps (sent t) := by
    intro t ht
    unfold sent
    exact ht.modPut
  split
  · split
    · exact h.writeTargets.of_eq ‹_›
    · exact ((hsent _ (h.writeTargets.of_eq ‹_›)).foldl fun _ _ ht => ht.putPiece).localWrite.localWrite
  split
  · exact h.writeTargets.of_eq ‹_›
  extract_lets s₁ s₂
  have hs₁ : s₀.Keeps s₁ := hsent _ (h.writeTargets.of_eq ‹_›)
  have hs₂ : s₀.Keeps s₂ := by
    unfold s₂
    split
    · exact hs₁.putPiece
    · exact hs₁.putPiece
    · extract_lets
      split
      exact (hs₁.homeArrive.of_eq ‹_›).modPut
    extract_lets
    split
    exact (hs₁.homeArrive.of_eq ‹_›).modPut
  exact hs₂.localWrite

theorem State.Keeps.virtWrite {ck va bs end_} (h : s₀.Keeps s) : s₀.Keeps (s.virtWrite ck va bs end_).1 := by
  unfold State.virtWrite
  extract_lets
  split
  · rename_i u e hu
    have hu : s₀.Keeps u := by
      refine .of_eq ?_ hu
      exact .sendPut h
    exact hu
  · refine .of_eq ?_ ‹_›
    exact .sendPut h

/-! ### Reports, freezes and the word frame (Ops) -/

theorem State.Keeps.modThread {k t f} (h : s₀.Keeps s) : s₀.Keeps (s.modThread k t f) := h.modTeam

theorem State.Keeps.modThreads {k ts f} (h : s₀.Keeps s) : s₀.Keeps (s.modThreads k ts f) := h.modTeam

theorem State.Keeps.modGrid {g f} (h : s₀.Keeps s) : s₀.Keeps (s.modGrid g f) := by
  unfold State.modGrid
  split <;> exact h

theorem State.Keeps.raiseMsix {fn v} (h : s₀.Keeps s) : s₀.Keeps (s.raiseMsix fn v) := h

theorem State.Keeps.free (h : s₀.Keeps s) : s₀.Keeps s.free.1 := h

theorem State.Keeps.capture {kind ck addr len idx acq bytes} (h : s₀.Keeps s) : s₀.Keeps (s.capture kind ck addr len idx acq bytes) :=
  keeps_ite (keeps_ite (.rset h) h.rset) h

theorem State.Keeps.countAcquire {ck} (h : s₀.Keeps s) : s₀.KeepsOpt (s.countAcquire ck) := by
  unfold State.countAcquire
  split
  · exact .some h
  split
  · exact .none
  split
  · exact .none
  · exact .some h.rset

theorem State.Keeps.post {ck todo end_ req} (h : s₀.Keeps s) : s₀.Keeps (s.post ck todo end_ req).1 := by
  unfold State.post
  extract_lets
  split
  refine .of_eq ?_ ‹_›
  exact .sendPut h

theorem State.Keeps.postEvent {fn ws} (h : s₀.Keeps s) : s₀.Keeps (s.postEvent fn ws) := h.post

theorem State.Keeps.eventPosted {fn ws} (h : s₀.Keeps s) : s₀.Keeps (s.eventPosted fn ws) := by
  unfold State.eventPosted
  extract_lets _ _ _ _ s₁ s₂
  have hs₁ : s₀.Keeps s₁ := h.rset.raiseMsix
  have hs₂ : s₀.Keeps s₂ := hs₁.modCtx
  split
  · exact hs₂.capture
  · exact hs₂

theorem State.Keeps.hwEvent {fn ws} (h : s₀.Keeps s) : s₀.Keeps (s.hwEvent fn ws) := keeps_ite h.postEvent (keeps_ite h h.rset)

theorem State.Keeps.releaseHeld {fn n} (h : s₀.Keeps s) : s₀.Keeps (s.releaseHeld fn n) := by
  induction n generalizing s with
  | zero =>
    unfold State.releaseHeld
    exact h
  | succ n ih =>
    unfold State.releaseHeld
    split
    · exact keeps_ite (ih (.postEvent h)) h
    · exact h

theorem State.Keeps.pfEvent {kind payload} (h : s₀.Keeps s) : s₀.Keeps (s.pfEvent kind payload) := h.hwEvent

theorem State.Keeps.countError {k} (h : s₀.Keeps s) : s₀.Keeps (s.countError k) := keeps_ite h (keeps_ite h.rset.pfEvent h.rset)

theorem State.Keeps.enterRecord {ck} (h : s₀.Keeps s) : s₀.Keeps (s.enterRecord ck).1 := by
  unfold State.enterRecord
  split
  · exact h
  extract_lets
  split
  · split
    · exact keeps_ite (h.virtWrite.of_eq ‹_›) (h.virtWrite.of_eq ‹_›).modCtx
    · exact (h.virtWrite.of_eq ‹_›).modCtx
  · exact h

theorem State.Keeps.enterRecords {ck n} (h : s₀.Keeps s) : s₀.Keeps (s.enterRecords ck n) := by
  induction n generalizing s with
  | zero =>
    unfold State.enterRecords
    exact h
  | succ n ih =>
    unfold State.enterRecords
    split
    · exact ih (h.enterRecord.of_eq ‹_›)
    · exact h.enterRecord.of_eq ‹_›

theorem State.Keeps.recordWritten {ck ws} (h : s₀.Keeps s) : s₀.Keeps (s.recordWritten ck ws) := keeps_ite h.rset.raiseMsix.hwEvent h.rset.raiseMsix

theorem State.Keeps.report {ck r} (h : s₀.Keeps s) : s₀.Keeps (s.report ck r) :=
  keeps_ite (keeps_ite h.countError h).modCtx.enterRecords (keeps_ite h.countError h).rsetBits

theorem State.Keeps.reportOnce {ck agent kind r} (h : s₀.Keeps s) : s₀.Keeps (s.reportOnce ck agent kind r) := by
  unfold State.reportOnce
  extract_lets
  split
  · exact keeps_ite h.countError h.modCol.report
  · exact keeps_ite h.countError (.report h)

theorem State.Keeps.telemetryWritten {ck} (h : s₀.Keeps s) : s₀.Keeps (s.telemetryWritten ck) := h

theorem State.Keeps.telemetryLost {ck} (h : s₀.Keeps s) : s₀.Keeps (s.telemetryLost ck) := h

theorem State.Keeps.endPut {p} (h : s₀.Keeps s) : s₀.Keeps (s.endPut p) := by
  unfold State.endPut
  extract_lets s₁
  have hs₁ : s₀.Keeps s₁ := h
  split
  · exact hs₁.recordWritten
  · exact hs₁.eventPosted
  · exact hs₁.telemetryWritten
  · exact hs₁
  · exact hs₁

theorem State.Keeps.putFault {p e} (h : s₀.Keeps s) : s₀.Keeps (s.putFault p e) := by
  unfold State.putFault
  extract_lets s₁ rec_
  have hs₁ : s₀.Keeps s₁ := h
  have hrec_ : ∀ t a, s₀.Keeps t → s₀.Keeps (rec_ t a) := by
    intro t a ht
    unfold rec_
    exact ht.reportOnce
  split
  · exact h
  split
  · exact hrec_ _ _ hs₁.telemetryLost
  · exact hrec_ _ _ hs₁
  · exact h

theorem State.Keeps.makePut {ck todo end_ req} (h : s₀.Keeps s) : s₀.Keeps (s.makePut ck todo end_ req) := by
  unfold State.makePut
  split
  · exact (h.post.of_eq ‹_›).putFault
  · exact h.post.of_eq ‹_›

theorem State.Keeps.settlePuts (h : s₀.Keeps s) : s₀.Keeps s.settlePuts := by
  unfold State.settlePuts
  refine h.foldlFst fun p a ht => keeps_ite_fst ht ?_
  split
  · split
    · exact (ht.sendPut.of_eq ‹_›).putFault
    · exact ht.sendPut.of_eq ‹_›
  · exact keeps_ite_fst ht.endPut ht

theorem State.Keeps.settleRecords (h : s₀.Keeps s) : s₀.Keeps s.settleRecords := h.foldl fun _ _ ht => keeps_ite ht ht.enterRecords

theorem State.Keeps.pfFault {r} (h : s₀.Keeps s) : s₀.Keeps (s.pfFault r) := by
  unfold State.pfFault
  extract_lets s₁
  have hs₁ : s₀.Keeps s₁ := keeps_ite h.countError h
  split
  exact (hs₁.free.of_eq ‹_›).pfEvent

theorem State.Keeps.freezeTeam {k code} (h : s₀.Keeps s) : s₀.Keeps (s.freezeTeam k code) := h.modTeam

theorem State.Keeps.setLane {k x} (h : s₀.Keeps s) : s₀.Keeps (s.setLane k x) := h

theorem State.Keeps.relinquish {o} (h : s₀.Keeps s) : s₀.Keeps (s.relinquish o) := h

theorem State.Keeps.markPath {c p} (h : s₀.Keeps s) : s₀.Keeps (s.markPath c p) := h

theorem State.Keeps.startPath {c p} (h : s₀.Keeps s) : s₀.Keeps (s.startPath c p) := by
  unfold State.startPath
  extract_lets s₁
  have hs₁ : s₀.Keeps s₁ := h.markPath
  split
  · exact keeps_ite hs₁.relinquish hs₁
  · exact hs₁

theorem State.Keeps.demand {c p} (h : s₀.Keeps s) : s₀.Keeps (s.demand c p) := keeps_ite h.startPath h

theorem State.Keeps.settle {k} (h : s₀.Keeps s) : s₀.Keeps (s.settle k) := by
  unfold State.settle
  split
  · exact h
  split
  · exact h
  · exact h
  · exact keeps_ite (h.setTeam (h.team ‹_›).of_eq).hwEvent h

theorem State.Keeps.modBundle {k idx f} (h : s₀.Keeps s) : s₀.Keeps (s.modBundle k idx f) := h.modTeam

theorem State.Keeps.takeTrap {x thread code info addr} (h : s₀.Keeps s) : s₀.Keeps (s.takeTrap x thread code info addr) :=
  h.report.modThreads.modBundle.freezeTeam.settle

theorem State.Keeps.takeDecodeTrap {k tm b pc code word info} (h : s₀.Keeps s) : s₀.Keeps (s.takeDecodeTrap k tm b pc code word info) :=
  h.report.freezeTeam.settle

theorem State.Keeps.takeStreamFault {k tm code info addr} (h : s₀.Keeps s) : s₀.Keeps (s.takeStreamFault k tm code info addr) :=
  h.report.modTeam.freezeTeam.settle

theorem State.Keeps.startRelease {k t scope} (h : s₀.Keeps s) : s₀.Keeps (s.startRelease k t scope) := by
  unfold State.startRelease
  split
  · exact h
  split
  exact (h.writeBackAll.of_eq ‹_›).modThread

/-! ### Operands (Operands) -/

theorem State.Keeps.endClause {x target} (h : s₀.Keeps s) : s₀.Keeps (s.endClause x target) := h.modTeam.settle

theorem State.Keeps.advance {x} (h : s₀.Keeps s) : s₀.Keeps (s.advance x) := keeps_ite h.endClause h.modBundle

theorem State.Keeps.waitAt {x ts w acted} (h : s₀.Keeps s) : s₀.Keeps (s.waitAt x ts w acted) := h.modThreads.modBundle.settle

theorem State.Keeps.clearWaits {x} (h : s₀.Keeps s) : s₀.Keeps (s.clearWaits x) := h.modThreads

theorem State.Keeps.resumeWord {x} (h : s₀.Keeps s) : s₀.Keeps (s.resumeWord x) := by
  unfold State.resumeWord
  extract_lets s₁ s₂
  have hs₁ : s₀.Keeps s₁ := h.modTeam
  have hs₂ : s₀.Keeps s₂ := hs₁.modTeam
  split
  · exact keeps_ite hs₂ hs₂.advance
  · exact hs₂

theorem State.Keeps.runWord {i n extra act} (h : s₀.Keeps s) (hact : ∀ y a, s₀.SpadOk y.tm → s₀.Keeps (act y a)) :
    s₀.KeepsOut (Machine.runWord s i n extra act) := by
  unfold Machine.runWord
  split
  · refine .next (keeps_ite h.resumeWord ?_)
    split
    · exact h.takeTrap
    · exact hact _ _ (h.iss ‹_›)
  · exact .fault

theorem State.Keeps.afterRelease {x ts scope act} (h : s₀.Keeps s) (hact : ∀ t, s₀.Keeps t → s₀.Keeps (act t)) :
    s₀.Keeps (s.afterRelease x ts scope act) := by
  unfold State.afterRelease
  extract_lets started u
  have hu : s₀.Keeps u := keeps_ite h (h.foldl fun _ _ ht => ht.startRelease)
  exact keeps_ite h.waitAt (keeps_ite (hact _ hu.clearWaits) hu.waitAt)

theorem State.Keeps.runArith {i once d cnt val} (h : s₀.Keeps s) : s₀.KeepsOut (Machine.runArith s i once d cnt val) :=
  h.runWord fun _ _ _ => h.modTeam.advance

/-! ### Flags and arithmetic words (Flags) -/

theorem State.Keeps.raiseFlag {k t fl} (h : s₀.Keeps s) : s₀.Keeps (s.raiseFlag k t fl) := by
  unfold State.raiseFlag
  split
  · exact h
  split
  · exact h
  split
  · exact h.modThread
  split
  exact (h.free.of_eq ‹_›).modThread

theorem State.Keeps.raiseFlags {k fl l} (h : s₀.Keeps s) : s₀.Keeps (s.raiseFlags k fl l) := by
  induction l generalizing s with
  | nil =>
    unfold State.raiseFlags
    exact h
  | cons a l ih =>
    unfold State.raiseFlags
    exact ih h.raiseFlag

/-! ### Teams, placement and retirement (Teams) -/

theorem State.Keeps.bind {c part} (h : s₀.Keeps s) : s₀.Keeps (s.bind c part) := keeps_ite h (keeps_ite h (h.foldl fun _ _ ht => ht.writeBack)).modCol

theorem State.Keeps.startTeam {k tm} (h : s₀.Keeps s) (htm : s₀.SpadOk tm) : s₀.Keeps (s.startTeam k tm) := by
  unfold State.startTeam
  extract_lets
  split <;> exact h.setTeam htm

theorem State.Keeps.freeTeam {k} (h : s₀.Keeps s) : s₀.Keeps (s.freeTeam k) := keeps_ite (.modCol h.delTeam) h.delTeam

theorem State.Keeps.countDone {fn n} (h : s₀.Keeps s) : s₀.Keeps (s.countDone fn n) := by
  induction n generalizing s with
  | zero =>
    unfold State.countDone
    exact h
  | succ n ih =>
    unfold State.countDone
    exact keeps_ite (ih (.rset h)) h

theorem State.Keeps.completeGrids {n} (h : s₀.Keeps s) : s₀.Keeps (s.completeGrids n) := by
  induction n generalizing s with
  | zero =>
    unfold State.completeGrids
    exact h
  | succ n ih =>
    unfold State.completeGrids
    split
    · exact h
    extract_lets s₁ _ s₂
    have hs₁ : s₀.Keeps s₁ := h
    have hs₂ : s₀.Keeps s₂ := by
      unfold s₂
      split
      · exact .releaseHeld (.countDone hs₁)
      · exact hs₁
    exact ih hs₂

theorem State.Keeps.dmEnd {c st} (h : s₀.Keeps s) : s₀.Keeps (s.dmEnd c st) := h

theorem State.Keeps.dropMigration {k} (h : s₀.Keeps s) : s₀.Keeps (s.dropMigration k) := by
  unfold State.dropMigration
  split
  · exact keeps_ite (keeps_ite h.modCol.modTeam.dmEnd h.modCol.modTeam) h
  · exact h

theorem State.Keeps.retire {k free} (h : s₀.Keeps s) : s₀.Keeps (s.retire k free) := by
  unfold State.retire
  split
  · exact h
  extract_lets
  split
  exact (keeps_ite (h.dropMigration.writeBackAll.of_eq ‹_›).modCol.modGrid.freeTeam (h.dropMigration.writeBackAll.of_eq ‹_›).modCol.modGrid).completeGrids

theorem State.Keeps.barrier {g} (h : s₀.Keeps s) : s₀.Keeps (s.barrier g) := by
  unfold State.barrier
  split
  · exact h
  · exact keeps_ite (.modGrid h.mapTeams) h

theorem State.Keeps.handoverFreeze {k tm card code} (h : s₀.Keeps s) : s₀.Keeps (s.handoverFreeze k tm card code) :=
  h.foldl fun _ _ ht => ht.modTeam.freezeTeam.settle

theorem State.Keeps.handoverFault {k tm hv code info addr} (h : s₀.Keeps s) : s₀.Keeps (s.handoverFault k tm hv code info addr) :=
  h.report.handoverFreeze

theorem State.Keeps.memberExited {k tm} (h : s₀.Keeps s) : s₀.Keeps (s.memberExited k tm) := h.foldl fun _ _ ht => ht.handoverFault

theorem State.Keeps.handoverRead {k} (h : s₀.Keeps s) : s₀.Keeps (s.handoverRead k) := by
  unfold State.handoverRead
  split
  · exact h
  split
  · exact h
  split
  · exact h
  extract_lets
  split
  · exact keeps_ite (h.virtRead.of_eq ‹_›) (keeps_ite (h.virtRead.of_eq ‹_›).report.handoverFreeze (h.virtRead.of_eq ‹_›).reportOnce)
  extract_lets _ s₁
  have hs₁ : s₀.Keeps s₁ := (h.virtRead.of_eq ‹_›).modTeam
  split
  · exact hs₁.handoverFault
  split
  · exact hs₁.handoverFault
  split
  · exact hs₁.handoverFault
  split
  · exact hs₁.handoverFault
  · exact hs₁.modTeam

theorem State.Keeps.beginHandover {k} (h : s₀.Keeps s) : s₀.Keeps (s.beginHandover k) := by
  unfold State.beginHandover
  split
  · exact h
  · exact keeps_ite h.modTeam.handoverRead h

theorem State.Keeps.releaseEngine {k} (h : s₀.Keeps s) : s₀.Keeps (s.releaseEngine k) := by
  unfold State.releaseEngine
  split
  · exact h
  split
  · exact h
  · exact h
  extract_lets _ s₁
  have hs₁ : s₀.Keeps s₁ := h.setTeam (h.team ‹_›).of_eq
  split
  · exact keeps_ite hs₁.modCol hs₁
  · exact hs₁

theorem State.Keeps.afterExit {k} (h : s₀.Keeps s) : s₀.Keeps (s.afterExit k) := by
  unfold State.afterExit
  split
  · exact h
  · exact keeps_ite (keeps_ite h.memberExited.modTeam.releaseEngine.modTeam h.memberExited.modTeam.releaseEngine.modTeam.retire).barrier h.beginHandover.barrier

theorem State.Keeps.retireAbandoned {k} (h : s₀.Keeps s) : s₀.Keeps (s.retireAbandoned k) := by
  unfold State.retireAbandoned
  split
  · exact h
  · exact h.modTeam.afterExit.barrier

theorem State.Keeps.setIntake {ck q l} (h : s₀.Keeps s) : s₀.Keeps (s.setIntake ck q l) := h

theorem State.Keeps.intakePush {ck q ci} (h : s₀.Keeps s) : s₀.Keeps (s.intakePush ck q ci) := by
  unfold State.intakePush
  split
  · exact h.report
  · exact h.setIntake

/-! ### Control words (Control) -/

theorem State.Keeps.putAll {k ts d cnt v} (h : s₀.Keeps s) : s₀.Keeps (s.putAll k ts d cnt v) := h.modTeam

theorem State.Keeps.branch {x ts tgt} (h : s₀.Keeps s) : s₀.Keeps (s.branch x ts tgt) := h.endClause

theorem State.Keeps.execBra {m disp} (h : s₀.Keeps s) : s₀.KeepsOut (Machine.execBra m disp s) := h.runWord fun _ _ _ => h.branch

theorem State.Keeps.execBrc {m a disp} (h : s₀.Keeps s) : s₀.KeepsOut (Machine.execBrc m a disp s) := h.runWord fun _ _ _ => h.branch

theorem State.Keeps.execBrl {m a disp} (h : s₀.Keeps s) : s₀.KeepsOut (Machine.execBrl m a disp s) := h.runWord fun _ _ _ => h.branch

theorem State.Keeps.execJmp {m a} (h : s₀.Keeps s) : s₀.KeepsOut (Machine.execJmp m a s) := h.runWord fun _ _ _ => h.branch

theorem State.Keeps.execRet {m a} (h : s₀.Keeps s) : s₀.KeepsOut (Machine.execRet m a s) := h.runWord fun _ _ _ => h.branch

theorem State.Keeps.execCallDirect {m a disp} (h : s₀.Keeps s) : s₀.KeepsOut (Machine.execCallDirect m a disp s) :=
  h.runWord fun _ _ _ => h.putAll.branch

theorem State.Keeps.execCallRegister {m a} (h : s₀.Keeps s) : s₀.KeepsOut (Machine.execCallRegister m a s) := h.runWord fun _ _ _ => h.putAll.branch

theorem State.Keeps.execExit {m} (h : s₀.Keeps s) : s₀.KeepsOut (Machine.execExit m s) := h.runWord fun _ _ _ => h.modThreads.endClause.afterExit

theorem State.Keeps.execRets {m a b} (h : s₀.Keeps s) : s₀.KeepsOut (Machine.execRets m a b s) := h.runWord fun _ _ _ => h.modThreads.branch.afterExit

theorem State.Keeps.wordFault {x ts kind code info va} (h : s₀.Keeps s) : s₀.Keeps (s.wordFault x ts kind code info va) :=
  keeps_ite h.waitAt (keeps_ite h.takeTrap h.reportOnce.waitAt)

theorem State.Keeps.execLaunch {m d a b} (h : s₀.Keeps s) : s₀.KeepsOut (Machine.execLaunch m d a b s) := by
  unfold Machine.execLaunch
  refine h.runWord fun x a' ht => keeps_ite h.advance (h.afterRelease fun t ht' => keeps_ite ht'.putAll.advance ?_)
  split
  · exact (ht'.colRead.of_eq ‹_›).wordFault
  · exact (ht'.colRead.of_eq ‹_›).intakePush.putAll.advance

theorem State.Keeps.execNop {m} (h : s₀.Keeps s) : s₀.KeepsOut (Machine.execNop m s) := h.runWord fun _ _ _ => h.advance

theorem State.Keeps.execYield {m} (h : s₀.Keeps s) : s₀.KeepsOut (Machine.execYield m s) :=
  h.runWord fun _ _ _ => keeps_ite h.advance h.modBundle.advance

theorem State.Keeps.execSleep {m a} (h : s₀.Keeps s) : s₀.KeepsOut (Machine.execSleep m a s) := h.runWord fun _ _ _ => keeps_ite h.advance h.waitAt

theorem State.Keeps.rzWait {x z toks} (h : s₀.Keeps s) : s₀.Keeps (s.rzWait x z toks) := h.modTeam.modBundle.resumeWord.settle

theorem State.Keeps.execRzinit {m a pt} (h : s₀.Keeps s) : s₀.KeepsOut (Machine.execRzinit m a pt s) :=
  h.runWord fun _ _ _ => keeps_ite h.advance h.modTeam.advance

theorem State.Keeps.execRzarv {m d pt} (h : s₀.Keeps s) : s₀.KeepsOut (Machine.execRzarv m d pt s) :=
  h.runWord fun _ _ _ => keeps_ite h.advance (h.afterRelease fun _ ht => ht.modTeam.advance)

theorem State.Keeps.execRzwait {m a pt} (h : s₀.Keeps s) : s₀.KeepsOut (Machine.execRzwait m a pt s) := h.runWord fun _ _ _ => h.rzWait

theorem State.Keeps.execRzarw {m d pt} (h : s₀.Keeps s) : s₀.KeepsOut (Machine.execRzarw m d pt s) := by
  unfold Machine.execRzarw
  refine h.runWord fun x a _ => keeps_ite h.advance (h.afterRelease fun t ht => ?_)
  split
  · exact ht
  · refine (ht.setTeam ((ht.team ‹_›).of_eq ?_)).rzWait
    simp

theorem State.Keeps.execRzcarv {m a pt} (h : s₀.Keeps s) : s₀.KeepsOut (Machine.execRzcarv m a pt s) := by
  unfold Machine.execRzcarv
  extract_lets
  refine h.runWord fun x a' ht => keeps_ite h.advance (h.afterRelease fun t ht' => ?_)
  split
  · exact ht'.modTeam.advance
  · exact ht'.advance

theorem State.Keeps.execRztest {m d a pt} (h : s₀.Keeps s) : s₀.KeepsOut (Machine.execRztest m d a pt s) :=
  h.runWord fun _ _ _ => (keeps_ite h.putAll.modThreads h.putAll).advance

theorem State.Keeps.execGbar {m} (h : s₀.Keeps s) : s₀.KeepsOut (Machine.execGbar m s) :=
  h.runWord fun _ _ _ => keeps_ite h.advance (h.afterRelease fun _ ht => ht.modGrid.waitAt.barrier)

theorem State.Keeps.execVgrow {m d cnt} (h : s₀.Keeps s) : s₀.KeepsOut (Machine.execVgrow m d cnt s) :=
  h.runWord fun _ _ _ => h.modTeam.modBundle.resumeWord.settle

theorem State.Keeps.execVshrk {m d cnt} (h : s₀.Keeps s) : s₀.KeepsOut (Machine.execVshrk m d cnt s) :=
  h.runWord fun _ _ _ => h.modTeam.modTeam.advance

theorem State.Keeps.execSrd {m d sel} (h : s₀.Keeps s) : s₀.KeepsOut (Machine.execSrd m d sel s) := h.runWord fun _ _ _ => h.modTeam.advance

theorem State.Keeps.execSwr {m a sel} (h : s₀.Keeps s) : s₀.KeepsOut (Machine.execSwr m a sel s) := h.runWord fun _ _ _ => h.modThreads.advance

theorem State.Keeps.execTrap {m a} (h : s₀.Keeps s) : s₀.KeepsOut (Machine.execTrap m a s) :=
  h.runWord fun _ _ _ => keeps_ite h.advance (keeps_ite h.report.freezeTeam.endClause h.report.freezeTeam.modThreads.modBundle).settle

theorem State.Keeps.execEvpost {m d a} (h : s₀.Keeps s) : s₀.KeepsOut (Machine.execEvpost m d a s) := by
  unfold Machine.execEvpost
  refine h.runWord fun x a' ht => keeps_ite h.advance (keeps_ite h.takeTrap (h.afterRelease fun t ht' => ?_))
  extract_lets
  split
  · exact (ht'.colRead.of_eq ‹_›).wordFault
  · exact (keeps_ite (ht'.colRead.of_eq ‹_›).postEvent (ht'.colRead.of_eq ‹_›)).putAll.advance

theorem State.Keeps.freezeEvent {ck desc code} (h : s₀.Keeps s) : s₀.Keeps (s.freezeEvent ck desc code) := h.hwEvent

theorem State.Keeps.freezeOther {ck desc} (h : s₀.Keeps s) : s₀.Keeps (s.freezeOther ck desc) := by
  unfold State.freezeOther
  extract_lets _ s₁ s₂ _ _ s₃
  have hs₁ : s₀.Keeps s₁ := h.modCtx
  have hs₂ : s₀.Keeps s₂ := keeps_ite hs₁ hs₁.rset.raiseMsix
  have hs₃ : s₀.Keeps s₃ := h.rset
  split
  · exact h.modCtx
  split
  · exact keeps_ite h h.modCol.freezeEvent
  · exact keeps_ite h hs₂.freezeEvent
  · exact keeps_ite h (.freezeEvent hs₃)

theorem State.Keeps.frzRequest {part desc} (h : s₀.Keeps s) : s₀.KeepsOpt (s.frzRequest part desc) := by
  unfold State.frzRequest
  extract_lets
  split
  · exact .map fun _ => h.freezeOther
  split
  · exact .none
  split
  · exact .none
  split
  · split
    · split
      · exact .some h.freezeTeam.settle
      · exact .none
    · exact .none
  · split
    · exact .some h.freezeOther
    · exact .none
  · exact .some h.freezeOther

theorem State.Keeps.execFrz {m d a} (h : s₀.Keeps s) : s₀.KeepsOut (Machine.execFrz m d a s) :=
  h.runWord fun _ _ _ => keeps_ite h.advance (.settle (.advance (.putAll (h.frzRequest.getD h))))

/-! ### Lane memory words (LaneMem) -/

theorem State.Keeps.runCollective {i} (h : s₀.Keeps s) : s₀.KeepsOut (Machine.runCollective s i) :=
  h.runWord fun _ _ _ => h.modTeam.modBundle.resumeWord.settle

theorem State.Keeps.pushAccess {k mk} (h : s₀.Keeps s) : s₀.Keeps (s.pushAccess k mk) := .modTeam (s := { s with idNext := s.idNext + 1 }) h

theorem State.Keeps.reportAccess {x t kind code info va} (h : s₀.Keeps s) : s₀.Keeps (s.reportAccess x t kind code info va) :=
  keeps_ite h h.reportOnce

theorem State.Keeps.loadOne {x m d fl ts' ea} (h : s₀.Keeps s) : s₀.Keeps (s.loadOne x m d fl ts' ea) := by
  unfold State.loadOne
  extract_lets _ _ _ _ _ _ _ s₁
  have hs₁ : s₀.Keeps s₁ := keeps_ite h.modThreads h
  split
  · exact (hs₁.xlate.of_eq ‹_›).reportAccess.pushAccess
  split
  · exact (hs₁.xlate.of_eq ‹_›).pushAccess
  extract_lets v
  clear_value v
  split
  · exact keeps_ite (hs₁.xlate.of_eq ‹_›).pushAccess (hs₁.xlate.of_eq ‹_›).pushAccess
  · exact (hs₁.xlate.of_eq ‹_›).pushAccess

theorem State.Keeps.raisePend {x ts fl d cnt} (h : s₀.Keeps s) : s₀.Keeps (s.raisePend x ts fl d cnt) := h.raiseFlags.modThreads

theorem State.Keeps.execLd {m u fs d a off} (h : s₀.Keeps s) : s₀.KeepsOut (Machine.execLd m u fs d a off s) := by
  unfold Machine.execLd
  extract_lets
  refine h.runWord fun x a' ht => keeps_ite h.advance ?_
  extract_lets _ _ _ _ s₁
  have hs₁ : s₀.Keeps s₁ := h.foldl fun _ _ ht' => ht'.loadOne
  split
  · exact h.takeTrap
  · exact hs₁.raisePend.advance

theorem State.Keeps.sideLogs {c es} (h : s₀.Keeps s) : s₀.KeepsOpt (s.sideLogs c es) := by
  unfold State.sideLogs
  split
  · exact .some h.modCol
  · exact .none

theorem State.Keeps.sideLog {c e} (h : s₀.Keeps s) : s₀.KeepsOpt (s.sideLog c e) := h.sideLogs

theorem State.Keeps.storeOne {x m b0 t ea size data red} (h : s₀.Keeps s) : s₀.Keeps (s.storeOne x m b0 t ea size data red) := by
  unfold State.storeOne
  extract_lets _ _ _ _ _ log
  have hlog : ∀ t, s₀.Keeps t → s₀.Keeps (log t) := by
    intro t ht
    unfold log
    extract_lets
    split
    · refine State.KeepsOpt.of_eq ?_ ‹_›
      exact .sideLog ht
    · exact ht.pushAccess
  split
  · exact h.pushAccess
  split
  · exact hlog _ h
  split
  · exact h.pushAccess
  split
  · exact keeps_ite (h.xlate.of_eq ‹_›).pushAccess (hlog _ (h.xlate.of_eq ‹_›).reportAccess)
  split
  · exact keeps_ite (h.xlate.of_eq ‹_›).pushAccess (keeps_ite (h.xlate.of_eq ‹_›).colStore.localWrite.pushAccess (h.xlate.of_eq ‹_›).colStore.localWrite)
  · exact (h.xlate.of_eq ‹_›).pushAccess

theorem State.Keeps.execSt {m d a off} (h : s₀.Keeps s) : s₀.KeepsOut (Machine.execSt m d a off s) := by
  unfold Machine.execSt
  extract_lets
  refine h.runWord fun x a' ht => ?_
  extract_lets
  split
  · exact h.takeTrap
  · exact (h.foldl fun _ _ ht' => ht'.storeOne).advance

theorem State.Keeps.fill {c line e} (h : s₀.Keeps s) : s₀.Keeps (s.fill c line e) := h

theorem State.Keeps.prefetch {c ck priv va} (h : s₀.Keeps s) : s₀.Keeps (s.prefetch c ck priv va) := by
  unfold State.prefetch
  split
  · exact h
  split
  · extract_lets
    split
    · exact h.xlate.of_eq ‹_›
    split
    · exact ((h.xlate.of_eq ‹_›).grant.of_eq ‹_›).fill
    · exact (h.xlate.of_eq ‹_›).grant.of_eq ‹_›
  · exact h.xlate.of_eq ‹_›

theorem State.Keeps.execPrf {m a off} (h : s₀.Keeps s) : s₀.KeepsOut (Machine.execPrf m a off s) :=
  h.runWord fun _ _ _ => (h.foldl fun _ _ ht => ht.prefetch).advance

theorem State.Keeps.sbWait {x ts} (h : s₀.Keeps s) : s₀.Keeps (s.sbWait x ts) := h.waitAt

theorem State.Keeps.go {x} (h : s₀.Keeps s) : s₀.Keeps (s.go x) := h.clearWaits

theorem State.Keeps.waitHalf {x ts v} (h : s₀.Keeps s) : s₀.Keeps (s.waitHalf x ts v) := h.modTeam

theorem State.Keeps.execLds {m u d a off} (h : s₀.Keeps s) : s₀.KeepsOut (Machine.execLds m u d a off s) := by
  unfold Machine.execLds
  extract_lets
  refine h.runWord fun x a' ht => ?_
  extract_lets
  split
  · exact h.takeTrap
  split
  · exact h.sbWait
  split
  · exact h.takeTrap
  · exact keeps_ite h.waitHalf h.go.modTeam.advance

theorem State.Keeps.execSts {m d a off} (h : s₀.Keeps s) : s₀.KeepsOut (Machine.execSts m d a off s) := by
  unfold Machine.execSts
  extract_lets
  refine h.runWord fun x a' ht => ?_
  extract_lets _ _ put
  have hput : ∀ t a a' a'', s₀.Keeps t → s₀.Keeps (put t a a' a'') := by
    intro t a a' a'' ht
    unfold put
    exact ht.modTeamOk fun _ ht' => ht'.foldl fun _ _ ht'' => ht''.spadPut
  split
  · exact h.takeTrap
  · exact keeps_ite h.sbWait (keeps_ite (hput _ _ _ _ h).waitHalf (keeps_ite (hput _ _ _ _ h.go) (hput _ _ _ _ h.go)).modTeam.advance)

theorem State.Keeps.execLdc {m u fs d a off} (h : s₀.Keeps s) : s₀.KeepsOut (Machine.execLdc m u fs d a off s) := by
  unfold Machine.execLdc
  extract_lets
  refine h.runWord fun x a' ht => keeps_ite h.advance ?_
  extract_lets _ _ _ _ _ s₁
  have hs₁ : s₀.Keeps s₁ := h.foldl fun _ _ ht' => ht'.pushAccess
  split
  · exact h.takeTrap
  · exact hs₁.raisePend.advance

theorem State.Keeps.execFence {m kind scope} (h : s₀.Keeps s) : s₀.KeepsOut (Machine.execFence m kind scope s) :=
  h.runWord fun _ _ _ => h.modThreads.advance

theorem State.Keeps.promoteCol {v c} (h : s₀.Keeps s) : s₀.Keeps (s.promoteCol v c).1 := by
  unfold State.promoteCol
  split
  exact h.writeBackAll.of_eq ‹_›

theorem State.Keeps.promote {v} (h : s₀.Keeps s) : s₀.Keeps (s.promote v).1 := by
  unfold State.promote
  refine h.foldlFst fun p a ht => ?_
  split
  exact ht.promoteCol.of_eq ‹_›

theorem State.Keeps.execPrm {m a off} (h : s₀.Keeps s) : s₀.KeepsOut (Machine.execPrm m a off s) := by
  unfold Machine.execPrm
  refine h.runWord fun x a' ht => ?_
  extract_lets _ _ _ _ _ _ _ s₁ s₂ s₃
  have hs₁ : s₀.Keeps s₁ := h.go.modThreads
  have hs₂ : s₀.Keeps s₂ := by
    unfold s₂
    refine hs₁.foldl fun t a'' ht' => ?_
    split
    exact (ht'.promote.of_eq ‹_›).modThreads
  have hs₃ : s₀.Keeps s₃ := hs₂.foldl fun _ _ ht' => .modThreads ht'
  split
  · exact h.takeTrap
  split
  · split
    · exact h.wordFault
    · exact h.waitAt
  · exact keeps_ite h.waitAt hs₃.advance

theorem State.Keeps.atomOne {x m b0 d fl ty size r} (h : s₀.Keeps s) : s₀.Keeps (s.atomOne x m b0 d fl ty size r) := by
  unfold State.atomOne
  split
  extract_lets _ _ _ s₁
  have hs₁ : s₀.Keeps s₁ := keeps_ite h.modThreads h
  split
  · exact hs₁.pushAccess
  split
  · exact (hs₁.xlate.of_eq ‹_›).reportAccess.pushAccess
  · exact (hs₁.xlate.of_eq ‹_›).pushAccess

theorem State.Keeps.execAtom {m fs d a b} (h : s₀.Keeps s) : s₀.KeepsOut (Machine.execAtom m fs d a b s) := by
  unfold Machine.execAtom
  extract_lets
  refine h.runWord fun x a' ht => keeps_ite h.advance ?_
  extract_lets _ _ _ _ s₁
  have hs₁ : s₀.Keeps s₁ := h.foldl fun _ _ ht' => ht'.atomOne
  split
  · exact h.takeTrap
  · exact hs₁.raisePend.advance

theorem State.Keeps.redOne {x m b0 ty size own r} (h : s₀.Keeps s) : s₀.Keeps (s.redOne x m b0 ty size own r) := by
  unfold State.redOne
  split
  exact keeps_ite h.pushAccess (h.foldl fun _ _ ht => ht.storeOne)

theorem State.Keeps.execRed {m a b} (h : s₀.Keeps s) : s₀.KeepsOut (Machine.execRed m a b s) := by
  unfold Machine.execRed
  extract_lets
  refine h.runWord fun x a' ht => ?_
  extract_lets
  split
  · exact h.takeTrap
  · exact (h.foldl fun _ _ ht' => ht'.redOne).advance

theorem State.Keeps.execAtoms {m d a b} (h : s₀.Keeps s) : s₀.KeepsOut (Machine.execAtoms m d a b s) := by
  unfold Machine.execAtoms
  extract_lets
  refine h.runWord fun x ts _ => ?_
  extract_lets _ _ perform
  have hperform : ∀ t, s₀.Keeps t → s₀.Keeps (perform t) := by
    intro t ht
    unfold perform
    split
    · exact ht
    split
    · exact ht.sbWait
    split
    · exact ht.takeTrap
    extract_lets u v
    have hu : s₀.Keeps u := ht.go.modTeamOk fun _ h => h.foldl fun _ _ h => h.atomsOne
    have hv : s₀.Keeps v := keeps_ite hu.modThreads hu
    exact hv.advance
  split
  · exact h.takeTrap
  · exact keeps_ite (h.afterRelease hperform) (hperform _ h)

/-! ### Engine words (Engines) -/

theorem State.Keeps.dropCopies {r} (h : s₀.Keeps s) : s₀.Keeps (s.dropCopies r) := by
  unfold State.dropCopies
  refine h.foldl fun t a ht => ?_
  split
  · exact keeps_ite ht ht.writeBack
  · exact ht

theorem State.Keeps.request {x ts fl entries slots mk} (h : s₀.Keeps s) : s₀.KeepsOpt (s.request x ts fl entries slots mk) := by
  unfold State.request
  extract_lets
  split
  · exact .none
  split
  · exact .none
  · exact .some (.dropCopies (.raiseFlags (.setTeam h (h.team ‹_›).of_eq)))

theorem State.Keeps.makeAll {x make l} (h : s₀.Keeps s) (hmake : ∀ t a, s₀.Keeps t → s₀.KeepsOpt (make t a)) : s₀.Keeps (s.makeAll x make l).1 := by
  induction l generalizing s with
  | nil =>
    unfold State.makeAll
    exact h
  | cons a l ih =>
    unfold State.makeAll
    split
    · exact ih ((hmake _ _ h).of_eq ‹_›).modThreads
    · exact h

theorem State.Keeps.makeReqs {x make chunks} (h : s₀.Keeps s) (hmake : ∀ t a, s₀.Keeps t → s₀.KeepsOpt (make t a)) :
    s₀.Keeps (s.makeReqs x make chunks) := by
  have hm : s₀.Keeps (s.makeAll x make chunks).1 := h.makeAll hmake
  unfold State.makeReqs
  split
  · exact (hm.of_eq ‹_›).advance
  · exact (hm.of_eq ‹_›).modTeam.waitAt

theorem State.Keeps.runEngine {i extra mem scope column make} (h : s₀.Keeps s) (hmake : ∀ y t a, s₀.SpadOk y.tm → s₀.Keeps t → s₀.KeepsOpt (make y t a)) :
    s₀.KeepsOut (Machine.runEngine s i extra mem scope column make) := by
  unfold Machine.runEngine
  split
  · extract_lets make1 _ _ go
    have hmake1 : ∀ t a, s₀.Keeps t → s₀.KeepsOpt (make1 t a) := by
      intro t a ht
      unfold make1
      split
      · exact .none
      · exact hmake _ _ _ (h.iss ‹_›) ht
    have hgo : ∀ t, s₀.Keeps t → s₀.Keeps (go t) := by
      intro t ht
      unfold go
      exact ht.makeReqs fun _ _ ht' => hmake1 _ _ ht'
    refine .next (keeps_ite (h.makeReqs fun _ _ ht => hmake1 _ _ ht) ?_)
    split
    · exact h.takeTrap
    split
    · exact h.advance
    split
    · exact h.takeTrap
    split
    · exact h
    split
    · exact h.afterRelease fun _ ht => hgo _ ht
    · exact hgo _ h
  · exact .fault

theorem State.Keeps.execCpy {m fs d a b} (h : s₀.Keeps s) : s₀.KeepsOut (Machine.execCpy m fs d a b s) := by
  unfold Machine.execCpy
  exact h.runEngine fun _ _ _ _ ht => ht.request

theorem State.Keeps.tdRead {cache ck n} (h : s₀.Keeps s) : s₀.Keeps (s.tdRead cache ck n).1 := by
  unfold State.tdRead
  split <;> exact h.agentRead.of_eq ‹_›

theorem State.Keeps.execTdset {m fs a b} (h : s₀.Keeps s) : s₀.KeepsOut (Machine.execTdset m fs a b s) := h.runEngine fun _ _ _ _ ht => ht.request

theorem State.Keeps.execTdrd {m fs a b} (h : s₀.Keeps s) : s₀.KeepsOut (Machine.execTdrd m fs a b s) := h.runEngine fun _ _ _ _ ht => ht.request

theorem State.Keeps.execCpyt {m fs d a b} (h : s₀.Keeps s) : s₀.KeepsOut (Machine.execCpyt m fs d a b s) := by
  unfold Machine.execCpyt
  extract_lets _ _ entry
  have hentry : ∀ t a a', s₀.Keeps t → s₀.Keeps (entry t a a').1 := by
    intro t a a' ht
    unfold entry
    split <;> exact ht.tdRead.of_eq ‹_›
  refine h.runEngine fun x t' a' ht ht' => ?_
  extract_lets
  split
  exact ((hentry _ _ _ ht').of_eq ‹_›).request

theorem State.Keeps.execGath {m fs d a b} (h : s₀.Keeps s) : s₀.KeepsOut (Machine.execGath m fs d a b s) := by
  unfold Machine.execGath
  refine h.runEngine fun x t a' ht ht' => ?_
  extract_lets
  split
  · exact .some (keeps_ite (ht'.request.of_eq ‹_›).modThread.modTeam (ht'.request.of_eq ‹_›))
  · exact .none

theorem State.Keeps.execScat {m fs d a b} (h : s₀.Keeps s) : s₀.KeepsOut (Machine.execScat m fs d a b s) := h.runEngine fun _ _ _ _ ht => ht.request

theorem State.Keeps.execTtag {m a b} (h : s₀.Keeps s) : s₀.KeepsOut (Machine.execTtag m a b s) := h.runEngine fun _ _ _ _ ht => ht.request

theorem State.Keeps.execJnext {m fs a} (h : s₀.Keeps s) : s₀.KeepsOut (Machine.execJnext m fs a s) := h.runEngine fun _ _ _ _ ht => ht.request

theorem State.Keeps.execColl {m fs a b} (h : s₀.Keeps s) : s₀.KeepsOut (Machine.execColl m fs a b s) := h.runEngine fun _ _ _ _ ht => ht.request

theorem State.Keeps.execPlmv {m fs a b} (h : s₀.Keeps s) : s₀.KeepsOut (Machine.execPlmv m fs a b s) := h.runEngine fun _ _ _ _ ht => ht.request

theorem State.Keeps.execMxacq {m d} (h : s₀.Keeps s) : s₀.KeepsOut (Machine.execMxacq m d s) := by
  unfold Machine.execMxacq
  refine h.runWord fun x a ht => keeps_ite h.advance ?_
  split
  · exact h.putAll.advance
  split
  · exact h.putAll.advance
  · exact h.modCol.modTeam.putAll.advance

theorem State.Keeps.execMxrel {m a} (h : s₀.Keeps s) : s₀.KeepsOut (Machine.execMxrel m a s) := by
  unfold Machine.execMxrel
  refine h.runWord fun _ _ _ => keeps_ite h.advance (h.modTeam fun tm => ?_).advance
  split <;> simp

theorem State.Keeps.execMxgo {m d a b} (h : s₀.Keeps s) : s₀.KeepsOut (Machine.execMxgo m d a b s) :=
  h.runWord fun _ _ _ => keeps_ite h.advance h.modTeam.putAll.advance

/-! ### Engine requests in progress (EngineEvents) -/

theorem State.Keeps.modReq {id f} (h : s₀.Keeps s) : s₀.Keeps (s.modReq id f) := h

theorem State.Keeps.reqTeam {r} (h : s₀.Keeps s) (e : s.reqTeam r = some tm) : s₀.SpadOk tm := by
  unfold State.reqTeam at e
  split at e
  · split at e
    · cases e
      exact h.team ‹_›
    · cases e
  · cases e

theorem State.Keeps.modReqTeamOk {r f} (h : s₀.Keeps s) (hf : ∀ tm, s₀.SpadOk tm → s₀.SpadOk (f tm)) : s₀.Keeps (s.modReqTeam r f) := by
  unfold State.modReqTeam
  split
  · exact h.setTeam (hf _ (h.reqTeam ‹_›))
  · exact h

theorem State.Keeps.modReqTeam {r f} (h : s₀.Keeps s) (hf : ∀ tm, (f tm).spad = tm.spad := by simp) : s₀.Keeps (s.modReqTeam r f) :=
  h.modReqTeamOk fun tm ht => ht.of_eq (hf tm)

theorem State.Keeps.holdTransfer {c e} (h : s₀.Keeps s) : s₀.Keeps (s.holdTransfer c e) := h

theorem State.Keeps.startTransfer {c e p} (h : s₀.Keeps s) : s₀.Keeps (s.startTransfer c e p) := h.startPath.modCol

theorem State.Keeps.stream {r f} (h : s₀.Keeps s) (hf : ∀ t, s₀.Keeps t → s₀.Keeps (f t)) : s₀.Keeps (s.stream r f) :=
  keeps_ite (keeps_ite h (hf _ h)) (keeps_ite (hf _ h.startTransfer.modReq) h.holdTransfer)

theorem State.Keeps.onReq {id kind f} (h : s₀.Keeps s) (hf : ∀ a, s₀.Keeps (f a)) : s₀.Keeps (s.onReq id kind f) := by
  unfold State.onReq
  split
  · exact keeps_ite (hf _) h
  · exact h

theorem State.Keeps.endReq {r t} (h : s₀.Keeps s) : s₀.Keeps (s.endReq r t) := by
  unfold State.endReq
  extract_lets s₁ s₂ s₃
  have hs₁ : s₀.Keeps s₁ := h
  have hs₂ : s₀.Keeps s₂ := keeps_ite hs₁.markPath hs₁
  have hs₃ : s₀.Keeps s₃ := hs₂.foldl fun _ _ ht => keeps_ite ht.setHome ht
  split
  · exact hs₃
  · exact keeps_ite (hs₃.setTeam (hs₃.reqTeam ‹_›).of_eq).afterExit (hs₃.setTeam (hs₃.reqTeam ‹_›).of_eq)

theorem State.Keeps.reqFreeze {r code info va} (h : s₀.Keeps s) : s₀.Keeps (s.reqFreeze r code info va) := by
  unfold State.reqFreeze
  extract_lets s₁
  have hs₁ : s₀.Keeps s₁ := h.report.modReq
  split
  · exact hs₁.freezeTeam.settle
  · exact hs₁

theorem State.Keeps.reqFault {r e} (h : s₀.Keeps s) : s₀.Keeps (s.reqFault r e) := by
  unfold State.reqFault
  split
  exact keeps_ite h (keeps_ite h.reqFreeze h.reportOnce.modReq)

theorem State.Keeps.engBytes {r priv va n} (h : s₀.Keeps s) : s₀.Keeps (s.engBytes r priv va n).1 := h.agentBytes

theorem State.Keeps.engRead {r priv va n} (h : s₀.Keeps s) : s₀.Keeps (s.engRead r priv va n).1 := by
  unfold State.engRead
  split
  · exact h.engBytes.of_eq ‹_›
  · exact (h.engBytes.of_eq ‹_›).sendReads

theorem State.Keeps.reqTarget {r va} (h : s₀.Keeps s) : s₀.Keeps (s.reqTarget r va).1 := by
  unfold State.reqTarget
  split
  · exact h
  split
  · exact h
  · split <;> exact h.xlate.of_eq ‹_›

theorem State.Keeps.engOut {r dev addr p} (h : s₀.Keeps s) : s₀.Keeps (s.engOut r dev addr p) := by
  unfold State.engOut
  extract_lets _ s₁ s₂
  have hs₁ : s₀.Keeps s₁ := h.foldl fun _ _ ht => ht
  have hs₂ : s₀.Keeps s₂ := keeps_ite hs₁.modReq hs₁
  split
  · exact hs₂.report
  · exact hs₂

theorem State.Keeps.engPiece {r p} (h : s₀.Keeps s) : s₀.Keeps (s.engPiece r p).1 := by
  unfold State.engPiece
  split
  · exact h.reqTarget.of_eq ‹_›
  · rename_i u tgt e
    have hu : s₀.Keeps u := h.reqTarget.of_eq e
    cases tgt with
    | host a => exact hu.engOut
    | peer dev a => exact hu.engOut
    | hbm key => exact hu.homeArrive.modReq.localWrite
    | window key => exact hu.homeArrive.modReq.localWrite

theorem State.Keeps.flushLines {r l} (h : s₀.Keeps s) : s₀.Keeps (s.flushLines r l).1 := by
  induction l generalizing s with
  | nil =>
    unfold State.flushLines
    exact h
  | cons a l ih =>
    unfold State.flushLines
    split
    · exact h.engPiece.of_eq ‹_›
    · exact ih (h.engPiece.of_eq ‹_›).modReq

theorem State.Keeps.flush {r coming} (h : s₀.Keeps s) : s₀.Keeps (s.flush r coming).1 := h.flushLines

theorem State.Keeps.finish {r} (h : s₀.Keeps s) : s₀.Keeps (s.finish r) := by
  unfold State.finish
  extract_lets s₁
  have hs₁ : s₀.Keeps s₁ := (h.modReqTeam fun _ => by simp).modReq
  split
  · exact hs₁
  split
  · exact (hs₁.flush.of_eq ‹_›).reqFault
  · exact (hs₁.flush.of_eq ‹_›).modReq

theorem State.Keeps.land {r} (h : s₀.Keeps s) : s₀.Keeps (s.land r) := keeps_ite h.finish (keeps_ite h.endReq h)

theorem State.Keeps.ownLines {r l} (h : s₀.Keeps s) : s₀.Keeps (s.ownLines r l).1 := by
  induction l generalizing s with
  | nil =>
    unfold State.ownLines
    exact h
  | cons a l ih =>
    unfold State.ownLines
    split
    · exact h
    split
    · exact h.xlate.of_eq ‹_›
    · split <;> exact (ih (h.xlate.of_eq ‹_›)).of_eq ‹_›

theorem State.Keeps.resolve {r} (h : s₀.Keeps s) : s₀.Keeps (s.resolve r).1 := by
  unfold State.resolve
  split
  · exact h
  split
  · exact (h.tdRead.of_eq ‹_›).reqFault
  split
  · exact (h.tdRead.of_eq ‹_›).reqFreeze
  split
  · exact (h.tdRead.of_eq ‹_›).reqFreeze
  · exact (h.tdRead.of_eq ‹_›).modReq

theorem State.Keeps.takeLines {r l} (h : s₀.Keeps s) : s₀.Keeps (s.takeLines r l).1 := by
  induction l generalizing s with
  | nil =>
    unfold State.takeLines
    exact h
  | cons a l ih =>
    unfold State.takeLines
    split
    · split
      exact (ih h).of_eq ‹_›
    split
    · exact h
    extract_lets s₁ s₂
    have hs₁ : s₀.Keeps s₁ := h.recallDirty
    have hs₂ : s₀.Keeps s₂ := keeps_ite hs₁.writeBack hs₁
    split
    · split
      exact (ih hs₂.setHome).of_eq ‹_›
    · exact hs₂

theorem State.Keeps.ownership {r} (h : s₀.Keeps s) : s₀.Keeps (s.ownership r) := by
  unfold State.ownership
  split
  · exact h.resolve.of_eq ‹_›
  split
  · exact h.resolve.of_eq ‹_›
  split
  · exact ((h.resolve.of_eq ‹_›).ownLines.of_eq ‹_›).reqFault
  split
  exact (((h.resolve.of_eq ‹_›).ownLines.of_eq ‹_›).takeLines.of_eq ‹_›).modReq

theorem State.Keeps.execEngineOwnershipRequest {req} (h : s₀.Keeps s) : s₀.KeepsOut (Machine.execEngineOwnershipRequest req s) := by
  unfold Machine.execEngineOwnershipRequest
  refine .next ?_
  split
  · exact keeps_ite (h.onReq fun _ => h.ownership) h
  · exact h

theorem State.Keeps.cpySource {r tm o n} (h : s₀.Keeps s) : s₀.Keeps (s.cpySource r tm o n).1 := by
  unfold State.cpySource
  split
  · split
    exact (h.engBytes.of_eq ‹_›).sendReads
  · exact h
  · exact h

theorem State.Keeps.cpyDest {r o bs} (h : s₀.Keeps s) : s₀.Keeps (s.cpyDest r o bs).1 := by
  unfold State.cpyDest
  split
  · exact h.modReq.flush
  · exact h.modReqTeamOk fun _ ht => ht.spadWrite

theorem State.Keeps.cpyEnd {r} (h : s₀.Keeps s) : s₀.Keeps (s.cpyEnd r) := keeps_ite h.finish h.endReq

theorem State.Keeps.cpyPlain {r tm} (h : s₀.Keeps s) : s₀.Keeps (s.cpyPlain r tm) := by
  unfold State.cpyPlain
  split
  split
  extract_lets s₁
  have hs₁ : s₀.Keeps s₁ := ((h.cpySource.of_eq ‹_›).cpyDest.of_eq ‹_›).modReq
  split
  · exact keeps_ite hs₁.cpyEnd hs₁.reqFault
  · exact hs₁.cpyEnd

theorem State.Keeps.cpyTile {r tm} (h : s₀.Keeps s) (htm : s₀.SpadOk tm) : s₀.Keeps (s.cpyTile r tm) := by
  unfold State.cpyTile
  extract_lets
  split
  · split
    · exact h.setTeam htm
    · exact h
  split
  · exact h.setTeam htm
  split
  · exact (h.cpySource.of_eq ‹_›).reqFault
  · rename_i u bs hu
    have hu : s₀.Keeps u := h.cpySource.of_eq hu
    split
    rename_i v e hv
    have hv : s₀.Keeps v := by
      refine .of_eq (keeps_ite_fst ?_ ?_) hv
      · exact hu.modReqTeam
      · exact hu.cpyDest
    extract_lets w _ z
    have hw : s₀.Keeps w := keeps_ite hv.modReqTeam hv
    have hz : s₀.Keeps z := hw.modReq
    split
    · exact hz.cpyEnd
    split
    · exact hz.reqFault
    · exact hz

theorem State.Keeps.execCopyComplete {req} (h : s₀.Keeps s) : s₀.KeepsOut (Machine.execCopyComplete req s) := by
  unfold Machine.execCopyComplete
  refine .next (h.onReq fun a => ?_)
  split
  · exact h
  · exact keeps_ite h.land (keeps_ite (h.stream fun _ ht => keeps_ite (ht.cpyTile (h.reqTeam ‹_›)) ht.cpyPlain) h)

theorem State.Keeps.tdUpdate {ck rec_ n k op req} (h : s₀.Keeps s) : s₀.Keeps (s.tdUpdate ck rec_ n k op req) := h.makePut

theorem State.Keeps.execTensorIdWriteComplete {req} (h : s₀.Keeps s) : s₀.KeepsOut (Machine.execTensorIdWriteComplete req s) := by
  unfold Machine.execTensorIdWriteComplete
  refine .next (h.onReq fun a => keeps_ite h.land (keeps_ite h ?_))
  split
  · exact (h.engRead.of_eq ‹_›).reqFault
  · exact keeps_ite (h.engRead.of_eq ‹_›).reqFreeze (h.engRead.of_eq ‹_›).modReq.finish

theorem State.Keeps.execTensorIdReadComplete {req} (h : s₀.Keeps s) : s₀.KeepsOut (Machine.execTensorIdReadComplete req s) := by
  unfold Machine.execTensorIdReadComplete
  refine .next (h.onReq fun a => keeps_ite h.land (keeps_ite h ?_))
  extract_lets
  split
  · exact (h.engRead.of_eq ‹_›).reqFault
  · exact keeps_ite (h.engRead.of_eq ‹_›).modReq.finish.tdUpdate.tdUpdate (h.engRead.of_eq ‹_›).modReq.finish

theorem State.Keeps.execEngineFault {req} (h : s₀.Keeps s) : s₀.KeepsOut (Machine.execEngineFault req s) := by
  unfold Machine.execEngineFault
  refine .next ?_
  split
  · split
    · exact h.onReq fun _ => keeps_ite h.reqFreeze h
    refine h.onReq fun a => ?_
    split
    · exact (h.engRead.of_eq ‹_›).reqFault
    · exact keeps_ite (h.engRead.of_eq ‹_›).reqFreeze h
  · exact h

theorem State.Keeps.tdElem {r i} (h : s₀.Keeps s) : s₀.Keeps (s.tdElem r i).1 := by
  unfold State.tdElem
  extract_lets
  split
  · exact h.engBytes.of_eq ‹_›
  extract_lets
  split
  · split <;> exact (h.engBytes.of_eq ‹_›).engBytes.of_eq ‹_›
  · exact h.engBytes.of_eq ‹_›

theorem State.Keeps.ldElems {r f l} (h : s₀.Keeps s) : s₀.Keeps (s.ldElems r f l).1 := by
  induction l generalizing s r f with
  | nil =>
    unfold State.ldElems
    exact h
  | cons a l ih =>
    unfold State.ldElems
    split
    · exact h.tdElem.of_eq ‹_›
    split
    exact ih (h.tdElem.of_eq ‹_›)

theorem State.Keeps.countConvx {r n} (h : s₀.Keeps s) : s₀.Keeps (s.countConvx r n) := keeps_ite h h.tdUpdate

theorem State.Keeps.cpytLoad {r j} (h : s₀.Keeps s) (htm : s₀.SpadOk tm) : s₀.Keeps (s.cpytLoad r tm j) := by
  unfold State.cpytLoad
  extract_lets
  split
  · exact h.setTeam htm
  split
  · exact (h.ldElems.of_eq ‹_›).reqFault
  · extract_lets u v
    have hv : s₀.Keeps v := ((h.ldElems.of_eq ‹_›).sendReads.modReqTeam fun _ => by simp).countConvx
    exact keeps_ite hv.endReq hv.modReq

theorem State.Keeps.cpytStore {r tm js} (h : s₀.Keeps s) : s₀.Keeps (s.cpytStore r tm js) := by
  unfold State.cpytStore
  extract_lets _ _ _ _ s₁
  have hs₁ : s₀.Keeps s₁ := h.modReqTeam fun _ => by simp
  split
  extract_lets s₂ _ s₃
  have hs₂ : s₀.Keeps s₂ := hs₁.countConvx
  have hs₃ : s₀.Keeps s₃ := hs₂.modReq
  split
  · exact hs₃.finish
  split
  · exact (hs₃.flush.of_eq ‹_›).reqFault
  · exact hs₃.flush.of_eq ‹_›

theorem State.Keeps.execCpytComplete {req} (h : s₀.Keeps s) : s₀.KeepsOut (Machine.execCpytComplete req s) := by
  unfold Machine.execCpytComplete
  refine .next (h.onReq fun a => keeps_ite h.land (h.stream fun t ht => ?_))
  split
  · exact ht.resolve.of_eq ‹_›
  split
  · exact ht.resolve.of_eq ‹_›
  extract_lets
  split
  · split
    · exact (ht.resolve.of_eq ‹_›).cpytLoad ((ht.resolve.of_eq ‹_›).reqTeam ‹_›)
    · exact ht.resolve.of_eq ‹_›
  split
  · exact ht.resolve.of_eq ‹_›
  split
  · exact keeps_ite (ht.resolve.of_eq ‹_›).cpytStore (ht.resolve.of_eq ‹_›)
  split
  · exact (ht.resolve.of_eq ‹_›).cpytStore
  · exact ht.resolve.of_eq ‹_›

theorem State.Keeps.gathRead {r l} (h : s₀.Keeps s) : s₀.Keeps (s.gathRead r l).1 := by
  induction l generalizing s with
  | nil =>
    unfold State.gathRead
    exact h
  | cons a l ih =>
    unfold State.gathRead
    split
    · exact h.engRead.of_eq ‹_›
    split
    exact (ih (h.engRead.of_eq ‹_›)).of_eq ‹_›

/-- A gather's element goes to the registers of each lane it names. -/
theorem Team.gathRegs_spad {d : Dest} {bs : List PByte} {o : Nat} :
    ((bs.zipIdx.filter fun b => b.2 % 4 == 0).foldl (fun tm b =>
      let j := (o + b.2) / 4
      if j < d.cnt && !(tm.thread d.thread).exited then tm.putRegs d.thread (d.reg + j) (leNat (((bs.drop b.2).take 4).map Prod.fst)) 1 else tm)
        tm).spad = tm.spad :=
  Team.foldl_spad fun _ _ => by simp

theorem State.Keeps.execGatherComplete {req} (h : s₀.Keeps s) : s₀.KeepsOut (Machine.execGatherComplete req s) := by
  unfold Machine.execGatherComplete
  refine .next (h.onReq fun r => ?_)
  split
  · exact h
  refine keeps_ite h (h.stream fun t ht => ?_)
  split
  rename_i u bs e hu
  have hu : s₀.Keeps u := ht.gathRead.of_eq hu
  extract_lets o v
  have hv : s₀.Keeps v := by
    refine keeps_ite (hu.modReqTeam fun tm => ?_) (hu.modReqTeamOk fun _ ht => ht.spadWrite)
    split
    · exact Team.foldl_spad fun _ _ => Team.gathRegs_spad
    · rfl
  split
  · exact hv.modReq.reqFault
  · exact hv.endReq

theorem State.Keeps.execScatterComplete {req} (h : s₀.Keeps s) : s₀.KeepsOut (Machine.execScatterComplete req s) := by
  unfold Machine.execScatterComplete
  refine .next (h.onReq fun a => ?_)
  split
  · exact h
  · exact keeps_ite h.land (keeps_ite h (h.stream fun _ ht => ht.modReq.finish))

theorem State.Keeps.execTtagApply {req} (h : s₀.Keeps s) : s₀.KeepsOut (Machine.execTtagApply req s) := by
  unfold Machine.execTtagApply
  refine .next (h.onReq fun a => ?_)
  split
  · exact h
  · exact keeps_ite (h.setTeam (h.reqTeam ‹_›).of_eq).endReq h

theorem State.Keeps.execJnextServe {req} (h : s₀.Keeps s) : s₀.KeepsOut (Machine.execJnextServe req s) := by
  unfold Machine.execJnextServe
  refine .next (h.onReq fun r => ?_)
  split
  · exact h
  split
  · exact h
  split
  · exact h
  extract_lets
  split
  extract_lets u
  have hu : s₀.Keeps u := keeps_ite h h.modGrid
  exact keeps_ite hu.modReq (hu.modReqTeamOk fun _ ht => ht.spadPut).endReq

theorem State.Keeps.execCollectiveComplete {req contributions} (h : s₀.Keeps s) :
    s₀.KeepsOut (Machine.execCollectiveComplete req contributions s) := by
  unfold Machine.execCollectiveComplete
  refine .next (h.onReq fun a => keeps_ite h.land (keeps_ite h (keeps_ite h.reqFreeze ?_)))
  split
  · exact (h.engRead.of_eq ‹_›).reqFault
  · exact (h.engRead.of_eq ‹_›).rset.modReq.finish

theorem State.Keeps.execMxrelComplete {col slot} (h : s₀.Keeps s) : s₀.KeepsOut (Machine.execMxrelComplete col slot s) := .next h.releaseEngine

theorem State.Keeps.execBatonExpiry {col layer} (h : s₀.Keeps s) : s₀.KeepsOut (Machine.execBatonExpiry col layer s) := .next h.modCol

/-! ### The matrix stream (Matrix) -/

theorem State.Keeps.runM {act} (h : s₀.Keeps s) (hact : ∀ a u a', s₀.SpadOk u → s₀.Keeps (act a u a')) : s₀.KeepsOut (Machine.runM s act) := by
  unfold Machine.runM
  split
  · split
    · split
      · split
        · exact .next (hact _ _ _ (h.team ‹_›))
        · exact .fault
      · exact .fault
    · exact .fault
  · exact .fault

theorem State.Keeps.mNext {k tm} (h : s₀.Keeps s) (htm : s₀.SpadOk tm) : s₀.Keeps (s.mNext k tm) := h.setTeam htm

theorem State.Keeps.mSlotFault {k tm slots go} (h : s₀.Keeps s) (hgo : s₀.Keeps go) : s₀.Keeps (s.mSlotFault k tm slots go) := by
  unfold State.mSlotFault
  split
  · exact h.takeStreamFault
  · exact hgo

theorem State.Keeps.mJoin {slots u id} (h : s₀.Keeps s) (ht : s₀.SpadOk tm) (e : s.mJoin tm slots = (t, u, id)) : s₀.Keeps t ∧ s₀.SpadOk u := by
  unfold State.mJoin at e
  split at e <;> cases e
  · exact ⟨h, ht⟩
  · exact ⟨h, ht.of_eq⟩

theorem State.Keeps.execMlda {ts cl ty xi mx} (h : s₀.Keeps s) : s₀.KeepsOut (Machine.execMlda ts cl ty xi mx s) := by
  unfold Machine.execMlda
  refine h.runM fun k tm a ht => h.mSlotFault ?_
  split
  obtain ⟨hu, hum⟩ := h.mJoin ht ‹_›
  refine keeps_ite (keeps_ite (hu.setTeam hum).takeStreamFault ?_) (hu.setTeam hum)
  split
  · exact hu
  · exact hu.mNext hum.of_eq

theorem State.Keeps.execMldb {ts sub cl rc ty xi mx} (h : s₀.Keeps s) : s₀.KeepsOut (Machine.execMldb ts sub cl rc ty xi mx s) := by
  unfold Machine.execMldb
  refine h.runM fun k tm a ht => h.mSlotFault (keeps_ite h.takeStreamFault ?_)
  split
  obtain ⟨hu, hum⟩ := h.mJoin ht ‹_›
  refine keeps_ite (hu.setTeam hum) (keeps_ite (hu.setTeam hum).takeStreamFault ?_)
  split
  · exact hu
  · exact hu.mNext (hum.of_eq (Team.foldl_spad fun _ _ => by simp))

theorem State.Keeps.auditSelect {k key} (h : s₀.Keeps s) : s₀.Keeps (s.auditSelect k key) := h.modTeam

theorem State.Keeps.auditStep {k} (h : s₀.Keeps s) : s₀.Keeps (s.auditStep k) := by
  unfold State.auditStep
  extract_lets _ s₁
  have hs₁ : s₀.Keeps s₁ := by
    unfold s₁
    split
    · split
      exact (h.free.of_eq ‹_›).modCol
    · exact h
  exact keeps_ite hs₁ hs₁.modTeam

theorem State.Keeps.execMma {acc ts fus ord ty sat xi} (h : s₀.Keeps s) : s₀.KeepsOut (Machine.execMma acc ts fus ord ty sat xi s) := by
  unfold Machine.execMma
  refine h.runM fun k tm a ht => h.mSlotFault (keeps_ite h.takeStreamFault ?_)
  split
  · exact h.takeStreamFault
  refine keeps_ite h.takeStreamFault (h.mNext (ht.of_eq ?_))
  rw [Team.mRaise_spad]
  refine Team.foldl_spad fun tm i => ?_
  split
  · simp
  · rfl

theorem State.Keeps.execMzro {acc cnt} (h : s₀.Keeps s) : s₀.KeepsOut (Machine.execMzro acc cnt s) :=
  h.runM fun _ _ _ ht => keeps_ite h.takeStreamFault (h.mNext ht.of_eq)

theorem State.Keeps.execMadc {acc src sat} (h : s₀.Keeps s) : s₀.KeepsOut (Machine.execMadc acc src sat s) := by
  unfold Machine.execMadc
  refine h.runM fun a'' tm a ht => keeps_ite h.takeStreamFault (keeps_ite (h.mNext ht) ?_)
  extract_lets
  split
  exact h.mNext ht

theorem State.Keeps.telemetry {k tm ws} (h : s₀.Keeps s) : s₀.Keeps (s.telemetry k tm ws) := keeps_ite h.makePut h.telemetryLost

theorem State.Keeps.auditTile {k tm j sl C td ws} (h : s₀.Keeps s) : s₀.Keeps (s.auditTile k tm j sl C td ws) := by
  unfold State.auditTile
  exact keeps_ite (keeps_ite h.modCol.telemetry.report h.modCol.telemetry).report (keeps_ite h.modCol.telemetry.report h.modCol.telemetry)

theorem State.Keeps.auditCount {k j sl C td ent} (h : s₀.Keeps s) : s₀.Keeps (s.auditCount k tm j sl C td ent) := by
  unfold State.auditCount
  extract_lets ck au P acnt due sel used ws u v w
  clear_value ws
  refine keeps_ite h ?_
  have hv : s₀.Keeps v := .modTeam h.tdUpdate
  have hw : s₀.Keeps w := by
    unfold w
    refine keeps_ite ?_ hv
    split
    · exact hv.auditTile
    · exact keeps_ite hv.modTeam.auditSelect hv.auditTile
  exact keeps_ite hw.auditSelect hw

theorem State.Keeps.mEntry {k td} (h : s₀.Keeps s) (ht : s₀.SpadOk tm) : s₀.Keeps (s.mEntry k tm td).1 := by
  unfold State.mEntry
  extract_lets
  split
  · exact h.takeStreamFault
  split
  · rename_i u code info va e
    have hu : s₀.Keeps u := h.tdRead.of_eq e
    exact keeps_ite hu.takeStreamFault (keeps_ite (hu.setTeam ht.of_eq) (hu.setTeam ht.of_eq).reportOnce)
  · rename_i u ent e
    have hu : s₀.Keeps u := h.tdRead.of_eq e
    split
    · exact hu
    · exact hu.takeStreamFault

theorem State.Keeps.execMstc {acc ts ty sc xi mx} (h : s₀.Keeps s) : s₀.KeepsOut (Machine.execMstc acc ts ty sc xi mx s) := by
  unfold Machine.execMstc
  refine h.runM fun k tm a ht => h.mSlotFault (keeps_ite ?_ h.takeStreamFault)
  extract_lets store
  have hstore : ∀ t ent, s₀.Keeps t → s₀.Keeps (store t ent) := by
    intro t ent hk
    unfold store
    split
    rename_i u um id hu
    obtain ⟨hu, hum⟩ := hk.mJoin ht hu
    refine keeps_ite ?_ (hu.setTeam hum)
    split
    extract_lets vm v
    have hvm : s₀.SpadOk vm := hum.of_eq (by simp [vm])
    have hv : s₀.Keeps v := keeps_ite hu hu.tdUpdate
    split
    · exact hu.mNext hvm
    · extract_lets w
      have hw : s₀.Keeps w := (hv.setTeam hvm).auditCount
      split
      · exact hw.mNext (hw.team ‹_›)
      · exact hw
  refine keeps_ite ?_ (hstore s none h)
  split
  · exact hstore _ (some _) ((h.mEntry ht).of_eq ‹_›)
  · exact (h.mEntry ht).of_eq ‹_›

theorem State.Keeps.execMaud {td} (h : s₀.Keeps s) : s₀.KeepsOut (Machine.execMaud td s) := by
  unfold Machine.execMaud
  refine h.runM fun k tm a ht => ?_
  split
  · exact (h.mEntry ht).of_eq ‹_›
  · extract_lets u
    have hu : s₀.Keeps u := (((h.mEntry ht).of_eq ‹_›).setTeam ht.of_eq).auditSelect
    split
    · exact hu.mNext (hu.team ‹_›)
    · exact hu

theorem State.Keeps.execMnop (h : s₀.Keeps s) : s₀.KeepsOut (Machine.execMnop s) := h.runM fun _ _ _ ht => h.mNext ht

theorem State.Keeps.execMend (h : s₀.Keeps s) : s₀.KeepsOut (Machine.execMend s) := h.runM fun _ _ _ ht => h.setTeam ht

theorem State.Keeps.execMrza {z} (h : s₀.Keeps s) : s₀.KeepsOut (Machine.execMrza z s) :=
  h.runM fun _ _ _ ht => keeps_ite h.takeStreamFault (h.mNext ht)

theorem State.Keeps.execMrzw {z} (h : s₀.Keeps s) : s₀.KeepsOut (Machine.execMrzw z s) := by
  unfold Machine.execMrzw
  refine h.runM fun k tm a ht => keeps_ite h.takeStreamFault ?_
  split
  rename_i um tok hum
  have hum : s₀.SpadOk um := by
    split at hum <;> cases hum
    · exact ht
    · exact ht.of_eq
  exact keeps_ite (h.mNext hum) (h.setTeam hum)

theorem State.Keeps.execMwtg {ts tag xi mx} (h : s₀.Keeps s) : s₀.KeepsOut (Machine.execMwtg ts tag xi mx s) :=
  h.runM fun _ _ _ ht => h.mSlotFault (keeps_ite (h.mNext ht) (h.setTeam ht))

theorem State.Keeps.execMset {mk imm} (h : s₀.Keeps s) : s₀.KeepsOut (Machine.execMset mk imm s) := h.runM fun _ _ _ ht => h.mNext ht

theorem State.Keeps.execMadd {mk ms imm} (h : s₀.Keeps s) : s₀.KeepsOut (Machine.execMadd mk ms imm s) := h.runM fun _ _ _ ht => h.mNext ht

theorem State.Keeps.execMlop {mk disp} (h : s₀.Keeps s) : s₀.KeepsOut (Machine.execMlop mk disp s) :=
  h.runM fun _ _ _ ht => keeps_ite (h.mNext ht) (h.setTeam ht)

theorem State.Keeps.fetchM {k tm} (h : s₀.Keeps s) : s₀.Keeps (s.fetchM k tm) := by
  unfold State.fetchM
  extract_lets
  split
  · exact h.takeStreamFault
  split
  · exact keeps_ite (h.colRead.of_eq ‹_›).takeStreamFault (keeps_ite (h.colRead.of_eq ‹_›).modTeam (h.colRead.of_eq ‹_›).modTeam.reportOnce)
  extract_lets
  split
  · exact (h.colRead.of_eq ‹_›).takeStreamFault
  · exact (h.colRead.of_eq ‹_›).modTeam

/-! ### Launch, placement and hand-over (Launch) -/

theorem State.Keeps.execQueueControlWrite {fn c q v} (h : s₀.Keeps s) : s₀.KeepsOut (Machine.execQueueControlWrite fn c q v s) := .next h.rwrite

theorem State.Keeps.stopQueue {ck q} (h : s₀.Keeps s) : s₀.Keeps (s.stopQueue ck q) := h

theorem State.Keeps.execDoorbell {fn c q tail} (h : s₀.Keeps s) : s₀.KeepsOut (Machine.execDoorbell fn c q tail s) :=
  .next (keeps_ite h.report.stopQueue h.rset)

theorem State.Keeps.execStopClear {fn c q} (h : s₀.Keeps s) : s₀.KeepsOut (Machine.execStopClear fn c q s) := .next (keeps_ite h.rset.modCtx h.rset)

theorem State.Keeps.setCard {ck q i x} (h : s₀.Keeps s) : s₀.Keeps (s.setCard ck q i x) := h

theorem State.Keeps.takeHandler {ck} (h : s₀.Keeps s) : s₀.Keeps (s.takeHandler ck) := by
  unfold State.takeHandler
  extract_lets
  split
  · exact h
  split
  · exact h
  split
  · exact keeps_ite (h.virtRead.of_eq ‹_›) (h.virtRead.of_eq ‹_›).report.setCard
  extract_lets
  split
  · exact (h.virtRead.of_eq ‹_›).report.setCard
  · exact (h.virtRead.of_eq ‹_›).setCard

theorem State.Keeps.execCardIntake {fn c q} (h : s₀.Keeps s) : s₀.KeepsOut (Machine.execCardIntake fn c q s) := by
  unfold Machine.execCardIntake
  extract_lets
  refine .next (keeps_ite h (keeps_ite h.takeHandler (keeps_ite h ?_)))
  split
  · exact h
  split
  · exact keeps_ite ((h.countAcquire.of_eq ‹_›).virtRead.of_eq ‹_›) ((h.countAcquire.of_eq ‹_›).virtRead.of_eq ‹_›).report.stopQueue
  · exact ((h.countAcquire.of_eq ‹_›).virtRead.of_eq ‹_›).intakePush.rset.capture

theorem State.Keeps.popCard {ck q} (h : s₀.Keeps s) : s₀.Keeps (s.popCard ck q) := h

theorem State.Keeps.eligible {ck q x} (h : s₀.Keeps s) : s₀.Keeps (s.eligible ck q x) := by
  unfold State.eligible
  extract_lets _ _ _ s₁
  have hs₁ : s₀.Keeps s₁ := h.popCard
  exact .completeGrids hs₁

theorem State.Keeps.readWaits {ck priv w l} (h : s₀.Keeps s) : s₀.Keeps (s.readWaits ck priv w l).1 := by
  induction l generalizing s with
  | nil =>
    unfold State.readWaits
    exact h
  | cons a l ih =>
    unfold State.readWaits
    split
    · split
      exact (ih (h.virtRead.of_eq ‹_›)).of_eq ‹_›
    split
    exact (ih (h.virtRead.of_eq ‹_›)).of_eq ‹_›

theorem State.Keeps.countReads {ck n} (h : s₀.Keeps s) : s₀.KeepsOpt (s.countReads ck n) := by
  induction n generalizing s with
  | zero => exact .some h
  | succ n ih => exact h.countAcquire.bind fun _ ht => ih ht

theorem State.Keeps.execDependenceCounterRead {fn c q} (h : s₀.Keeps s) : s₀.KeepsOut (Machine.execDependenceCounterRead fn c q s) := by
  unfold Machine.execDependenceCounterRead
  extract_lets
  refine .next (keeps_ite h ?_)
  split
  · exact h
  extract_lets
  split
  · exact h
  split
  · exact h
  split
  rename_i u met faults e
  have hu : s₀.Keeps u := (h.countReads.of_eq ‹_›).readWaits.of_eq e
  extract_lets
  split
  · exact keeps_ite hu.eligible hu.setCard
  · extract_lets v
    have hv : s₀.Keeps v := keeps_ite hu.countError hu.report
    exact keeps_ite (keeps_ite hv.setCard hv.popCard) hv.setCard

theorem State.Keeps.rereadWaits (h : s₀.Keeps s) : s₀.Keeps s.rereadWaits := by
  refine h.foldl fun t p ht => ?_
  split
  · exact ht.execDependenceCounterRead _ ‹_›
  · exact ht

theorem State.SpadOk.newTeam {w grid idx member age now cluster backing extent} :
    s₀.SpadOk (newTeam w grid idx member age now cluster backing extent) :=
  fun _ => Memory.wf_nil

theorem State.Keeps.placeMembers {id g idx keys l} (h : s₀.Keeps s) : s₀.KeepsOpt (s.placeMembers id g idx keys l) := by
  induction l generalizing s with
  | nil => exact .some h
  | cons a l ih =>
    obtain ⟨c, i⟩ := a
    unfold State.placeMembers
    extract_lets
    split
    · exact .none
    · exact ih (h.bind.startTeam .newTeam)

theorem State.Keeps.placeAt {id g c} (h : s₀.Keeps s) : s₀.KeepsOpt (s.placeAt id g c) := by
  unfold State.placeAt
  extract_lets
  split
  · exact .none
  · exact h.placeMembers.mapState fun _ ht => ht.modGrid

theorem State.Keeps.placeList {id l} (h : s₀.Keeps s) : s₀.KeepsOpt (s.placeList id l) := by
  induction l generalizing s with
  | nil => exact .some h
  | cons a l ih =>
    unfold State.placeList
    split
    · exact .none
    · exact h.placeAt.bind fun _ ht => ih ht

theorem State.Keeps.placeHinted {id n} (h : s₀.Keeps s) : s₀.KeepsOpt (s.placeHinted id n) := by
  induction n generalizing s with
  | zero => exact .none
  | succ n ih =>
    unfold State.placeHinted
    split
    · exact .none
    split
    · exact .some h
    · refine State.KeepsOpt.bind ?_ fun _ ht => ih ht
      intro t e
      obtain ⟨c, -, hc⟩ := List.exists_of_findSome?_eq_some e
      exact h.placeAt t hc

theorem State.Keeps.placeWhole {id g} (h : s₀.Keeps s) : s₀.KeepsOpt (s.placeWhole id g) := by
  intro t e
  rcases Option.or_eq_some_iff.1 e with e | ⟨-, e⟩
  · exact h.placeHinted t e
  · obtain ⟨l, -, hl⟩ := Option.bind_eq_some_iff.1 e
    exact h.placeList t hl

theorem State.Keeps.placeGrid {id g c} (h : s₀.Keeps s) : s₀.KeepsOpt (s.placeGrid id g c) := by
  unfold State.placeGrid
  split
  · exact h.placeWhole
  · exact h.placeAt

theorem State.Keeps.execTeamPlacement {grid col} (h : s₀.Keeps s) : s₀.KeepsOut (Machine.execTeamPlacement grid col s) := by
  unfold Machine.execTeamPlacement
  refine .next ?_
  split
  · exact h
  refine keeps_ite h ?_
  split
  · have ht := h.placeGrid _ ‹_›
    exact ht
  · exact h

theorem State.Keeps.execCooperativeGuard {grid} (h : s₀.Keeps s) : s₀.KeepsOut (Machine.execCooperativeGuard grid s) := by
  unfold Machine.execCooperativeGuard
  refine .next ?_
  split
  · exact keeps_ite h h
  · exact h

theorem State.Keeps.execGridSignal {grid} (h : s₀.Keeps s) : s₀.KeepsOut (Machine.execGridSignal grid s) := by
  unfold Machine.execGridSignal
  refine .next ?_
  split
  · exact h
  refine keeps_ite h ?_
  extract_lets w va done m fault
  have hdone : ∀ t, s₀.Keeps t → s₀.Keeps (done t) := fun t ht => ht.modGrid
  have hfault : ∀ t code, s₀.Keeps t → s₀.Keeps (fault t code) := by
    intro t code ht
    unfold fault
    refine keeps_ite ht ?_
    extract_lets u
    have hu : s₀.Keeps u := keeps_ite ht.countError ht.report
    exact keeps_ite (hdone _ hu) hu.modGrid
  split
  · exact hfault _ _ (h.xlateAgent.of_eq ‹_›)
  · rename_i u tgt e
    have hu : s₀.Keeps u := h.xlateAgent.of_eq e
    refine keeps_ite hu (keeps_ite (hfault _ _ hu) ?_)
    split
    · exact keeps_ite hu (hdone _ hu.homeArrive.localWrite)
    · exact hfault _ _ hu
    · exact hdone _ hu
    · exact hdone _ hu

theorem State.Keeps.applyTags {k age} (h : s₀.Keeps s) : s₀.Keeps (s.applyTags k age) := by
  refine h.foldl fun t p ht => ?_
  split
  · exact ht.execTtagApply _ ‹_›
  · exact ht

theorem State.Keeps.successorGrid {old g hv} (h : s₀.Keeps s) : s₀.Keeps (s.successorGrid old g hv).1 := by
  unfold State.successorGrid
  split <;> exact h

theorem State.SpadOk.successorOf {w mask id now age} (h : s₀.SpadOk tm) : s₀.SpadOk (tm.successorOf w mask id now age) := by
  intro hr
  change (if mask.testBit 8 then tm.spad else []).wf = true
  split
  · exact h hr
  · exact Memory.wf_nil

theorem State.Keeps.execHandoverDrainComplete {col slot} (h : s₀.Keeps s) : s₀.KeepsOut (Machine.execHandoverDrainComplete col slot s) := by
  unfold Machine.execHandoverDrainComplete
  refine .next ?_
  split
  · exact h
  rename_i tm htm
  have htm : s₀.SpadOk tm := h.team htm
  split
  · refine keeps_ite (keeps_ite (keeps_ite (h.setTeam htm.of_eq).barrier h) ?_) h
    extract_lets um u vm
    have hum : s₀.SpadOk um := htm.of_eq (by simp [um])
    have hu : s₀.Keeps u := (h.setTeam (tm := { um with stream := um.stream.stop }) hum).applyTags
    have hvm : s₀.SpadOk vm := by
      unfold vm
      cases e : u.team? _ with
      | none => exact hum
      | some tm => exact hu.team e
    split
    rename_i v id hv
    extract_lets succ w z
    have hv : s₀.Keeps v := hu.successorGrid.of_eq hv
    have hz : s₀.Keeps z := hv.modGrid.retire
    have hsucc : s₀.SpadOk succ := hvm.successorOf
    exact .barrier (hz.setTeam hsucc)
  · exact h

theorem State.Keeps.execSuccessorStart {col slot} (h : s₀.Keeps s) : s₀.KeepsOut (Machine.execSuccessorStart col slot s) := by
  unfold Machine.execSuccessorStart
  extract_lets
  refine .next ?_
  split
  · exact h
  split
  · exact h
  split
  · exact h
  split
  · exact h
  · exact h.startTeam (h.team ‹_›).of_eq

theorem State.Keeps.execGbarAdmissionWindow {grid} (h : s₀.Keeps s) : s₀.KeepsOut (Machine.execGbarAdmissionWindow grid s) :=
  .next (.foldl h fun _ _ ht => ht.modTeam)

/-! ### Clause starts, parking and halts (Preempt) -/

theorem State.Keeps.dmMiss {k} (h : s₀.Keeps s) : s₀.Keeps (s.dmMiss k) := by
  unfold State.dmMiss
  split
  · exact h
  · exact keeps_ite h (keeps_ite h.dmEnd h)

theorem State.Keeps.fetch {k tm pc n} (h : s₀.Keeps s) : s₀.Keeps (s.fetch k tm pc n).1 := h.colRead

theorem State.Keeps.fetchFault {k tm b code info va} (h : s₀.Keeps s) : s₀.Keeps (s.fetchFault k tm b code info va) :=
  keeps_ite h.report.freezeTeam.settle (keeps_ite h.modThreads h.modThreads.reportOnce).settle

theorem State.Keeps.startClause {k idx tm b} (h : s₀.Keeps s) : s₀.Keeps (s.startClause k idx tm b) := by
  unfold State.startClause
  extract_lets _ s₁
  have hs₁ : s₀.Keeps s₁ := h.modThreads
  split
  · exact (hs₁.fetch.of_eq ‹_›).fetchFault
  extract_lets
  split
  · exact (hs₁.fetch.of_eq ‹_›).takeDecodeTrap
  split
  · exact hs₁.fetch.of_eq ‹_›
  split
  · exact ((hs₁.fetch.of_eq ‹_›).fetch.of_eq ‹_›).fetchFault
  split
  · exact ((hs₁.fetch.of_eq ‹_›).fetch.of_eq ‹_›).takeDecodeTrap
  · exact ((hs₁.fetch.of_eq ‹_›).fetch.of_eq ‹_›).modThreads.modBundle

theorem State.Keeps.execClauseStart {col slot bundle} (h : s₀.Keeps s) : s₀.KeepsOut (Machine.execClauseStart col slot bundle s) := by
  unfold Machine.execClauseStart
  extract_lets
  refine .next ?_
  split
  · exact h
  split
  · exact h
  · exact keeps_ite (h.setTeam (h.team ‹_›).of_eq).startClause.modTeam h

theorem State.Keeps.execFormationPoint {col layer slice} (h : s₀.Keeps s) : s₀.KeepsOut (Machine.execFormationPoint col layer slice s) :=
  .next (h.foldl fun _ _ ht => keeps_ite ht.modTeam ht)

theorem State.Keeps.execGroupCollectiveConvergence {col slot group} (h : s₀.Keeps s) :
    s₀.KeepsOut (Machine.execGroupCollectiveConvergence col slot group s) :=
  .next h.modTeam

theorem State.Keeps.execSleepExpiry {col slot thread} (h : s₀.Keeps s) : s₀.KeepsOut (Machine.execSleepExpiry col slot thread s) := .next h.modTeam

theorem State.Keeps.execVgrowGrant {col slot group} (h : s₀.Keeps s) : s₀.KeepsOut (Machine.execVgrowGrant col slot group s) :=
  .next (keeps_ite h.modTeam h)

theorem State.Keeps.execVgrowDenialAllWaiting {col layer} (h : s₀.Keeps s) : s₀.KeepsOut (Machine.execVgrowDenialAllWaiting col layer s) := by
  unfold Machine.execVgrowDenialAllWaiting
  extract_lets teams asks stuck met holders young
  clear_value young
  refine .next ?_
  split
  · exact keeps_ite (h.modTeam fun tm => Team.foldl_spad fun _ _ => by simp) h
  · exact h

theorem State.Keeps.execVgrowDenialTooLong {col slot group} (h : s₀.Keeps s) : s₀.KeepsOut (Machine.execVgrowDenialTooLong col slot group s) := by
  unfold Machine.execVgrowDenialTooLong
  extract_lets
  refine .next ?_
  split
  · exact h
  split
  · exact keeps_ite h.modTeam h
  · exact h

theorem State.Keeps.execParkedTeamPlace {col slot} (h : s₀.Keeps s) : s₀.KeepsOut (Machine.execParkedTeamPlace col slot s) := by
  unfold Machine.execParkedTeamPlace
  extract_lets
  refine .next ?_
  split
  · exact h
  extract_lets
  split
  · exact h
  split
  · exact keeps_ite (h.startTransfer.setTeam (h.team ‹_›).of_eq) h.holdTransfer
  split
  · exact h
  split
  · exact h.modTeam
  · exact h

theorem State.Keeps.execParkingPlacingComplete {col slot} (h : s₀.Keeps s) : s₀.KeepsOut (Machine.execParkingPlacingComplete col slot s) := by
  unfold Machine.execParkingPlacingComplete
  extract_lets
  refine .next ?_
  split
  · exact h
  split
  · exact keeps_ite h (h.markPath.setTeam (h.team ‹_›).of_eq).settle
  · exact keeps_ite h (h.markPath.setTeam (h.team ‹_›).of_eq).settle
  · exact keeps_ite (keeps_ite (h.startTransfer.setTeam (h.team ‹_›).of_eq) h.holdTransfer) h
  · exact h

theorem State.Keeps.setBusy {ck b} (h : s₀.Keeps s) : s₀.Keeps (s.setBusy ck b) := h

theorem State.Keeps.setCmdErr {ck} (h : s₀.Keeps s) : s₀.Keeps (s.setCmdErr ck) := h

theorem State.Keeps.setCstate {ck v} (h : s₀.Keeps s) : s₀.Keeps (s.setCstate ck v) := h

theorem State.Keeps.setQhalt {ck q v} (h : s₀.Keeps s) : s₀.Keeps (s.setQhalt ck q v) := keeps_ite h.rsetBits h.rsetBits

theorem State.Keeps.clearQhalt {ck} (h : s₀.Keeps s) : s₀.Keeps (s.clearQhalt ck) := h

theorem State.Keeps.startHalt {ck q cmd spare} (h : s₀.Keeps s) : s₀.Keeps (s.startHalt ck q cmd spare) :=
  .setBusy (.modCtx (.foldl h fun _ _ ht => ht.modTeam.dmMiss))

theorem State.Keeps.parkAll {gs} (h : s₀.Keeps s) : s₀.Keeps (s.parkAll gs) := h.mapTeams

theorem State.Keeps.endCommand {ck} (h : s₀.Keeps s) : s₀.Keeps (s.endCommand ck) :=
  (h.modCtx.setBusy.foldl fun _ _ ht => ht.freezeOther).foldl fun _ _ ht => ht.settle

theorem State.Keeps.releaseGrids {gs} (h : s₀.Keeps s) : s₀.Keeps (s.releaseGrids gs) := .foldl h fun _ _ ht => ht.modTeam.beginHandover

theorem State.Keeps.releaseTeam {k} (h : s₀.Keeps s) : s₀.Keeps (s.releaseTeam k) := by
  unfold State.releaseTeam
  split
  · exact h
  split
  · exact h
  extract_lets s₁ s₂
  have hs₁ : s₀.Keeps s₁ := h.modTeam
  have hs₂ : s₀.Keeps s₂ := hs₁.foldl fun _ _ ht => ht.endReq
  split
  · exact keeps_ite hs₂.retireAbandoned hs₂
  · exact hs₂.beginHandover

theorem State.Keeps.releaseFrozen {ck spare} (h : s₀.Keeps s) : s₀.Keeps (s.releaseFrozen ck spare) := .foldl h fun _ _ ht => ht.releaseTeam

theorem State.Keeps.command {ck act} (h : s₀.Keeps s) (hact : ∀ t, s₀.Keeps t → s₀.Keeps (act t)) : s₀.KeepsOut (s.command ck act) :=
  .next (keeps_ite h.setCmdErr (hact _ h))

theorem State.Keeps.haltQueue {ck q} (h : s₀.Keeps s) : s₀.Keeps (s.haltQueue ck q) :=
  keeps_ite h.setCmdErr (keeps_ite h.setQhalt h.setQhalt.startHalt)

theorem State.Keeps.execHaltQueue {fn c q} (h : s₀.Keeps s) : s₀.KeepsOut (Machine.execHaltQueue fn c q s) := h.command fun _ ht => ht.haltQueue

theorem State.Keeps.haltContext {ck spare} (h : s₀.Keeps s) : s₀.Keeps (s.haltContext ck spare) := keeps_ite h.setCmdErr (keeps_ite h h.startHalt)

theorem State.Keeps.execHaltContext {fn c} (h : s₀.Keeps s) : s₀.KeepsOut (Machine.execHaltContext fn c s) := h.command fun _ ht => ht.haltContext

theorem State.Keeps.resumeQueue {ck q} (h : s₀.Keeps s) : s₀.Keeps (s.resumeQueue ck q) := keeps_ite h.setCmdErr (keeps_ite h.setQhalt.releaseGrids h)

theorem State.Keeps.execResumeQueue {fn c q} (h : s₀.Keeps s) : s₀.KeepsOut (Machine.execResumeQueue fn c q s) := h.command fun _ ht => ht.resumeQueue

theorem State.Keeps.resumeInPlace {ck spare} (h : s₀.Keeps s) : s₀.Keeps (s.resumeInPlace ck spare) :=
  h.releaseGrids.releaseFrozen.modCtx.clearQhalt.setCstate

/-! ### Saves and resumes (Save) -/

theorem State.Keeps.preRecord {ck code info} (h : s₀.Keeps s) : s₀.Keeps (s.preRecord ck code info) := by
  unfold State.preRecord
  split
  exact (h.free.of_eq ‹_›).report

theorem State.Keeps.areaFault {ck kind e} (h : s₀.Keeps s) : s₀.Keeps (s.areaFault ck kind e) := by
  unfold State.areaFault
  extract_lets s₁
  have hs₁ : s₀.Keeps s₁ := h.modCtx
  split
  · exact hs₁
  split
  exact (hs₁.free.of_eq ‹_›).reportOnce

theorem State.Keeps.saveCheck {ck cmd} (h : s₀.Keeps s) : s₀.Keeps (s.saveCheck ck cmd) :=
  keeps_ite h.setCstate.setCmdErr.preRecord.endCommand h.setCstate.modCtx

theorem State.Keeps.saveRelease {ck cmd} (h : s₀.Keeps s) : s₀.Keeps (s.saveRelease ck cmd) :=
  (h.foldl fun _ _ ht => ht.foldl fun _ _ ht' => ht'.startRelease).modCtx

theorem State.Keeps.saveWrite {ck off bs cmd step} (h : s₀.Keeps s) : s₀.Keeps (s.saveWrite ck off bs cmd step) := by
  unfold State.saveWrite
  split
  · exact (h.virtWrite.of_eq ‹_›).areaFault
  · exact (h.virtWrite.of_eq ‹_›).modCtx

theorem State.Keeps.saveBegin {ck cmd} (h : s₀.Keeps s) : s₀.Keeps (s.saveBegin ck cmd) := keeps_ite h.modCtx.saveWrite h.modCtx.saveWrite.modCtx

theorem State.Keeps.haltDone {ck cmd} (h : s₀.Keeps s) : s₀.Keeps (s.haltDone ck cmd) := by
  unfold State.haltDone
  extract_lets _ s₁ s₂
  have hs₁ : s₀.Keeps s₁ := h.parkAll
  have hs₂ : s₀.Keeps s₂ := hs₁.mapTeams
  split
  · exact hs₁.endCommand
  · exact hs₁.setCstate.endCommand
  · exact hs₂.saveCheck

theorem State.SpadOk.restoreTeam {ck v grid cluster backing extent} : s₀.SpadOk (s.restoreTeam ck v grid cluster backing extent) :=
  fun _ => Memory.wf_putList Memory.wf_nil _ _

theorem State.Keeps.restoreCluster {ck cards ids ms c0} (h : s₀.Keeps s) : s₀.KeepsOpt (s.restoreCluster ck cards ids ms c0) := by
  unfold State.restoreCluster
  extract_lets card w
  split
  · exact .none
  split
  · exact .none
  extract_lets keyOf cluster
  refine .foldl (.some h) fun o p ho => ?_
  split
  · rename_i t _ k b e _
    have ht : s₀.Keeps t := ho.of_eq rfl
    extract_lets v u tm eb c
    clear_value eb
    have hu : s₀.Keeps u := ht.bind
    have htm : s₀.SpadOk tm := .restoreTeam
    split
    · exact .none
    rename_i eb
    extract_lets tm' x waits y
    have htm' : s₀.SpadOk tm' := htm
    have hx : s₀.Keeps x := by
      unfold x
      split
      · exact keeps_ite (hu.startTransfer.setTeam htm') (hu.setTeam htm').holdTransfer
      · exact hu.setTeam htm'
    have hy : s₀.Keeps y := hx.modGrid
    split
    extract_lets z
    have hz : s₀.Keeps z := hy.modCtx
    exact .some (hz.foldl fun _ _ ht => ht.modThreads)
  · exact .none

theorem State.Keeps.restoreAll {ck cards ids l} (h : s₀.Keeps s) : s₀.KeepsOpt (s.restoreAll ck cards ids l) := by
  induction l generalizing s with
  | nil => exact .some h
  | cons ms l ih =>
    unfold State.restoreAll
    split
    · exact .none
    · rename_i t e
      obtain ⟨c, -, hc⟩ := List.exists_of_findSome?_eq_some e
      exact ih (h.restoreCluster t hc)

theorem State.Keeps.restoreArea {ck a} (h : s₀.Keeps s) : s₀.KeepsOpt (s.restoreArea ck a) := by
  unfold State.restoreArea
  extract_lets base N resident one gs u look
  have hu : s₀.Keeps u := h
  exact hu.restoreAll.mapState fun _ ht => ht.foldl fun _ _ ht => ht.setIntake

theorem State.Keeps.abandonHandovers {ck old ids} (h : s₀.Keeps s) : s₀.Keeps (s.abandonHandovers ck old ids) := by
  unfold State.abandonHandovers
  refine h.foldl fun t a ht => ?_
  split
  · exact ht
  · exact keeps_ite ht.retireAbandoned ht

theorem State.Keeps.resumeSaved {ck spare} (h : s₀.Keeps s) : s₀.Keeps (s.resumeSaved ck spare) := by
  unfold State.resumeSaved
  extract_lets _ none_ wait refuse
  have hnone : ∀ t, s₀.Keeps t → s₀.Keeps (none_ t) := fun _ ht => ht.resumeInPlace.endCommand
  have hwait : ∀ t, s₀.Keeps t → s₀.Keeps (wait t) := fun _ ht => ht.modCtx.setBusy
  have hrefuse : ∀ t i n, s₀.Keeps t → s₀.Keeps (refuse t i n) := fun _ _ _ ht => ht.setCmdErr.preRecord.endCommand
  split
  · rename_i u _ e
    have hu : s₀.Keeps u := h.virtRead.of_eq e
    exact keeps_ite (hnone _ hu) (hwait _ hu).areaFault
  rename_i u hdr e
  have hu : s₀.Keeps u := h.virtRead.of_eq e
  extract_lets
  split
  · exact keeps_ite (hrefuse _ _ _ hu) (hnone _ hu)
  split
  · exact (hwait _ (hu.virtRead.of_eq ‹_›)).areaFault
  rename_i v bytes e
  have hv : s₀.Keeps v := hu.virtRead.of_eq e
  extract_lets
  split
  · exact hrefuse _ _ _ hv
  split
  · exact hwait _ hv
  · exact (hwait _ (hv.virtWrite.of_eq ‹_›)).areaFault
  · rename_i w _ e
    have hw : s₀.Keeps w := hv.virtWrite.of_eq e
    extract_lets u x y
    have hu : s₀.Keeps u := hw.restoreArea.getD hw
    have hx : s₀.Keeps x := hu.modCtx
    have hy : s₀.Keeps y := hx.clearQhalt.setCstate.releaseFrozen
    exact hy.abandonHandovers.endCommand

theorem State.Keeps.resumeContext {ck spare} (h : s₀.Keeps s) : s₀.Keeps (s.resumeContext ck spare) := keeps_ite h.resumeSaved h.resumeInPlace

theorem State.Keeps.execResumeContext {fn c} (h : s₀.Keeps s) : s₀.KeepsOut (Machine.execResumeContext fn c s) :=
  h.command fun _ ht => ht.resumeContext

theorem State.Keeps.saveContext {ck reason spare} (h : s₀.Keeps s) : s₀.Keeps (s.saveContext ck reason spare) := keeps_ite h.setCmdErr h.startHalt

theorem State.Keeps.execSaveContext {fn c} (h : s₀.Keeps s) : s₀.KeepsOut (Machine.execSaveContext fn c s) := h.command fun _ ht => ht.saveContext

theorem State.Keeps.execHaltComplete {fn c} (h : s₀.Keeps s) : s₀.KeepsOut (Machine.execHaltComplete fn c s) := by
  unfold Machine.execHaltComplete
  extract_lets
  refine .next ?_
  split
  · exact h
  split
  · exact keeps_ite h.haltDone h
  · exact keeps_ite h.saveBegin h
  · exact keeps_ite h.saveRelease h
  · exact keeps_ite h h.resumeSaved
  · exact h

theorem State.Keeps.saveEnd {ck} (h : s₀.Keeps s) : s₀.Keeps (s.saveEnd ck) :=
  .endCommand (.setCstate (.modCtx (((h.modCtx.foldl fun _ _ ht => ht.settle).foldl fun _ _ ht => ht.endReq).foldl fun _ _ ht => ht.freeTeam)))

theorem State.Keeps.execSaveComplete {fn c} (h : s₀.Keeps s) : s₀.KeepsOut (Machine.execSaveComplete fn c s) := by
  unfold Machine.execSaveComplete
  extract_lets
  refine .next ?_
  split
  · exact h
  split
  · exact h
  split
  · exact keeps_ite h.saveWrite h
  · exact keeps_ite h.saveWrite h
  · exact keeps_ite h.saveEnd h
  · exact h

/-! ### Accesses after issue (Homes) -/

theorem State.Keeps.performWrite {c ck who a line op} (h : s₀.Keeps s) : s₀.Keeps (s.performWrite c ck who a line op).1 := by
  unfold State.performWrite
  split
  split
  exact ((h.writeBack.of_eq ‹_›).homeArrive.of_eq ‹_›).localWrite

theorem State.Keeps.performHome {c ck who a key} (h : s₀.Keeps s) : s₀.Keeps (s.performHome c ck who a key).1 := by
  unfold State.performHome
  extract_lets _ _ atomic
  have hatomic : ∀ a a' a'' a''', s₀.Keeps (atomic a a' a'' a''').1 := by
    intro a a' a'' a'''
    unfold atomic
    exact keeps_ite_fst h h.performWrite
  split
  · exact h
  split
  · exact h.performWrite
  · exact hatomic _ _ _ _
  · exact hatomic _ _ _ _
  · exact h

theorem State.Keeps.performLoad {c floor a key} (h : s₀.Keeps s) : s₀.Keeps (s.performLoad c floor a key).1 := by
  unfold State.performLoad
  extract_lets
  split
  · exact h
  split
  · exact h
  split
  · exact h
  split
  · exact keeps_ite_fst (keeps_ite h h.writeBack) h
  split
  · exact h
  split
  · exact h
  split
  · exact (h.grant.of_eq ‹_›).fill
  · exact h.grant.of_eq ‹_›

theorem State.Keeps.performHbm {c slot ck floor who a key} (h : s₀.Keeps s) : s₀.Keeps (s.performHbm c slot ck floor who a key).1 := by
  unfold State.performHbm
  split
  · exact keeps_ite_fst h.performHome (keeps_ite_fst h h.colStore.localWrite)
  · exact h.performHome
  · exact h.performHome
  · exact h.performLoad

theorem State.Keeps.performWin {c ck who a key} (h : s₀.Keeps s) : s₀.Keeps (s.performWin c ck who a key).1 := by
  unfold State.performWin
  split
  · exact h.performHome
  · exact h.performHome
  · exact h.performHome
  · exact keeps_ite_fst h (keeps_ite_fst h h)

theorem State.Keeps.performOut {ck a dev va} (h : s₀.Keeps s) : s₀.Keeps (s.performOut ck a dev va).1 := by
  unfold State.performOut
  extract_lets _ _ s₁
  have hs₁ : s₀.Keeps s₁ := h
  split
  · exact h
  · split <;> exact hs₁

theorem State.Keeps.performMember {k tm a mem} (h : s₀.Keeps s) : s₀.Keeps (s.performMember k tm a mem).1 := by
  unfold State.performMember
  split
  · split
    exact h.free.of_eq ‹_›
  · exact keeps_ite_fst h (keeps_ite_fst h h)

theorem State.Keeps.performAt {c slot ck floor priv who a} (h : s₀.Keeps s) : s₀.Keeps (s.performAt c slot ck floor priv who a).1 := by
  unfold State.performAt
  extract_lets
  split
  · split
    · exact keeps_ite_fst (h.xlate.of_eq ‹_›) (h.xlate.of_eq ‹_›)
    · exact keeps_ite_fst (h.xlate.of_eq ‹_›) (h.xlate.of_eq ‹_›)
    · exact h.xlate.of_eq ‹_›
  · exact (h.xlate.of_eq ‹_›).performHbm
  · exact (h.xlate.of_eq ‹_›).performWin
  · split
    · exact keeps_ite_fst (h.xlate.of_eq ‹_›).performOut (h.xlate.of_eq ‹_›)
    · exact keeps_ite_fst (h.xlate.of_eq ‹_›).performOut (h.xlate.of_eq ‹_›)
    · exact (h.xlate.of_eq ‹_›).performOut
  · exact (h.xlate.of_eq ‹_›).performOut

theorem State.Keeps.modAccess {k id f} (h : s₀.Keeps s) : s₀.Keeps (s.modAccess k id f) := h.modTeam

theorem State.Keeps.accDone {k a t peer} (h : s₀.Keeps s) : s₀.Keeps (s.accDone k a t peer) := h.modTeam

theorem State.Keeps.discardEntry {c e} (h : s₀.Keeps s) : s₀.Keeps (s.discardEntry c e) := h.report

theorem State.Keeps.dropAccess {k id} (h : s₀.Keeps s) : s₀.Keeps (s.dropAccess k id) := h.modTeam

theorem State.Keeps.suspend {k tm a} (h : s₀.Keeps s) : s₀.Keeps (s.suspend k tm a) := keeps_ite (h.dropAccess.sideLogs.getD h.modAccess) h.modAccess

theorem State.Keeps.accFault {k tm a code info va} (h : s₀.Keeps s) : s₀.Keeps (s.accFault k tm a code info va) :=
  keeps_ite h (keeps_ite h.suspend (keeps_ite (keeps_ite h.report.dropAccess.discardEntry h.report.modAccess).freezeTeam.settle h.reportOnce.suspend))

theorem State.Keeps.halfDone {k a p} (h : s₀.Keeps s) : s₀.Keeps (s.halfDone k a p) := by
  unfold State.halfDone
  split
  · exact h.modAccess
  · exact h.modTeam.modAccess
  · exact h.modTeam.modAccess
  · exact h.modTeam.modAccess
  · exact h

theorem State.Keeps.performAccess {k tm a} (h : s₀.Keeps s) : s₀.Keeps (s.performAccess k tm a).1 := by
  unfold State.performAccess
  extract_lets lower
  split
  rename_i u p e
  have hu : s₀.Keeps u := by
    split at e
    · exact h.performMember.of_eq e
    · exact h.performAt.of_eq e
  split
  · exact hu
  · exact hu.accFault
  split
  · exact hu.halfDone
  split
  · exact hu.modAccess
  · exact hu.modAccess
  · exact hu.accDone
  · exact hu.accDone
  · exact hu

theorem State.Keeps.performLanes {k tm a} (h : s₀.Keeps s) : s₀.Keeps (s.performLanes k tm a).1 := by
  unfold State.performLanes
  refine h.foldlFst fun p a' ht => ?_
  split
  exact ht.performAccess.of_eq ‹_›

theorem State.Keeps.performOrphan {c o} (h : s₀.Keeps s) : s₀.Keeps (s.performOrphan c o) := by
  unfold State.performOrphan
  extract_lets rest t0 half done hold
  have hrest : ∀ t, s₀.Keeps t → s₀.Keeps (rest t) := fun _ ht => ht.modCol
  have hdone : ∀ t n peer, s₀.Keeps t → s₀.Keeps (done t n peer) := by
    intro t n peer ht
    unfold done
    split
    rename_i u n e
    have hu : s₀.Keeps u := by
      split at e
      · exact ht.writeBack.of_eq e
      · cases e
        exact ht
    exact .modCol (.modGrid (keeps_ite hu.modCol (hrest _ hu)))
  refine keeps_ite h ?_
  split
  rename_i u p e
  have hu : s₀.Keeps u := h.performAt.of_eq e
  split
  · exact hu
  · exact hdone _ _ _ hu
  · exact hdone _ _ _ hu
  · exact hdone _ _ _ hu
  · exact hdone _ _ _ hu
  · extract_lets r w v
    have hv : s₀.Keeps v := keeps_ite hu hu.reportOnce
    have hw : s₀.Keeps w := hrest _ hu.report
    refine keeps_ite hu (keeps_ite (keeps_ite hw.discardEntry hw) ?_)
    have hhold : s₀.Keeps (hold v) := hv.modCol
    split
    · exact (hrest _ hv).sideLogs.getD hhold
    · exact (hrest _ hv).sideLogs.getD hhold
    · exact hhold

theorem State.Keeps.execHomeRead {col slot entry} (h : s₀.Keeps s) : s₀.KeepsOut (Machine.execHomeRead col slot entry s) := by
  unfold Machine.execHomeRead
  extract_lets
  refine .next ?_
  split
  · exact keeps_ite (h.foldl fun _ _ ht => ht.performOrphan) h
  split
  · exact h
  split
  · exact keeps_ite h h.demand.performLanes
  · exact h

theorem State.Keeps.execHomeWriteApply {line} (h : s₀.Keeps s) : s₀.KeepsOut (Machine.execHomeWriteApply line s) := .next h.applyDue

theorem State.Keeps.releaseStep {k t} (h : s₀.Keeps s) : s₀.Keeps (s.releaseStep k t) := by
  unfold State.releaseStep
  split
  · exact h
  · exact keeps_ite (keeps_ite (h.foldl fun _ _ ht => ht.startRelease).modAccess h) (keeps_ite h.modAccess h)

theorem State.Keeps.holdStep {k t} (h : s₀.Keeps s) : s₀.Keeps (s.holdStep k t) := by
  unfold State.holdStep
  split
  · exact h
  split
  · exact h
  · exact keeps_ite (keeps_ite (keeps_ite h.startRelease.modThread h) (keeps_ite h.modThread h)) (keeps_ite h.modThread h)

theorem State.Keeps.execHorizonWaitEnd {col slot thread} (h : s₀.Keeps s) : s₀.KeepsOut (Machine.execHorizonWaitEnd col slot thread s) :=
  .next h.releaseStep.holdStep

theorem State.Keeps.grantAcquires {ck addr n} (h : s₀.Keeps s) : s₀.KeepsOpt (s.grantAcquires ck addr n) := by
  induction n generalizing s with
  | zero =>
    unfold State.grantAcquires
    exact .some h
  | succ n ih =>
    unfold State.grantAcquires
    split
    · exact .none
    · exact ih (h.countAcquire.of_eq ‹_›).capture

theorem State.Keeps.execCountedAcquireGrant {col slot thread} (h : s₀.Keeps s) : s₀.KeepsOut (Machine.execCountedAcquireGrant col slot thread s) := by
  unfold Machine.execCountedAcquireGrant
  extract_lets
  refine .next ?_
  split
  · exact h
  extract_lets
  split
  · exact h
  split
  · exact h
  split
  · split
    · split
      · exact (h.grantAcquires.of_eq ‹_›).modThread
      · exact h
    · exact h
  split
  · exact h
  extract_lets
  split
  · exact h
  split
  · exact h
  split
  · exact ((h.grantAcquires.of_eq ‹_›).performLanes.of_eq ‹_›).modThreads
  · exact h.performLanes

theorem State.Keeps.execPeerAcknowledgement {col slot thread} (h : s₀.Keeps s) : s₀.KeepsOut (Machine.execPeerAcknowledgement col slot thread s) := by
  unfold Machine.execPeerAcknowledgement
  extract_lets
  refine .next ?_
  split
  · exact keeps_ite h.modThread (keeps_ite h h.demand.modTeam)
  split
  · exact h
  split
  · exact h.modGrid
  split
  · exact h.modPut
  · exact h

theorem State.Keeps.deliver {k id} (h : s₀.Keeps s) : s₀.Keeps (s.deliver k id) := by
  unfold State.deliver
  split
  · exact h
  split
  · exact h
  · exact keeps_ite h.modAccess.accFault (h.setTeam (h.team ‹_›).of_eq)

theorem State.Keeps.execPendingWriteDelivery {col slot entry} (h : s₀.Keeps s) : s₀.KeepsOut (Machine.execPendingWriteDelivery col slot entry s) := by
  unfold Machine.execPendingWriteDelivery
  extract_lets
  refine .next ?_
  split
  · exact h
  split
  · exact h
  · exact keeps_ite h h.demand.deliver

theorem State.Keeps.execColumnCacheWriteBack {col line} (h : s₀.Keeps s) : s₀.KeepsOut (Machine.execColumnCacheWriteBack col line s) :=
  .next (keeps_ite h h.evict)

theorem State.Keeps.execWriteBackBufferRelease {col line} (h : s₀.Keeps s) : s₀.KeepsOut (Machine.execWriteBackBufferRelease col line s) :=
  .next h.modCol

theorem State.Keeps.execLeasecfgWrite {v} (h : s₀.Keeps s) : s₀.KeepsOut (Machine.execLeasecfgWrite v s) := .next (keeps_ite h.rset h)

/-! ### Migration and the stake bus (Migrate) -/

theorem State.Keeps.goFatal {code src} (h : s₀.Keeps s) : s₀.Keeps (s.goFatal code src) :=
  ((keeps_ite h h.rset).foldl fun _ _ ht => ht.raiseMsix).foldl fun _ _ ht => ht.report

theorem State.Keeps.abandonMigration {c} (h : s₀.Keeps s) : s₀.Keeps (s.abandonMigration c) := by
  unfold State.abandonMigration
  split
  · exact h
  extract_lets _ s₁
  have hs₁ : s₀.Keeps s₁ := h.modCol
  split
  · exact hs₁
  split
  · exact h
  · exact (keeps_ite hs₁.modTeam.dmEnd hs₁.modTeam).settle

theorem State.Keeps.closeCore {c l} (h : s₀.Keeps s) : s₀.Keeps (s.closeCore c l) := by
  unfold State.closeCore
  extract_lets s₁
  have hs₁ : s₀.Keeps s₁ := h.modCol
  split
  · exact keeps_ite hs₁.abandonMigration hs₁
  · exact hs₁

theorem State.Keeps.reportWorn {kind index worn spare} (h : s₀.Keeps s) : s₀.Keeps (s.reportWorn kind index worn spare) := by
  unfold State.reportWorn
  split
  · exact h.pfEvent
  split
  exact (h.free.of_eq ‹_›).pfFault

theorem State.Keeps.wearSite {c l} (h : s₀.Keeps s) : s₀.Keeps (s.wearSite c l) :=
  keeps_ite h (keeps_ite h.modCol.closeCore (.reportWorn h.modCol.closeCore))

theorem State.Keeps.wearSlice {i} (h : s₀.Keeps s) : s₀.Keeps (s.wearSlice i) := keeps_ite h (.reportWorn h)

theorem State.Keeps.wearStack {i} (h : s₀.Keeps s) : s₀.Keeps (s.wearStack i) := keeps_ite h (.reportWorn h)

theorem State.Keeps.disableLane {c b d g} (h : s₀.Keeps s) : s₀.Keeps (s.disableLane c b d g) :=
  keeps_ite (keeps_ite h.countError.wearSite h.countError).setLane.goFatal (keeps_ite h.countError.wearSite h.countError).setLane

theorem State.Keeps.remapLane {c b d g signal} (h : s₀.Keeps s) : s₀.Keeps (s.remapLane c b d g signal) :=
  keeps_ite h (keeps_ite h.disableLane h.setLane.pfEvent)

theorem State.Keeps.beginRealign {o} (h : s₀.Keeps s) : s₀.Keeps (s.beginRealign o) := by
  unfold State.beginRealign
  extract_lets _ _ s₁ s₂
  have hs₁ : s₀.Keeps s₁ := h.setLane
  have hs₂ : s₀.Keeps s₂ := hs₁
  exact hs₂.foldl fun _ _ ht => ht.remapLane

theorem State.Keeps.execRealignmentDue {col boundary direction group} (h : s₀.Keeps s) :
    s₀.KeepsOut (Machine.execRealignmentDue col boundary direction group s) := by
  unfold Machine.execRealignmentDue
  extract_lets u o v
  have hu : s₀.Keeps u := by
    unfold u
    split
    · exact keeps_ite h.relinquish h
    · exact h
  have hv : s₀.Keeps v := hu
  exact .next (keeps_ite h (keeps_ite hv hv.beginRealign))

theorem State.Keeps.execRealignmentStart {col boundary direction} (h : s₀.Keeps s) :
    s₀.KeepsOut (Machine.execRealignmentStart col boundary direction s) := by
  unfold Machine.execRealignmentStart
  refine .next ?_
  split
  · exact keeps_ite h h.beginRealign
  · exact h

theorem State.Keeps.execRealignmentForced {col boundary direction} (h : s₀.Keeps s) :
    s₀.KeepsOut (Machine.execRealignmentForced col boundary direction s) := by
  unfold Machine.execRealignmentForced
  refine .next ?_
  split
  · exact keeps_ite h.beginRealign h
  · exact h

theorem State.Keeps.execRealignmentEnd {col boundary direction locked} (h : s₀.Keeps s) :
    s₀.KeepsOut (Machine.execRealignmentEnd col boundary direction locked s) := by
  unfold Machine.execRealignmentEnd
  refine .next ?_
  split
  · exact h
  split
  · exact h
  extract_lets _ _ drop s₁
  have hdrop : ∀ t, s₀.Keeps t → s₀.Keeps (drop t) := by
    intro t ht
    unfold drop
    exact ht
  have hs₁ : s₀.Keeps s₁ := h.setLane
  exact keeps_ite (hdrop _ h.setLane) (keeps_ite (hdrop _ h.setLane).disableLane hs₁)

theorem State.Keeps.execStakeParityReplay {col boundary direction group signal} (h : s₀.Keeps s) :
    s₀.KeepsOut (Machine.execStakeParityReplay col boundary direction group signal s) := by
  unfold Machine.execStakeParityReplay
  refine .next (keeps_ite h ?_)
  extract_lets u k x failed here v w y op
  have hu : s₀.Keeps u := h.countError
  have hv : s₀.Keeps v := by
    unfold v
    split
    · exact keeps_ite hu.relinquish hu
    · exact hu
  have hw : s₀.Keeps w := hv.remapLane
  refine keeps_ite hu (keeps_ite hu.setLane (keeps_ite hw ?_))
  exact hw.frame rfl rfl rfl

theorem State.Keeps.execBackgroundTestStart {col boundary direction group} (h : s₀.Keeps s) :
    s₀.KeepsOut (Machine.execBackgroundTestStart col boundary direction group s) :=
  .next (keeps_ite h h)

theorem State.Keeps.execBackgroundTestRelinquish (h : s₀.Keeps s) : s₀.KeepsOut (Machine.execBackgroundTestRelinquish s) := by
  unfold Machine.execBackgroundTestRelinquish
  refine .next ?_
  split
  · exact h
  · exact h.relinquish

theorem State.Keeps.execBackgroundTestComplete {openBond} (h : s₀.Keeps s) : s₀.KeepsOut (Machine.execBackgroundTestComplete openBond s) := by
  unfold Machine.execBackgroundTestComplete
  refine .next ?_
  split
  · exact h
  split
  · exact h
  extract_lets s₁
  have hs₁ : s₀.Keeps s₁ := h
  split
  · split
    exact (hs₁.free.of_eq ‹_›).setLane
  · exact hs₁.setLane

theorem State.Keeps.govErr (h : s₀.Keeps s) : s₀.Keeps s.govErr := h

theorem State.Keeps.startMigration {k dst directed} (h : s₀.Keeps s) : s₀.Keeps (s.startMigration k dst directed) := h.modCol.modTeam

theorem State.Keeps.activities {l} (h : s₀.Keeps s) : s₀.Keeps (s.activities l).1 := by
  induction l generalizing s with
  | nil =>
    unfold State.activities
    exact h
  | cons a l ih =>
    unfold State.activities
    split
    split
    exact (ih (h.free.of_eq ‹_›)).of_eq ‹_›

theorem State.Keeps.mostActive {ts} (h : s₀.Keeps s) : s₀.Keeps (s.mostActive ts).1 := by
  unfold State.mostActive
  split
  exact h.activities.of_eq ‹_›

theorem State.Keeps.evacuate {c l} (h : s₀.Keeps s) : s₀.Keeps (s.evacuate c l) := by
  unfold State.evacuate
  split
  · exact h.mostActive.of_eq ‹_›
  split
  · exact h.mostActive.of_eq ‹_›
  split
  · exact (h.mostActive.of_eq ‹_›).startMigration
  · exact (h.mostActive.of_eq ‹_›).modTeam

theorem State.Keeps.dmTrigger {c} (h : s₀.Keeps s) : s₀.Keeps (s.dmTrigger c) := by
  unfold State.dmTrigger
  extract_lets
  split
  · exact h.dmEnd
  · exact keeps_ite h.dmEnd (keeps_ite h.dmEnd (keeps_ite h.dmEnd h.startMigration))

theorem State.Keeps.coolLayers {c l} (h : s₀.Keeps s) : s₀.Keeps (s.coolLayers c l) := by
  induction l generalizing s with
  | nil =>
    unfold State.coolLayers
    exact h
  | cons a l ih =>
    unfold State.coolLayers
    split
    · exact ih (h.mostActive.of_eq ‹_›)
    split
    · exact (h.mostActive.of_eq ‹_›).startMigration
    · exact ih (h.mostActive.of_eq ‹_›)

theorem State.Keeps.setTmax (h : s₀.Keeps s) : s₀.Keeps s.setTmax := h

theorem State.Keeps.execGovernorEvaluation {col} (h : s₀.Keeps s) : s₀.KeepsOut (Machine.execGovernorEvaluation col s) := by
  unfold Machine.execGovernorEvaluation
  refine .next (keeps_ite h ?_)
  split
  extract_lets s₁ s₂
  have hs₁ : s₀.Keeps s₁ := (h.free.of_eq ‹_›).rset.modCol.setTmax
  have hs₂ : s₀.Keeps s₂ := keeps_ite hs₁.dmTrigger hs₁
  split
  · exact hs₂
  split
  · exact hs₂.evacuate
  · exact hs₂.coolLayers

theorem State.Keeps.execDirectedMoveArm {col w2} (h : s₀.Keeps s) : s₀.KeepsOut (Machine.execDirectedMoveArm col w2 s) :=
  .next (keeps_ite h (keeps_ite h.govErr (keeps_ite h.rwrite.rsetBits h.rwrite)))

theorem State.Keeps.execDirectedMoveTrigger {col} (h : s₀.Keeps s) : s₀.KeepsOut (Machine.execDirectedMoveTrigger col s) :=
  .next (keeps_ite h (keeps_ite h.dmTrigger h))

theorem State.Keeps.execMigrationAbandon {col} (h : s₀.Keeps s) : s₀.KeepsOut (Machine.execMigrationAbandon col s) := by
  unfold Machine.execMigrationAbandon
  refine .next ?_
  split
  · split
    · exact keeps_ite h.abandonMigration h
    · exact h.modCol
  · exact h

theorem State.Keeps.execMigrationTransfer {col} (h : s₀.Keeps s) : s₀.KeepsOut (Machine.execMigrationTransfer col s) := by
  unfold Machine.execMigrationTransfer
  refine .next ?_
  split
  · exact h
  extract_lets
  split
  · exact h.modCol
  split
  · exact keeps_ite h (keeps_ite h.modCol.holdTransfer (.modCol (h.startTransfer.setTeam (h.team ‹_›).of_eq)))
  · exact h

theorem State.Keeps.execReturnForward {col slot entry} (h : s₀.Keeps s) : s₀.KeepsOut (Machine.execReturnForward col slot entry s) := by
  unfold Machine.execReturnForward
  extract_lets
  refine .next ?_
  split
  · exact h
  · exact keeps_ite h.demand.modTeam h

theorem State.Keeps.applyForwarded {k} (h : s₀.Keeps s) : s₀.Keeps (s.applyForwarded k) := by
  unfold State.applyForwarded
  split
  · exact h
  · exact h.foldl fun _ _ ht => ht.deliver

theorem State.Keeps.execMigrationResume {col} (h : s₀.Keeps s) : s₀.KeepsOut (Machine.execMigrationResume col s) := by
  unfold Machine.execMigrationResume
  refine .next ?_
  split
  · exact h
  extract_lets
  split
  · exact h.modCol
  rename_i tm htm
  have htm : s₀.SpadOk tm := h.team htm
  split
  · extract_lets u c held um v w
    have hum : s₀.SpadOk um := htm
    have hv : s₀.Keeps v := (h.markPath.setTeam hum).modCol.applyForwarded
    have hw : s₀.Keeps w := hv.modTeam
    exact keeps_ite h (keeps_ite hw.dmEnd hw).settle
  · exact h

/-! ### Translation control, page moves and windows (Xlate) -/

theorem State.Keeps.replaySide {ck lo size c} (h : s₀.Keeps s) : s₀.Keeps (s.replaySide ck lo size c) := by
  unfold State.replaySide
  extract_lets _ _ s₁
  have hs₁ : s₀.Keeps s₁ := h.modCol
  refine hs₁.foldl fun t a ht => ?_
  split
  · exact ht.modTeam
  · exact ht.modCol

theorem State.Keeps.retryTeam {k lo size} (h : s₀.Keeps s) : s₀.Keeps (s.retryTeam k lo size) := by
  unfold State.retryTeam
  split
  · exact h
  · exact keeps_ite (h.setTeam (h.team ‹_›).of_eq).handoverRead (h.setTeam (h.team ‹_›).of_eq)

theorem State.Keeps.forgetAts {ck lo size} (h : s₀.Keeps s) : s₀.Keeps (s.forgetAts ck lo size) := h

theorem State.Keeps.retry {ck lo size} (h : s₀.Keeps s) : s₀.Keeps (s.retry ck lo size) :=
  .enterRecords (.modCtx ((h.forgetAts.foldl fun _ _ ht => ht.replaySide).foldl fun _ _ ht => ht.retryTeam))

theorem State.Keeps.notice {ck va lo size isz} (h : s₀.Keeps s) : s₀.Keeps (s.notice ck va lo size isz) := h.retry.hwEvent

theorem State.Keeps.discardSide {ck} (h : s₀.Keeps s) : s₀.Keeps (s.discardSide ck) := by
  unfold State.discardSide
  refine .foldl (h.mapTeams fun p => ?_) fun _ _ ht => ht.discardEntry
  dsimp only
  split <;> rfl

theorem State.Keeps.dropXlats {drop} (h : s₀.Keeps s) : s₀.Keeps (s.dropXlats drop) := h

theorem State.Keeps.dropXlat {ck lo size} (h : s₀.Keeps s) : s₀.Keeps (s.dropXlat ck lo size) := h

theorem State.Keeps.dropCached {cache ck lo size} (h : s₀.Keeps s) : s₀.Keeps (s.dropCached cache ck lo size) := keeps_ite h.modCol h

theorem State.Keeps.disown {line} (h : s₀.Keeps s) : s₀.Keeps (s.disown line) := h

theorem State.Keeps.giveUp {p} (h : s₀.Keeps s) : s₀.Keeps (s.giveUp p) := .foldl h fun _ _ ht => ht.disown

theorem State.Keeps.shootDown {ck lo size} (h : s₀.Keeps s) : s₀.Keeps (s.shootDown ck lo size) :=
  h.dropXlat.giveUp.foldl fun _ _ ht => ht.writeBackAll

theorem State.Keeps.execPageTableWalk {col fn c va} (h : s₀.Keeps s) : s₀.KeepsOut (Machine.execPageTableWalk col fn c va s) := by
  unfold Machine.execPageTableWalk
  extract_lets
  refine .next (keeps_ite h ?_)
  split
  · exact keeps_ite h.askAts h.modCol
  · exact h

theorem State.Keeps.execTranslationControlWrite {fn c off v} (h : s₀.Keeps s) : s₀.KeepsOut (Machine.execTranslationControlWrite fn c off v s) :=
  .next (keeps_ite h.modCtx (keeps_ite h (keeps_ite h.rwrite.discardSide h.rwrite)))

theorem State.Keeps.execInvalidation {fn c v} (h : s₀.Keeps s) : s₀.KeepsOut (Machine.execInvalidation fn c v s) := .next (keeps_ite h h.rset.modCtx)

theorem State.Keeps.execInvalidationComplete {fn c} (h : s₀.Keeps s) : s₀.KeepsOut (Machine.execInvalidationComplete fn c s) := by
  unfold Machine.execInvalidationComplete
  extract_lets
  refine .next ?_
  split
  · exact h
  split
  extract_lets s₁ s₂
  have hs₁ : s₀.Keeps s₁ := h.shootDown.modCtx
  have hs₂ : s₀.Keeps s₂ := hs₁
  exact hs₂.rset.notice

theorem State.Keeps.keepAts {cache ck va log2size g} (h : s₀.Keeps s) : s₀.Keeps (s.keepAts cache ck va log2size g) := by
  unfold State.keepAts
  split
  · exact h
  · exact keeps_ite h h.dropCached.xlatKeep

theorem State.Keeps.execAtsTranslationCompletion {fn c va result rd wr} (h : s₀.Keeps s) :
    s₀.KeepsOut (Machine.execAtsTranslationCompletion fn c va result rd wr s) :=
  .next (keeps_ite h (keeps_ite (.keepAts h) (.keepAts h)))

theorem State.Keeps.pageFailed {ck va response} (h : s₀.Keeps s) : s₀.Keeps (s.pageFailed ck va response) := by
  unfold State.pageFailed
  extract_lets s₁ s₂
  have hs₁ : s₀.Keeps s₁ := by
    unfold s₁
    refine h.foldl fun t a ht => ?_
    split
    · exact keeps_ite ht ht.keepAts
    · exact ht
  have hs₂ : s₀.Keeps s₂ := hs₁.foldl fun _ _ ht => ht.foldl fun _ _ ht' => ht'.reportOnce
  exact hs₂.foldl fun _ _ ht => ht.foldl fun _ _ ht' => ht'.reportOnce

theorem State.Keeps.execPageRequestGroupResponse {fn c va response} (h : s₀.Keeps s) :
    s₀.KeepsOut (Machine.execPageRequestGroupResponse fn c va response s) := by
  unfold Machine.execPageRequestGroupResponse
  extract_lets
  refine .next ?_
  split
  · exact h
  · exact .foldl (.sendPage h) fun _ _ ht => keeps_ite ht.notice ht.pageFailed

theorem State.Keeps.execAtsInvalidateRequest {fn c va log2size} (h : s₀.Keeps s) :
    s₀.KeepsOut (Machine.execAtsInvalidateRequest fn c va log2size s) := by
  unfold Machine.execAtsInvalidateRequest
  extract_lets _ _ _ s₁
  have hs₁ : s₀.Keeps s₁ := h.dropXlats
  exact .next hs₁

theorem State.Keeps.putWords {key ws} (h : s₀.Keeps s) : s₀.Keeps (s.putWords key ws) := h.setHome.putLine

theorem State.Keeps.agentPut {id key ws} (h : s₀.Keeps s) : s₀.Keeps (s.agentPut id key ws) := h.recallDirty.homeArrive

theorem State.Keeps.markLeaf {pte id ws} (h : s₀.Keeps s) : s₀.Keeps (s.markLeaf pte id ws) := h.putWords.setHome

theorem State.Keeps.plmvTranslate {r} (h : s₀.Keeps s) : s₀.Keeps (s.plmvTranslate r) := by
  unfold State.plmvTranslate
  extract_lets done
  have hdone : ∀ t, s₀.Keeps t → s₀.Keeps (done t) := by
    intro t ht
    unfold done
    exact ht.modReq
  split
  · exact h.reqFault
  split
  · exact h
  split
  · exact keeps_ite (hdone _ h) h.reqFault
  split
  · exact hdone _ h
  split
  · exact h.reqFault
  · exact hdone _ (keeps_ite h h.xlatKeep)

theorem State.Keeps.plmvStart {r} (h : s₀.Keeps s) : s₀.Keeps (s.plmvStart r) := by
  unfold State.plmvStart
  extract_lets refuse
  have hrefuse : ∀ a, s₀.Keeps (refuse a) := by
    intro a
    unfold refuse
    exact h.reqFreeze
  split
  · exact hrefuse _
  split
  · exact keeps_ite (hrefuse _) h.reqFault
  split
  · exact h.reqFault
  split
  · exact hrefuse _
  · exact keeps_ite h.recallDirty h.recallDirty.markLeaf.modReq

theorem State.Keeps.moveLine {old new} (h : s₀.Keeps s) : s₀.Keeps (s.moveLine old new) := by
  unfold State.moveLine
  extract_lets bs p u v w
  have hu : s₀.Keeps u := h.putMem
  exact hu.setHome.setHome.setPoison

theorem State.Keeps.plmvLine {r i} (h : s₀.Keeps s) : s₀.Keeps (s.plmvLine r i) := by
  unfold State.plmvLine
  extract_lets _ _ done s₁
  have hdone : ∀ t, s₀.Keeps t → s₀.Keeps (done t) := by
    intro t ht
    unfold done
    exact ht.modReq
  have hs₁ : s₀.Keeps s₁ := h.recallDirty.recallDirty
  split
  · exact h
  split
  · exact hdone _ h
  split
  · exact h
  · exact h
  · exact keeps_ite h (keeps_ite hs₁.setHome hs₁)
  · exact keeps_ite (hdone _ h.moveLine) h

theorem State.Keeps.execPlmvLineMove {req line} (h : s₀.Keeps s) : s₀.KeepsOut (Machine.execPlmvLineMove req line s) :=
  .next (h.onReq fun _ => keeps_ite h.plmvLine (keeps_ite h (keeps_ite h.plmvTranslate h.plmvStart)))

theorem State.Keeps.execPlmvSwap {req} (h : s₀.Keeps s) : s₀.KeepsOut (Machine.execPlmvSwap req s) :=
  .next (h.onReq fun _ => keeps_ite h.agentPut.modReq h)

theorem State.Keeps.execPlmvRetire {req} (h : s₀.Keeps s) : s₀.KeepsOut (Machine.execPlmvRetire req s) :=
  .next (h.onReq fun _ => keeps_ite (h.shootDown.foldl fun _ _ ht => keeps_ite ht ht.setHome).endReq h)

theorem State.Keeps.setMoves {n l} (h : s₀.Keeps s) : s₀.Keeps { s with idNext := n, peerMoves := l } := h

theorem State.Keeps.execPeerMoveAttempt {fn c va peer} (h : s₀.Keeps s) : s₀.KeepsOut (Machine.execPeerMoveAttempt fn c va peer s) := by
  unfold Machine.execPeerMoveAttempt
  refine .next (keeps_ite h ?_)
  split
  · exact h
  refine keeps_ite h (keeps_ite ?_ (keeps_ite ?_ h))
  · extract_lets full u
    have hu : s₀.Keeps u := h.recallDirty
    refine keeps_ite h (keeps_ite hu ?_)
    split
    extract_lets v
    have hv : s₀.Keeps v := keeps_ite hu.rset hu
    exact keeps_ite hv.markLeaf.setMoves hv.putWords
  · exact keeps_ite h h.rset.setMoves

theorem State.Keeps.modMove {m f} (h : s₀.Keeps s) : s₀.Keeps (s.modMove m f) := h

theorem State.Keeps.pmLeaveLine {m w0 w3 i} (h : s₀.Keeps s) : s₀.Keeps (s.pmLeaveLine m w0 w3 i) := by
  unfold State.pmLeaveLine
  extract_lets _ s₁
  have hs₁ : s₀.Keeps s₁ := h.recallDirty
  split
  · exact keeps_ite h (keeps_ite hs₁.setHome hs₁)
  · exact keeps_ite (.modMove (.setHome h)) h
  · exact h

/-- The lines of a page that has left are no longer forwarded. -/
theorem State.Keeps.dropLines {m : PeerMove} {l : List Nat} (h : s₀.Keeps s) :
    s₀.Keeps (l.foldl (fun s i => (s.setHome (m.line i) {}).setPoison (m.line i) false) s) :=
  h.foldl fun _ _ ht => ht.setHome.setPoison

theorem State.Keeps.setCandidates {l} (h : s₀.Keeps s) : s₀.Keeps { s with candidates := l } := h

theorem State.Keeps.pmLeave {m w0} (h : s₀.Keeps s) : s₀.Keeps (s.pmLeave m w0) := by
  unfold State.pmLeave
  extract_lets tail key u v w
  have hu : s₀.Keeps u := h.shootDown
  have hv : s₀.Keeps v := hu.dropLines
  have hw : s₀.Keeps w := hv.setCandidates
  refine keeps_ite h ?_
  split
  · exact h.agentPut.modMove
  · exact keeps_ite h hw.agentPut.modMove
  · exact h.frame rfl rfl rfl

theorem State.Keeps.pmArriveLine {m i poison} (h : s₀.Keeps s) : s₀.Keeps (s.pmArriveLine m i poison) := by
  unfold State.pmArriveLine
  extract_lets l u
  have hu : s₀.Keeps u := h.putMem
  exact keeps_ite hu.setHome.setPoison.modMove h.recallDirty

theorem State.Keeps.pmArrive {m w0 w3} (h : s₀.Keeps s) : s₀.Keeps (s.pmArrive m w0 w3) := by
  unfold State.pmArrive
  split
  · exact h
  split
  · exact keeps_ite h h.agentPut.modMove
  · exact h.shootDown

theorem State.Keeps.execPeerMoveComplete {fn c va leaf} (h : s₀.Keeps s) : s₀.KeepsOut (Machine.execPeerMoveComplete fn c va leaf s) := by
  unfold Machine.execPeerMoveComplete
  extract_lets
  refine .next ?_
  split
  · exact h
  · exact keeps_ite (keeps_ite h (keeps_ite h.pmArriveLine h.pmLeaveLine)) (keeps_ite h (keeps_ite h.pmArrive h.pmLeave))

theorem State.Keeps.execPeerMoveControlWrite {fn c v} (h : s₀.Keeps s) : s₀.KeepsOut (Machine.execPeerMoveControlWrite fn c v s) := .next h.rwrite

theorem State.Keeps.execCsplanWrite {part v} (h : s₀.Keeps s) : s₀.KeepsOut (Machine.execCsplanWrite part v s) := .next (keeps_ite h h.rwrite)

theorem State.Keeps.l2Change {ck fromPf v} (h : s₀.Keeps s) : s₀.Keeps (s.l2Change ck fromPf v) :=
  keeps_ite h.rsetBits (keeps_ite h.rsetBits (keeps_ite h.rset h.rset.modCtx))

theorem State.Keeps.execL2partChange {fn c fromPf v} (h : s₀.Keeps s) : s₀.KeepsOut (Machine.execL2partChange fn c fromPf v s) := .next h.l2Change

theorem State.Keeps.execL2partWinHiStage {fn c v} (h : s₀.Keeps s) : s₀.KeepsOut (Machine.execL2partWinHiStage fn c v s) := .next h.rset

theorem State.Keeps.recallGroup {grp} (h : s₀.Keeps s) : s₀.Keeps (s.recallGroup grp) := h.giveUp

theorem State.Keeps.execL2partChangeComplete {fn c} (h : s₀.Keeps s) : s₀.KeepsOut (Machine.execL2partChangeComplete fn c s) := by
  unfold Machine.execL2partChangeComplete
  extract_lets ck mineLine u old rest mine v
  have hu : s₀.Keeps u := keeps_ite h.recallGroup h
  have hv : s₀.Keeps v := hu.filterWin
  refine .next (keeps_ite h ?_)
  split
  extract_lets rest' gone
  exact .retry (.rsetBits hv)

theorem State.Keeps.bankCorrected {b} (h : s₀.Keeps s) : s₀.Keeps (s.bankCorrected b) := .countError h

theorem State.Keeps.execHbmScrub {stack chan bank corrected} (h : s₀.Keeps s) : s₀.KeepsOut (Machine.execHbmScrub stack chan bank corrected s) :=
  .next (keeps_ite h.bankCorrected h)

theorem State.Keeps.execHbmRowSwap {stack chan bank row} (h : s₀.Keeps s) : s₀.KeepsOut (Machine.execHbmRowSwap stack chan bank row s) :=
  .next (keeps_ite h (keeps_ite h (keeps_ite (.pfEvent h) (keeps_ite h (.pfFault h)))))

theorem State.Keeps.execHbmRefreshWindow {stack} (h : s₀.Keeps s) : s₀.KeepsOut (Machine.execHbmRefreshWindow stack s) := .next (keeps_ite h h)

theorem State.Keeps.mraStart {stack op v} (h : s₀.Keeps s) : s₀.Keeps (s.mraStart stack op v) := by
  unfold State.mraStart
  split
  · exact h.rsetBits
  extract_lets s₁
  have hs₁ : s₀.Keeps s₁ := h.rsetBits
  exact hs₁

theorem State.Keeps.execMraReadBankCounts {stack v} (h : s₀.Keeps s) : s₀.KeepsOut (Machine.execMraReadBankCounts stack v s) := .next h.mraStart

theorem State.Keeps.execMraReadModeRegister {stack v} (h : s₀.Keeps s) : s₀.KeepsOut (Machine.execMraReadModeRegister stack v s) := .next h.mraStart

theorem State.Keeps.execMraClearBankCounts {stack v} (h : s₀.Keeps s) : s₀.KeepsOut (Machine.execMraClearBankCounts stack v s) := .next h.mraStart

theorem State.Keeps.execMraOperationComplete {stack} (h : s₀.Keeps s) : s₀.KeepsOut (Machine.execMraOperationComplete stack s) := by
  unfold Machine.execMraOperationComplete
  refine .next ?_
  split
  · exact h
  extract_lets _ s₁
  have hs₁ : s₀.Keeps s₁ := .rsetBits h
  split
  · exact hs₁.rset
  · split
    exact (hs₁.free.of_eq ‹_›).rset
  · exact hs₁

/-! ### Power (Power) -/

theorem State.Keeps.showColumn {c} (h : s₀.Keeps s) : s₀.Keeps (s.showColumn c) := h

theorem State.Keeps.execEstimatorPeriod {col counts temps} (h : s₀.Keeps s) : s₀.KeepsOut (Machine.execEstimatorPeriod col counts temps s) :=
  .next (keeps_ite h h.modCol.showColumn)

theorem State.Keeps.hoopOn (h : s₀.Keeps s) : s₀.Keeps s.hoopOn := h

theorem State.Keeps.execHoopBaseStop (h : s₀.Keeps s) : s₀.KeepsOut (Machine.execHoopBaseStop s) := .next (keeps_ite h (.rset (.hoopOn h)))

theorem State.Keeps.execHoopLayerStop {layer} (h : s₀.Keeps s) : s₀.KeepsOut (Machine.execHoopLayerStop layer s) := by
  unfold Machine.execHoopLayerStop
  extract_lets
  refine .next (keeps_ite h (h.foldl fun t a ht => ?_).hoopOn)
  extract_lets
  split
  exact .showColumn (.setCol ht)

theorem State.Keeps.execHoopcfgWrite {v} (h : s₀.Keeps s) : s₀.KeepsOut (Machine.execHoopcfgWrite v s) := .next h.rset

theorem State.Keeps.execFrequencyChange {k v} (h : s₀.Keeps s) : s₀.KeepsOut (Machine.execFrequencyChange k v s) :=
  .next (keeps_ite h h.noteClocks.rsetBits.rsetBits)

theorem State.Keeps.execFrequencyChangeComplete {k} (h : s₀.Keeps s) : s₀.KeepsOut (Machine.execFrequencyChangeComplete k s) := .next h.rsetBits

theorem State.Keeps.execRegulatorSelectWrite {j v} (h : s₀.Keeps s) : s₀.KeepsOut (Machine.execRegulatorSelectWrite j v s) :=
  .next (h.noteClocks.foldl fun _ _ ht => keeps_ite ht ht.rsetBits)

theorem State.Keeps.setLgate {l v} (h : s₀.Keeps s) : s₀.Keeps (s.setLgate l v) := h

theorem State.Keeps.setEvac {l on} (h : s₀.Keeps s) : s₀.Keeps (s.setEvac l on) := h.foldl fun _ _ ht => ht.modCol

theorem State.Keeps.gateLayer {l} (h : s₀.Keeps s) : s₀.Keeps (s.gateLayer l) :=
  keeps_ite h (keeps_ite h.rsetBits (keeps_ite h.rsetBits.setLgate.setEvac h))

theorem State.Keeps.execLayerGateRequest {layer} (h : s₀.Keeps s) : s₀.KeepsOut (Machine.execLayerGateRequest layer s) := .next h.gateLayer

theorem State.Keeps.execLayerEvacuationComplete {layer} (h : s₀.Keeps s) : s₀.KeepsOut (Machine.execLayerEvacuationComplete layer s) :=
  .next (keeps_ite h.setLgate.setEvac.pfEvent h)

theorem State.Keeps.execLayerGateRelease {layer} (h : s₀.Keeps s) : s₀.KeepsOut (Machine.execLayerGateRelease layer s) := by
  unfold Machine.execLayerGateRelease
  refine .next (keeps_ite h ?_)
  extract_lets s₁
  have hs₁ : s₀.Keeps s₁ := h.rsetBits
  split
  · exact hs₁.setLgate.setEvac
  · exact hs₁.setLgate
  · exact hs₁

theorem State.Keeps.execLayerWakeComplete {layer} (h : s₀.Keeps s) : s₀.KeepsOut (Machine.execLayerWakeComplete layer s) :=
  .next (keeps_ite (keeps_ite h.setLgate.gateLayer h.setLgate) h)

theorem State.Keeps.execGovernorPolicyWrite {off v} (h : s₀.Keeps s) : s₀.KeepsOut (Machine.execGovernorPolicyWrite off v s) :=
  .next (keeps_ite (keeps_ite h.govErr h.rset) (keeps_ite (keeps_ite h.govErr h.rwrite) h))

/-! ### Links, checkpoint and device reset (Links) -/

theorem State.Keeps.execPeerLinkControlWrite {off v} (h : s₀.Keeps s) : s₀.KeepsOut (Machine.execPeerLinkControlWrite off v s) :=
  .next (keeps_ite (keeps_ite h.rsetBits h.rwrite) (keeps_ite h.rwrite (keeps_ite (keeps_ite h h.rwrite) h)))

theorem State.Keeps.execLinkFlitReplay {peer link} (h : s₀.Keeps s) : s₀.KeepsOut (Machine.execLinkFlitReplay peer link s) :=
  .next (keeps_ite h h.countError)

theorem State.Keeps.markLost {n} (h : s₀.Keeps s) : s₀.Keeps (s.markLost n) := h

theorem State.Keeps.execLinkLoss {peer link} (h : s₀.Keeps s) : s₀.KeepsOut (Machine.execLinkLoss peer link s) := by
  unfold Machine.execLinkLoss
  extract_lets u
  have hu : s₀.Keeps u := h.rsetBits.markLost
  refine .next (keeps_ite (keeps_ite h hu) (.markLost ?_))
  exact h

theorem State.Keeps.execHostLinkDown (h : s₀.Keeps s) : s₀.KeepsOut (Machine.execHostLinkDown s) := .next (.markLost h)

theorem State.Keeps.execLinkRetrained {peer link} (h : s₀.Keeps s) : s₀.KeepsOut (Machine.execLinkRetrained peer link s) := by
  unfold Machine.execLinkRetrained
  extract_lets _ post s₁
  have hpost : ∀ t, s₀.Keeps t → s₀.Keeps (post t) := by
    intro t ht
    unfold post
    exact keeps_ite (.pfEvent ht) ht
  have hs₁ : s₀.Keeps s₁ := h.rsetBits
  exact .next (keeps_ite (keeps_ite h (hpost _ hs₁)) (hpost _ h))

theorem State.Keeps.holdPeer {dev ck} (h : s₀.Keeps s) : s₀.Keeps (s.holdPeer dev ck) := by
  unfold State.holdPeer
  extract_lets hold stop
  have hhold : ∀ t a, s₀.Keeps t → s₀.Keeps (hold t a) := by
    intro t a ht
    unfold hold
    exact ht.foldl fun _ _ ht' => ht'.suspend
  have hstop : ∀ t a, s₀.Keeps t → s₀.Keeps (stop t a) := by
    intro t a ht
    unfold stop
    exact ht.foldl fun _ _ ht' => ht'.modReq
  split
  · exact hstop _ _ (hhold _ _ h.report)
  · exact hstop _ _ h.report
  · exact h

theorem State.Keeps.abandonMove {m} (h : s₀.Keeps s) : s₀.Keeps (s.abandonMove m) :=
  keeps_ite h (keeps_ite h (.report (.agentPut (.foldl (.foldl h fun _ _ ht => ht.setHome) fun _ _ ht => ht.setPoison))))

theorem State.Keeps.ckptFail (h : s₀.Keeps s) : s₀.Keeps s.ckptFail := h

theorem State.Keeps.execPeerRouteLost {dev} (h : s₀.Keeps s) : s₀.KeepsOut (Machine.execPeerRouteLost dev s) :=
  .next (keeps_ite h ((keeps_ite (h.foldl fun _ _ ht => ht.holdPeer).ckptFail (h.foldl fun _ _ ht => ht.holdPeer)).foldl fun _ _ ht => ht.abandonMove))

theorem State.Keeps.memberWrite {ck v} (h : s₀.Keeps s) : s₀.Keeps (s.memberWrite ck v) := by
  unfold State.memberWrite
  extract_lets _ s₁
  have hs₁ : s₀.Keeps s₁ := h.rwrite
  exact keeps_ite hs₁ hs₁

theorem State.Keeps.remoteWrite {ck dctx va dev} (h : s₀.Keeps s) : s₀.Keeps (s.remoteWrite ck dctx va dev) := by
  unfold State.remoteWrite
  split
  · exact h
  · exact keeps_ite h h

theorem State.Keeps.send {m} (h : s₀.Keeps s) : s₀.Keeps (s.send m) := h

theorem State.Keeps.peerError {dev va code} (h : s₀.Keeps s) : s₀.Keeps (s.peerError dev va code) := h

theorem State.Keeps.peerFault {ck dev dctx va code info} (h : s₀.Keeps s) : s₀.Keeps (s.peerFault ck dev dctx va code info) :=
  (keeps_ite h.report.freezeOther h.reportOnce).peerError

theorem State.Keeps.peerHome {ck dev dctx va key kind data} (h : s₀.Keeps s) : s₀.Keeps (s.peerHome ck dev dctx va key kind data) := by
  unfold State.peerHome
  extract_lets _ _ _ reply arrive _ s₁
  have hreply : ∀ t a, s₀.Keeps t → s₀.Keeps (reply t a) := by
    intro t a ht
    unfold reply
    exact ht.send
  have harrive : ∀ a, s₀.Keeps (arrive a) := by
    intro a
    unfold arrive
    exact h.homeArrive
  have hs₁ : s₀.Keeps s₁ := harrive _
  split
  · exact h
  split
  · exact keeps_ite h.peerFault (hreply _ _ h)
  · exact hs₁.capture.remoteWrite
  · exact keeps_ite h.peerFault (harrive _).capture.remoteWrite
  split
  exact keeps_ite (hreply _ _ (h.promote.of_eq ‹_›)) (h.promote.of_eq ‹_›)

theorem State.Keeps.peerServe {ck dev dctx va req data} (h : s₀.Keeps s) : s₀.Keeps (s.peerServe ck dev dctx va req data) := by
  unfold State.peerServe
  split
  · exact keeps_ite h h.peerFault
  · exact h.peerHome
  · split
    · exact h.peerHome
    · exact keeps_ite h.reportOnce.peerError (keeps_ite h.send h)
  · exact h.peerFault
  · exact h.peerFault

theorem State.Keeps.execPeerInboundRequest {dev dctx va req data} (h : s₀.Keeps s) :
    s₀.KeepsOut (Machine.execPeerInboundRequest dev dctx va req data s) := by
  unfold Machine.execPeerInboundRequest
  refine .next (keeps_ite h ?_)
  split
  · exact keeps_ite h.send h
  split
  · exact h
  split
  · exact h.peerError
  · exact keeps_ite h.peerError h.peerServe

theorem State.Keeps.execPeerUnfreeze {hi v} (h : s₀.Keeps s) : s₀.KeepsOut (Machine.execPeerUnfreeze hi v s) := by
  unfold Machine.execPeerUnfreeze
  extract_lets _ s₁
  have hs₁ : s₀.Keeps s₁ := h.rwrite
  exact .next hs₁

theorem State.Keeps.hostRefuse {ck e} (h : s₀.Keeps s) : s₀.Keeps (s.hostRefuse ck e) := h.report

theorem State.Keeps.hostWrite {w} (h : s₀.Keeps s) : s₀.KeepsOpt (s.hostWrite w) := by
  unfold State.hostWrite
  split
  · exact .none
  split
  · exact .none
  · exact .some h.hostRefuse
  extract_lets _ s₁
  have hs₁ : s₀.Keeps s₁ := h.foldl fun _ _ ht => ht.homeArrive
  split
  · exact .none
  · exact .some hs₁.capture

theorem State.Keeps.hostServe {blocked l} (h : s₀.Keeps s) : s₀.Keeps (s.hostServe blocked l).1 := by
  induction l generalizing s blocked with
  | nil => exact h
  | cons w l ih =>
    unfold State.hostServe
    split
    · rename_i u e
      have hu : s₀.Keeps u := by
        split at e
        · cases e
        · exact h.hostWrite.of_eq e
      exact ih hu
    · split
      exact (ih h).of_eq ‹_›

theorem State.Keeps.serveHost (h : s₀.Keeps s) : s₀.Keeps s.serveHost := by
  unfold State.serveHost
  refine keeps_ite h ?_
  split
  rename_i u l e
  have hu : s₀.Keeps u := by
    refine .of_eq ?_ e
    exact .hostServe h
  exact hu

theorem State.Keeps.execHostInboundAccess {fn c off access data} (h : s₀.Keeps s) :
    s₀.KeepsOut (Machine.execHostInboundAccess fn c off access data s) := by
  unfold Machine.execHostInboundAccess
  extract_lets
  refine .next (keeps_ite h (keeps_ite h.send (keeps_ite (.serveHost h) (keeps_ite h ?_))))
  split
  · exact h
  · exact h.hostRefuse.send
  · exact keeps_ite h h.send

theorem State.Keeps.execCheckpointStart {v} (h : s₀.Keeps s) : s₀.KeepsOut (Machine.execCheckpointStart v s) := by
  unfold Machine.execCheckpointStart
  extract_lets _ s₁
  have hs₁ : s₀.Keeps s₁ := h.rwrite
  exact .next (keeps_ite hs₁ (keeps_ite hs₁.rsetBits (.rset (.rsetBits hs₁))))

theorem State.Keeps.sendImage {cells lo hi l n} (h : s₀.Keeps s) : s₀.Keeps (s.sendImage cells lo hi l n) := by
  induction l generalizing s cells lo hi n with
  | nil =>
    unfold State.sendImage
    exact h
  | cons a l ih =>
    unfold State.sendImage
    exact ih (keeps_ite h.send h)

theorem State.Keeps.carry {mib} (h : s₀.Keeps s) : s₀.Keeps (s.carry mib) := keeps_ite h (h.sendImage.foldl fun _ _ ht => ht.pfFault).rset

theorem State.Keeps.execCheckpointComplete (h : s₀.Keeps s) : s₀.KeepsOut (Machine.execCheckpointComplete s) :=
  .next (keeps_ite h (.raiseMsix (.rset (.rset (.rsetBits h.carry)))))

theorem State.Keeps.execAttestationReport {v} (h : s₀.Keeps s) : s₀.KeepsOut (Machine.execAttestationReport v s) :=
  .next (keeps_ite h.rwrite (keeps_ite h.rwrite.rsetBits h.rwrite.rsetBits))

theorem State.Keeps.execAttestationReportComplete (h : s₀.Keeps s) : s₀.KeepsOut (Machine.execAttestationReportComplete s) :=
  .next (keeps_ite h h.send.rsetBits.raiseMsix)

theorem State.Keeps.resetDevice {cause} (h : s₀.Keeps s) : s₀.Keeps (s.resetDevice cause) := by
  unfold State.resetDevice
  extract_lets cause _ u
  have hu : s₀.Keeps u := by
    refine ⟨fun hr => ⟨?_, Memory.wf_nil⟩, fun _ _ hp => absurd hp List.not_mem_nil⟩
    change (if cause = 0 then [] else s.mem : Memory).wf = true
    split
    · exact Memory.wf_nil
    · exact (h.1 hr).1
  exact hu.rset

theorem State.Keeps.boot (h : s₀.Keeps s) : s₀.Keeps s.boot := by
  unfold State.boot
  split
  · exact h
  extract_lets s₁
  have hs₁ : s₀.Keeps s₁ := h
  split
  · split
    exact (hs₁.free.of_eq ‹_›).goFatal
  split
  · split
    exact (hs₁.free.of_eq ‹_›).goFatal
  · exact hs₁.rsetBits

theorem State.Keeps.execDeviceReset {cause} (h : s₀.Keeps s) : s₀.KeepsOut (Machine.execDeviceReset cause s) := .next (keeps_ite h h.resetDevice)

/-! ### Faults and errors (Faults) -/

theorem State.Keeps.fbErr {ck} (h : s₀.Keeps s) : s₀.Keeps (s.fbErr ck) := h

theorem State.Keeps.execFaultBlockConfigWrite {fn c off v} (h : s₀.Keeps s) : s₀.KeepsOut (Machine.execFaultBlockConfigWrite fn c off v s) := by
  unfold Machine.execFaultBlockConfigWrite
  extract_lets
  refine .next ?_
  split
  · exact keeps_ite h.fbErr h.rwrite.enterRecords
  · exact h.rwrite
  · exact keeps_ite h.fbErr h.rwrite
  · exact h.rwrite
  · exact h

theorem State.Keeps.execFaultBufferConsume {fn c v} (h : s₀.Keeps s) : s₀.KeepsOut (Machine.execFaultBufferConsume fn c v s) :=
  .next (keeps_ite h.fbErr h.rset.enterRecords)

theorem State.Keeps.newGen {ck} (h : s₀.Keeps s) : s₀.Keeps (s.newGen ck) := by
  unfold State.newGen
  extract_lets _ _ _ _ u v w x
  have hw : s₀.Keeps w := h.modCtx.rsetBits.rsetBits
  have hx : s₀.Keeps x := hw.frame rfl rfl rfl
  exact hx.retry

theorem State.Keeps.execFaultFlush {fn c v} (h : s₀.Keeps s) : s₀.KeepsOut (Machine.execFaultFlush fn c v s) := .next (keeps_ite h.newGen h.fbErr)

theorem State.Keeps.retakeHandlers {fn} (h : s₀.Keeps s) : s₀.Keeps (s.retakeHandlers fn) := h

theorem State.Keeps.execEventQueueControlWrite {fn off v} (h : s₀.Keeps s) : s₀.KeepsOut (Machine.execEventQueueControlWrite fn off v s) := by
  unfold Machine.execEventQueueControlWrite
  refine .next ?_
  split
  · exact keeps_ite h.rwrite.retakeHandlers.releaseHeld h.rwrite
  · exact h.rwrite
  · exact h.rwrite

theorem State.Keeps.execCorrectedError {k} (h : s₀.Keeps s) : s₀.KeepsOut (Machine.execCorrectedError k s) := by
  unfold Machine.execCorrectedError
  refine .next (keeps_ite ?_ (keeps_ite h.countError h))
  split
  exact (h.free.of_eq ‹_›).bankCorrected

theorem State.Keeps.countWear {key} (h : s₀.Keeps s) : s₀.Keeps (s.countWear key).1 := h

theorem State.Keeps.storeWear {c} (h : s₀.Keeps s) : s₀.Keeps (s.storeWear c) := by
  unfold State.storeWear
  split
  split
  exact keeps_ite ((h.free.of_eq ‹_›).countWear.of_eq ‹_›).wearSite ((h.free.of_eq ‹_›).countWear.of_eq ‹_›)

theorem State.Keeps.sliceWear (h : s₀.Keeps s) : s₀.Keeps s.sliceWear := by
  unfold State.sliceWear
  split
  split
  exact keeps_ite ((h.free.of_eq ‹_›).countWear.of_eq ‹_›).wearSlice ((h.free.of_eq ‹_›).countWear.of_eq ‹_›)

theorem State.Keeps.bankWear {b} (h : s₀.Keeps s) : s₀.Keeps (s.bankWear b) := by
  unfold State.bankWear
  split
  exact keeps_ite (h.countWear.of_eq ‹_›).wearStack (h.countWear.of_eq ‹_›)

theorem State.Keeps.execUncorrectedError {where_} (h : s₀.Keeps s) : s₀.KeepsOut (Machine.execUncorrectedError where_ s) := by
  unfold Machine.execUncorrectedError
  refine .next ?_
  split
  · exact keeps_ite (.bankWear h.setPoison.countError) h.setPoison.countError.sliceWear
  split
  · obtain ⟨tm, htm, e⟩ := Option.bind_eq_some_iff.1 ‹_›
    extract_lets u
    have hu : s₀.Keeps u := (h.setTeam ((h.team htm).of_eq (Team.poisonUnit_spad e))).countError
    split
    · exact hu.storeWear
    · exact hu.storeWear
    · exact hu
  · exact h

theorem State.Keeps.execFatalError {code} (h : s₀.Keeps s) : s₀.KeepsOut (Machine.execFatalError code s) := by
  unfold Machine.execFatalError
  refine .next (keeps_ite h ?_)
  extract_lets s₁
  have hs₁ : s₀.Keeps s₁ := keeps_ite h.rsetBits h
  split
  exact (hs₁.free.of_eq ‹_›).goFatal

theorem State.Keeps.loseTeam {k} (h : s₀.Keeps s) : s₀.Keeps (s.loseTeam k) := by
  unfold State.loseTeam
  split
  · exact h
  · exact h.report.modGrid.retireAbandoned

theorem State.Keeps.resetDie {layer} (h : s₀.Keeps s) : s₀.Keeps (s.resetDie layer) :=
  keeps_ite h (h.setLgate.setEvac.foldl fun _ _ ht => ht.loseTeam).pfEvent

theorem State.Keeps.execDieReset {layer} (h : s₀.Keeps s) : s₀.KeepsOut (Machine.execDieReset layer s) := .next h.resetDie

theorem State.Keeps.execCoreHaltTimeout {col layer} (h : s₀.Keeps s) : s₀.KeepsOut (Machine.execCoreHaltTimeout col layer s) :=
  .next (keeps_ite h.resetDie h)

theorem State.Keeps.execTripThresholdWrite {off v} (h : s₀.Keeps s) : s₀.KeepsOut (Machine.execTripThresholdWrite off v s) :=
  .next (keeps_ite (keeps_ite h.govErr h.rwrite) (keeps_ite h.rwrite h))

theorem State.Keeps.execThermalSoftTrip {col layer reading} (h : s₀.Keeps s) : s₀.KeepsOut (Machine.execThermalSoftTrip col layer reading s) := by
  unfold Machine.execThermalSoftTrip
  refine .next (keeps_ite h (keeps_ite h.rsetBits.setTmax.closeCore.modCol.rsetBits ?_))
  split
  exact (h.rsetBits.setTmax.closeCore.modCol.rsetBits.free.of_eq ‹_›).pfFault

theorem State.Keeps.execSoftTripEnd {col} (h : s₀.Keeps s) : s₀.KeepsOut (Machine.execSoftTripEnd col s) := .next (keeps_ite h h.modCol)

theorem State.Keeps.execSupplyExcursion {cool} (h : s₀.Keeps s) : s₀.KeepsOut (Machine.execSupplyExcursion cool s) := by
  unfold Machine.execSupplyExcursion
  refine .next (keeps_ite (.rset h) ?_)
  split
  refine .pfFault (.of_eq ?_ ‹_›)
  exact .free (.rset h)

theorem State.Keeps.execSupplyExcursionEnd {cool} (h : s₀.Keeps s) : s₀.KeepsOut (Machine.execSupplyExcursionEnd cool s) :=
  .next (keeps_ite h (keeps_ite (.rset h) (keeps_ite (.rset h) (.rset h))))

theorem State.Keeps.trip {cause col layer reading} (h : s₀.Keeps s) : s₀.Keeps (s.trip cause col layer reading) :=
  .foldl (keeps_ite h.send h) fun _ _ ht => keeps_ite ht ht.haltContext

theorem State.Keeps.execHardTrip {cause col layer reading} (h : s₀.Keeps s) : s₀.KeepsOut (Machine.execHardTrip cause col layer reading s) :=
  .next (keeps_ite h (keeps_ite (keeps_ite h h.trip) (keeps_ite h (keeps_ite h.trip h))))

theorem State.Keeps.tripNext (h : s₀.Keeps s) : s₀.Keeps s.tripNext := by
  unfold State.tripNext
  split
  · exact h
  · exact keeps_ite h (keeps_ite h (.saveContext h))

theorem State.Keeps.execHardTripPowerOff (h : s₀.Keeps s) : s₀.KeepsOut (Machine.execHardTripPowerOff s) := by
  unfold Machine.execHardTripPowerOff
  refine .next ?_
  split
  · exact h
  · exact keeps_ite h h

theorem State.Keeps.execPartWorn {kind index} (h : s₀.Keeps s) : s₀.KeepsOut (Machine.execPartWorn kind index s) := by
  unfold Machine.execPartWorn
  refine .next ?_
  split
  · exact h.wearSite
  · exact h.wearSlice
  · exact h.wearStack
  · exact h

theorem State.Keeps.execAgeingMonitorRead {site steps} (h : s₀.Keeps s) : s₀.KeepsOut (Machine.execAgeingMonitorRead site steps s) := by
  unfold Machine.execAgeingMonitorRead
  split
  · exact .next h
  extract_lets _ _ s₁
  have hs₁ : s₀.Keeps s₁ := h
  split
  · exact .next hs₁.wearSite
  · exact .next hs₁

theorem State.Keeps.execCaptureControlWrite {off v} (h : s₀.Keeps s) : s₀.KeepsOut (Machine.execCaptureControlWrite off v s) :=
  .next (keeps_ite h.rwrite (keeps_ite (keeps_ite h h.rwrite) (keeps_ite h.rwrite h)))

theorem State.Keeps.execReplayGateWrite {v} (h : s₀.Keeps s) : s₀.KeepsOut (Machine.execReplayGateWrite v s) := .next h.rwrite

/-! ### Register writes (Registers) -/

theorem State.Keeps.after {o} (h : s₀.Keeps s) (ho : s₀.KeepsOut o) : s₀.Keeps (s.after o) := by
  unfold State.after
  split
  · exact ho _ rfl
  · exact h

theorem State.Keeps.preCommand {ck v spare} (h : s₀.Keeps s) : s₀.Keeps (s.preCommand ck v spare) := by
  unfold State.preCommand
  extract_lets go
  have hgo : ∀ act : State → State, (∀ t, s₀.Keeps t → s₀.Keeps (act t)) → s₀.Keeps (go act) := fun _ hact => h.after (h.command hact)
  split
  · exact hgo _ fun _ ht => ht.haltQueue
  · exact hgo _ fun _ ht => ht.haltContext
  · exact hgo _ fun _ ht => ht.saveContext
  · exact hgo _ fun _ ht => ht.resumeQueue
  · exact hgo _ fun _ ht => ht.resumeContext
  · exact h

theorem State.Keeps.queueWrite {fn c q o v} (h : s₀.Keeps s) : s₀.Keeps (s.queueWrite fn c q o v) := by
  unfold State.queueWrite
  split
  · exact h.after h.execQueueControlWrite
  · exact h.after h.execDoorbell
  · exact keeps_ite (h.after h.execStopClear) h
  · exact h.rwrite

theorem State.Keeps.l2Write {ck o fromPf v} (h : s₀.Keeps s) : s₀.Keeps (s.l2Write ck o fromPf v) :=
  keeps_ite h.l2Change (h.after h.execL2partWinHiStage)

theorem State.Keeps.mraWrite {st o v} (h : s₀.Keeps s) : s₀.Keeps (s.mraWrite st o v) := keeps_ite (keeps_ite h h.mraStart) h.rwrite

theorem State.Keeps.lgateWrite {v} (h : s₀.Keeps s) : s₀.Keeps (s.lgateWrite v) :=
  h.foldl fun _ _ ht => keeps_ite ht.gateLayer (keeps_ite (ht.after ht.execLayerGateRelease) ht)

theorem State.Keeps.powerWrite {off v} (h : s₀.Keeps s) : s₀.Keeps (s.powerWrite off v) := by
  refine keeps_ite (h.after h.execGovernorPolicyWrite) (keeps_ite (h.after h.execHoopcfgWrite) (keeps_ite h.lgateWrite ?_))
  refine keeps_ite (h.after h.execFrequencyChange) (keeps_ite (h.after h.execRegulatorSelectWrite) ?_)
  exact keeps_ite (h.after h.execTripThresholdWrite) (keeps_ite (h.after h.execDirectedMoveArm) h.rwrite)

theorem State.Keeps.managementWrite {off v} (h : s₀.Keeps s) : s₀.Keeps (s.managementWrite off v) := by
  refine keeps_ite (keeps_ite h.resetDevice h) (keeps_ite (h.after h.execReplayGateWrite) (keeps_ite (h.after h.execCaptureControlWrite) ?_))
  exact keeps_ite h (keeps_ite (h.after h.execAttestationReport) (keeps_ite (h.after h.execCheckpointStart) h.rwrite))

theorem State.Keeps.pfWrite {off v} (h : s₀.Keeps s) : s₀.Keeps (s.pfWrite off v) := by
  refine keeps_ite (h.after h.execCsplanWrite) (keeps_ite h.mraWrite (keeps_ite h.l2Write ?_))
  refine keeps_ite (h.after h.execLeasecfgWrite) (keeps_ite h.powerWrite (keeps_ite h.managementWrite ?_))
  exact keeps_ite (h.after h.execPeerLinkControlWrite) h.rwrite

theorem State.Keeps.write0 {fn off v} (h : s₀.Keeps s) : s₀.Keeps (s.write0 fn off v) := by
  refine keeps_ite h.queueWrite (keeps_ite (keeps_ite h.preCommand h.rwrite) (keeps_ite h.l2Write ?_))
  refine keeps_ite (keeps_ite (h.after h.execInvalidation) (h.after h.execTranslationControlWrite)) ?_
  exact keeps_ite (h.after h.execPeerMoveControlWrite) (keeps_ite h.memberWrite (keeps_ite h.rwrite (keeps_ite h.pfWrite h)))

theorem State.Keeps.write4 {fn off v} (h : s₀.Keeps s) : s₀.Keeps (s.write4 fn off v) := by
  unfold State.write4
  split
  · extract_lets
    split
    · exact h.after h.execFaultBufferConsume
    · exact h.after h.execFaultFlush
    · exact h.after h.execFaultBlockConfigWrite
  · exact keeps_ite (h.after h.execEventQueueControlWrite) (keeps_ite (h.after h.execPeerUnfreeze) h.rwrite)

theorem State.Keeps.regWrite {fn region off v} (h : s₀.Keeps s) : s₀.Keeps (s.regWrite fn region off v) :=
  keeps_ite h (keeps_ite h.write4 (keeps_ite h.write0 h))

theorem State.Keeps.execRegisterWrite {fn region off v} (h : s₀.Keeps s) : s₀.KeepsOut (Machine.execRegisterWrite fn region off v s) :=
  .next h.regWrite

theorem State.Keeps.execCsrrd {m d a k} (h : s₀.Keeps s) : s₀.KeepsOut (Machine.execCsrrd m d a k s) :=
  h.runWord fun _ _ _ => keeps_ite h.advance h.putAll.modThreads.advance

theorem State.Keeps.csrWrite {fn off v} (h : s₀.Keeps s) : s₀.Keeps (s.csrWrite fn off v) := keeps_ite h.l2Write (keeps_ite h.preCommand h.regWrite)

theorem State.Keeps.execCsrwr {m d a k} (h : s₀.Keeps s) : s₀.KeepsOut (Machine.execCsrwr m d a k s) := by
  unfold Machine.execCsrwr
  refine h.runWord fun x a' ht => keeps_ite h.advance (h.afterRelease fun t ht' => ?_)
  extract_lets _ _ _ s₁
  have hs₁ : s₀.Keeps s₁ := ht'.csrWrite
  split
  · exact keeps_ite hs₁.waitAt hs₁.advance
  · exact hs₁.advance

/-! ### The instructions (Dispatch) -/

theorem State.Keeps.exec {i} (h : s₀.Keeps s) : s₀.KeepsOut (Machine.exec i s) := by
  cases i with
  | iadd | iaddc | isub | imul | imulh | imad | imadw | isad | imin | imax | iabs | ineg | shl | shr | sar | fsl | fsr
   | bfn3 | and | or | xor | bfx | bfi | bysel | iset | isel | mov | lea | leaw | idot4 | idot2 | fadd | fsub | fmul
   | ffma | fmin | fmax | fset | fsel | frnd | ffrc | fscl | fext | frcp | frsq | fsqt | fexp2 | flog2 | fsin | fcos
   | pkadd | pksub | pkmul | pkfma | pkmin | pkmax | pkcmp | cvt | cvpk | cvsc | iaddi | shli | shri | sari | andi
   | ori | xori | popc | clz | ctz | brev | fcls | movi | movh | uadd | usub | umov | uand | uor | uxor | ushl | ushr
   | ucmp | usel | umul | ulea | umovi =>
    exact h.runArith
  | lxch | vote | ball | gred | gscn => exact h.runCollective
  | scat => exact h.execScat
  | tdset => exact h.execTdset
  | tdrd => exact h.execTdrd
  | ttag => exact h.execTtag
  | jnext => exact h.execJnext
  | coll => exact h.execColl
  | plmv => exact h.execPlmv
  | brl => exact h.execBrl
  | jmp => exact h.execJmp
  | ret => exact h.execRet
  | bra => exact h.execBra
  | brc => exact h.execBrc
  | ld => exact h.execLd
  | st => exact h.execSt
  | lds => exact h.execLds
  | sts => exact h.execSts
  | ldc => exact h.execLdc
  | prf => exact h.execPrf
  | fence => exact h.execFence
  | prm => exact h.execPrm
  | atom => exact h.execAtom
  | red => exact h.execRed
  | atoms => exact h.execAtoms
  | cpy => exact h.execCpy
  | cpyt => exact h.execCpyt
  | gath => exact h.execGath
  | mxacq => exact h.execMxacq
  | mxrel => exact h.execMxrel
  | mxgo => exact h.execMxgo
  | callDirect => exact h.execCallDirect
  | callRegister => exact h.execCallRegister
  | nop => exact h.execNop
  | yield => exact h.execYield
  | exit => exact h.execExit
  | rets => exact h.execRets
  | launch => exact h.execLaunch
  | gbar => exact h.execGbar
  | trap => exact h.execTrap
  | evpost => exact h.execEvpost
  | frz => exact h.execFrz
  | sleep => exact h.execSleep
  | rzinit => exact h.execRzinit
  | rzarv => exact h.execRzarv
  | rzwait => exact h.execRzwait
  | rzarw => exact h.execRzarw
  | rzcarv => exact h.execRzcarv
  | rztest => exact h.execRztest
  | vgrow => exact h.execVgrow
  | vshrk => exact h.execVshrk
  | srd => exact h.execSrd
  | swr => exact h.execSwr
  | csrrd => exact h.execCsrrd
  | csrwr => exact h.execCsrwr
  | mnop => exact h.execMnop
  | mend => exact h.execMend
  | mlda => exact h.execMlda
  | mldb => exact h.execMldb
  | mma => exact h.execMma
  | mzro => exact h.execMzro
  | mstc => exact h.execMstc
  | madc => exact h.execMadc
  | mrza => exact h.execMrza
  | mrzw => exact h.execMrzw
  | mwtg => exact h.execMwtg
  | mset => exact h.execMset
  | madd => exact h.execMadd
  | mlop => exact h.execMlop
  | maud => exact h.execMaud
  | clauseStart => exact h.execClauseStart
  | formationPoint => exact h.execFormationPoint
  | groupCollectiveConvergence => exact h.execGroupCollectiveConvergence
  | vgrowGrant => exact h.execVgrowGrant
  | vgrowDenialAllWaiting => exact h.execVgrowDenialAllWaiting
  | vgrowDenialTooLong => exact h.execVgrowDenialTooLong
  | parkedTeamPlace => exact h.execParkedTeamPlace
  | governorEvaluation => exact h.execGovernorEvaluation
  | migrationAbandon => exact h.execMigrationAbandon
  | migrationTransfer => exact h.execMigrationTransfer
  | migrationResume => exact h.execMigrationResume
  | returnForward => exact h.execReturnForward
  | directedMoveArm => exact h.execDirectedMoveArm
  | directedMoveTrigger => exact h.execDirectedMoveTrigger
  | realignmentDue => exact h.execRealignmentDue
  | realignmentStart => exact h.execRealignmentStart
  | realignmentForced => exact h.execRealignmentForced
  | realignmentEnd => exact h.execRealignmentEnd
  | backgroundTestStart => exact h.execBackgroundTestStart
  | backgroundTestRelinquish => exact h.execBackgroundTestRelinquish
  | backgroundTestComplete => exact h.execBackgroundTestComplete
  | queueControlWrite => exact h.execQueueControlWrite
  | doorbell => exact h.execDoorbell
  | cardIntake => exact h.execCardIntake
  | stopClear => exact h.execStopClear
  | dependenceCounterRead => exact h.execDependenceCounterRead
  | teamPlacement => exact h.execTeamPlacement
  | cooperativeGuard => exact h.execCooperativeGuard
  | gridSignal => exact h.execGridSignal
  | jnextServe => exact h.execJnextServe
  | handoverDrainComplete => exact h.execHandoverDrainComplete
  | successorStart => exact h.execSuccessorStart
  | gbarAdmissionWindow => exact h.execGbarAdmissionWindow
  | haltQueue => exact h.execHaltQueue
  | haltContext => exact h.execHaltContext
  | saveContext => exact h.execSaveContext
  | resumeQueue => exact h.execResumeQueue
  | resumeContext => exact h.execResumeContext
  | haltComplete => exact h.execHaltComplete
  | saveComplete => exact h.execSaveComplete
  | pendingWriteDelivery => exact h.execPendingWriteDelivery
  | csplanWrite => exact h.execCsplanWrite
  | l2partChange => exact h.execL2partChange
  | l2partWinHiStage => exact h.execL2partWinHiStage
  | l2partChangeComplete => exact h.execL2partChangeComplete
  | hbmScrub => exact h.execHbmScrub
  | hbmRowSwap => exact h.execHbmRowSwap
  | hbmRefreshWindow => exact h.execHbmRefreshWindow
  | mraReadBankCounts => exact h.execMraReadBankCounts
  | mraReadModeRegister => exact h.execMraReadModeRegister
  | mraClearBankCounts => exact h.execMraClearBankCounts
  | mraOperationComplete => exact h.execMraOperationComplete
  | pageTableWalk => exact h.execPageTableWalk
  | translationControlWrite => exact h.execTranslationControlWrite
  | invalidation => exact h.execInvalidation
  | invalidationComplete => exact h.execInvalidationComplete
  | atsTranslationCompletion => exact h.execAtsTranslationCompletion
  | pageRequestGroupResponse => exact h.execPageRequestGroupResponse
  | atsInvalidateRequest => exact h.execAtsInvalidateRequest
  | plmvLineMove => exact h.execPlmvLineMove
  | plmvSwap => exact h.execPlmvSwap
  | plmvRetire => exact h.execPlmvRetire
  | peerMoveAttempt => exact h.execPeerMoveAttempt
  | peerMoveComplete => exact h.execPeerMoveComplete
  | peerMoveControlWrite => exact h.execPeerMoveControlWrite
  | homeRead => exact h.execHomeRead
  | homeWriteApply => exact h.execHomeWriteApply
  | horizonWaitEnd => exact h.execHorizonWaitEnd
  | columnCacheWriteBack => exact h.execColumnCacheWriteBack
  | writeBackBufferRelease => exact h.execWriteBackBufferRelease
  | leasecfgWrite => exact h.execLeasecfgWrite
  | engineOwnershipRequest => exact h.execEngineOwnershipRequest
  | copyComplete => exact h.execCopyComplete
  | cpytComplete => exact h.execCpytComplete
  | gatherComplete => exact h.execGatherComplete
  | scatterComplete => exact h.execScatterComplete
  | tensorIdWriteComplete => exact h.execTensorIdWriteComplete
  | tensorIdReadComplete => exact h.execTensorIdReadComplete
  | engineFault => exact h.execEngineFault
  | ttagApply => exact h.execTtagApply
  | mxrelComplete => exact h.execMxrelComplete
  | batonExpiry => exact h.execBatonExpiry
  | collectiveComplete => exact h.execCollectiveComplete
  | estimatorPeriod => exact h.execEstimatorPeriod
  | hoopBaseStop => exact h.execHoopBaseStop
  | hoopLayerStop => exact h.execHoopLayerStop
  | hoopcfgWrite => exact h.execHoopcfgWrite
  | frequencyChange => exact h.execFrequencyChange
  | frequencyChangeComplete => exact h.execFrequencyChangeComplete
  | regulatorSelectWrite => exact h.execRegulatorSelectWrite
  | ageingMonitorRead => exact h.execAgeingMonitorRead
  | layerGateRequest => exact h.execLayerGateRequest
  | layerEvacuationComplete => exact h.execLayerEvacuationComplete
  | layerGateRelease => exact h.execLayerGateRelease
  | layerWakeComplete => exact h.execLayerWakeComplete
  | governorPolicyWrite => exact h.execGovernorPolicyWrite
  | peerLinkControlWrite => exact h.execPeerLinkControlWrite
  | linkFlitReplay => exact h.execLinkFlitReplay
  | linkLoss => exact h.execLinkLoss
  | linkRetrained => exact h.execLinkRetrained
  | peerRouteLost => exact h.execPeerRouteLost
  | peerInboundRequest => exact h.execPeerInboundRequest
  | peerAcknowledgement => exact h.execPeerAcknowledgement
  | peerUnfreeze => exact h.execPeerUnfreeze
  | hostInboundAccess => exact h.execHostInboundAccess
  | checkpointStart => exact h.execCheckpointStart
  | checkpointComplete => exact h.execCheckpointComplete
  | attestationReport => exact h.execAttestationReport
  | attestationReportComplete => exact h.execAttestationReportComplete
  | deviceReset => exact h.execDeviceReset
  | faultBlockConfigWrite => exact h.execFaultBlockConfigWrite
  | faultBufferConsume => exact h.execFaultBufferConsume
  | faultFlush => exact h.execFaultFlush
  | eventQueueControlWrite => exact h.execEventQueueControlWrite
  | correctedError => exact h.execCorrectedError
  | uncorrectedError => exact h.execUncorrectedError
  | fatalError => exact h.execFatalError
  | stakeParityReplay => exact h.execStakeParityReplay
  | dieReset => exact h.execDieReset
  | coreHaltTimeout => exact h.execCoreHaltTimeout
  | tripThresholdWrite => exact h.execTripThresholdWrite
  | thermalSoftTrip => exact h.execThermalSoftTrip
  | softTripEnd => exact h.execSoftTripEnd
  | supplyExcursion => exact h.execSupplyExcursion
  | supplyExcursionEnd => exact h.execSupplyExcursionEnd
  | hardTrip => exact h.execHardTrip
  | hardTripPowerOff => exact h.execHardTripPowerOff
  | partWorn => exact h.execPartWorn
  | captureControlWrite => exact h.execCaptureControlWrite
  | countedAcquireGrant => exact h.execCountedAcquireGrant
  | replayGateWrite => exact h.execReplayGateWrite
  | sleepExpiry => exact h.execSleepExpiry
  | registerWrite => exact h.execRegisterWrite
  | parkingPlacingComplete => exact h.execParkingPlacingComplete
  | hostLinkDown => exact h.execHostLinkDown

/-! ### Turns and steps (Auto) -/

theorem State.Keeps.streamTurn {k} (h : s₀.Keeps s) : s₀.KeepsOut (s.streamTurn k) := by
  unfold State.streamTurn
  split
  · split
    · exact .next h
    split
    · exact .next h.fetchM.auditStep
    split
    · exact State.Keeps.exec (s := { s with cur := some (.stream k) }) h
    · exact .next h.takeStreamFault
  · exact .next h

theorem State.Keeps.takeTurn {u} (h : s₀.Keeps s) : s₀.KeepsOut (s.takeTurn u) := by
  unfold State.takeTurn
  split
  · split
    · exact State.Keeps.exec (s := { s with cur := some (.bundle _ _) }) h
    · exact .next h
  · exact h.streamTurn
  · split
    · exact h.exec
    · exact .next h
  · exact .next h.boot
  · exact .next h.carry
  · exact .next h

theorem State.Keeps.beginStep (h : s₀.Keeps s) : s₀.Keeps s.beginStep := by
  unfold State.beginStep
  extract_lets u
  have hu : s₀.Keeps u := h
  exact (hu.foldl fun _ _ ht => ht.applyDue).serveHost

theorem State.Keeps.rotate {c l sl} (h : s₀.Keeps s) : s₀.Keeps (s.rotate c l sl) :=
  keeps_ite (h.foldl fun _ _ ht => ht.modBundle) ((h.foldl fun _ _ ht => ht.modBundle).foldl fun _ _ ht => ht.modBundle)

theorem State.Keeps.rotateAll (h : s₀.Keeps s) : s₀.Keeps s.rotateAll := h.foldl fun _ _ ht => ht.foldl fun _ _ ht' => ht'.rotate

theorem State.Keeps.noteIssue (h : s₀.Keeps s) : s₀.Keeps s.noteIssue := by
  unfold State.noteIssue
  split
  · exact h.modTeam
  · exact h

theorem State.Keeps.noteHalts (h : s₀.Keeps s) : s₀.Keeps s.noteHalts := by
  refine h.foldl fun t p ht => ?_
  split
  · split
    · have htm := ht.team ‹_›
      exact keeps_ite (ht.modCol.setTeam htm) ht
    · exact ht
  · exact ht

theorem State.Keeps.endStep (h : s₀.Keeps t) : s₀.Keeps (s.endStep t) := by
  unfold State.endStep
  extract_lets _ u v ks w x y z a
  have hu : s₀.Keeps u := h.noteIssue.noteHalts
  have hv : s₀.Keeps v := keeps_ite hu.rereadWaits hu
  have hw : s₀.Keeps w := hv.foldl fun _ _ ht => ht.modTeam
  have hx : s₀.Keeps x := hw.foldl fun _ _ ht => ht.settle
  have hy : s₀.Keeps y := hx.foldl fun _ _ ht => ht.barrier
  have hz : s₀.Keeps z := hy.settlePuts.settleRecords
  have ha : s₀.Keeps a := keeps_ite hz.tripNext hz
  exact keeps_ite ha.rotateAll ha

theorem State.Keeps.nextTurn (h : s₀.Keeps s) : s₀.Keeps s.nextTurn.1 := by
  unfold State.nextTurn
  split <;> exact h

theorem State.Keeps.oneStep (h : s₀.Keeps s) : s₀.KeepsOut s.oneStep := by
  unfold State.oneStep
  extract_lets p
  have hp : s₀.KeepsOut (p.1.takeTurn p.2) := h.beginStep.nextTurn.takeTurn
  split
  · exact .next (hp _ ‹_›).endStep
  · rename_i hne
    intro t e
    exact absurd e (hne t)

/-! ### The obligation -/

theorem State.Keeps.memOk (h : s.Keeps t) (hs : s.memOk = true) : t.memOk = true := by
  simpa [State.memOk] using h.1 hs

theorem State.Keeps.spadsOk (h : s.Keeps t) (hs : s.spadsOk = true) : t.spadsOk = true := by
  simpa [State.spadsOk] using h.2 hs

theorem step_keeps (e : step s = .next t) : s.Keeps t := State.Keeps.refl.oneStep t e

/-- Settles O4: a step is a chain of the model's functions, each of which keeps the canonical forms (`State.Keeps`). -/
theorem aStepKeepsTheCanonicalForms : Obligations.AStepKeepsTheCanonicalForms := by
  unfold Obligations.AStepKeepsTheCanonicalForms
  exact ⟨fun _ _ hs e => (step_keeps e).memOk hs, fun _ _ hs e => (step_keeps e).spadsOk hs⟩

end Sys2Proof.Machine
end

section
/-! SUPPORT. What reset leaves in the device registers: a register that nothing has written reads as the Reset column of its map (R10, R393), which stands in
`attr0` for region 0 and in `attr4` for region 4. -/

namespace Sys2Proof.Machine

/-! ### What a register's key says of it -/

theorem ctxFn_ctxKey {fn c : Nat} (hc : c < 256) : ctxFn (ctxKey fn c) = fn := by
  unfold ctxFn ctxKey
  omega

theorem ctxLoc_ctxKey {fn c : Nat} (hc : c < 256) : ctxLoc (ctxKey fn c) = c := by
  unfold ctxLoc ctxKey
  omega

theorem regAttr_key0 {fn off : Nat} (h : off < 2 ^ 28) : regAttr (key0 fn off) = attr0 fn off := by
  have hoff : (fn * 2 ^ 32 + off) % 2 ^ 32 = off := by omega
  have hfn : (fn * 2 ^ 32 + off) / 2 ^ 32 = fn := by omega
  simp only [regAttr, key0, hoff, hfn, if_pos h]

theorem regAttr_key4 {fn off : Nat} (h : off < 2 ^ 28) : regAttr (key4 fn off) = attr4 fn off := by
  have hoff : (fn * 2 ^ 32 + 2 ^ 28 + off) % 2 ^ 32 = 2 ^ 28 + off := by omega
  have hfn : (fn * 2 ^ 32 + 2 ^ 28 + off) / 2 ^ 32 = fn := by omega
  simp only [regAttr, key4, hoff, hfn, if_neg (show ¬2 ^ 28 + off < 2 ^ 28 by omega), Nat.add_sub_cancel_left]

theorem State.reset_rget (k : Nat) : State.reset.rget k = (regAttr k).rst := rfl

/-! ### Reset values by the place of a register in its block -/

/-- LOGSZ of a queue (R89). -/
theorem attr0_logsz_rst {fn off : Nat} (hi : off < 0x100000) (hm : off % 64 = 0x08) : (attr0 fn off).rst = 4 := by
  simp [attr0, hi, hm]

/-- PMTHR and LOGSZ of a peer-move block (R175). -/
theorem attr0_peerMove_rst {fn off : Nat} (lo : 0x142000 ≤ off) (hi : off < 0x146000) (hm : off % 64 = 0x18) : (attr0 fn off).rst = 0x4006 := by
  simp (disch := omega) only [attr0, if_neg, if_pos, hm]

/-- AUDTHR of a tensor block (R349). -/
theorem attr0_audthr_rst {fn off : Nat} (lo : 0x148000 ≤ off) (hi : off < 0x14A000) (hm : off % 32 = 0x1C) :
    (attr0 fn off).rst = 0xFFFFFFFF := by
  simp (disch := omega) only [attr0, if_neg, if_pos, hm]

/-- The first register of a fault buffer (R410). -/
theorem attr4_faultBuffer_rst {fn off : Nat} (hi : off < 0x4000) (hm : off % 64 = 0) : (attr4 fn off).rst = 0 := by
  simp [attr4, hi, hm]

/-! ### Device registers after reset -/

theorem State.reset_logsz {fn c q : Nat} (hc : c < 256) (hq : q < 64) : State.reset.rget (kQueue (ctxKey fn c) q 8) = 4 := by
  rw [State.reset_rget, kQueue, ctxFn_ctxKey hc, ctxLoc_ctxKey hc, regAttr_key0 (by omega), attr0_logsz_rst (by omega) (by omega)]

theorem State.reset_peerMove {fn c : Nat} (hc : c < 256) : State.reset.rget (kPm (ctxKey fn c) 0x18) = 0x4006 := by
  rw [State.reset_rget, kPm, ctxFn_ctxKey hc, ctxLoc_ctxKey hc, regAttr_key0 (by omega), attr0_peerMove_rst (by omega) (by omega) (by omega)]

theorem State.reset_audthr {fn c : Nat} (hc : c < 256) : State.reset.rget (kTd (ctxKey fn c) 0x1C) = 0xFFFFFFFF := by
  rw [State.reset_rget, kTd, ctxFn_ctxKey hc, ctxLoc_ctxKey hc, regAttr_key0 (by omega), attr0_audthr_rst (by omega) (by omega) (by omega)]

theorem State.reset_faultBuffer {fn c : Nat} (hc : c < 256) : State.reset.rget (kFb (ctxKey fn c) 0) = 0 := by
  rw [State.reset_rget, kFb, ctxFn_ctxKey hc, ctxLoc_ctxKey hc, regAttr_key4 (by omega), attr4_faultBuffer_rst (by omega) (by omega)]

theorem State.reset_csplan : ∀ p, p < 8 → State.reset.rget (kCsplan p) = 0x203010 := by decide +kernel

theorem State.reset_modeRegister : ∀ st, st < 8 → State.reset.rget (kMra st 0x10) = 0x1000 := by decide +kernel

/-- Settles O6: the state after reset is written out, and its device registers hold what their maps give, block by block. -/
theorem resetLeavesTheStatedValues : Obligations.ResetLeavesTheStatedValues := by
  unfold Obligations.ResetLeavesTheStatedValues
  have hordered : State.reset.ordered := ⟨.nil, .nil, by simp [State.reset]⟩
  exact ⟨rfl, rfl, hordered, rfl, rfl, rfl, rfl, by decide +kernel, fun fn c q _ hc hq => State.reset_logsz hc hq,
    fun fn c _ hc => ⟨State.reset_peerMove hc, State.reset_audthr hc, State.reset_faultBuffer hc⟩, State.reset_csplan, State.reset_modeRegister,
    by decide +kernel⟩

end Sys2Proof.Machine
end

section
/-! SUPPORT. One step, taken apart (R18, R108, R233, R253): with nothing due at a home or at the host link it is the turn that the agenda names, and what the
end of a step adds to it.

The two ideas: a word, an M-word or an event always has a next state, once the bundle or the stream that runs it is there (`exec_next`); and each part of
`State.endStep` either has nothing to do or changes teams alone, in what `Team.seen` leaves out (`State.Tended`). -/

namespace Sys2Proof.Machine

variable {s t u v : State} {i : Instr} {x : Iss} {f : Form} {k : Nat} {tm : Team} {α : Type}

/-! ### Every word and event has a next state -/

/-- The machine goes on: the outcome is a next state. -/
def GoesOn (o : Host.Outcome State Fault Refusal) : Prop := ∃ t, o = .next t

theorem runWord_next (hx : s.iss = some x) (hf : form i = some f) {n extra act} : GoesOn (runWord s i n extra act) := by
  simp only [runWord, hx, hf]
  exact ⟨_, rfl⟩

theorem runArith_next (hx : s.iss = some x) (hf : form i = some f) {once d cnt val} : GoesOn (runArith s i once d cnt val) := runWord_next hx hf

theorem runCollective_next (hx : s.iss = some x) (hf : form i = some f) : GoesOn (runCollective s i) := runWord_next hx hf

theorem runEngine_next (hx : s.iss = some x) (hf : form i = some f) {extra mem scope column make} :
    GoesOn (runEngine s i extra mem scope column make) := by
  simp only [runEngine, hx, hf]
  exact ⟨_, rfl⟩

theorem runM_next {e : Engine} (h : s.Streams k tm e) {act} : GoesOn (runM s act) := by
  obtain ⟨hcur, htm, he, hrun⟩ := h
  simp only [runM, hcur, htm, he, hrun]
  exact ⟨_, rfl⟩

/-- The meanings end in a fault in one way only: the word's bundle (`State.iss`), or the M-word's stream and engine, is not there (log entry 34). -/
theorem exec_next (hword : ∀ f, form i = some f → ∃ x, s.iss = some x) (hstream : isMword i = true → ∃ k tm e, s.Streams k tm e) :
    GoesOn (exec i s) := by
  cases i with
  | iadd | iaddc | isub | imul | imulh | imad | imadw | isad | imin | imax | iabs | ineg | shl | shr | sar | fsl | fsr | bfn3 | and | or | xor | bfx | bfi
   | bysel | iset | isel | mov | lea | leaw | idot4 | idot2 | fadd | fsub | fmul | ffma | fmin | fmax | fset | fsel | frnd | ffrc | fscl | fext | frcp | frsq
   | fsqt | fexp2 | flog2 | fsin | fcos | pkadd | pksub | pkmul | pkfma | pkmin | pkmax | pkcmp | cvt | cvpk | cvsc | iaddi | shli | shri | sari | andi | ori
   | xori | popc | clz | ctz | brev | fcls | movi | movh | uadd | usub | umov | uand | uor | uxor | ushl | ushr | ucmp | usel | umul | ulea | umovi =>
    obtain ⟨x, hx⟩ := hword _ rfl
    exact runArith_next hx rfl
  | lxch | vote | ball | gred | gscn =>
    obtain ⟨x, hx⟩ := hword _ rfl
    exact runCollective_next hx rfl
  | ld | st | lds | sts | ldc | atom | red | atoms | rzcarv =>
    obtain ⟨x, hx⟩ := hword _ rfl
    dsimp only [exec, execLd, execSt, execLds, execSts, execLdc, execAtom, execRed, execAtoms, execRzcarv]
    exact runWord_next hx rfl
  | prf | fence | prm | mxacq | mxrel | mxgo | brl | jmp | callDirect | callRegister | ret | nop | yield | exit | rets | launch | gbar | trap | evpost | frz
   | sleep | rzinit | rzarv | rzwait | rzarw | rztest | vgrow | vshrk | srd | swr | csrrd | csrwr | bra | brc =>
    obtain ⟨x, hx⟩ := hword _ rfl
    dsimp only [exec]
    exact runWord_next hx rfl
  | cpy | cpyt =>
    obtain ⟨x, hx⟩ := hword _ rfl
    dsimp only [exec, execCpy, execCpyt]
    exact runEngine_next hx rfl
  | gath | scat | tdset | tdrd | ttag | jnext | coll | plmv =>
    obtain ⟨x, hx⟩ := hword _ rfl
    dsimp only [exec]
    exact runEngine_next hx rfl
  | mnop | mend | mlda | mldb | mma | mzro | mstc | madc | mrza | mrzw | mwtg | mset | madd | mlop | maud =>
    obtain ⟨k, tm, e, h⟩ := hstream rfl
    dsimp only [exec]
    exact runM_next h
  | ageingMonitorRead =>
    dsimp only [exec, execAgeingMonitorRead]
    split
    · exact ⟨_, rfl⟩
    · split <;> exact ⟨_, rfl⟩
  | _ => exact ⟨_, rfl⟩

theorem form_of_isMword (h : isMword i = true) : form i = none := by
  unfold isMword at h
  split at h
  any_goals rfl
  cases h

theorem isMword_of_decMCell {w : Word} (h : decMCell w = some i) : isMword i = true := by
  unfold decMCell at h
  split at h
  all_goals cases h <;> rfl

theorem isMword_of_decodeM {w : Word} (h : decodeM w = .ok i) : isMword i = true := by
  unfold decodeM at h
  split at h
  · cases h
  · rename_i j hj
    split at h
    · split at h
      · cases h
      · cases h
        exact isMword_of_decMCell hj
    · cases h

theorem exec_word_next (hx : s.iss = some x) (hm : (modsOf i).isSome = true) : GoesOn (exec i s) := by
  refine exec_next (fun _ _ => ⟨x, hx⟩) fun h => ?_
  simp [modsOf, form_of_isMword h] at hm

theorem exec_stream_next {e : Engine} (h : s.Streams k tm e) (hm : isMword i = true) : GoesOn (exec i s) := by
  refine exec_next (fun f hf => ?_) fun _ => ⟨k, tm, e, h⟩
  simp [form_of_isMword hm] at hf

theorem exec_event_next (h : isEvent i = true) : GoesOn (exec i s) := by
  simp only [isEvent, modsOf, Option.isNone_map, Option.isNone_iff_eq_none, Bool.and_eq_true, Bool.not_eq_true'] at h
  obtain ⟨hf, hm⟩ := h
  exact exec_next (by simp [hf]) (by simp [hm])

/-! ### What the end of a step changes -/

/-- What of a team the end of a step leaves as it is. -/
def Team.seen (tm : Team) : Team :=
  { tm with readyAt := 0, migDone := [], resFrom := 0, counters := {}, bundles := tm.bundles.map fun b => { b with active := false } }

/-- `u` differs from `t` in its teams alone, and in none of them in what is seen. -/
structure State.Tended (t u : State) : Prop where
  only : { u with teams := t.teams } = t
  seen : ∀ k, (u.team? k).map Team.seen = (t.team? k).map Team.seen
  free : (∀ p ∈ t.teams, p.2.freezing = none) → ∀ p ∈ u.teams, p.2.freezing = none

/-- A field of a state that is not its teams is as it was. -/
theorem State.Tended.field {β : Type} (h : t.Tended u) (p : State → β) : p { u with teams := t.teams } = p t := congrArg p h.only

theorem State.Tended.refl : t.Tended t := ⟨rfl, fun _ => rfl, id⟩

theorem State.Tended.trans (h : t.Tended u) (g : u.Tended v) : t.Tended v where
  only := (congrArg (fun w : State => { w with teams := t.teams }) g.only).trans h.only
  seen k := (g.seen k).trans (h.seen k)
  free ht := g.free (h.free ht)

theorem State.Tended.foldl {f : State → α → State} {l : List α} (h : ∀ (s : State) a, s.Tended (f s a)) : t.Tended (l.foldl f t) := by
  induction l generalizing t with
  | nil => exact .refl
  | cons a l ih => exact (h t a).trans ih

theorem State.Tended.ite {c : Prop} [Decidable c] (hu : t.Tended u) (hv : t.Tended v) : t.Tended (if c then u else v) := by
  split <;> assumption

theorem State.Tended.releaseCur (h : t.Tended u) : ({ t with cur := none } : State).Tended { u with cur := none } :=
  ⟨congrArg (fun w : State => { w with cur := none }) h.only, h.seen, h.free⟩

theorem State.tended_modTeam {f : Team → Team} (hf : ∀ tm, (f tm).seen = tm.seen) : t.Tended (t.modTeam k f) := by
  unfold State.modTeam
  split
  · rename_i tm htm
    refine ⟨rfl, fun j => ?_, fun ht p hp => ?_⟩
    · rw [State.setTeam_team?]
      split
      · subst_vars
        simp [htm, hf]
      · rfl
    · obtain rfl | hp := mem_sins hp
      · exact (congrArg Team.freezing (hf tm)).trans (ht _ (mem_of_sfind htm))
      · exact ht p hp
  · exact .refl

theorem Team.firstIssue_seen {now clk : Nat} : (tm.firstIssue now clk).seen = tm.seen := by
  unfold Team.firstIssue
  split <;> rfl

theorem State.tended_noteIssue : t.Tended t.noteIssue := by
  unfold State.noteIssue
  split
  · exact tended_modTeam fun _ => Team.firstIssue_seen
  · exact .refl

theorem Team.setActive_seen {idx : Nat} {a : Bool} :
    ({ tm with bundles := tm.bundles.modify idx fun b => { b with active := a } } : Team).seen = tm.seen := by
  simp only [Team.seen, Team.mk.injEq, true_and, and_true]
  refine List.ext_getElem? fun j => ?_
  rw [List.getElem?_map, List.getElem?_map, List.getElem?_modify]
  by_cases h : idx = j <;> cases tm.bundles[j]? <;> simp [h]

theorem State.tended_setActive {idx : Nat} {a : Bool} : t.Tended (t.modBundle k idx fun b => { b with active := a }) :=
  tended_modTeam fun _ => Team.setActive_seen

theorem State.tended_rotate {c l sl : Nat} : t.Tended (t.rotate c l sl) :=
  .ite (.foldl fun _ _ => tended_setActive) (.trans (.foldl fun _ _ => tended_setActive) (.foldl fun _ _ => tended_setActive))

theorem State.tended_rotateAll : t.Tended t.rotateAll := .foldl fun _ _ => .foldl fun _ _ => tended_rotate

theorem State.noteHalts_of_no_migration (h : ∀ p ∈ s.cols, p.2.migration = none) : s.noteHalts = s := by
  unfold State.noteHalts
  rw [List.filter_eq_nil_iff.2 fun p hp => by simp [h p hp]]
  rfl

theorem State.signalDue_of_idle {now : Nat} (h : ∀ p ∈ s.dir, p.2.waiting = []) : s.signalDue now = false :=
  List.any_eq_false.2 fun p hp => by simp [h p hp]

theorem State.settlePuts_of_no_puts (h : s.puts = []) : s.settlePuts = s := by
  rw [State.settlePuts, h]
  rfl

theorem State.settleRecords_of_none_parked (h : ∀ p ∈ s.ctxs, p.2.parked = []) : s.settleRecords = s :=
  (List.foldl_ext _ (fun s _ => s) s fun _ p hp => by simp [h p hp]).trans (List.foldl_fixed _)

/-- Where nothing that `State.endStep` looks for is there, a step ends with the issue slot free and the teams tended. -/
theorem State.endStep_tends (hdir : ∀ p ∈ s.dir, p.2.waiting = []) (htrip : t.hardTrip = none) (hfreeze : ∀ p ∈ t.teams, p.2.freezing = none)
    (hmig : ∀ p ∈ t.cols, p.2.migration = none) (hpred : ∀ p ∈ t.grids, p.2.pred = none) (hputs : t.puts = [])
    (hparked : ∀ p ∈ t.ctxs, p.2.parked = []) : ({ t with cur := none } : State).Tended (s.endStep t) := by
  have hnote := (State.tended_noteIssue (t := t)).releaseCur
  have hhalts : t.noteIssue.noteHalts = t.noteIssue :=
    State.noteHalts_of_no_migration (by rwa [show t.noteIssue.cols = t.cols from State.tended_noteIssue.field State.cols])
  unfold State.endStep
  rw [hhalts]
  extract_lets _ u v ks w x y z a
  have hv : v = u := by simp [v, State.signalDue_of_idle hdir]
  have hw : ({ t with cur := none } : State).Tended w := by
    exact .trans (u := v) (hv ▸ hnote) (.foldl fun _ _ => State.tended_modTeam fun _ => rfl)
  have hx : x = w := by
    have : (w.teams.filter fun p => p.2.freezing.isSome) = [] := List.filter_eq_nil_iff.2 fun p hp => by simp [hw.free hfreeze p hp]
    simp only [x, this]
    rfl
  have hy : y = w := by
    have hg : w.grids = t.grids := hw.field State.grids
    have : (x.grids.filter fun p => p.2.pred.isSome && !p.2.barWait.isEmpty) = [] :=
      List.filter_eq_nil_iff.2 fun p hp => by simp [hpred p (hg ▸ hx ▸ hp)]
    simp only [y, this]
    exact hx
  have hz : z = w := by
    have hp : w.puts = [] := (hw.field State.puts).trans hputs
    have hc : w.ctxs = t.ctxs := hw.field State.ctxs
    simp only [z]
    rw [hy, State.settlePuts_of_no_puts hp, State.settleRecords_of_none_parked (hc ▸ hparked)]
  have ha : a = w := by
    have ht : z.hardTrip = none := hz ▸ (hw.field State.hardTrip).trans htrip
    exact (if_neg (by simp [ht])).trans hz
  rw [ha]
  exact .ite (hw.trans State.tended_rotateAll) hw

/-! ### The turn a step takes -/

/-- The state in which a step takes its turn: a cycle has passed, the issue slot is free, and the agenda holds what is left of it. -/
def State.atTurn (s : State) (rest : List Turn) : State := { s with cyc := s.cyc + 1, cur := none, agenda := rest }

theorem State.beginStep_of_idle (hdir : ∀ p ∈ s.dir, p.2.waiting = []) (hhost : s.hostQueue = []) :
    s.beginStep = { s with cyc := s.cyc + 1, cur := none } := by
  have hnone : (s.dir.filter fun p => !p.2.waiting.isEmpty) = [] := List.filter_eq_nil_iff.2 fun p hp => by simp [hdir p hp]
  simp [State.beginStep, hnone, State.serveHost, hhost]

theorem step_of_turn {turn : Turn} {rest : List Turn} (hdir : ∀ p ∈ s.dir, p.2.waiting = []) (hhost : s.hostQueue = [])
    (hturn : s.agenda = turn :: rest) (h : (s.atTurn rest).takeTurn turn = .next t) : step s = .next (s.endStep t) := by
  have hnext : s.beginStep.nextTurn = (s.atTurn rest, turn) := by
    rw [State.beginStep_of_idle hdir hhost]
    simp only [State.nextTurn, hturn]
    rfl
  simp only [step, State.oneStep, hnext, h]

theorem State.takeTurn_issue {idx l : Nat} {b : Bundle} {c : Clause} {sl : Slot} (halive : s.alive = true) (htm : s.team? k = some tm)
    (hplace : tm.place = .core l) (hb : tm.bundles[idx]? = some b) (hmay : tm.mayIssue b = true) (hslot : s.hasPlace k tm b = true)
    (hc : b.clause = some c) (hsl : c.slots[b.pos]? = some sl) (hmods : (modsOf sl.ins).isSome = true) (hstall : s.stalled k tm b = false)
    (hclock : s.mayClock (teamCol k) l = true) : s.takeTurn (.issue k idx) = exec sl.ins { s with cur := some (.bundle k idx) } := by
  have hissues : s.issues k idx = some sl.ins := by
    simp [State.issues, halive, htm, Team.layer?, hplace, hb, hmay, hslot, hstall, hclock, Bundle.next?, hc, hsl, Option.filter, hmods]
  simp only [State.takeTurn, hissues]

theorem State.iss_of_bundle {idx : Nat} {b : Bundle} {c : Clause} {sl : Slot} (hcur : s.cur = some (.bundle k idx)) (htm : s.team? k = some tm)
    (hb : tm.bundles[idx]? = some b) (hc : b.clause = some c) (hsl : c.slots[b.pos]? = some sl) : ∃ x, s.iss = some x := by
  simp [State.iss, hcur, htm, hb, hc, hsl]

theorem State.streams_of_turn (hcur : s.cur = some (.stream k)) (htm : s.team? k = some tm) (hgo : tm.streams = true) : ∃ e, s.Streams k tm e := by
  simp only [Team.streams, Bool.and_eq_true] at hgo
  obtain ⟨⟨⟨-, hrun⟩, -⟩, heng⟩ := hgo
  obtain ⟨e, he⟩ := Option.isSome_iff_exists.1 heng
  exact ⟨e, hcur, htm, he, hrun⟩

section
variable {l : Nat} (halive : s.alive = true) (htm : s.team? k = some tm) (hplace : tm.place = .core l) (hclock : s.mayClock (teamCol k) l = true)
  (hgo : tm.streams = true)
include halive htm hplace hclock hgo

theorem State.takeTurn_stream_word {w : Word} (hir : tm.stream.ir = some w) (hdec : decodeM w = .ok i) :
    s.takeTurn (.stream k) = exec i { s with cur := some (.stream k) } := by
  simp [State.takeTurn, State.streamTurn, halive, htm, Team.layer?, hplace, hclock, hgo, hir, hdec]

theorem State.takeTurn_stream_fetch (hir : tm.stream.ir = none) : s.takeTurn (.stream k) = .next ((s.fetchM k tm).auditStep k) := by
  simp [State.takeTurn, State.streamTurn, halive, htm, Team.layer?, hplace, hclock, hgo, hir]

end

theorem State.fetchM_of_read {bs : List Byte} (hpos : tm.stream.pos < 2 ^ 52)
    (hread : s.colRead (teamCol k) (s.teamCtx tm) kStream (s.teamPriv tm) tm.stream.pos 4 = (v, .ok bs)) (htm : v.team? k = some tm)
    (hdec : decodeM (BitVec.ofNat 32 (leNat bs)) = .ok i) :
    s.fetchM k tm = v.setTeam k { tm with stream := { tm.stream with ir := some (BitVec.ofNat 32 (leNat bs)), wt := false } } := by
  simp only [State.fetchM, if_neg (Nat.not_le.2 hpos), hread, nw, hdec, State.modTeam_of_team? htm]

/-- Settles O7: each turn of the agenda is taken as `State.takeTurn` says, its word or event has a next state, and the end of a step only tends the teams. -/
theorem aStepRunsTheInstructionWhoseTurnItIs : Obligations.AStepRunsTheInstructionWhoseTurnItIs := by
  unfold Obligations.AStepRunsTheInstructionWhoseTurnItIs
  intro s rest hdir hhost u ran seen
  have turn {t : State} {a : Turn} (ha : s.agenda = a :: rest) (h : u.takeTurn a = .next t) : ran t := step_of_turn hdir hhost ha h
  have runs {a : Turn} {i : Instr} {v : State} (ha : s.agenda = a :: rest) (h : u.takeTurn a = exec i v) (hi : GoesOn (exec i v)) :
      ∃ t, exec i v = .next t ∧ ran t := by
    obtain ⟨t, ht⟩ := hi
    exact ⟨t, ht, turn ha (h.trans ht)⟩
  refine ⟨?issue, ?stream, ?fetch, ?event, fun ha => turn ha rfl, fun mib ha => turn ha rfl, fun ha => turn ha rfl, ?tend⟩
  case issue =>
    intro k idx l tm b c sl ha halive htm hplace hb hmay hslot hc hsl hmods hstall hclock
    obtain ⟨x, hx⟩ := State.iss_of_bundle (s := { u with cur := some (.bundle k idx) }) rfl htm hb hc hsl
    exact runs ha (State.takeTurn_issue halive htm hplace hb hmay hslot hc hsl hmods hstall hclock) (exec_word_next hx hmods)
  case stream =>
    intro k l tm w i ha halive htm hgo hplace hclock hir hdec
    obtain ⟨e, he⟩ := State.streams_of_turn (s := { u with cur := some (.stream k) }) rfl htm hgo
    exact runs ha (State.takeTurn_stream_word (s := u) halive htm hplace hclock hgo hir hdec) (exec_stream_next he (isMword_of_decodeM hdec))
  case fetch =>
    intro k l tm bs i v ha halive htm hplace hclock hgo hir hpos hread hv hdec
    exact turn ha ((State.takeTurn_stream_fetch (s := u) halive htm hplace hclock hgo hir).trans
      (by rw [State.fetchM_of_read hpos hread hv hdec]))
  case event =>
    intro i ha hi hhap
    exact runs ha (by simp [State.takeTurn, hi, hhap]) (exec_event_next hi)
  case tend =>
    intro t htrip hfreeze hmig hpred hputs hparked
    have h := State.endStep_tends hdir htrip hfreeze hmig hpred hputs hparked
    exact ⟨h.only, h.seen⟩

end Sys2Proof.Machine
end

section
/-! SUPPORT. What every step keeps of the order of the lists (R28, R42, R46): teams, grids and the registers of every thread are listed once each, in rising
order of their keys.

The idea: few functions of the model write these lists, and each writes through `sins`, `sdel`, `sput`, a filter or a map that keeps the keys, which keep the
order (`Rising`). `State.Listed` (`State.ordered` as a definition of its own) goes along with a state through the model's functions by one lemma for each
function, in the model's order, file by file. A function that writes neither teams nor grids keeps it by the definition of `State.Listed` alone (`:= h`). -/

namespace Sys2Proof.Machine

-- One proof after another: side by side they take more threads, and so more stack, than the check's memory limit allows.
set_option Elab.async false

variable {s t : State} {α β : Type} {tm : Team}

/-! ### Lists in rising order -/

/-- A sparse map lists its keys in rising order, each once. -/
def Rising (l : List (Nat × α)) : Prop := (l.map Prod.fst).Pairwise (· < ·)

theorem sok_some_iff_rising {l : List (Nat × α)} {b : Nat} : sok (fun _ _ => true) (some b) l = true ↔ (∀ p ∈ l, b < p.1) ∧ Rising l := by
  induction l generalizing b with
  | nil => simp [sok, Rising]
  | cons q l ih =>
    obtain ⟨j, v⟩ := q
    simp only [sok, ih, Rising, List.map_cons, List.pairwise_cons, List.forall_mem_cons, List.forall_mem_map, Bool.and_eq_true, decide_eq_true_eq,
      Bool.and_true]
    exact ⟨fun ⟨hb, hl, hr⟩ => ⟨⟨hb, fun p hp => hb.trans (hl p hp)⟩, hl, hr⟩, fun ⟨⟨hb, _⟩, hl, hr⟩ => ⟨hb, hl, hr⟩⟩

theorem sok_none_iff_rising {l : List (Nat × α)} : sok (fun _ _ => true) none l = true ↔ Rising l := by
  cases l with
  | nil => simp [sok, Rising]
  | cons q l =>
    obtain ⟨j, v⟩ := q
    simp only [sok, sok_some_iff_rising, Rising, List.map_cons, List.pairwise_cons, List.forall_mem_map, Bool.true_and]

theorem Rising.nil : Rising ([] : List (Nat × α)) := List.Pairwise.nil

theorem Rising.sins {l : List (Nat × α)} {k : Nat} {v : α} (h : Rising l) : Rising (sins l k v) :=
  sok_none_iff_rising.1 (sok_sins rfl (by simp) (sok_none_iff_rising.2 h))

theorem Rising.sdel {l : List (Nat × α)} {k : Nat} (h : Rising l) : Rising (sdel l k) :=
  sok_none_iff_rising.1 (sok_sdel (sok_none_iff_rising.2 h))

theorem Rising.sput [DecidableEq α] {d : α} {l : List (Nat × α)} {k : Nat} {v : α} (h : Rising l) : Rising (sput d l k v) := by
  unfold Machine.sput
  split
  · exact h.sdel
  · exact h.sins

theorem Rising.filter {l : List (Nat × α)} {f : Nat × α → Bool} (h : Rising l) : Rising (l.filter f) := List.Pairwise.sublist (List.filter_sublist.map _) h

theorem Rising.map {l : List (Nat × α)} {f : Nat × α → Nat × β} (h : Rising l) (hf : ∀ p, (f p).1 = p.1) : Rising (l.map f) := by
  have e : (l.map f).map Prod.fst = l.map Prod.fst := by simp [hf]
  rwa [Rising, e]

theorem ite_keyed {c : Prop} [Decidable c] {p : Nat × α} {a : α} : (if c then (p.1, a) else p).1 = p.1 := by
  split <;> rfl

theorem Rising.foldl {f : List (Nat × α) → β → List (Nat × α)} {l : List β} {m : List (Nat × α)} (h : Rising m) (hf : ∀ m b, Rising m → Rising (f m b)) :
    Rising (l.foldl f m) := by
  induction l generalizing m with
  | nil => exact h
  | cons b l ih => exact ih (hf _ _ h)

/-! ### The registers of threads -/

/-- The registers of each thread of a list stand in rising order, each once. -/
def RegsRise (l : List Thread) : Prop := ∀ th ∈ l, Rising th.regs

theorem RegsRise.modify {l : List Thread} {t : Nat} {f : Thread → Thread} (h : RegsRise l) (hf : ∀ th, Rising th.regs → Rising (f th).regs) :
    RegsRise (l.modify t f) := by
  intro th hth
  obtain ⟨i, hi⟩ := List.getElem?_of_mem hth
  rw [List.getElem?_modify, Option.map_eq_map, Option.map_eq_some_iff] at hi
  obtain ⟨u, hu, rfl⟩ := hi
  have hr := h u (List.mem_of_getElem? hu)
  split
  · exact hf _ hr
  · exact hr

theorem RegsRise.map {l : List Thread} {f : Thread → Thread} (h : RegsRise l) (hf : ∀ th, Rising th.regs → Rising (f th).regs) :
    RegsRise (l.map f) := by
  intro th hth
  obtain ⟨u, hu, rfl⟩ := List.mem_map.1 hth
  exact hf _ (h u hu)

theorem RegsRise.ofRange {f : Nat → Thread} {n : Nat} (hf : ∀ t, Rising (f t).regs) : RegsRise ((List.range n).map f) := by
  intro th hth
  obtain ⟨t, -, rfl⟩ := List.mem_map.1 hth
  exact hf t

theorem RegsRise.foldl {f : Team → α → Team} {l : List α} {tm : Team} (h : RegsRise tm.threads) (hf : ∀ tm a, RegsRise tm.threads → RegsRise (f tm a).threads) :
    RegsRise (l.foldl f tm).threads := by
  induction l generalizing tm with
  | nil => exact h
  | cons a l ih => exact ih (hf _ _ h)

theorem RegsRise.ite {c : Prop} [Decidable c] {u : Team} (ht : RegsRise tm.threads) (hu : RegsRise u.threads) :
    RegsRise (if c then tm else u).threads := by
  split <;> assumption

theorem RegsRise.thread {t : Nat} (h : RegsRise tm.threads) : Rising (tm.thread t).regs := by
  unfold Team.thread
  rw [List.getD_eq_getElem?_getD]
  cases e : tm.threads[t]? with
  | none => exact .nil
  | some th => exact h th (List.mem_of_getElem? e)

theorem RegsRise.foldl_modify {g : Thread → Thread} {f : α → Nat} {l : List α} {ths : List Thread} (h : RegsRise ths)
    (hg : ∀ th, Rising th.regs → Rising (g th).regs := by simp +contextual) : RegsRise (l.foldl (fun ths a => ths.modify (f a) g) ths) := by
  induction l generalizing ths with
  | nil => exact h
  | cons a l ih => exact ih (h.modify hg)

/-! ### What leaves the registers of a thread as they are, or in order -/

@[simp] theorem Thread.acquire_regs {th : Thread} {scope now : Nat} : (th.acquire scope now).regs = th.regs := by
  unfold Thread.acquire
  split <;> rfl

@[simp] theorem Thread.raise_regs {th : Thread} {fl : Flags} : (th.raise fl).regs = th.regs := rfl

@[simp] theorem Thread.setFlag_regs {th : Thread} {i v : Nat} : (th.setFlag i v).regs = th.regs := rfl

@[simp] theorem Thread.dropFlag?_regs {th : Thread} {i : Option Nat} : (th.dropFlag? i).regs = th.regs := by
  cases i <;> rfl

@[simp] theorem Thread.addPend_regs {th : Thread} {r cnt : Nat} {fl : Option Nat} : (th.addPend r cnt fl).regs = th.regs := by
  cases fl <;> rfl

@[simp] theorem Thread.endPend_regs {th : Thread} {wait : BitVec 12} : (th.endPend wait).regs = th.regs := rfl

@[simp] theorem Thread.ite_regs {c : Prop} [Decidable c] {a b : Thread} : (if c then a else b).regs = if c then a.regs else b.regs := apply_ite _ _ _ _

theorem Rising.putN {th : Thread} {r v cnt : Nat} (h : Rising th.regs) : Rising (th.putN r v cnt).regs := by
  induction cnt generalizing th r v with
  | zero => exact h
  | succ n ih => exact ih (th := th.put r _) h.sins

theorem startRegs_rising {w : Card} {idx t : Nat} : Rising (startRegs w idx t) := Rising.nil.foldl fun _ _ h => h.sput

theorem inheritRegs_rising {mask n : Nat} {old new : List (Nat × Word)} : Rising (inheritRegs mask n old new) :=
  (Rising.nil.foldl fun _ _ h => h.sput).foldl fun _ _ h => h.sput

/-! ### What leaves the threads of a team as they are -/

@[simp] theorem Team.ite_threads {c : Prop} [Decidable c] {a b : Team} : (if c then a else b).threads = if c then a.threads else b.threads :=
  apply_ite _ _ _ _

theorem Team.foldl_threads {f : Team → α → Team} {l : List α} (hf : ∀ tm a, (f tm a).threads = tm.threads) : (l.foldl f tm).threads = tm.threads := by
  induction l generalizing tm with
  | nil => rfl
  | cons a l ih => rw [List.foldl_cons, ih, hf]

@[simp] theorem Team.unplace_threads : tm.unplace.threads = tm.threads := by
  unfold Team.unplace
  split <;> rfl

@[simp] theorem Team.stopStream_threads : tm.stopStream.threads = tm.threads := by
  unfold Team.stopStream
  split
  · exact Team.unplace_threads
  · rfl

@[simp] theorem Team.arriveAll_threads {z : Nat} {l : List Nat} : (tm.arriveAll z l).1.threads = tm.threads := by
  induction l generalizing tm with
  | nil => rfl
  | cons t l ih => exact ih

@[simp] theorem Team.arriveN_threads {z n : Nat} : (tm.arriveN z n).threads = tm.threads := by
  induction n generalizing tm with
  | zero => rfl
  | succ n ih => exact ih

@[simp] theorem Team.part_threads {idx : Nat} {b : Bundle} {ts : List Nat} : (tm.part idx b ts).threads = tm.threads := by
  unfold Team.part
  split <;> rfl

@[simp] theorem Team.firstIssue_threads {now clk : Nat} : (tm.firstIssue now clk).threads = tm.threads := by
  unfold Team.firstIssue
  split <;> rfl

@[simp] theorem Team.reform_threads {sl : Nat} {pcs : List Nat} : (tm.reform sl pcs).threads = tm.threads := rfl

@[simp] theorem Team.setTile_threads {ts : Nat} {x : Tile} : (tm.setTile ts x).threads = tm.threads := rfl

@[simp] theorem Team.modTile_threads {ts : Nat} {f : Tile → Tile} : (tm.modTile ts f).threads = tm.threads := rfl

@[simp] theorem Team.mRaise_threads {f : Flags} : (tm.mRaise f).threads = tm.threads := rfl

@[simp] theorem Team.join_threads {id : Nat} {slots : List Nat} : (tm.join id slots).threads = tm.threads :=
  Team.foldl_threads fun _ _ => rfl

@[simp] theorem Team.readDone_threads {ts : Nat} {c : Bool} : (tm.readDone ts c).threads = tm.threads := by
  simp [Team.readDone]

@[simp] theorem Team.writeDone_threads {ts : Nat} {bs : List PByte} : (tm.writeDone ts bs).threads = tm.threads := rfl

@[simp] theorem Team.audit_threads {k : Nat} {b : Accum} {f : Watch → Watch} : (tm.audit k b f).threads = tm.threads := rfl

@[simp] theorem Team.spadPut_threads {o size v : Nat} : (tm.spadPut o size v).threads = tm.threads := rfl

@[simp] theorem Team.spadWrite_threads {o : Nat} {bs : List PByte} : (tm.spadWrite o bs).threads = tm.threads := Team.foldl_threads fun _ _ => rfl

/-! ### What keeps the registers of the threads of a team in order -/

theorem RegsRise.modThread {t : Nat} {f : Thread → Thread} (h : RegsRise tm.threads) (hf : ∀ th, Rising th.regs → Rising (f th).regs := by simp +contextual) :
    RegsRise (tm.modThread t f).threads := h.modify hf

theorem RegsRise.modThreads {ts : List Nat} {f : Thread → Thread} (h : RegsRise tm.threads)
    (hf : ∀ th, Rising th.regs → Rising (f th).regs := by simp +contextual) : RegsRise (tm.modThreads f ts).threads := by
  induction ts generalizing tm with
  | nil => exact h
  | cons t ts ih => exact ih (h.modThread hf)

theorem RegsRise.putRegs {t r v cnt : Nat} (h : RegsRise tm.threads) : RegsRise (tm.putRegs t r v cnt).threads := by
  unfold Team.putRegs
  split
  · exact h.modThread fun _ hr => hr.putN
  · exact h

theorem RegsRise.ack {id t old : Nat} {bad : Bool} (h : RegsRise tm.threads) : RegsRise (tm.ack id t old bad).threads := by
  unfold Team.ack
  split
  · exact h
  · split
    · exact h
    · exact h
    · exact h
    · exact h
    · exact foldl_modify h

theorem RegsRise.release (h : RegsRise tm.threads) : RegsRise tm.release.threads := h.map (by simp +contextual)

theorem RegsRise.endClause {now idx next : Nat} {b : Bundle} {tgt : Nat → Option VAddr} {yld : Bool} (h : RegsRise tm.threads) :
    RegsRise (tm.endClause now idx next b tgt yld).threads := by
  unfold Team.endClause
  extract_lets u
  have hu : RegsRise u.threads := h.foldl fun _ _ h => h.modThread
  split <;> exact hu

theorem RegsRise.endRendezvous {now t : Nat} (h : RegsRise tm.threads) : RegsRise (tm.endRendezvous now t).threads := .ite h.modThread h

theorem RegsRise.writeResults {once : Bool} {d cnt : Nat} {val : Val} {ts : List Nat} (h : RegsRise tm.threads) :
    RegsRise (tm.writeResults once d cnt val ts).threads := h.foldl fun _ _ h => h.putRegs.modThread

theorem RegsRise.leaveBarrier {now : Nat} (h : RegsRise tm.threads) : RegsRise (tm.leaveBarrier now).threads := h.map (by simp +contextual)

theorem RegsRise.passBarrier {now cyc : Nat} (h : RegsRise tm.threads) : RegsRise (tm.passBarrier now cyc).threads := by
  refine h.leaveBarrier.foldl fun tm p h => ?_
  split
  · exact h
  split
  · exact h.modThreads
  · exact h.endClause

theorem RegsRise.grow {clk off d m t : Nat} (h : RegsRise tm.threads) : RegsRise (tm.grow clk off d m t).threads := .ite h.putRegs h.modThread

theorem RegsRise.shrink {g n : Nat} (h : RegsRise tm.threads) : RegsRise (tm.shrink g n).threads := by
  intro th hth
  obtain ⟨⟨u, i⟩, hu, rfl⟩ := List.mem_map.1 hth
  have hr : Rising u.regs := h u (List.fst_mem_of_mem_zipIdx hu)
  dsimp only
  split
  · exact hr.filter
  · exact hr

theorem RegsRise.converge {g : Nat} (h : RegsRise tm.threads) : RegsRise (tm.converge g).threads := by
  unfold Team.converge
  extract_lets live
  clear_value live
  split
  · exact h
  extract_lets
  split
  · split
    · exact h
    split
    · exact h
    extract_lets act tm'
    have htm' : RegsRise tm'.threads := by
      unfold tm'
      split
      · exact h.foldl fun _ _ h => h.putRegs.modThread
      · exact h
    exact htm'.foldl fun _ _ h => h.modThread
  · exact h

theorem RegsRise.endRequest {g v : Nat} (h : RegsRise tm.threads) : RegsRise (tm.endRequest g v).threads :=
  .foldl h fun _ _ h => .ite h.putRegs.modThread h

theorem RegsRise.grant {g : Nat} (h : RegsRise tm.threads) : RegsRise (tm.grant g).threads := by
  unfold Team.grant
  split
  · split
    · exact .endRequest h
    · exact h
  · exact h

theorem RegsRise.requestHalt {now cyc : Nat} (h : RegsRise tm.threads) : RegsRise (tm.requestHalt now cyc).threads := by
  unfold Team.requestHalt
  extract_lets u
  have hu : RegsRise u.threads := .ite h.passBarrier h
  exact .ite hu hu

theorem RegsRise.reissue (h : RegsRise tm.threads) : RegsRise tm.reissue.threads := h.foldl fun _ _ h => .ite h h.modThreads

theorem RegsRise.accJoin {a : Access} {t : Nat} {peer : Bool} (h : RegsRise tm.threads) : RegsRise (tm.accJoin a t peer).threads := foldl_modify h

theorem RegsRise.deliverAll {a : Access} (h : RegsRise tm.threads) : RegsRise (tm.deliverAll a).threads := .foldl h fun _ _ h => h.putRegs.modThread

theorem RegsRise.denyLong {clk : Nat} (h : RegsRise tm.threads) : RegsRise (tm.denyLong clk).threads := h.foldl fun _ _ h => .ite h.endRequest h

theorem RegsRise.atomsOne {op ty : Nat} {d : RegNo} {q : Nat × Nat × Nat × List (Nat × Option Nat)} (h : RegsRise tm.threads) :
    RegsRise (tm.atomsOne op ty d q).threads := .foldl h fun _ _ h => h.putRegs

theorem RegsRise.poisonUnit {u : PoisonUnit} {tm' : Team} (h : RegsRise tm.threads) (e : tm.poisonUnit u = some tm') : RegsRise tm'.threads := by
  cases u with
  | line => cases e
  | granule c sl g | tile c sl ts =>
    simp only [Team.poisonUnit, Option.ite_none_right_eq_some, Option.some.injEq] at e
    obtain ⟨-, rfl⟩ := e
    exact h
  | register c sl t r =>
    simp only [Team.poisonUnit, Option.ite_none_right_eq_some, Option.some.injEq] at e
    obtain ⟨-, rfl⟩ := e
    exact h.modThread
  | accumulator c sl i | macro_ c sl i =>
    simp only [Team.poisonUnit] at e
    split at e
    · simp only [Option.ite_none_right_eq_some, Option.some.injEq] at e
      obtain ⟨-, rfl⟩ := e
      exact h
    · cases e

/-- Threads arrive at a point of their team, and their tokens go to a register. -/
theorem RegsRise.arrive {z d : Nat} {ts : List Nat} (h : RegsRise tm.threads) :
    RegsRise ((tm.arriveAll z ts).2.foldl (fun tm p => tm.putRegs p.1 d p.2 1) (tm.arriveAll z ts).1).threads :=
  .foldl (by rwa [Team.arriveAll_threads]) fun _ _ h => h.putRegs

/-! ### Ordered states -/

/-- The state lists its teams, its grids and the registers of its threads once each, in rising order: `State.ordered` under a name of its own. -/
def State.Listed (s : State) : Prop := Rising s.teams ∧ Rising s.grids ∧ ∀ p ∈ s.teams, RegsRise p.2.threads

theorem State.listed_iff_ordered : s.Listed ↔ s.ordered := .rfl

/-! ### Outcomes, options, pairs, cases and folds -/

/-- The state an outcome goes on with, if it does, is listed in order. -/
def OutListed (o : Host.Outcome State Fault Refusal) : Prop := ∀ t, o = .next t → t.Listed

/-- The state an option holds, if it does, is listed in order. -/
def OptListed (o : Option State) : Prop := ∀ t, o = some t → t.Listed

theorem OutListed.next (h : t.Listed) : OutListed (.next t) := by
  rintro _ ⟨⟩
  exact h

theorem OutListed.fault {f} : OutListed (.fault f) := by
  rintro _ ⟨⟩

theorem OptListed.some (h : t.Listed) : OptListed (some t) := by
  rintro _ ⟨⟩
  exact h

theorem OptListed.none : OptListed Option.none := fun _ e => (Option.some_ne_none _ e.symm).elim

theorem OptListed.of_eq {o} (h : OptListed o) (e : o = .some t) : t.Listed := h t e

theorem OptListed.getD {o} (ho : OptListed o) (h : s.Listed) : (o.getD s).Listed := by
  cases o with
  | none => exact h
  | some t => exact ho t rfl

theorem OptListed.map {f : α → State} {o : Option α} (h : ∀ a, (f a).Listed) : OptListed (o.map f) := by
  intro t e
  obtain ⟨a, -, rfl⟩ := Option.map_eq_some_iff.1 e
  exact h a

theorem OptListed.bind {o : Option State} {f : State → Option State} (ho : OptListed o) (hf : ∀ t, t.Listed → OptListed (f t)) :
    OptListed (o.bind f) := by
  intro t e
  obtain ⟨u, hu, ht⟩ := Option.bind_eq_some_iff.1 e
  exact hf u (ho u hu) t ht

theorem OptListed.mapState {o : Option State} {f : State → State} (ho : OptListed o) (hf : ∀ t, t.Listed → (f t).Listed) :
    OptListed (o.map f) := by
  intro t e
  obtain ⟨u, hu, rfl⟩ := Option.map_eq_some_iff.1 e
  exact hf u (ho u hu)

theorem OptListed.foldl {f : Option State → α → Option State} {l : List α} {o} (h : OptListed o) (hf : ∀ o a, OptListed o → OptListed (f o a)) :
    OptListed (l.foldl f o) := by
  induction l generalizing o with
  | nil => exact h
  | cons a l ih => exact ih (hf _ _ h)

theorem State.Listed.of_eq {p : State × α} {x} (h : p.1.Listed) (e : p = (t, x)) : t.Listed := by
  subst e
  exact h

theorem listed_ite {c : Prop} [Decidable c] (hs : s.Listed) (ht : t.Listed) : (if c then s else t).Listed := by
  split <;> assumption

theorem listed_ite_fst {c : Prop} [Decidable c] {p q : State × α} (hp : p.1.Listed) (hq : q.1.Listed) : (if c then p else q).1.Listed := by
  split <;> assumption

theorem State.Listed.foldl {f : State → α → State} {l : List α} (h : s.Listed) (hf : ∀ t a, t.Listed → (f t a).Listed) : (l.foldl f s).Listed := by
  induction l generalizing s with
  | nil => exact h
  | cons a l ih => exact ih (hf _ _ h)

theorem State.Listed.foldlFst {f : State × β → α → State × β} {l : List α} {p} (h : p.1.Listed) (hf : ∀ p a, p.1.Listed → (f p a).1.Listed) :
    (l.foldl f p).1.Listed := by
  induction l generalizing p with
  | nil => exact h
  | cons a l ih => exact ih (hf _ _ h)

/-! ### Writes of the lists of teams and grids -/

theorem State.Listed.frame (h : s.Listed) (ht : t.teams = s.teams) (hg : t.grids = s.grids) : t.Listed := by
  unfold State.Listed
  rwa [ht, hg]

theorem State.Listed.team {k} (h : s.Listed) (e : s.team? k = .some tm) : RegsRise tm.threads := h.2.2 _ (mem_of_sfind e)

theorem State.Listed.iss {x} (h : s.Listed) (e : s.iss = .some x) : RegsRise x.tm.threads := h.team (State.iss_team e).2

theorem State.Listed.setTeam {k tm} (h : s.Listed) (ht : RegsRise tm.threads) : (s.setTeam k tm).Listed :=
  ⟨Rising.sins h.1, h.2.1, fun p hp => (mem_sins hp).elim (fun e => e ▸ ht) (h.2.2 p)⟩

theorem State.Listed.modTeam {k f} (h : s.Listed) (hf : ∀ tm, RegsRise tm.threads → RegsRise (f tm).threads := by exact fun _ h => h) : (s.modTeam k f).Listed := by
  unfold State.modTeam
  split
  · exact h.setTeam (hf _ (h.team ‹_›))
  · exact h

theorem State.Listed.mapTeams {f : Nat × Team → Nat × Team} (h : s.Listed) (hk : ∀ p, (f p).1 = p.1 := by exact fun _ => rfl)
    (hf : ∀ p, RegsRise p.2.threads → RegsRise (f p).2.threads := by exact fun _ h => h) : ({ s with teams := s.teams.map f } : State).Listed :=
  ⟨Rising.map h.1 hk, h.2.1, fun p hp => by
    obtain ⟨q, hq, rfl⟩ := List.mem_map.1 hp
    exact hf q (h.2.2 q hq)⟩

theorem State.Listed.delTeam {k} (h : s.Listed) : ({ s with teams := sdel s.teams k } : State).Listed :=
  ⟨Rising.sdel h.1, h.2.1, fun p hp => h.2.2 p (mem_of_sdel hp)⟩

theorem State.Listed.setGrid {i g} (h : s.Listed) : ({ s with grids := sins s.grids i g } : State).Listed := ⟨h.1, Rising.sins h.2.1, h.2.2⟩

theorem State.Listed.mapGrids {f : Nat × Grid → Nat × Grid} (h : s.Listed) (hk : ∀ p, (f p).1 = p.1 := by exact fun _ => rfl) :
    ({ s with grids := s.grids.map f } : State).Listed := ⟨h.1, Rising.map h.2.1 hk, h.2.2⟩

theorem State.Listed.filterGrids {f : Nat × Grid → Bool} (h : s.Listed) : ({ s with grids := s.grids.filter f } : State).Listed :=
  ⟨h.1, Rising.filter h.2.1, h.2.2⟩

theorem State.Listed.setTeamOf {k j u} (h : s.Listed) (e : s.team? j = .some u) (ht : RegsRise u.threads → RegsRise tm.threads := by exact id) :
    (s.setTeam k tm).Listed := h.setTeam (ht (h.team e))

/-! ### Registers and translation tables (Csr) -/

theorem State.Listed.rset {k v} (h : s.Listed) : (s.rset k v).Listed := h

theorem State.Listed.rwrite {k v} (h : s.Listed) : (s.rwrite k v).Listed := h

theorem State.Listed.rsetBits {k hi lo v} (h : s.Listed) : (s.rsetBits k hi lo v).Listed := h

theorem State.Listed.setCol {c x} (h : s.Listed) : (s.setCol c x).Listed := h

theorem State.Listed.modCol {c f} (h : s.Listed) : (s.modCol c f).Listed := h

theorem State.Listed.modCtx {ck f} (h : s.Listed) : (s.modCtx ck f).Listed := h

theorem State.Listed.noteClocks (h : s.Listed) : s.noteClocks.Listed := h.foldl fun _ _ ht => ht.modCol

/-! ### Homes, leases and translation (Memory) -/

theorem State.Listed.setHome {line d} (h : s.Listed) : (s.setHome line d).Listed := h

theorem State.Listed.setPoison {line p} (h : s.Listed) : (s.setPoison line p).Listed := h

theorem State.Listed.setCline {c line l} (h : s.Listed) : (s.setCline c line l).Listed := h

theorem State.Listed.putByte {k b} (h : s.Listed) : (s.putByte k b).Listed := by
  unfold State.putByte
  split <;> exact h

theorem State.Listed.putLine {line : Nat} {l} (h : s.Listed) : (s.putLine line l).Listed := by
  induction l generalizing s with
  | nil => exact h
  | cons p l ih => exact ih h.putByte

theorem State.Listed.grantNow {line} (h : s.Listed) : (s.grantNow line).1.Listed := listed_ite_fst h.setHome h

theorem State.Listed.keepLine {line c t} (h : s.Listed) : (s.keepLine line c t).Listed := by
  unfold State.keepLine
  split
  · split
    · exact (h.grantNow.of_eq ‹_›).setCline
    · exact h.grantNow.of_eq ‹_›
  · exact h

theorem State.Listed.applyWrite {line w} (h : s.Listed) : (s.applyWrite line w).Listed := by
  unfold State.applyWrite
  extract_lets ack
  have hack : ∀ t a a', t.Listed → (ack t a a').Listed := by
    intro t a a' ht
    unfold ack
    split
    · split
      · exact ht.setTeamOf ‹_› RegsRise.ack
      · exact ht
    · split <;> exact ht
  split
  · extract_lets s₁ s₂ _ s₃
    have hs₁ : s₁.Listed := h.putLine
    have hs₂ : s₂.Listed := listed_ite hs₁.setPoison hs₁
    have hs₃ : s₃.Listed := listed_ite hs₂.setHome hs₂
    refine hack _ _ _ ?_
    split
    · exact hs₃.keepLine
    · exact hs₃
  · exact listed_ite (hack _ _ _ h) (hack _ _ _ h.putLine)
  · exact hack _ _ _ h.putLine

theorem State.Listed.applyWrites {line l} (h : s.Listed) : (s.applyWrites line l).Listed := by
  induction l generalizing s with
  | nil =>
    unfold State.applyWrites
    exact h
  | cons a l ih =>
    unfold State.applyWrites
    exact ih h.applyWrite

theorem State.Listed.applyDue {line} (h : s.Listed) : (s.applyDue line).Listed := by
  unfold State.applyDue
  extract_lets
  split
  · exact h
  split
  · exact listed_ite h h.setHome.applyWrites
  split
  · exact h
  · exact h.setHome.applyWrite

theorem State.Listed.homeArrive {line w} (h : s.Listed) : (s.homeArrive line w).1.Listed := by
  unfold State.homeArrive
  extract_lets _ s₁
  have hs₁ : s₁.Listed := h.applyDue
  split
  exact hs₁.setHome

theorem State.Listed.grant {line} (h : s.Listed) : (s.grant line).1.Listed := h.applyDue.grantNow

theorem State.Listed.colStore {c slot key bs} (h : s.Listed) : (s.colStore c slot key bs).Listed := by
  unfold State.colStore
  extract_lets
  split
  exact listed_ite h.setCline.setHome h.setCline

theorem State.Listed.dropLine {c line} (h : s.Listed) : (s.dropLine c line).Listed := h

theorem State.Listed.writeBack {c line team keep} (h : s.Listed) : (s.writeBack c line team keep).1.Listed := by
  unfold State.writeBack
  extract_lets _ _ _ leave
  have hleave : ∀ t a, t.Listed → (leave t a).Listed := by
    intro t a ht
    unfold leave
    exact ht.dropLine.modCol
  split
  · exact listed_ite h (hleave _ _ h)
  split
  exact listed_ite_fst (h.homeArrive.of_eq ‹_›).setCline (hleave _ _ (h.homeArrive.of_eq ‹_›))

theorem State.Listed.recallDirty {line} (h : s.Listed) : (s.recallDirty line).Listed := h.foldl fun _ _ ht => ht.writeBack

theorem State.Listed.evict {c line} (h : s.Listed) : (s.evict c line).Listed := by
  unfold State.evict
  extract_lets
  split
  exact (h.writeBack.of_eq ‹_›).modCol

theorem State.Listed.writeBackAll {c team l} (h : s.Listed) : (s.writeBackAll c team l).1.Listed := by
  induction l generalizing s with
  | nil =>
    unfold State.writeBackAll
    exact h
  | cons a l ih =>
    unfold State.writeBackAll
    split
    split
    exact (ih (h.writeBack.of_eq ‹_›)).of_eq ‹_›

theorem State.Listed.askAts {col ck va} (h : s.Listed) : (s.askAts col ck va).Listed := listed_ite h h

theorem State.Listed.sendPage {fn} (h : s.Listed) : (s.sendPage fn).Listed := by
  unfold State.sendPage
  split
  · exact listed_ite h h
  · exact h

theorem State.Listed.requestPage {ck va write} (h : s.Listed) : (s.requestPage ck va write).Listed := by
  unfold State.requestPage
  extract_lets
  split
  · exact listed_ite h h
  · exact .sendPage h

theorem State.Listed.xlatKeep {col x} (h : s.Listed) : (s.xlatKeep col x).Listed := listed_ite h.modCol (listed_ite h h)

theorem State.Listed.xlateLeaf {col x va kind write priv} (h : s.Listed) : (s.xlateLeaf col x va kind write priv).1.Listed := by
  unfold State.xlateLeaf
  split
  · exact listed_ite_fst h.askAts h.requestPage
  · exact h

theorem State.Listed.xlate {col ck va kind write priv sys} (h : s.Listed) : (s.xlate col ck va kind write priv sys).1.Listed := by
  unfold State.xlate
  split
  · exact h
  split
  · exact h
  split
  · exact listed_ite_fst h (listed_ite_fst h (listed_ite_fst h h))
  split
  · exact h.xlateLeaf
  split
  · exact h
  · exact (listed_ite h h.xlatKeep).xlateLeaf

theorem State.Listed.xlateAgent {col ck va kind write priv sys} (h : s.Listed) : (s.xlateAgent col ck va kind write priv sys).1.Listed := by
  unfold State.xlateAgent
  split
  · exact h.xlate.of_eq ‹_›
  · exact h.xlate

theorem State.Listed.agentByte {cache own me ck kind priv va} (h : s.Listed) : (s.agentByte cache own me ck kind priv va).1.Listed := by
  unfold State.agentByte
  split
  · exact h
  split
  · exact h.xlateAgent.of_eq ‹_›
  · exact listed_ite_fst (h.xlateAgent.of_eq ‹_›) (h.xlateAgent.of_eq ‹_›)

theorem State.Listed.agentBytes {cache own me ck kind priv va n} (h : s.Listed) : (s.agentBytes cache own me ck kind priv va n).1.Listed := by
  induction n generalizing s cache own me ck kind priv va with
  | zero =>
    unfold State.agentBytes
    exact h
  | succ n ih =>
    unfold State.agentBytes
    split
    · exact h.agentByte.of_eq ‹_›
    split
    exact (ih (h.agentByte.of_eq ‹_›)).of_eq ‹_›

theorem State.Listed.sendReads {ck} {l : List (Target × β)} (h : s.Listed) : (s.sendReads ck l).Listed := by
  unfold State.sendReads
  refine h.foldl fun _ _ ht => ?_
  extract_lets
  split <;> exact ht

theorem State.Listed.agentRead {cache own ck kind priv va n} (h : s.Listed) : (s.agentRead cache own ck kind priv va n).1.Listed := by
  unfold State.agentRead
  split
  · exact h.agentBytes.of_eq ‹_›
  split
  · exact h.agentBytes.of_eq ‹_›
  · exact (h.agentBytes.of_eq ‹_›).sendReads

theorem State.Listed.virtRead {ck kind priv va n} (h : s.Listed) : (s.virtRead ck kind priv va n).1.Listed := h.agentRead

theorem State.Listed.colRead {c ck kind priv va n} (h : s.Listed) : (s.colRead c ck kind priv va n).1.Listed := h.agentRead

theorem State.Listed.writeTargets {ck kind priv va n} (h : s.Listed) : (s.writeTargets ck kind priv va n).1.Listed := by
  induction n generalizing s ck kind priv va with
  | zero =>
    unfold State.writeTargets
    exact h
  | succ n ih =>
    unfold State.writeTargets
    split
    · exact h.xlateAgent.of_eq ‹_›
    refine listed_ite_fst (h.xlateAgent.of_eq ‹_›) ?_
    split <;> exact (ih (h.xlateAgent.of_eq ‹_›)).of_eq ‹_›

theorem State.Listed.modPut {id f} (h : s.Listed) : (s.modPut id f).Listed := h

theorem State.Listed.putPiece {ck id p} (h : s.Listed) : (s.putPiece ck id p).Listed := by
  unfold State.putPiece
  split
  · split
    exact (h.recallDirty.homeArrive.of_eq ‹_›).modPut
  · split
    exact (h.homeArrive.of_eq ‹_›).modPut
  · exact h
  · exact .modPut h

theorem State.Listed.localWrite {ck va} (h : s.Listed) : (s.localWrite ck va).Listed := h

theorem State.Listed.sendPut {id ck todo} (h : s.Listed) : (s.sendPut id ck todo).1.Listed := by
  unfold State.sendPut
  extract_lets sent
  have hsent : ∀ t, t.Listed → (sent t).Listed := by
    intro t ht
    unfold sent
    exact ht.modPut
  split
  · split
    · exact h.writeTargets.of_eq ‹_›
    · exact ((hsent _ (h.writeTargets.of_eq ‹_›)).foldl fun _ _ ht => ht.putPiece).localWrite.localWrite
  split
  · exact h.writeTargets.of_eq ‹_›
  extract_lets s₁ s₂
  have hs₁ : s₁.Listed := hsent _ (h.writeTargets.of_eq ‹_›)
  have hs₂ : s₂.Listed := by
    unfold s₂
    split
    · exact hs₁.putPiece
    · exact hs₁.putPiece
    · extract_lets
      split
      exact (hs₁.homeArrive.of_eq ‹_›).modPut
    extract_lets
    split
    exact (hs₁.homeArrive.of_eq ‹_›).modPut
  exact hs₂.localWrite

theorem State.Listed.virtWrite {ck va bs end_} (h : s.Listed) : (s.virtWrite ck va bs end_).1.Listed := by
  unfold State.virtWrite
  extract_lets
  split
  · rename_i u e hu
    have hu : u.Listed := by
      refine .of_eq ?_ hu
      exact .sendPut h
    exact hu
  · refine .of_eq ?_ ‹_›
    exact .sendPut h

/-! ### Reports, freezes and the word frame (Ops) -/

theorem State.Listed.modThread {k t f} (h : s.Listed) (hf : ∀ th, Rising th.regs → Rising (f th).regs := by simp +contextual) :
    (s.modThread k t f).Listed := h.modTeam fun _ ht => ht.modThread hf

theorem State.Listed.modThreads {k ts f} (h : s.Listed) (hf : ∀ th, Rising th.regs → Rising (f th).regs := by simp +contextual) :
    (s.modThreads k ts f).Listed := h.modTeam fun _ ht => ht.modThreads hf

theorem State.Listed.modGrid {g f} (h : s.Listed) : (s.modGrid g f).Listed := by
  unfold State.modGrid
  split
  · exact h.setGrid
  · exact h

theorem State.Listed.raiseMsix {fn v} (h : s.Listed) : (s.raiseMsix fn v).Listed := h

theorem State.Listed.free (h : s.Listed) : s.free.1.Listed := h

theorem State.Listed.capture {kind ck addr len idx acq bytes} (h : s.Listed) : (s.capture kind ck addr len idx acq bytes).Listed :=
  listed_ite (listed_ite (.rset h) h.rset) h

theorem State.Listed.countAcquire {ck} (h : s.Listed) : OptListed (s.countAcquire ck) := by
  unfold State.countAcquire
  split
  · exact .some h
  split
  · exact .none
  split
  · exact .none
  · exact .some h.rset

theorem State.Listed.post {ck todo end_ req} (h : s.Listed) : (s.post ck todo end_ req).1.Listed := by
  unfold State.post
  extract_lets
  split
  refine .of_eq ?_ ‹_›
  exact .sendPut h

theorem State.Listed.postEvent {fn ws} (h : s.Listed) : (s.postEvent fn ws).Listed := h.post

theorem State.Listed.eventPosted {fn ws} (h : s.Listed) : (s.eventPosted fn ws).Listed := by
  unfold State.eventPosted
  extract_lets _ _ _ _ s₁ s₂
  have hs₁ : s₁.Listed := h.rset.raiseMsix
  have hs₂ : s₂.Listed := hs₁.modCtx
  split
  · exact hs₂.capture
  · exact hs₂

theorem State.Listed.hwEvent {fn ws} (h : s.Listed) : (s.hwEvent fn ws).Listed := listed_ite h.postEvent (listed_ite h h.rset)

theorem State.Listed.releaseHeld {fn n} (h : s.Listed) : (s.releaseHeld fn n).Listed := by
  induction n generalizing s with
  | zero =>
    unfold State.releaseHeld
    exact h
  | succ n ih =>
    unfold State.releaseHeld
    split
    · exact listed_ite (ih (.postEvent h)) h
    · exact h

theorem State.Listed.pfEvent {kind payload} (h : s.Listed) : (s.pfEvent kind payload).Listed := h.hwEvent

theorem State.Listed.countError {k} (h : s.Listed) : (s.countError k).Listed := listed_ite h (listed_ite h.rset.pfEvent h.rset)

theorem State.Listed.enterRecord {ck} (h : s.Listed) : (s.enterRecord ck).1.Listed := by
  unfold State.enterRecord
  split
  · exact h
  extract_lets
  split
  · split
    · exact listed_ite (h.virtWrite.of_eq ‹_›) (h.virtWrite.of_eq ‹_›).modCtx
    · exact (h.virtWrite.of_eq ‹_›).modCtx
  · exact h

theorem State.Listed.enterRecords {ck n} (h : s.Listed) : (s.enterRecords ck n).Listed := by
  induction n generalizing s with
  | zero =>
    unfold State.enterRecords
    exact h
  | succ n ih =>
    unfold State.enterRecords
    split
    · exact ih (h.enterRecord.of_eq ‹_›)
    · exact h.enterRecord.of_eq ‹_›

theorem State.Listed.recordWritten {ck ws} (h : s.Listed) : (s.recordWritten ck ws).Listed := listed_ite h.rset.raiseMsix.hwEvent h.rset.raiseMsix

theorem State.Listed.report {ck r} (h : s.Listed) : (s.report ck r).Listed :=
  listed_ite (listed_ite h.countError h).modCtx.enterRecords (listed_ite h.countError h).rsetBits

theorem State.Listed.reportOnce {ck agent kind r} (h : s.Listed) : (s.reportOnce ck agent kind r).Listed := by
  unfold State.reportOnce
  extract_lets
  split
  · exact listed_ite h.countError h.modCol.report
  · exact listed_ite h.countError (.report h)

theorem State.Listed.telemetryWritten {ck} (h : s.Listed) : (s.telemetryWritten ck).Listed := h

theorem State.Listed.telemetryLost {ck} (h : s.Listed) : (s.telemetryLost ck).Listed := h

theorem State.Listed.endPut {p} (h : s.Listed) : (s.endPut p).Listed := by
  unfold State.endPut
  extract_lets s₁
  have hs₁ : s₁.Listed := h
  split
  · exact hs₁.recordWritten
  · exact hs₁.eventPosted
  · exact hs₁.telemetryWritten
  · exact hs₁
  · exact hs₁

theorem State.Listed.putFault {p e} (h : s.Listed) : (s.putFault p e).Listed := by
  unfold State.putFault
  extract_lets s₁ rec_
  have hs₁ : s₁.Listed := h
  have hrec_ : ∀ t a, t.Listed → (rec_ t a).Listed := by
    intro t a ht
    unfold rec_
    exact ht.reportOnce
  split
  · exact h
  split
  · exact hrec_ _ _ hs₁.telemetryLost
  · exact hrec_ _ _ hs₁
  · exact h

theorem State.Listed.makePut {ck todo end_ req} (h : s.Listed) : (s.makePut ck todo end_ req).Listed := by
  unfold State.makePut
  split
  · exact (h.post.of_eq ‹_›).putFault
  · exact h.post.of_eq ‹_›

theorem State.Listed.settlePuts (h : s.Listed) : s.settlePuts.Listed := by
  unfold State.settlePuts
  refine h.foldlFst fun p a ht => listed_ite_fst ht ?_
  split
  · split
    · exact (ht.sendPut.of_eq ‹_›).putFault
    · exact ht.sendPut.of_eq ‹_›
  · exact listed_ite_fst ht.endPut ht

theorem State.Listed.settleRecords (h : s.Listed) : s.settleRecords.Listed := h.foldl fun _ _ ht => listed_ite ht ht.enterRecords

theorem State.Listed.pfFault {r} (h : s.Listed) : (s.pfFault r).Listed := by
  unfold State.pfFault
  extract_lets s₁
  have hs₁ : s₁.Listed := listed_ite h.countError h
  split
  exact (hs₁.free.of_eq ‹_›).pfEvent

theorem State.Listed.freezeTeam {k code} (h : s.Listed) : (s.freezeTeam k code).Listed := h.modTeam fun _ ht => .ite ht ht

theorem State.Listed.setLane {k x} (h : s.Listed) : (s.setLane k x).Listed := h

theorem State.Listed.relinquish {o} (h : s.Listed) : (s.relinquish o).Listed := h

theorem State.Listed.markPath {c p} (h : s.Listed) : (s.markPath c p).Listed := h

theorem State.Listed.startPath {c p} (h : s.Listed) : (s.startPath c p).Listed := by
  unfold State.startPath
  extract_lets s₁
  have hs₁ : s₁.Listed := h.markPath
  split
  · exact listed_ite hs₁.relinquish hs₁
  · exact hs₁

theorem State.Listed.demand {c p} (h : s.Listed) : (s.demand c p).Listed := listed_ite h.startPath h

theorem State.Listed.settle {k} (h : s.Listed) : (s.settle k).Listed := by
  unfold State.settle
  split
  · exact h
  split
  · exact h
  · exact h
  · exact listed_ite (h.setTeamOf ‹_›).hwEvent h

theorem State.Listed.modBundle {k idx f} (h : s.Listed) : (s.modBundle k idx f).Listed := h.modTeam

theorem State.Listed.takeTrap {x thread code info addr} (h : s.Listed) : (s.takeTrap x thread code info addr).Listed :=
  h.report.modThreads.modBundle.freezeTeam.settle

theorem State.Listed.takeDecodeTrap {k tm b pc code word info} (h : s.Listed) : (s.takeDecodeTrap k tm b pc code word info).Listed :=
  h.report.freezeTeam.settle

theorem State.Listed.takeStreamFault {k tm code info addr} (h : s.Listed) : (s.takeStreamFault k tm code info addr).Listed :=
  (h.report.modTeam fun tm ht => tm.unplace_threads ▸ ht).freezeTeam.settle

theorem State.Listed.startRelease {k t scope} (h : s.Listed) : (s.startRelease k t scope).Listed := by
  unfold State.startRelease
  split
  · exact h
  split
  exact (h.writeBackAll.of_eq ‹_›).modThread

/-! ### Operands (Operands) -/

theorem State.Listed.endClause {x target} (h : s.Listed) : (s.endClause x target).Listed := (h.modTeam fun _ ht => ht.endClause).settle

theorem State.Listed.advance {x} (h : s.Listed) : (s.advance x).Listed := listed_ite h.endClause h.modBundle

theorem State.Listed.waitAt {x ts w acted} (h : s.Listed) : (s.waitAt x ts w acted).Listed := h.modThreads.modBundle.settle

theorem State.Listed.clearWaits {x} (h : s.Listed) : (s.clearWaits x).Listed := h.modThreads

theorem State.Listed.resumeWord {x} (h : s.Listed) : (s.resumeWord x).Listed := by
  unfold State.resumeWord
  extract_lets s₁ s₂
  have hs₁ : s₁.Listed := h.modTeam fun _ ht => ht.foldl fun _ _ ht => ht.endRendezvous
  have hs₂ : s₂.Listed := hs₁.modTeam fun _ ht => ht.foldl fun _ _ ht => ht.modThread
  split
  · exact listed_ite hs₂ hs₂.advance
  · exact hs₂

theorem State.Listed.runWord {i n extra act} (h : s.Listed) (hact : ∀ y a, RegsRise y.tm.threads → (act y a).Listed) :
    OutListed (Machine.runWord s i n extra act) := by
  unfold Machine.runWord
  split
  · refine .next (listed_ite h.resumeWord ?_)
    split
    · exact h.takeTrap
    · exact hact _ _ (h.iss ‹_›)
  · exact .fault

theorem State.Listed.afterRelease {x ts scope act} (h : s.Listed) (hact : ∀ t, t.Listed → (act t).Listed) :
    (s.afterRelease x ts scope act).Listed := by
  unfold State.afterRelease
  extract_lets started u
  have hu : u.Listed := listed_ite h (h.foldl fun _ _ ht => ht.startRelease)
  exact listed_ite h.waitAt (listed_ite (hact _ hu.clearWaits) hu.waitAt)

theorem State.Listed.runArith {i once d cnt val} (h : s.Listed) : OutListed (Machine.runArith s i once d cnt val) :=
  (h.runWord fun _ _ _ => (h.modTeam fun _ ht => ht.writeResults).advance)

/-! ### Flags and arithmetic words (Flags) -/

theorem State.Listed.raiseFlag {k t fl} (h : s.Listed) : (s.raiseFlag k t fl).Listed := by
  unfold State.raiseFlag
  split
  · exact h
  split
  · exact h
  split
  · exact h.modThread
  split
  exact (h.free.of_eq ‹_›).modThread

theorem State.Listed.raiseFlags {k fl l} (h : s.Listed) : (s.raiseFlags k fl l).Listed := by
  induction l generalizing s with
  | nil =>
    unfold State.raiseFlags
    exact h
  | cons a l ih =>
    unfold State.raiseFlags
    exact ih h.raiseFlag

/-! ### Teams, placement and retirement (Teams) -/

theorem State.Listed.bind {c part} (h : s.Listed) : (s.bind c part).Listed := listed_ite h (listed_ite h (h.foldl fun _ _ ht => ht.writeBack)).modCol

theorem State.Listed.startTeam {k tm} (h : s.Listed) (htm : RegsRise tm.threads) : (s.startTeam k tm).Listed := by
  unfold State.startTeam
  extract_lets
  split <;> exact h.setTeam htm

theorem State.Listed.freeTeam {k} (h : s.Listed) : (s.freeTeam k).Listed := listed_ite (.modCol h.delTeam) h.delTeam

theorem State.Listed.countDone {fn n} (h : s.Listed) : (s.countDone fn n).Listed := by
  induction n generalizing s with
  | zero =>
    unfold State.countDone
    exact h
  | succ n ih =>
    unfold State.countDone
    exact listed_ite (ih (.rset h)) h

theorem State.Listed.completeGrids {n} (h : s.Listed) : (s.completeGrids n).Listed := by
  induction n generalizing s with
  | zero =>
    unfold State.completeGrids
    exact h
  | succ n ih =>
    unfold State.completeGrids
    split
    · exact h
    extract_lets s₁ _ s₂
    have hs₁ : s₁.Listed := h.setGrid
    have hs₂ : s₂.Listed := by
      unfold s₂
      split
      · exact .releaseHeld (.countDone hs₁)
      · exact hs₁
    exact ih hs₂

theorem State.Listed.dmEnd {c st} (h : s.Listed) : (s.dmEnd c st).Listed := h

theorem State.Listed.dropMigration {k} (h : s.Listed) : (s.dropMigration k).Listed := by
  unfold State.dropMigration
  split
  · exact listed_ite (listed_ite h.modCol.modTeam.dmEnd h.modCol.modTeam) h
  · exact h

theorem State.Listed.retire {k free} (h : s.Listed) : (s.retire k free).Listed := by
  unfold State.retire
  split
  · exact h
  extract_lets
  split
  exact (listed_ite (h.dropMigration.writeBackAll.of_eq ‹_›).modCol.modGrid.freeTeam (h.dropMigration.writeBackAll.of_eq ‹_›).modCol.modGrid).completeGrids

theorem State.Listed.barrier {g} (h : s.Listed) : (s.barrier g).Listed := by
  unfold State.barrier
  split
  · exact h
  · exact listed_ite (.modGrid (h.mapTeams (hf := fun _ hp => .ite hp (.ite hp.passBarrier (.ite hp hp.leaveBarrier))))) h

theorem State.Listed.handoverFreeze {k tm card code} (h : s.Listed) : (s.handoverFreeze k tm card code).Listed :=
  h.foldl fun _ _ ht => ht.modTeam.freezeTeam.settle

theorem State.Listed.handoverFault {k tm hv code info addr} (h : s.Listed) : (s.handoverFault k tm hv code info addr).Listed :=
  h.report.handoverFreeze

theorem State.Listed.memberExited {k tm} (h : s.Listed) : (s.memberExited k tm).Listed := h.foldl fun _ _ ht => ht.handoverFault

theorem State.Listed.handoverRead {k} (h : s.Listed) : (s.handoverRead k).Listed := by
  unfold State.handoverRead
  split
  · exact h
  split
  · exact h
  split
  · exact h
  extract_lets
  split
  · exact listed_ite (h.virtRead.of_eq ‹_›) (listed_ite (h.virtRead.of_eq ‹_›).report.handoverFreeze (h.virtRead.of_eq ‹_›).reportOnce)
  extract_lets _ s₁
  have hs₁ : s₁.Listed := (h.virtRead.of_eq ‹_›).modTeam
  split
  · exact hs₁.handoverFault
  split
  · exact hs₁.handoverFault
  split
  · exact hs₁.handoverFault
  split
  · exact hs₁.handoverFault
  · exact hs₁.modTeam

theorem State.Listed.beginHandover {k} (h : s.Listed) : (s.beginHandover k).Listed := by
  unfold State.beginHandover
  split
  · exact h
  · exact listed_ite h.modTeam.handoverRead h

theorem State.Listed.releaseEngine {k} (h : s.Listed) : (s.releaseEngine k).Listed := by
  unfold State.releaseEngine
  split
  · exact h
  split
  · exact h
  · exact h
  extract_lets _ s₁
  have hs₁ : s₁.Listed := h.setTeamOf ‹_›
  split
  · exact listed_ite hs₁.modCol hs₁
  · exact hs₁

theorem State.Listed.afterExit {k} (h : s.Listed) : (s.afterExit k).Listed := by
  unfold State.afterExit
  split
  · exact h
  · have stop : ∀ tm : Team, RegsRise tm.threads → RegsRise tm.stopStream.threads := fun _ ht => by rwa [Team.stopStream_threads]
    exact listed_ite (listed_ite (h.memberExited.modTeam stop).releaseEngine.modTeam (h.memberExited.modTeam stop).releaseEngine.modTeam.retire).barrier
      h.beginHandover.barrier

theorem State.Listed.retireAbandoned {k} (h : s.Listed) : (s.retireAbandoned k).Listed := by
  unfold State.retireAbandoned
  split
  · exact h
  · exact (h.modTeam fun _ ht => RegsRise.map (f := fun th => { th with exited := true, wait := {} }) ht fun _ hr => hr).afterExit.barrier

theorem State.Listed.setIntake {ck q l} (h : s.Listed) : (s.setIntake ck q l).Listed := h

theorem State.Listed.intakePush {ck q ci} (h : s.Listed) : (s.intakePush ck q ci).Listed := by
  unfold State.intakePush
  split
  · exact h.report
  · exact h.setIntake

/-! ### Control words (Control) -/

theorem State.Listed.putAll {k ts d cnt v} (h : s.Listed) : (s.putAll k ts d cnt v).Listed :=
  h.modTeam fun _ ht => ht.foldl fun _ _ ht => ht.putRegs

theorem State.Listed.branch {x ts tgt} (h : s.Listed) : (s.branch x ts tgt).Listed := h.endClause

theorem State.Listed.execBra {m disp} (h : s.Listed) : OutListed (Machine.execBra m disp s) := h.runWord fun _ _ _ => h.branch

theorem State.Listed.execBrc {m a disp} (h : s.Listed) : OutListed (Machine.execBrc m a disp s) := h.runWord fun _ _ _ => h.branch

theorem State.Listed.execBrl {m a disp} (h : s.Listed) : OutListed (Machine.execBrl m a disp s) := h.runWord fun _ _ _ => h.branch

theorem State.Listed.execJmp {m a} (h : s.Listed) : OutListed (Machine.execJmp m a s) := h.runWord fun _ _ _ => h.branch

theorem State.Listed.execRet {m a} (h : s.Listed) : OutListed (Machine.execRet m a s) := h.runWord fun _ _ _ => h.branch

theorem State.Listed.execCallDirect {m a disp} (h : s.Listed) : OutListed (Machine.execCallDirect m a disp s) :=
  h.runWord fun _ _ _ => h.putAll.branch

theorem State.Listed.execCallRegister {m a} (h : s.Listed) : OutListed (Machine.execCallRegister m a s) := h.runWord fun _ _ _ => h.putAll.branch

theorem State.Listed.execExit {m} (h : s.Listed) : OutListed (Machine.execExit m s) := h.runWord fun _ _ _ => h.modThreads.endClause.afterExit

theorem State.Listed.execRets {m a b} (h : s.Listed) : OutListed (Machine.execRets m a b s) := h.runWord fun _ _ _ => h.modThreads.branch.afterExit

theorem State.Listed.wordFault {x ts kind code info va} (h : s.Listed) : (s.wordFault x ts kind code info va).Listed :=
  listed_ite h.waitAt (listed_ite h.takeTrap h.reportOnce.waitAt)

theorem State.Listed.execLaunch {m d a b} (h : s.Listed) : OutListed (Machine.execLaunch m d a b s) := by
  unfold Machine.execLaunch
  refine h.runWord fun x a' ht => listed_ite h.advance (h.afterRelease fun t ht' => listed_ite ht'.putAll.advance ?_)
  split
  · exact (ht'.colRead.of_eq ‹_›).wordFault
  · exact (ht'.colRead.of_eq ‹_›).intakePush.putAll.advance

theorem State.Listed.execNop {m} (h : s.Listed) : OutListed (Machine.execNop m s) := h.runWord fun _ _ _ => h.advance

theorem State.Listed.execYield {m} (h : s.Listed) : OutListed (Machine.execYield m s) :=
  h.runWord fun _ _ _ => listed_ite h.advance h.modBundle.advance

theorem State.Listed.execSleep {m a} (h : s.Listed) : OutListed (Machine.execSleep m a s) := h.runWord fun _ _ _ => listed_ite h.advance h.waitAt

theorem State.Listed.rzWait {x z toks} (h : s.Listed) : (s.rzWait x z toks).Listed :=
  (h.modTeam fun _ ht => ht.foldl fun _ _ ht => ht.modThread).modBundle.resumeWord.settle

theorem State.Listed.execRzinit {m a pt} (h : s.Listed) : OutListed (Machine.execRzinit m a pt s) :=
  h.runWord fun _ _ _ => listed_ite h.advance h.modTeam.advance

theorem State.Listed.execRzarv {m d pt} (h : s.Listed) : OutListed (Machine.execRzarv m d pt s) :=
  h.runWord fun _ _ _ => listed_ite h.advance (h.afterRelease fun _ ht => (ht.modTeam fun _ ht => RegsRise.arrive ht).advance)

theorem State.Listed.execRzwait {m a pt} (h : s.Listed) : OutListed (Machine.execRzwait m a pt s) := h.runWord fun _ _ _ => h.rzWait

theorem State.Listed.execRzarw {m d pt} (h : s.Listed) : OutListed (Machine.execRzarw m d pt s) := by
  unfold Machine.execRzarw
  refine h.runWord fun x a _ => listed_ite h.advance (h.afterRelease fun t ht => ?_)
  split
  · exact ht
  · exact (ht.setTeamOf ‹_› RegsRise.arrive).rzWait

theorem State.Listed.execRzcarv {m a pt} (h : s.Listed) : OutListed (Machine.execRzcarv m a pt s) := by
  unfold Machine.execRzcarv
  extract_lets
  refine h.runWord fun x a' ht => listed_ite h.advance (h.afterRelease fun t ht' => ?_)
  split
  · exact (ht'.modTeam fun _ ht => by rwa [Team.arriveN_threads]).advance
  · exact ht'.advance

theorem State.Listed.execRztest {m d a pt} (h : s.Listed) : OutListed (Machine.execRztest m d a pt s) :=
  h.runWord fun _ _ _ => (listed_ite h.putAll.modThreads h.putAll).advance

theorem State.Listed.execGbar {m} (h : s.Listed) : OutListed (Machine.execGbar m s) :=
  h.runWord fun _ _ _ => listed_ite h.advance (h.afterRelease fun _ ht => ht.modGrid.waitAt.barrier)

theorem State.Listed.execVgrow {m d cnt} (h : s.Listed) : OutListed (Machine.execVgrow m d cnt s) :=
  h.runWord fun _ _ _ => (h.modTeam fun _ ht => ht.foldl fun _ _ ht => ht.grow).modBundle.resumeWord.settle

theorem State.Listed.execVshrk {m d cnt} (h : s.Listed) : OutListed (Machine.execVshrk m d cnt s) :=
  h.runWord fun _ _ _ => ((h.modTeam fun _ ht => ht.foldl fun _ _ ht => ht.shrink).modTeam fun _ ht => ht.foldl fun _ _ ht => ht.putRegs).advance

theorem State.Listed.execSrd {m d sel} (h : s.Listed) : OutListed (Machine.execSrd m d sel s) :=
  h.runWord fun _ _ _ => (h.modTeam fun _ ht => ht.foldl fun _ _ ht => ht.putRegs).advance

theorem State.Listed.execSwr {m a sel} (h : s.Listed) : OutListed (Machine.execSwr m a sel s) := h.runWord fun _ _ _ => h.modThreads.advance

theorem State.Listed.execTrap {m a} (h : s.Listed) : OutListed (Machine.execTrap m a s) :=
  h.runWord fun _ _ _ => listed_ite h.advance (listed_ite h.report.freezeTeam.endClause h.report.freezeTeam.modThreads.modBundle).settle

theorem State.Listed.execEvpost {m d a} (h : s.Listed) : OutListed (Machine.execEvpost m d a s) := by
  unfold Machine.execEvpost
  refine h.runWord fun x a' ht => listed_ite h.advance (listed_ite h.takeTrap (h.afterRelease fun t ht' => ?_))
  extract_lets
  split
  · exact (ht'.colRead.of_eq ‹_›).wordFault
  · exact (listed_ite (ht'.colRead.of_eq ‹_›).postEvent (ht'.colRead.of_eq ‹_›)).putAll.advance

theorem State.Listed.freezeEvent {ck desc code} (h : s.Listed) : (s.freezeEvent ck desc code).Listed := h.hwEvent

theorem State.Listed.freezeOther {ck desc} (h : s.Listed) : (s.freezeOther ck desc).Listed := by
  unfold State.freezeOther
  extract_lets _ s₁ s₂ _ _ s₃
  have hs₁ : s₁.Listed := h.modCtx
  have hs₂ : s₂.Listed := listed_ite hs₁ hs₁.rset.raiseMsix
  have hs₃ : s₃.Listed := h.rset
  split
  · exact h.modCtx
  split
  · exact listed_ite h h.modCol.freezeEvent
  · exact listed_ite h hs₂.freezeEvent
  · exact listed_ite h (.freezeEvent hs₃)

theorem State.Listed.frzRequest {part desc} (h : s.Listed) : OptListed (s.frzRequest part desc) := by
  unfold State.frzRequest
  extract_lets
  split
  · exact .map fun _ => h.freezeOther
  split
  · exact .none
  split
  · exact .none
  split
  · split
    · split
      · exact .some h.freezeTeam.settle
      · exact .none
    · exact .none
  · split
    · exact .some h.freezeOther
    · exact .none
  · exact .some h.freezeOther

theorem State.Listed.execFrz {m d a} (h : s.Listed) : OutListed (Machine.execFrz m d a s) :=
  h.runWord fun _ _ _ => listed_ite h.advance (.settle (.advance (.putAll (h.frzRequest.getD h))))

/-! ### Lane memory words (LaneMem) -/

theorem State.Listed.runCollective {i} (h : s.Listed) : OutListed (Machine.runCollective s i) :=
  h.runWord fun _ _ _ =>
    (h.modTeam fun _ ht => (ht.foldl fun _ _ ht => ht.modThread).foldl fun _ _ ht => ht.converge).modBundle.resumeWord.settle

theorem State.Listed.pushAccess {k mk} (h : s.Listed) : (s.pushAccess k mk).Listed := .modTeam (s := { s with idNext := s.idNext + 1 }) h

theorem State.Listed.reportAccess {x t kind code info va} (h : s.Listed) : (s.reportAccess x t kind code info va).Listed :=
  listed_ite h h.reportOnce

theorem State.Listed.loadOne {x m d fl ts' ea} (h : s.Listed) : (s.loadOne x m d fl ts' ea).Listed := by
  unfold State.loadOne
  extract_lets _ _ _ _ _ _ _ s₁
  have hs₁ : s₁.Listed := listed_ite (h.modThreads fun _ hr => hr) h
  split
  · exact (hs₁.xlate.of_eq ‹_›).reportAccess.pushAccess
  split
  · exact (hs₁.xlate.of_eq ‹_›).pushAccess
  extract_lets v
  clear_value v
  split
  · exact listed_ite (hs₁.xlate.of_eq ‹_›).pushAccess (hs₁.xlate.of_eq ‹_›).pushAccess
  · exact (hs₁.xlate.of_eq ‹_›).pushAccess

theorem State.Listed.raisePend {x ts fl d cnt} (h : s.Listed) : (s.raisePend x ts fl d cnt).Listed := h.raiseFlags.modThreads

theorem State.Listed.execLd {m u fs d a off} (h : s.Listed) : OutListed (Machine.execLd m u fs d a off s) := by
  unfold Machine.execLd
  extract_lets
  refine h.runWord fun x a' ht => listed_ite h.advance ?_
  extract_lets _ _ _ _ s₁
  have hs₁ : s₁.Listed := h.foldl fun _ _ ht' => ht'.loadOne
  split
  · exact h.takeTrap
  · exact hs₁.raisePend.advance

theorem State.Listed.sideLogs {c es} (h : s.Listed) : OptListed (s.sideLogs c es) := by
  unfold State.sideLogs
  split
  · exact .some h.modCol
  · exact .none

theorem State.Listed.sideLog {c e} (h : s.Listed) : OptListed (s.sideLog c e) := h.sideLogs

theorem State.Listed.storeOne {x m b0 t ea size data red} (h : s.Listed) : (s.storeOne x m b0 t ea size data red).Listed := by
  unfold State.storeOne
  extract_lets _ _ _ _ _ log
  have hlog : ∀ t, t.Listed → (log t).Listed := by
    intro t ht
    unfold log
    extract_lets
    split
    · refine OptListed.of_eq ?_ ‹_›
      exact .sideLog ht
    · exact ht.pushAccess
  split
  · exact h.pushAccess
  split
  · exact hlog _ h
  split
  · exact h.pushAccess
  split
  · exact listed_ite (h.xlate.of_eq ‹_›).pushAccess (hlog _ (h.xlate.of_eq ‹_›).reportAccess)
  split
  · exact listed_ite (h.xlate.of_eq ‹_›).pushAccess (listed_ite (h.xlate.of_eq ‹_›).colStore.localWrite.pushAccess (h.xlate.of_eq ‹_›).colStore.localWrite)
  · exact (h.xlate.of_eq ‹_›).pushAccess

theorem State.Listed.execSt {m d a off} (h : s.Listed) : OutListed (Machine.execSt m d a off s) := by
  unfold Machine.execSt
  extract_lets
  refine h.runWord fun x a' ht => ?_
  extract_lets
  split
  · exact h.takeTrap
  · exact (h.foldl fun _ _ ht' => ht'.storeOne).advance

theorem State.Listed.fill {c line e} (h : s.Listed) : (s.fill c line e).Listed := h

theorem State.Listed.prefetch {c ck priv va} (h : s.Listed) : (s.prefetch c ck priv va).Listed := by
  unfold State.prefetch
  split
  · exact h
  split
  · extract_lets
    split
    · exact h.xlate.of_eq ‹_›
    split
    · exact ((h.xlate.of_eq ‹_›).grant.of_eq ‹_›).fill
    · exact (h.xlate.of_eq ‹_›).grant.of_eq ‹_›
  · exact h.xlate.of_eq ‹_›

theorem State.Listed.execPrf {m a off} (h : s.Listed) : OutListed (Machine.execPrf m a off s) :=
  h.runWord fun _ _ _ => (h.foldl fun _ _ ht => ht.prefetch).advance

theorem State.Listed.sbWait {x ts} (h : s.Listed) : (s.sbWait x ts).Listed := h.waitAt

theorem State.Listed.go {x} (h : s.Listed) : (s.go x).Listed := h.clearWaits

theorem State.Listed.waitHalf {x ts v} (h : s.Listed) : (s.waitHalf x ts v).Listed :=
  h.modTeam fun _ ht => ht.foldl fun _ _ ht => ht.modThread

theorem State.Listed.execLds {m u d a off} (h : s.Listed) : OutListed (Machine.execLds m u d a off s) := by
  unfold Machine.execLds
  extract_lets
  refine h.runWord fun x a' ht => ?_
  extract_lets
  split
  · exact h.takeTrap
  split
  · exact h.sbWait
  split
  · exact h.takeTrap
  · exact listed_ite h.waitHalf (h.go.modTeam fun _ ht => ht.foldl fun _ _ ht => ht.putRegs).advance

theorem State.Listed.execSts {m d a off} (h : s.Listed) : OutListed (Machine.execSts m d a off s) := by
  unfold Machine.execSts
  extract_lets
  refine h.runWord fun x a' ht => ?_
  extract_lets _ _ put
  have hput : ∀ t a a' a'', t.Listed → (put t a a' a'').Listed := by
    intro t a a' a'' ht
    unfold put
    exact ht.modTeam fun _ ht' => ht'.foldl fun _ _ ht'' => ht''
  split
  · exact h.takeTrap
  · exact listed_ite h.sbWait (listed_ite (hput _ _ _ _ h).waitHalf (listed_ite (hput _ _ _ _ h.go) (hput _ _ _ _ h.go)).modTeam.advance)

theorem State.Listed.execLdc {m u fs d a off} (h : s.Listed) : OutListed (Machine.execLdc m u fs d a off s) := by
  unfold Machine.execLdc
  extract_lets
  refine h.runWord fun x a' ht => listed_ite h.advance ?_
  extract_lets _ _ _ _ _ s₁
  have hs₁ : s₁.Listed := h.foldl fun _ _ ht' => ht'.pushAccess
  split
  · exact h.takeTrap
  · exact hs₁.raisePend.advance

theorem State.Listed.execFence {m kind scope} (h : s.Listed) : OutListed (Machine.execFence m kind scope s) :=
  h.runWord fun _ _ _ => h.modThreads.advance

theorem State.Listed.promoteCol {v c} (h : s.Listed) : (s.promoteCol v c).1.Listed := by
  unfold State.promoteCol
  split
  exact h.writeBackAll.of_eq ‹_›

theorem State.Listed.promote {v} (h : s.Listed) : (s.promote v).1.Listed := by
  unfold State.promote
  refine h.foldlFst fun p a ht => ?_
  split
  exact ht.promoteCol.of_eq ‹_›

theorem State.Listed.execPrm {m a off} (h : s.Listed) : OutListed (Machine.execPrm m a off s) := by
  unfold Machine.execPrm
  refine h.runWord fun x a' ht => ?_
  extract_lets _ _ _ _ _ _ _ s₁ s₂ s₃
  have hs₁ : s₁.Listed := h.go.modThreads
  have hs₂ : s₂.Listed := by
    unfold s₂
    refine hs₁.foldl fun t a'' ht' => ?_
    split
    exact (ht'.promote.of_eq ‹_›).modThreads
  have hs₃ : s₃.Listed := hs₂.foldl fun _ _ ht' => .modThreads ht'
  split
  · exact h.takeTrap
  split
  · split
    · exact h.wordFault
    · exact h.waitAt
  · exact listed_ite h.waitAt hs₃.advance

theorem State.Listed.atomOne {x m b0 d fl ty size r} (h : s.Listed) : (s.atomOne x m b0 d fl ty size r).Listed := by
  unfold State.atomOne
  split
  extract_lets _ _ _ s₁
  have hs₁ : s₁.Listed := listed_ite (h.modThreads fun _ hr => hr) h
  split
  · exact hs₁.pushAccess
  split
  · exact (hs₁.xlate.of_eq ‹_›).reportAccess.pushAccess
  · exact (hs₁.xlate.of_eq ‹_›).pushAccess

theorem State.Listed.execAtom {m fs d a b} (h : s.Listed) : OutListed (Machine.execAtom m fs d a b s) := by
  unfold Machine.execAtom
  extract_lets
  refine h.runWord fun x a' ht => listed_ite h.advance ?_
  extract_lets _ _ _ _ s₁
  have hs₁ : s₁.Listed := h.foldl fun _ _ ht' => ht'.atomOne
  split
  · exact h.takeTrap
  · exact hs₁.raisePend.advance

theorem State.Listed.redOne {x m b0 ty size own r} (h : s.Listed) : (s.redOne x m b0 ty size own r).Listed := by
  unfold State.redOne
  split
  exact listed_ite h.pushAccess (h.foldl fun _ _ ht => ht.storeOne)

theorem State.Listed.execRed {m a b} (h : s.Listed) : OutListed (Machine.execRed m a b s) := by
  unfold Machine.execRed
  extract_lets
  refine h.runWord fun x a' ht => ?_
  extract_lets
  split
  · exact h.takeTrap
  · exact (h.foldl fun _ _ ht' => ht'.redOne).advance

theorem State.Listed.execAtoms {m d a b} (h : s.Listed) : OutListed (Machine.execAtoms m d a b s) := by
  unfold Machine.execAtoms
  extract_lets
  refine h.runWord fun x ts _ => ?_
  extract_lets _ _ perform
  have hperform : ∀ t, t.Listed → (perform t).Listed := by
    intro t ht
    unfold perform
    split
    · exact ht
    split
    · exact ht.sbWait
    split
    · exact ht.takeTrap
    extract_lets u v
    have hu : u.Listed := ht.go.modTeam fun _ h => h.foldl fun _ _ h => h.atomsOne
    have hv : v.Listed := listed_ite hu.modThreads hu
    exact hv.advance
  split
  · exact h.takeTrap
  · exact listed_ite (h.afterRelease hperform) (hperform _ h)

/-! ### Engine words (Engines) -/

theorem State.Listed.dropCopies {r} (h : s.Listed) : (s.dropCopies r).Listed := by
  unfold State.dropCopies
  refine h.foldl fun t a ht => ?_
  split
  · exact listed_ite ht ht.writeBack
  · exact ht

theorem State.Listed.request {x ts fl entries slots mk} (h : s.Listed) : OptListed (s.request x ts fl entries slots mk) := by
  unfold State.request
  extract_lets
  split
  · exact .none
  split
  · exact .none
  · exact .some (.dropCopies (.raiseFlags (.setTeamOf h ‹_› fun ht => by rwa [Team.join_threads])))

theorem State.Listed.makeAll {x make l} (h : s.Listed) (hmake : ∀ t a, t.Listed → OptListed (make t a)) : (s.makeAll x make l).1.Listed := by
  induction l generalizing s with
  | nil =>
    unfold State.makeAll
    exact h
  | cons a l ih =>
    unfold State.makeAll
    split
    · exact ih ((hmake _ _ h).of_eq ‹_›).modThreads
    · exact h

theorem State.Listed.makeReqs {x make chunks} (h : s.Listed) (hmake : ∀ t a, t.Listed → OptListed (make t a)) :
    (s.makeReqs x make chunks).Listed := by
  have hm : (s.makeAll x make chunks).1.Listed := h.makeAll hmake
  unfold State.makeReqs
  split
  · exact (hm.of_eq ‹_›).advance
  · exact (hm.of_eq ‹_›).modTeam.waitAt

theorem State.Listed.runEngine {i extra mem scope column make} (h : s.Listed) (hmake : ∀ y t a, RegsRise y.tm.threads → t.Listed → OptListed (make y t a)) :
    OutListed (Machine.runEngine s i extra mem scope column make) := by
  unfold Machine.runEngine
  split
  · extract_lets make1 _ _ go
    have hmake1 : ∀ t a, t.Listed → OptListed (make1 t a) := by
      intro t a ht
      unfold make1
      split
      · exact .none
      · exact hmake _ _ _ (h.iss ‹_›) ht
    have hgo : ∀ t, t.Listed → (go t).Listed := by
      intro t ht
      unfold go
      exact ht.makeReqs fun _ _ ht' => hmake1 _ _ ht'
    refine .next (listed_ite (h.makeReqs fun _ _ ht => hmake1 _ _ ht) ?_)
    split
    · exact h.takeTrap
    split
    · exact h.advance
    split
    · exact h.takeTrap
    split
    · exact h
    split
    · exact h.afterRelease fun _ ht => hgo _ ht
    · exact hgo _ h
  · exact .fault

theorem State.Listed.execCpy {m fs d a b} (h : s.Listed) : OutListed (Machine.execCpy m fs d a b s) := by
  unfold Machine.execCpy
  exact h.runEngine fun _ _ _ _ ht => ht.request

theorem State.Listed.tdRead {cache ck n} (h : s.Listed) : (s.tdRead cache ck n).1.Listed := by
  unfold State.tdRead
  split <;> exact h.agentRead.of_eq ‹_›

theorem State.Listed.execTdset {m fs a b} (h : s.Listed) : OutListed (Machine.execTdset m fs a b s) := h.runEngine fun _ _ _ _ ht => ht.request

theorem State.Listed.execTdrd {m fs a b} (h : s.Listed) : OutListed (Machine.execTdrd m fs a b s) := h.runEngine fun _ _ _ _ ht => ht.request

theorem State.Listed.execCpyt {m fs d a b} (h : s.Listed) : OutListed (Machine.execCpyt m fs d a b s) := by
  unfold Machine.execCpyt
  extract_lets _ _ entry
  have hentry : ∀ t a a', t.Listed → (entry t a a').1.Listed := by
    intro t a a' ht
    unfold entry
    split <;> exact ht.tdRead.of_eq ‹_›
  refine h.runEngine fun x t' a' ht ht' => ?_
  extract_lets
  split
  exact ((hentry _ _ _ ht').of_eq ‹_›).request

theorem State.Listed.execGath {m fs d a b} (h : s.Listed) : OutListed (Machine.execGath m fs d a b s) := by
  unfold Machine.execGath
  refine h.runEngine fun x t a' ht ht' => ?_
  extract_lets
  split
  · exact .some (listed_ite (ht'.request.of_eq ‹_›).modThread.modTeam (ht'.request.of_eq ‹_›))
  · exact .none

theorem State.Listed.execScat {m fs d a b} (h : s.Listed) : OutListed (Machine.execScat m fs d a b s) := h.runEngine fun _ _ _ _ ht => ht.request

theorem State.Listed.execTtag {m a b} (h : s.Listed) : OutListed (Machine.execTtag m a b s) := h.runEngine fun _ _ _ _ ht => ht.request

theorem State.Listed.execJnext {m fs a} (h : s.Listed) : OutListed (Machine.execJnext m fs a s) := h.runEngine fun _ _ _ _ ht => ht.request

theorem State.Listed.execColl {m fs a b} (h : s.Listed) : OutListed (Machine.execColl m fs a b s) := h.runEngine fun _ _ _ _ ht => ht.request

theorem State.Listed.execPlmv {m fs a b} (h : s.Listed) : OutListed (Machine.execPlmv m fs a b s) := h.runEngine fun _ _ _ _ ht => ht.request

theorem State.Listed.execMxacq {m d} (h : s.Listed) : OutListed (Machine.execMxacq m d s) := by
  unfold Machine.execMxacq
  refine h.runWord fun x a ht => listed_ite h.advance ?_
  split
  · exact h.putAll.advance
  split
  · exact h.putAll.advance
  · exact h.modCol.modTeam.putAll.advance

theorem State.Listed.execMxrel {m a} (h : s.Listed) : OutListed (Machine.execMxrel m a s) := by
  unfold Machine.execMxrel
  refine h.runWord fun _ _ _ => listed_ite h.advance (h.modTeam fun tm => ?_).advance
  split <;> simp

theorem State.Listed.execMxgo {m d a b} (h : s.Listed) : OutListed (Machine.execMxgo m d a b s) := by
  unfold Machine.execMxgo
  refine h.runWord fun _ _ _ => listed_ite h.advance ?_
  extract_lets old th p u
  have hu : u.Listed := h.modTeam fun _ ht => .ite (.ite ht ht) (.ite ht ht)
  exact hu.putAll.advance

/-! ### Engine requests in progress (EngineEvents) -/

theorem State.Listed.modReq {id f} (h : s.Listed) : (s.modReq id f).Listed := h

theorem State.Listed.reqTeam {r} (h : s.Listed) (e : s.reqTeam r = some tm) : RegsRise tm.threads := by
  unfold State.reqTeam at e
  split at e
  · split at e
    · cases e
      exact h.team ‹_›
    · cases e
  · cases e

theorem State.Listed.modReqTeam {r f} (h : s.Listed) (hf : ∀ tm, RegsRise tm.threads → RegsRise (f tm).threads := by exact fun _ h => h) : (s.modReqTeam r f).Listed := by
  unfold State.modReqTeam
  split
  · exact h.setTeam (hf _ (h.reqTeam ‹_›))
  · exact h

theorem State.Listed.holdTransfer {c e} (h : s.Listed) : (s.holdTransfer c e).Listed := h

theorem State.Listed.startTransfer {c e p} (h : s.Listed) : (s.startTransfer c e p).Listed := h.startPath.modCol

theorem State.Listed.stream {r f} (h : s.Listed) (hf : ∀ t, t.Listed → (f t).Listed) : (s.stream r f).Listed :=
  listed_ite (listed_ite h (hf _ h)) (listed_ite (hf _ h.startTransfer.modReq) h.holdTransfer)

theorem State.Listed.onReq {id kind f} (h : s.Listed) (hf : ∀ a, (f a).Listed) : (s.onReq id kind f).Listed := by
  unfold State.onReq
  split
  · exact listed_ite (hf _) h
  · exact h

theorem State.Listed.endReq {r t} (h : s.Listed) : (s.endReq r t).Listed := by
  unfold State.endReq
  extract_lets s₁ s₂ s₃ free th
  have hs₁ : s₁.Listed := h
  have hs₂ : s₂.Listed := listed_ite hs₁.markPath hs₁
  have hs₃ : s₃.Listed := hs₂.foldl fun _ _ ht => listed_ite ht.setHome ht
  split
  · exact hs₃
  · have ht := hs₃.reqTeam ‹_›
    extract_lets moved tm₁ tm₂ counters tm₃ s₄
    have htm₂ : RegsRise tm₂.threads := .foldl ht fun _ _ ht => ht
    have htm₃ : RegsRise tm₃.threads := .ite htm₂ htm₂
    have hs₄ : s₄.Listed := hs₃.setTeam (htm₃.modThreads fun _ hr => by rwa [Thread.dropFlag?_regs])
    exact listed_ite hs₄.afterExit hs₄

theorem State.Listed.reqFreeze {r code info va} (h : s.Listed) : (s.reqFreeze r code info va).Listed := by
  unfold State.reqFreeze
  extract_lets s₁
  have hs₁ : s₁.Listed := h.report.modReq
  split
  · exact hs₁.freezeTeam.settle
  · exact hs₁

theorem State.Listed.reqFault {r e} (h : s.Listed) : (s.reqFault r e).Listed := by
  unfold State.reqFault
  split
  exact listed_ite h (listed_ite h.reqFreeze h.reportOnce.modReq)

theorem State.Listed.engBytes {r priv va n} (h : s.Listed) : (s.engBytes r priv va n).1.Listed := h.agentBytes

theorem State.Listed.engRead {r priv va n} (h : s.Listed) : (s.engRead r priv va n).1.Listed := by
  unfold State.engRead
  split
  · exact h.engBytes.of_eq ‹_›
  · exact (h.engBytes.of_eq ‹_›).sendReads

theorem State.Listed.reqTarget {r va} (h : s.Listed) : (s.reqTarget r va).1.Listed := by
  unfold State.reqTarget
  split
  · exact h
  split
  · exact h
  · split <;> exact h.xlate.of_eq ‹_›

theorem State.Listed.engOut {r dev addr p} (h : s.Listed) : (s.engOut r dev addr p).Listed := by
  unfold State.engOut
  extract_lets _ s₁ s₂
  have hs₁ : s₁.Listed := h.foldl fun _ _ ht => ht
  have hs₂ : s₂.Listed := listed_ite hs₁.modReq hs₁
  split
  · exact hs₂.report
  · exact hs₂

theorem State.Listed.engPiece {r p} (h : s.Listed) : (s.engPiece r p).1.Listed := by
  unfold State.engPiece
  split
  · exact h.reqTarget.of_eq ‹_›
  · rename_i u tgt e
    have hu : u.Listed := h.reqTarget.of_eq e
    cases tgt with
    | host a => exact hu.engOut
    | peer dev a => exact hu.engOut
    | hbm key => exact hu.homeArrive.modReq.localWrite
    | window key => exact hu.homeArrive.modReq.localWrite

theorem State.Listed.flushLines {r l} (h : s.Listed) : (s.flushLines r l).1.Listed := by
  induction l generalizing s with
  | nil =>
    unfold State.flushLines
    exact h
  | cons a l ih =>
    unfold State.flushLines
    split
    · exact h.engPiece.of_eq ‹_›
    · exact ih (h.engPiece.of_eq ‹_›).modReq

theorem State.Listed.flush {r coming} (h : s.Listed) : (s.flush r coming).1.Listed := h.flushLines

theorem State.Listed.finish {r} (h : s.Listed) : (s.finish r).Listed := by
  unfold State.finish
  extract_lets s₁
  have hs₁ : s₁.Listed := h.modReqTeam.modReq
  split
  · exact hs₁
  split
  · exact (hs₁.flush.of_eq ‹_›).reqFault
  · exact (hs₁.flush.of_eq ‹_›).modReq

theorem State.Listed.land {r} (h : s.Listed) : (s.land r).Listed := listed_ite h.finish (listed_ite h.endReq h)

theorem State.Listed.ownLines {r l} (h : s.Listed) : (s.ownLines r l).1.Listed := by
  induction l generalizing s with
  | nil =>
    unfold State.ownLines
    exact h
  | cons a l ih =>
    unfold State.ownLines
    split
    · exact h
    split
    · exact h.xlate.of_eq ‹_›
    · split <;> exact (ih (h.xlate.of_eq ‹_›)).of_eq ‹_›

theorem State.Listed.resolve {r} (h : s.Listed) : (s.resolve r).1.Listed := by
  unfold State.resolve
  split
  · exact h
  split
  · exact (h.tdRead.of_eq ‹_›).reqFault
  split
  · exact (h.tdRead.of_eq ‹_›).reqFreeze
  split
  · exact (h.tdRead.of_eq ‹_›).reqFreeze
  · exact (h.tdRead.of_eq ‹_›).modReq

theorem State.Listed.takeLines {r l} (h : s.Listed) : (s.takeLines r l).1.Listed := by
  induction l generalizing s with
  | nil =>
    unfold State.takeLines
    exact h
  | cons a l ih =>
    unfold State.takeLines
    split
    · split
      exact (ih h).of_eq ‹_›
    split
    · exact h
    extract_lets s₁ s₂
    have hs₁ : s₁.Listed := h.recallDirty
    have hs₂ : s₂.Listed := listed_ite hs₁.writeBack hs₁
    split
    · split
      exact (ih hs₂.setHome).of_eq ‹_›
    · exact hs₂

theorem State.Listed.ownership {r} (h : s.Listed) : (s.ownership r).Listed := by
  unfold State.ownership
  split
  · exact h.resolve.of_eq ‹_›
  split
  · exact h.resolve.of_eq ‹_›
  split
  · exact ((h.resolve.of_eq ‹_›).ownLines.of_eq ‹_›).reqFault
  split
  exact (((h.resolve.of_eq ‹_›).ownLines.of_eq ‹_›).takeLines.of_eq ‹_›).modReq

theorem State.Listed.execEngineOwnershipRequest {req} (h : s.Listed) : OutListed (Machine.execEngineOwnershipRequest req s) := by
  unfold Machine.execEngineOwnershipRequest
  refine .next ?_
  split
  · exact listed_ite (h.onReq fun _ => h.ownership) h
  · exact h

theorem State.Listed.cpySource {r tm o n} (h : s.Listed) : (s.cpySource r tm o n).1.Listed := by
  unfold State.cpySource
  split
  · split
    exact (h.engBytes.of_eq ‹_›).sendReads
  · exact h
  · exact h

theorem State.Listed.cpyDest {r o bs} (h : s.Listed) : (s.cpyDest r o bs).1.Listed := by
  unfold State.cpyDest
  split
  · exact h.modReq.flush
  · exact h.modReqTeam fun _ ht => by rwa [Team.spadWrite_threads]

theorem State.Listed.cpyEnd {r} (h : s.Listed) : (s.cpyEnd r).Listed := listed_ite h.finish h.endReq

theorem State.Listed.cpyPlain {r tm} (h : s.Listed) : (s.cpyPlain r tm).Listed := by
  unfold State.cpyPlain
  split
  split
  extract_lets s₁
  have hs₁ : s₁.Listed := ((h.cpySource.of_eq ‹_›).cpyDest.of_eq ‹_›).modReq
  split
  · exact listed_ite hs₁.cpyEnd hs₁.reqFault
  · exact hs₁.cpyEnd

theorem State.Listed.cpyTile {r tm} (h : s.Listed) (htm : RegsRise tm.threads) : (s.cpyTile r tm).Listed := by
  unfold State.cpyTile
  extract_lets
  split
  · split
    · exact h.setTeam htm
    · exact h
  split
  · exact h.setTeam htm
  split
  · exact (h.cpySource.of_eq ‹_›).reqFault
  · rename_i u bs hu
    have hu : u.Listed := h.cpySource.of_eq hu
    split
    rename_i v e hv
    have hv : v.Listed := by
      refine .of_eq (listed_ite_fst ?_ ?_) hv
      · exact hu.modReqTeam
      · exact hu.cpyDest
    extract_lets w _ z
    have hw : w.Listed := listed_ite hv.modReqTeam hv
    have hz : z.Listed := hw.modReq
    split
    · exact hz.cpyEnd
    split
    · exact hz.reqFault
    · exact hz

theorem State.Listed.execCopyComplete {req} (h : s.Listed) : OutListed (Machine.execCopyComplete req s) := by
  unfold Machine.execCopyComplete
  refine .next (h.onReq fun a => ?_)
  split
  · exact h
  · exact listed_ite h.land (listed_ite (h.stream fun _ ht => listed_ite (ht.cpyTile (h.reqTeam ‹_›)) ht.cpyPlain) h)

theorem State.Listed.tdUpdate {ck rec_ n k op req} (h : s.Listed) : (s.tdUpdate ck rec_ n k op req).Listed := h.makePut

theorem State.Listed.execTensorIdWriteComplete {req} (h : s.Listed) : OutListed (Machine.execTensorIdWriteComplete req s) := by
  unfold Machine.execTensorIdWriteComplete
  refine .next (h.onReq fun a => listed_ite h.land (listed_ite h ?_))
  split
  · exact (h.engRead.of_eq ‹_›).reqFault
  · exact listed_ite (h.engRead.of_eq ‹_›).reqFreeze (h.engRead.of_eq ‹_›).modReq.finish

theorem State.Listed.execTensorIdReadComplete {req} (h : s.Listed) : OutListed (Machine.execTensorIdReadComplete req s) := by
  unfold Machine.execTensorIdReadComplete
  refine .next (h.onReq fun a => listed_ite h.land (listed_ite h ?_))
  extract_lets
  split
  · exact (h.engRead.of_eq ‹_›).reqFault
  · exact listed_ite (h.engRead.of_eq ‹_›).modReq.finish.tdUpdate.tdUpdate (h.engRead.of_eq ‹_›).modReq.finish

theorem State.Listed.execEngineFault {req} (h : s.Listed) : OutListed (Machine.execEngineFault req s) := by
  unfold Machine.execEngineFault
  refine .next ?_
  split
  · split
    · exact h.onReq fun _ => listed_ite h.reqFreeze h
    refine h.onReq fun a => ?_
    split
    · exact (h.engRead.of_eq ‹_›).reqFault
    · exact listed_ite (h.engRead.of_eq ‹_›).reqFreeze h
  · exact h

theorem State.Listed.tdElem {r i} (h : s.Listed) : (s.tdElem r i).1.Listed := by
  unfold State.tdElem
  extract_lets
  split
  · exact h.engBytes.of_eq ‹_›
  extract_lets
  split
  · split <;> exact (h.engBytes.of_eq ‹_›).engBytes.of_eq ‹_›
  · exact h.engBytes.of_eq ‹_›

theorem State.Listed.ldElems {r f l} (h : s.Listed) : (s.ldElems r f l).1.Listed := by
  induction l generalizing s r f with
  | nil =>
    unfold State.ldElems
    exact h
  | cons a l ih =>
    unfold State.ldElems
    split
    · exact h.tdElem.of_eq ‹_›
    split
    exact ih (h.tdElem.of_eq ‹_›)

theorem State.Listed.countConvx {r n} (h : s.Listed) : (s.countConvx r n).Listed := listed_ite h h.tdUpdate

theorem State.Listed.cpytLoad {r j} (h : s.Listed) (htm : RegsRise tm.threads) : (s.cpytLoad r tm j).Listed := by
  unfold State.cpytLoad
  extract_lets
  split
  · exact h.setTeam htm
  split
  · exact (h.ldElems.of_eq ‹_›).reqFault
  · extract_lets u v
    have hv : v.Listed := ((h.ldElems.of_eq ‹_›).sendReads.modReqTeam fun _ => by simp).countConvx
    exact listed_ite hv.endReq hv.modReq

theorem State.Listed.cpytStore {r tm js} (h : s.Listed) : (s.cpytStore r tm js).Listed := by
  unfold State.cpytStore
  extract_lets _ _ _ _ s₁
  have hs₁ : s₁.Listed := h.modReqTeam fun _ ht => by rwa [Team.foldl_threads fun _ _ => Team.readDone_threads]
  split
  extract_lets s₂ _ s₃
  have hs₂ : s₂.Listed := hs₁.countConvx
  have hs₃ : s₃.Listed := hs₂.modReq
  split
  · exact hs₃.finish
  split
  · exact (hs₃.flush.of_eq ‹_›).reqFault
  · exact hs₃.flush.of_eq ‹_›

theorem State.Listed.execCpytComplete {req} (h : s.Listed) : OutListed (Machine.execCpytComplete req s) := by
  unfold Machine.execCpytComplete
  refine .next (h.onReq fun a => listed_ite h.land (h.stream fun t ht => ?_))
  split
  · exact ht.resolve.of_eq ‹_›
  split
  · exact ht.resolve.of_eq ‹_›
  extract_lets
  split
  · split
    · exact (ht.resolve.of_eq ‹_›).cpytLoad ((ht.resolve.of_eq ‹_›).reqTeam ‹_›)
    · exact ht.resolve.of_eq ‹_›
  split
  · exact ht.resolve.of_eq ‹_›
  split
  · exact listed_ite (ht.resolve.of_eq ‹_›).cpytStore (ht.resolve.of_eq ‹_›)
  split
  · exact (ht.resolve.of_eq ‹_›).cpytStore
  · exact ht.resolve.of_eq ‹_›

theorem State.Listed.gathRead {r l} (h : s.Listed) : (s.gathRead r l).1.Listed := by
  induction l generalizing s with
  | nil =>
    unfold State.gathRead
    exact h
  | cons a l ih =>
    unfold State.gathRead
    split
    · exact h.engRead.of_eq ‹_›
    split
    exact (ih (h.engRead.of_eq ‹_›)).of_eq ‹_›

theorem State.Listed.execGatherComplete {req} (h : s.Listed) : OutListed (Machine.execGatherComplete req s) := by
  unfold Machine.execGatherComplete
  refine .next (h.onReq fun r => ?_)
  split
  · exact h
  refine listed_ite h (h.stream fun t ht => ?_)
  split
  rename_i u bs e hu
  have hu : u.Listed := ht.gathRead.of_eq hu
  extract_lets o v
  have hv : v.Listed := by
    refine listed_ite (hu.modReqTeam fun tm ht => ?_) (hu.modReqTeam fun _ ht => by rwa [Team.spadWrite_threads])
    split
    · exact ht.foldl fun _ _ ht => ht.foldl fun _ _ ht => .ite ht.putRegs ht
    · exact ht
  split
  · exact hv.modReq.reqFault
  · exact hv.endReq

theorem State.Listed.execScatterComplete {req} (h : s.Listed) : OutListed (Machine.execScatterComplete req s) := by
  unfold Machine.execScatterComplete
  refine .next (h.onReq fun a => ?_)
  split
  · exact h
  · exact listed_ite h.land (listed_ite h (h.stream fun _ ht => ht.modReq.finish))

theorem State.Listed.execTtagApply {req} (h : s.Listed) : OutListed (Machine.execTtagApply req s) := by
  unfold Machine.execTtagApply
  refine .next (h.onReq fun a => ?_)
  split
  · exact h
  · have ht := h.reqTeam ‹_›
    exact listed_ite (.endReq (h.setTeam ht)) h

theorem State.Listed.execJnextServe {req} (h : s.Listed) : OutListed (Machine.execJnextServe req s) := by
  unfold Machine.execJnextServe
  refine .next (h.onReq fun r => ?_)
  split
  · exact h
  split
  · exact h
  split
  · exact h
  extract_lets
  split
  extract_lets u
  have hu : u.Listed := listed_ite h h.modGrid
  exact listed_ite hu.modReq hu.modReqTeam.endReq

theorem State.Listed.execCollectiveComplete {req contributions} (h : s.Listed) :
    OutListed (Machine.execCollectiveComplete req contributions s) := by
  unfold Machine.execCollectiveComplete
  refine .next (h.onReq fun a => listed_ite h.land (listed_ite h (listed_ite h.reqFreeze ?_)))
  split
  · exact (h.engRead.of_eq ‹_›).reqFault
  · exact (h.engRead.of_eq ‹_›).rset.modReq.finish

theorem State.Listed.execMxrelComplete {col slot} (h : s.Listed) : OutListed (Machine.execMxrelComplete col slot s) := .next h.releaseEngine

theorem State.Listed.execBatonExpiry {col layer} (h : s.Listed) : OutListed (Machine.execBatonExpiry col layer s) := .next h.modCol

/-! ### The matrix stream (Matrix) -/

theorem State.Listed.runM {act} (h : s.Listed) (hact : ∀ a u a', RegsRise u.threads → (act a u a').Listed) : OutListed (Machine.runM s act) := by
  unfold Machine.runM
  split
  · split
    · split
      · split
        · exact .next (hact _ _ _ (h.team ‹_›))
        · exact .fault
      · exact .fault
    · exact .fault
  · exact .fault

theorem State.Listed.mNext {k tm} (h : s.Listed) (htm : RegsRise tm.threads) : (s.mNext k tm).Listed := h.setTeam htm

theorem State.Listed.mSlotFault {k tm slots go} (h : s.Listed) (hgo : go.Listed) : (s.mSlotFault k tm slots go).Listed := by
  unfold State.mSlotFault
  split
  · exact h.takeStreamFault
  · exact hgo

theorem State.Listed.mJoin {slots u id} (h : s.Listed) (ht : RegsRise tm.threads) (e : s.mJoin tm slots = (t, u, id)) : t.Listed ∧ RegsRise u.threads := by
  unfold State.mJoin at e
  split at e <;> cases e
  · exact ⟨h, ht⟩
  · exact ⟨h, tm.join_threads ▸ ht⟩

theorem State.Listed.execMlda {ts cl ty xi mx} (h : s.Listed) : OutListed (Machine.execMlda ts cl ty xi mx s) := by
  unfold Machine.execMlda
  refine h.runM fun k tm a ht => h.mSlotFault ?_
  split
  obtain ⟨hu, hum⟩ := h.mJoin ht ‹_›
  refine listed_ite (listed_ite (hu.setTeam hum).takeStreamFault ?_) (hu.setTeam hum)
  split
  · exact hu
  · exact hu.mNext hum

theorem State.Listed.execMldb {ts sub cl rc ty xi mx} (h : s.Listed) : OutListed (Machine.execMldb ts sub cl rc ty xi mx s) := by
  unfold Machine.execMldb
  refine h.runM fun k tm a ht => h.mSlotFault (listed_ite h.takeStreamFault ?_)
  split
  obtain ⟨hu, hum⟩ := h.mJoin ht ‹_›
  refine listed_ite (hu.setTeam hum) (listed_ite (hu.setTeam hum).takeStreamFault ?_)
  split
  · exact hu
  · exact hu.mNext (hum.foldl fun _ _ ht => by rwa [Team.readDone_threads])

theorem State.Listed.auditSelect {k key} (h : s.Listed) : (s.auditSelect k key).Listed := h.modTeam

theorem State.Listed.auditStep {k} (h : s.Listed) : (s.auditStep k).Listed := by
  unfold State.auditStep
  extract_lets _ s₁
  have hs₁ : s₁.Listed := by
    unfold s₁
    split
    · split
      exact (h.free.of_eq ‹_›).modCol
    · exact h
  exact listed_ite hs₁ hs₁.modTeam

theorem State.Listed.execMma {acc ts fus ord ty sat xi} (h : s.Listed) : OutListed (Machine.execMma acc ts fus ord ty sat xi s) := by
  unfold Machine.execMma
  refine h.runM fun k tm a ht => h.mSlotFault (listed_ite h.takeStreamFault ?_)
  split
  · exact h.takeStreamFault
  refine listed_ite h.takeStreamFault (h.mNext (ht.foldl fun tm i ht => ?_))
  split
  · exact ht
  · exact ht

theorem State.Listed.execMzro {acc cnt} (h : s.Listed) : OutListed (Machine.execMzro acc cnt s) :=
  h.runM fun _ _ _ ht => listed_ite h.takeStreamFault (h.mNext (ht.foldl fun _ _ ht => ht))

theorem State.Listed.execMadc {acc src sat} (h : s.Listed) : OutListed (Machine.execMadc acc src sat s) := by
  unfold Machine.execMadc
  refine h.runM fun a'' tm a ht => listed_ite h.takeStreamFault (listed_ite (h.mNext ht) ?_)
  extract_lets
  split
  exact h.mNext ht

theorem State.Listed.telemetry {k tm ws} (h : s.Listed) : (s.telemetry k tm ws).Listed := listed_ite h.makePut h.telemetryLost

theorem State.Listed.auditTile {k tm j sl C td ws} (h : s.Listed) : (s.auditTile k tm j sl C td ws).Listed := by
  unfold State.auditTile
  exact listed_ite (listed_ite h.modCol.telemetry.report h.modCol.telemetry).report (listed_ite h.modCol.telemetry.report h.modCol.telemetry)

theorem State.Listed.auditCount {k j sl C td ent} (h : s.Listed) : (s.auditCount k tm j sl C td ent).Listed := by
  unfold State.auditCount
  extract_lets ck au P acnt due sel used ws u v w
  clear_value ws
  refine listed_ite h ?_
  have hv : v.Listed := .modTeam h.tdUpdate
  have hw : w.Listed := by
    unfold w
    refine listed_ite ?_ hv
    split
    · exact hv.auditTile
    · exact listed_ite hv.modTeam.auditSelect hv.auditTile
  exact listed_ite hw.auditSelect hw

theorem State.Listed.mEntry {k td} (h : s.Listed) (ht : RegsRise tm.threads) : (s.mEntry k tm td).1.Listed := by
  unfold State.mEntry
  extract_lets
  split
  · exact h.takeStreamFault
  split
  · rename_i u code info va e
    have hu : u.Listed := h.tdRead.of_eq e
    refine listed_ite hu.takeStreamFault ?_
    exact listed_ite (hu.setTeam ht) (State.Listed.reportOnce (hu.setTeam ht))
  · rename_i u ent e
    have hu : u.Listed := h.tdRead.of_eq e
    split
    · exact hu
    · exact hu.takeStreamFault

theorem State.Listed.execMstc {acc ts ty sc xi mx} (h : s.Listed) : OutListed (Machine.execMstc acc ts ty sc xi mx s) := by
  unfold Machine.execMstc
  refine h.runM fun k tm a ht => h.mSlotFault (listed_ite ?_ h.takeStreamFault)
  extract_lets store
  have hstore : ∀ t ent, t.Listed → (store t ent).Listed := by
    intro t ent hk
    unfold store
    split
    rename_i u um id hu
    obtain ⟨hu, hum⟩ := hk.mJoin ht hu
    refine listed_ite ?_ (hu.setTeam hum)
    split
    extract_lets vm v
    have hvm : RegsRise vm.threads := hum
    have hv : v.Listed := listed_ite hu hu.tdUpdate
    split
    · exact hu.mNext hvm
    · extract_lets w
      have hw : w.Listed := (hv.setTeam hvm).auditCount
      split
      · exact hw.mNext (hw.team ‹_›)
      · exact hw
  refine listed_ite ?_ (hstore s none h)
  split
  · exact hstore _ (some _) ((h.mEntry ht).of_eq ‹_›)
  · exact (h.mEntry ht).of_eq ‹_›

theorem State.Listed.execMaud {td} (h : s.Listed) : OutListed (Machine.execMaud td s) := by
  unfold Machine.execMaud
  refine h.runM fun k tm a ht => ?_
  split
  · exact (h.mEntry ht).of_eq ‹_›
  · extract_lets u
    have hu : u.Listed := State.Listed.auditSelect (((h.mEntry ht).of_eq ‹_›).setTeam ht)
    split
    · exact hu.mNext (hu.team ‹_›)
    · exact hu

theorem State.Listed.execMnop (h : s.Listed) : OutListed (Machine.execMnop s) := h.runM fun _ _ _ ht => h.mNext ht

theorem State.Listed.execMend (h : s.Listed) : OutListed (Machine.execMend s) := h.runM fun _ _ _ ht => h.setTeam ht

theorem State.Listed.execMrza {z} (h : s.Listed) : OutListed (Machine.execMrza z s) :=
  h.runM fun _ _ _ ht => listed_ite h.takeStreamFault (h.mNext ht)

theorem State.Listed.execMrzw {z} (h : s.Listed) : OutListed (Machine.execMrzw z s) := by
  unfold Machine.execMrzw
  refine h.runM fun k tm a ht => listed_ite h.takeStreamFault ?_
  split
  rename_i um tok hum
  have hum : RegsRise um.threads := by
    split at hum <;> cases hum
    · exact ht
    · exact ht
  exact listed_ite (h.mNext hum) (h.setTeam hum)

theorem State.Listed.execMwtg {ts tag xi mx} (h : s.Listed) : OutListed (Machine.execMwtg ts tag xi mx s) :=
  h.runM fun _ _ _ ht => h.mSlotFault (listed_ite (h.mNext ht) (h.setTeam ht))

theorem State.Listed.execMset {mk imm} (h : s.Listed) : OutListed (Machine.execMset mk imm s) := h.runM fun _ _ _ ht => h.mNext ht

theorem State.Listed.execMadd {mk ms imm} (h : s.Listed) : OutListed (Machine.execMadd mk ms imm s) := h.runM fun _ _ _ ht => h.mNext ht

theorem State.Listed.execMlop {mk disp} (h : s.Listed) : OutListed (Machine.execMlop mk disp s) :=
  h.runM fun _ _ _ ht => listed_ite (h.mNext ht) (h.setTeam ht)

theorem State.Listed.fetchM {k tm} (h : s.Listed) : (s.fetchM k tm).Listed := by
  unfold State.fetchM
  extract_lets
  split
  · exact h.takeStreamFault
  split
  · exact listed_ite (h.colRead.of_eq ‹_›).takeStreamFault (listed_ite (h.colRead.of_eq ‹_›).modTeam (h.colRead.of_eq ‹_›).modTeam.reportOnce)
  extract_lets
  split
  · exact (h.colRead.of_eq ‹_›).takeStreamFault
  · exact (h.colRead.of_eq ‹_›).modTeam

/-! ### Launch, placement and hand-over (Launch) -/

theorem State.Listed.execQueueControlWrite {fn c q v} (h : s.Listed) : OutListed (Machine.execQueueControlWrite fn c q v s) := .next h.rwrite

theorem State.Listed.stopQueue {ck q} (h : s.Listed) : (s.stopQueue ck q).Listed := h

theorem State.Listed.execDoorbell {fn c q tail} (h : s.Listed) : OutListed (Machine.execDoorbell fn c q tail s) :=
  .next (listed_ite h.report.stopQueue h.rset)

theorem State.Listed.execStopClear {fn c q} (h : s.Listed) : OutListed (Machine.execStopClear fn c q s) := .next (listed_ite h.rset.modCtx h.rset)

theorem State.Listed.setCard {ck q i x} (h : s.Listed) : (s.setCard ck q i x).Listed := h

theorem State.Listed.takeHandler {ck} (h : s.Listed) : (s.takeHandler ck).Listed := by
  unfold State.takeHandler
  extract_lets
  split
  · exact h
  split
  · exact h
  split
  · exact listed_ite (h.virtRead.of_eq ‹_›) (h.virtRead.of_eq ‹_›).report.setCard
  extract_lets
  split
  · exact (h.virtRead.of_eq ‹_›).report.setCard
  · exact (h.virtRead.of_eq ‹_›).setCard

theorem State.Listed.execCardIntake {fn c q} (h : s.Listed) : OutListed (Machine.execCardIntake fn c q s) := by
  unfold Machine.execCardIntake
  extract_lets
  refine .next (listed_ite h (listed_ite h.takeHandler (listed_ite h ?_)))
  split
  · exact h
  split
  · exact listed_ite ((h.countAcquire.of_eq ‹_›).virtRead.of_eq ‹_›) ((h.countAcquire.of_eq ‹_›).virtRead.of_eq ‹_›).report.stopQueue
  · exact ((h.countAcquire.of_eq ‹_›).virtRead.of_eq ‹_›).intakePush.rset.capture

theorem State.Listed.popCard {ck q} (h : s.Listed) : (s.popCard ck q).Listed := h

theorem State.Listed.eligible {ck q x} (h : s.Listed) : (s.eligible ck q x).Listed := by
  unfold State.eligible
  extract_lets _ _ _ s₁
  have hs₁ : s₁.Listed := h.popCard
  exact .completeGrids hs₁.setGrid

theorem State.Listed.readWaits {ck priv w l} (h : s.Listed) : (s.readWaits ck priv w l).1.Listed := by
  induction l generalizing s with
  | nil =>
    unfold State.readWaits
    exact h
  | cons a l ih =>
    unfold State.readWaits
    split
    · split
      exact (ih (h.virtRead.of_eq ‹_›)).of_eq ‹_›
    split
    exact (ih (h.virtRead.of_eq ‹_›)).of_eq ‹_›

theorem State.Listed.countReads {ck n} (h : s.Listed) : OptListed (s.countReads ck n) := by
  induction n generalizing s with
  | zero => exact .some h
  | succ n ih => exact h.countAcquire.bind fun _ ht => ih ht

theorem State.Listed.execDependenceCounterRead {fn c q} (h : s.Listed) : OutListed (Machine.execDependenceCounterRead fn c q s) := by
  unfold Machine.execDependenceCounterRead
  extract_lets
  refine .next (listed_ite h ?_)
  split
  · exact h
  extract_lets
  split
  · exact h
  split
  · exact h
  split
  rename_i u met faults e
  have hu : u.Listed := (h.countReads.of_eq ‹_›).readWaits.of_eq e
  extract_lets
  split
  · exact listed_ite hu.eligible hu.setCard
  · extract_lets v
    have hv : v.Listed := listed_ite hu.countError hu.report
    exact listed_ite (listed_ite hv.setCard hv.popCard) hv.setCard

theorem State.Listed.rereadWaits (h : s.Listed) : s.rereadWaits.Listed := by
  refine h.foldl fun t p ht => ?_
  split
  · exact ht.execDependenceCounterRead _ ‹_›
  · exact ht

theorem RegsRise.newTeam {w grid idx member age now cluster backing extent} :
    RegsRise (newTeam w grid idx member age now cluster backing extent).threads :=
  .ofRange fun _ => startRegs_rising

theorem State.Listed.placeMembers {id g idx keys l} (h : s.Listed) : OptListed (s.placeMembers id g idx keys l) := by
  induction l generalizing s with
  | nil => exact .some h
  | cons a l ih =>
    obtain ⟨c, i⟩ := a
    unfold State.placeMembers
    extract_lets
    split
    · exact .none
    · exact ih (h.bind.startTeam .newTeam)

theorem State.Listed.placeAt {id g c} (h : s.Listed) : OptListed (s.placeAt id g c) := by
  unfold State.placeAt
  extract_lets
  split
  · exact .none
  · exact h.placeMembers.mapState fun _ ht => ht.modGrid

theorem State.Listed.placeList {id l} (h : s.Listed) : OptListed (s.placeList id l) := by
  induction l generalizing s with
  | nil => exact .some h
  | cons a l ih =>
    unfold State.placeList
    split
    · exact .none
    · exact h.placeAt.bind fun _ ht => ih ht

theorem State.Listed.placeHinted {id n} (h : s.Listed) : OptListed (s.placeHinted id n) := by
  induction n generalizing s with
  | zero => exact .none
  | succ n ih =>
    unfold State.placeHinted
    split
    · exact .none
    split
    · exact .some h
    · refine OptListed.bind ?_ fun _ ht => ih ht
      intro t e
      obtain ⟨c, -, hc⟩ := List.exists_of_findSome?_eq_some e
      exact h.placeAt t hc

theorem State.Listed.placeWhole {id g} (h : s.Listed) : OptListed (s.placeWhole id g) := by
  intro t e
  rcases Option.or_eq_some_iff.1 e with e | ⟨-, e⟩
  · exact h.placeHinted t e
  · obtain ⟨l, -, hl⟩ := Option.bind_eq_some_iff.1 e
    exact h.placeList t hl

theorem State.Listed.placeGrid {id g c} (h : s.Listed) : OptListed (s.placeGrid id g c) := by
  unfold State.placeGrid
  split
  · exact h.placeWhole
  · exact h.placeAt

theorem State.Listed.execTeamPlacement {grid col} (h : s.Listed) : OutListed (Machine.execTeamPlacement grid col s) := by
  unfold Machine.execTeamPlacement
  refine .next ?_
  split
  · exact h
  refine listed_ite h ?_
  split
  · have ht := h.placeGrid _ ‹_›
    exact ht
  · exact h

theorem State.Listed.execCooperativeGuard {grid} (h : s.Listed) : OutListed (Machine.execCooperativeGuard grid s) := by
  unfold Machine.execCooperativeGuard
  refine .next ?_
  split
  · exact listed_ite h h
  · exact h

theorem State.Listed.execGridSignal {grid} (h : s.Listed) : OutListed (Machine.execGridSignal grid s) := by
  unfold Machine.execGridSignal
  refine .next ?_
  split
  · exact h
  refine listed_ite h ?_
  extract_lets w va done m fault
  have hdone : ∀ t, t.Listed → (done t).Listed := fun t ht => ht.modGrid
  have hfault : ∀ t code, t.Listed → (fault t code).Listed := by
    intro t code ht
    unfold fault
    refine listed_ite ht ?_
    extract_lets u
    have hu : u.Listed := listed_ite ht.countError ht.report
    exact listed_ite (hdone _ hu) hu.modGrid
  split
  · exact hfault _ _ (h.xlateAgent.of_eq ‹_›)
  · rename_i u tgt e
    have hu : u.Listed := h.xlateAgent.of_eq e
    refine listed_ite hu (listed_ite (hfault _ _ hu) ?_)
    split
    · exact listed_ite hu (hdone _ hu.homeArrive.localWrite)
    · exact hfault _ _ hu
    · exact hdone _ hu
    · exact hdone _ hu

theorem State.Listed.applyTags {k age} (h : s.Listed) : (s.applyTags k age).Listed := by
  refine h.foldl fun t p ht => ?_
  split
  · exact ht.execTtagApply _ ‹_›
  · exact ht

theorem State.Listed.successorGrid {old g hv} (h : s.Listed) : (s.successorGrid old g hv).1.Listed := by
  unfold State.successorGrid
  split
  · exact h
  · exact h.setGrid

theorem RegsRise.successorOf {w mask id now age} : RegsRise (tm.successorOf w mask id now age).threads := by
  refine .ofRange fun t => ?_
  dsimp only
  split
  · exact RegsRise.newTeam.thread
  · exact inheritRegs_rising

theorem State.Listed.execHandoverDrainComplete {col slot} (h : s.Listed) : OutListed (Machine.execHandoverDrainComplete col slot s) := by
  unfold Machine.execHandoverDrainComplete
  refine .next ?_
  split
  · exact h
  rename_i tm htm
  have htm : RegsRise tm.threads := h.team htm
  split
  · refine listed_ite (listed_ite (listed_ite (.barrier (h.setTeam htm)) h) ?_) h
    extract_lets um u vm
    have hum : RegsRise um.threads := by rwa [Team.unplace_threads]
    have hu : u.Listed := (h.setTeam (tm := { um with stream := um.stream.stop }) hum).applyTags
    split
    rename_i v id hv
    extract_lets succ w z
    have hv : v.Listed := hu.successorGrid.of_eq hv
    have hz : z.Listed := hv.modGrid.retire
    have hsucc : RegsRise succ.threads := .successorOf
    exact .barrier (hz.setTeam hsucc)
  · exact h

theorem State.Listed.execSuccessorStart {col slot} (h : s.Listed) : OutListed (Machine.execSuccessorStart col slot s) := by
  unfold Machine.execSuccessorStart
  extract_lets
  refine .next ?_
  split
  · exact h
  split
  · exact h
  split
  · exact h
  split
  · exact h
  · exact h.startTeam (.map (h.team ‹_›) fun _ hr => hr)

theorem State.Listed.execGbarAdmissionWindow {grid} (h : s.Listed) : OutListed (Machine.execGbarAdmissionWindow grid s) :=
  .next (.foldl h fun _ _ ht => ht.modTeam fun _ ht => .ite ht.leaveBarrier ht)

/-! ### Clause starts, parking and halts (Preempt) -/

theorem State.Listed.dmMiss {k} (h : s.Listed) : (s.dmMiss k).Listed := by
  unfold State.dmMiss
  split
  · exact h
  · exact listed_ite h (listed_ite h.dmEnd h)

theorem State.Listed.fetch {k tm pc n} (h : s.Listed) : (s.fetch k tm pc n).1.Listed := h.colRead

theorem State.Listed.fetchFault {k tm b code info va} (h : s.Listed) : (s.fetchFault k tm b code info va).Listed :=
  listed_ite h.report.freezeTeam.settle (listed_ite h.modThreads h.modThreads.reportOnce).settle

theorem State.Listed.startClause {k idx tm b} (h : s.Listed) : (s.startClause k idx tm b).Listed := by
  unfold State.startClause
  extract_lets _ s₁
  have hs₁ : s₁.Listed := h.modThreads
  split
  · exact (hs₁.fetch.of_eq ‹_›).fetchFault
  extract_lets
  split
  · exact (hs₁.fetch.of_eq ‹_›).takeDecodeTrap
  split
  · exact hs₁.fetch.of_eq ‹_›
  split
  · exact ((hs₁.fetch.of_eq ‹_›).fetch.of_eq ‹_›).fetchFault
  split
  · exact ((hs₁.fetch.of_eq ‹_›).fetch.of_eq ‹_›).takeDecodeTrap
  · exact ((hs₁.fetch.of_eq ‹_›).fetch.of_eq ‹_›).modThreads.modBundle

theorem State.Listed.execClauseStart {col slot bundle} (h : s.Listed) : OutListed (Machine.execClauseStart col slot bundle s) := by
  unfold Machine.execClauseStart
  extract_lets
  refine .next ?_
  split
  · exact h
  split
  · exact h
  · have htm := h.team ‹_›
    refine listed_ite (.modTeam (.startClause (h.setTeam (by rwa [Team.part_threads]))) fun um ht => ?_) h
    have hum : RegsRise (um.firstIssue s.dt (s.clock col)).threads := by rwa [Team.firstIssue_threads]
    exact .ite hum hum

theorem State.Listed.execFormationPoint {col layer slice} (h : s.Listed) : OutListed (Machine.execFormationPoint col layer slice s) :=
  .next (h.foldl fun _ _ ht => listed_ite ht.modTeam ht)

theorem State.Listed.execGroupCollectiveConvergence {col slot group} (h : s.Listed) :
    OutListed (Machine.execGroupCollectiveConvergence col slot group s) :=
  .next (h.modTeam fun _ ht => .ite ht.converge ht)

theorem State.Listed.execSleepExpiry {col slot thread} (h : s.Listed) : OutListed (Machine.execSleepExpiry col slot thread s) :=
  .next (h.modTeam fun _ ht => .ite ht.modThread ht)

theorem State.Listed.execVgrowGrant {col slot group} (h : s.Listed) : OutListed (Machine.execVgrowGrant col slot group s) :=
  .next (listed_ite (h.modTeam fun _ ht => ht.grant) h)

theorem State.Listed.execVgrowDenialAllWaiting {col layer} (h : s.Listed) : OutListed (Machine.execVgrowDenialAllWaiting col layer s) := by
  unfold Machine.execVgrowDenialAllWaiting
  extract_lets teams asks stuck met holders young
  clear_value young
  refine .next ?_
  split
  · exact listed_ite (h.modTeam fun _ ht => ht.foldl fun _ _ ht => ht.endRequest) h
  · exact h

theorem State.Listed.execVgrowDenialTooLong {col slot group} (h : s.Listed) : OutListed (Machine.execVgrowDenialTooLong col slot group s) := by
  unfold Machine.execVgrowDenialTooLong
  extract_lets
  refine .next ?_
  split
  · exact h
  split
  · exact listed_ite (h.modTeam fun _ ht => ht.endRequest) h
  · exact h

theorem State.Listed.execParkedTeamPlace {col slot} (h : s.Listed) : OutListed (Machine.execParkedTeamPlace col slot s) := by
  unfold Machine.execParkedTeamPlace
  extract_lets
  refine .next ?_
  split
  · exact h
  have htm := h.team ‹_›
  extract_lets
  split
  · exact h
  split
  · exact listed_ite (h.startTransfer.setTeam htm) h.holdTransfer
  split
  · exact h
  split
  · exact h.modTeam
  · exact h

theorem State.Listed.execParkingPlacingComplete {col slot} (h : s.Listed) : OutListed (Machine.execParkingPlacingComplete col slot s) := by
  unfold Machine.execParkingPlacingComplete
  extract_lets
  refine .next ?_
  split
  · exact h
  have htm := h.team ‹_›
  split
  · exact listed_ite h (.settle (h.markPath.setTeam htm))
  · exact listed_ite h (.settle (h.markPath.setTeam htm))
  · exact listed_ite (listed_ite (h.startTransfer.setTeam htm) h.holdTransfer) h
  · exact h

theorem State.Listed.setBusy {ck b} (h : s.Listed) : (s.setBusy ck b).Listed := h

theorem State.Listed.setCmdErr {ck} (h : s.Listed) : (s.setCmdErr ck).Listed := h

theorem State.Listed.setCstate {ck v} (h : s.Listed) : (s.setCstate ck v).Listed := h

theorem State.Listed.setQhalt {ck q v} (h : s.Listed) : (s.setQhalt ck q v).Listed := listed_ite h.rsetBits h.rsetBits

theorem State.Listed.clearQhalt {ck} (h : s.Listed) : (s.clearQhalt ck).Listed := h

theorem State.Listed.startHalt {ck q cmd spare} (h : s.Listed) : (s.startHalt ck q cmd spare).Listed :=
  .setBusy (.modCtx (.foldl h.mapGrids fun _ _ ht => (ht.modTeam fun _ ht => ht.requestHalt).dmMiss))

theorem State.Listed.parkAll {gs} (h : s.Listed) : (s.parkAll gs).Listed := h.mapTeams (hf := fun _ hp => .ite hp hp)

theorem State.Listed.endCommand {ck} (h : s.Listed) : (s.endCommand ck).Listed :=
  (h.modCtx.setBusy.foldl fun _ _ ht => ht.freezeOther).foldl fun _ _ ht => ht.settle

theorem State.Listed.releaseGrids {gs} (h : s.Listed) : (s.releaseGrids gs).Listed :=
  .foldl h.mapGrids fun _ _ ht => .beginHandover (ht.modTeam fun _ ht => RegsRise.reissue ht)

theorem State.Listed.releaseTeam {k} (h : s.Listed) : (s.releaseTeam k).Listed := by
  unfold State.releaseTeam
  split
  · exact h
  split
  · exact h
  extract_lets s₁ s₂
  have hs₁ : s₁.Listed := h.modTeam fun _ ht => ht.release.reissue
  have hs₂ : s₂.Listed := hs₁.foldl fun _ _ ht => ht.endReq
  split
  · exact listed_ite hs₂.retireAbandoned hs₂
  · exact hs₂.beginHandover

theorem State.Listed.releaseFrozen {ck spare} (h : s.Listed) : (s.releaseFrozen ck spare).Listed := .foldl h fun _ _ ht => ht.releaseTeam

theorem State.Listed.command {ck act} (h : s.Listed) (hact : ∀ t, t.Listed → (act t).Listed) : OutListed (s.command ck act) :=
  .next (listed_ite h.setCmdErr (hact _ h))

theorem State.Listed.haltQueue {ck q} (h : s.Listed) : (s.haltQueue ck q).Listed :=
  listed_ite h.setCmdErr (listed_ite h.setQhalt h.setQhalt.startHalt)

theorem State.Listed.execHaltQueue {fn c q} (h : s.Listed) : OutListed (Machine.execHaltQueue fn c q s) := h.command fun _ ht => ht.haltQueue

theorem State.Listed.haltContext {ck spare} (h : s.Listed) : (s.haltContext ck spare).Listed := listed_ite h.setCmdErr (listed_ite h h.startHalt)

theorem State.Listed.execHaltContext {fn c} (h : s.Listed) : OutListed (Machine.execHaltContext fn c s) := h.command fun _ ht => ht.haltContext

theorem State.Listed.resumeQueue {ck q} (h : s.Listed) : (s.resumeQueue ck q).Listed := listed_ite h.setCmdErr (listed_ite h.setQhalt.releaseGrids h)

theorem State.Listed.execResumeQueue {fn c q} (h : s.Listed) : OutListed (Machine.execResumeQueue fn c q s) := h.command fun _ ht => ht.resumeQueue

theorem State.Listed.resumeInPlace {ck spare} (h : s.Listed) : (s.resumeInPlace ck spare).Listed :=
  h.releaseGrids.releaseFrozen.modCtx.clearQhalt.setCstate

/-! ### Saves and resumes (Save) -/

theorem State.Listed.preRecord {ck code info} (h : s.Listed) : (s.preRecord ck code info).Listed := by
  unfold State.preRecord
  split
  exact (h.free.of_eq ‹_›).report

theorem State.Listed.areaFault {ck kind e} (h : s.Listed) : (s.areaFault ck kind e).Listed := by
  unfold State.areaFault
  extract_lets s₁
  have hs₁ : s₁.Listed := h.modCtx
  split
  · exact hs₁
  split
  exact (hs₁.free.of_eq ‹_›).reportOnce

theorem State.Listed.saveCheck {ck cmd} (h : s.Listed) : (s.saveCheck ck cmd).Listed :=
  listed_ite h.setCstate.setCmdErr.preRecord.endCommand h.setCstate.modCtx

theorem State.Listed.saveRelease {ck cmd} (h : s.Listed) : (s.saveRelease ck cmd).Listed :=
  (h.foldl fun _ _ ht => ht.foldl fun _ _ ht' => ht'.startRelease).modCtx

theorem State.Listed.saveWrite {ck off bs cmd step} (h : s.Listed) : (s.saveWrite ck off bs cmd step).Listed := by
  unfold State.saveWrite
  split
  · exact (h.virtWrite.of_eq ‹_›).areaFault
  · exact (h.virtWrite.of_eq ‹_›).modCtx

theorem State.Listed.saveBegin {ck cmd} (h : s.Listed) : (s.saveBegin ck cmd).Listed := listed_ite h.modCtx.saveWrite h.modCtx.saveWrite.modCtx

theorem State.Listed.haltDone {ck cmd} (h : s.Listed) : (s.haltDone ck cmd).Listed := by
  unfold State.haltDone
  extract_lets _ s₁ s₂
  have hs₁ : s₁.Listed := h.parkAll
  have hs₂ : s₂.Listed := hs₁.mapTeams (hf := fun _ hp => .ite hp hp)
  split
  · exact hs₁.endCommand
  · exact hs₁.setCstate.endCommand
  · exact hs₂.saveCheck

theorem restoreThread_rising {ck v kept ro t n} : Rising (s.restoreThread ck v kept ro t n).1.regs := Rising.nil.foldl fun _ _ h => h.sput

theorem RegsRise.restoreTeam {ck v grid cluster backing extent} : RegsRise (s.restoreTeam ck v grid cluster backing extent).threads := by
  intro th hth
  simp only [State.restoreTeam, List.map_map, List.mem_map] at hth
  obtain ⟨t, -, rfl⟩ := hth
  exact restoreThread_rising

theorem State.Listed.restoreCluster {ck cards ids ms c0} (h : s.Listed) : OptListed (s.restoreCluster ck cards ids ms c0) := by
  unfold State.restoreCluster
  extract_lets card w
  split
  · exact .none
  split
  · exact .none
  extract_lets keyOf cluster
  refine .foldl (.some h) fun o p ho => ?_
  split
  · rename_i t _ k b e _
    have ht : t.Listed := ho.of_eq rfl
    extract_lets v u tm eb c
    clear_value eb
    have hu : u.Listed := ht.bind
    have htm : RegsRise tm.threads := .restoreTeam
    split
    · exact .none
    rename_i eb
    extract_lets tm' x waits y
    have htm' : RegsRise tm'.threads := htm
    have hx : x.Listed := by
      unfold x
      split
      · exact listed_ite (hu.startTransfer.setTeam htm') (hu.setTeam htm').holdTransfer
      · exact hu.setTeam htm'
    have hy : y.Listed := hx.modGrid
    split
    extract_lets z
    have hz : z.Listed := hy.modCtx
    exact .some (hz.foldl fun _ _ ht => ht.modThreads)
  · exact .none

theorem State.Listed.restoreAll {ck cards ids l} (h : s.Listed) : OptListed (s.restoreAll ck cards ids l) := by
  induction l generalizing s with
  | nil => exact .some h
  | cons ms l ih =>
    unfold State.restoreAll
    split
    · exact .none
    · rename_i t e
      obtain ⟨c, -, hc⟩ := List.exists_of_findSome?_eq_some e
      exact ih (h.restoreCluster t hc)

theorem State.Listed.restoreArea {ck a} (h : s.Listed) : OptListed (s.restoreArea ck a) := by
  unfold State.restoreArea
  extract_lets base N resident one gs u look
  have hu : u.Listed := ⟨h.1, Rising.foldl h.2.1 fun _ _ hm => hm.sins, h.2.2⟩
  exact hu.restoreAll.mapState fun _ ht => ht.foldl fun _ _ ht => ht.setIntake

theorem State.Listed.abandonHandovers {ck old ids} (h : s.Listed) : (s.abandonHandovers ck old ids).Listed := by
  unfold State.abandonHandovers
  refine h.foldl fun t a ht => ?_
  split
  · exact ht
  · exact listed_ite ht.retireAbandoned ht

theorem State.Listed.resumeSaved {ck spare} (h : s.Listed) : (s.resumeSaved ck spare).Listed := by
  unfold State.resumeSaved
  extract_lets _ none_ wait refuse
  have hnone : ∀ t, t.Listed → (none_ t).Listed := fun _ ht => ht.resumeInPlace.endCommand
  have hwait : ∀ t, t.Listed → (wait t).Listed := fun _ ht => ht.modCtx.setBusy
  have hrefuse : ∀ t i n, t.Listed → (refuse t i n).Listed := fun _ _ _ ht => ht.setCmdErr.preRecord.endCommand
  split
  · rename_i u _ e
    have hu : u.Listed := h.virtRead.of_eq e
    exact listed_ite (hnone _ hu) (hwait _ hu).areaFault
  rename_i u hdr e
  have hu : u.Listed := h.virtRead.of_eq e
  extract_lets
  split
  · exact listed_ite (hrefuse _ _ _ hu) (hnone _ hu)
  split
  · exact (hwait _ (hu.virtRead.of_eq ‹_›)).areaFault
  rename_i v bytes e
  have hv : v.Listed := hu.virtRead.of_eq e
  extract_lets
  split
  · exact hrefuse _ _ _ hv
  split
  · exact hwait _ hv
  · exact (hwait _ (hv.virtWrite.of_eq ‹_›)).areaFault
  · rename_i w _ e
    have hw : w.Listed := hv.virtWrite.of_eq e
    extract_lets u x y
    have hu : u.Listed := hw.restoreArea.getD hw
    have hx : x.Listed := hu.modCtx
    have hy : y.Listed := hx.clearQhalt.setCstate.releaseFrozen
    exact hy.abandonHandovers.endCommand

theorem State.Listed.resumeContext {ck spare} (h : s.Listed) : (s.resumeContext ck spare).Listed := listed_ite h.resumeSaved h.resumeInPlace

theorem State.Listed.execResumeContext {fn c} (h : s.Listed) : OutListed (Machine.execResumeContext fn c s) :=
  h.command fun _ ht => ht.resumeContext

theorem State.Listed.saveContext {ck reason spare} (h : s.Listed) : (s.saveContext ck reason spare).Listed := listed_ite h.setCmdErr h.startHalt

theorem State.Listed.execSaveContext {fn c} (h : s.Listed) : OutListed (Machine.execSaveContext fn c s) := h.command fun _ ht => ht.saveContext

theorem State.Listed.execHaltComplete {fn c} (h : s.Listed) : OutListed (Machine.execHaltComplete fn c s) := by
  unfold Machine.execHaltComplete
  extract_lets
  refine .next ?_
  split
  · exact h
  split
  · exact listed_ite h.haltDone h
  · exact listed_ite h.saveBegin h
  · exact listed_ite h.saveRelease h
  · exact listed_ite h h.resumeSaved
  · exact h

theorem State.Listed.saveEnd {ck} (h : s.Listed) : (s.saveEnd ck).Listed :=
  .endCommand (.setCstate (.modCtx (((h.modCtx.foldl fun _ _ ht => ht.settle).foldl fun _ _ ht => ht.endReq).foldl fun _ _ ht => ht.freeTeam).filterGrids))

theorem State.Listed.execSaveComplete {fn c} (h : s.Listed) : OutListed (Machine.execSaveComplete fn c s) := by
  unfold Machine.execSaveComplete
  extract_lets
  refine .next ?_
  split
  · exact h
  split
  · exact h
  split
  · exact listed_ite h.saveWrite h
  · exact listed_ite h.saveWrite h
  · exact listed_ite h.saveEnd h
  · exact h

/-! ### Accesses after issue (Homes) -/

theorem State.Listed.performWrite {c ck who a line op} (h : s.Listed) : (s.performWrite c ck who a line op).1.Listed := by
  unfold State.performWrite
  split
  split
  exact ((h.writeBack.of_eq ‹_›).homeArrive.of_eq ‹_›).localWrite

theorem State.Listed.performHome {c ck who a key} (h : s.Listed) : (s.performHome c ck who a key).1.Listed := by
  unfold State.performHome
  extract_lets _ _ atomic
  have hatomic : ∀ a a' a'' a''', (atomic a a' a'' a''').1.Listed := by
    intro a a' a'' a'''
    unfold atomic
    exact listed_ite_fst h h.performWrite
  split
  · exact h
  split
  · exact h.performWrite
  · exact hatomic _ _ _ _
  · exact hatomic _ _ _ _
  · exact h

theorem State.Listed.performLoad {c floor a key} (h : s.Listed) : (s.performLoad c floor a key).1.Listed := by
  unfold State.performLoad
  extract_lets
  split
  · exact h
  split
  · exact h
  split
  · exact h
  split
  · exact listed_ite_fst (listed_ite h h.writeBack) h
  split
  · exact h
  split
  · exact h
  split
  · exact (h.grant.of_eq ‹_›).fill
  · exact h.grant.of_eq ‹_›

theorem State.Listed.performHbm {c slot ck floor who a key} (h : s.Listed) : (s.performHbm c slot ck floor who a key).1.Listed := by
  unfold State.performHbm
  split
  · exact listed_ite_fst h.performHome (listed_ite_fst h h.colStore.localWrite)
  · exact h.performHome
  · exact h.performHome
  · exact h.performLoad

theorem State.Listed.performWin {c ck who a key} (h : s.Listed) : (s.performWin c ck who a key).1.Listed := by
  unfold State.performWin
  split
  · exact h.performHome
  · exact h.performHome
  · exact h.performHome
  · exact listed_ite_fst h (listed_ite_fst h h)

theorem State.Listed.performOut {ck a dev va} (h : s.Listed) : (s.performOut ck a dev va).1.Listed := by
  unfold State.performOut
  extract_lets _ _ s₁
  have hs₁ : s₁.Listed := h
  split
  · exact h
  · split <;> exact hs₁

theorem State.Listed.performMember {k tm a mem} (h : s.Listed) : (s.performMember k tm a mem).1.Listed := by
  unfold State.performMember
  split
  · split
    exact h.free.of_eq ‹_›
  · exact listed_ite_fst h (listed_ite_fst h h)

theorem State.Listed.performAt {c slot ck floor priv who a} (h : s.Listed) : (s.performAt c slot ck floor priv who a).1.Listed := by
  unfold State.performAt
  extract_lets
  split
  · split
    · exact listed_ite_fst (h.xlate.of_eq ‹_›) (h.xlate.of_eq ‹_›)
    · exact listed_ite_fst (h.xlate.of_eq ‹_›) (h.xlate.of_eq ‹_›)
    · exact h.xlate.of_eq ‹_›
  · exact (h.xlate.of_eq ‹_›).performHbm
  · exact (h.xlate.of_eq ‹_›).performWin
  · split
    · exact listed_ite_fst (h.xlate.of_eq ‹_›).performOut (h.xlate.of_eq ‹_›)
    · exact listed_ite_fst (h.xlate.of_eq ‹_›).performOut (h.xlate.of_eq ‹_›)
    · exact (h.xlate.of_eq ‹_›).performOut
  · exact (h.xlate.of_eq ‹_›).performOut

theorem State.Listed.modAccess {k id f} (h : s.Listed) : (s.modAccess k id f).Listed := h.modTeam

theorem State.Listed.accDone {k a t peer} (h : s.Listed) : (s.accDone k a t peer).Listed := h.modTeam fun _ ht => ht.accJoin

theorem State.Listed.discardEntry {c e} (h : s.Listed) : (s.discardEntry c e).Listed := h.report

theorem State.Listed.dropAccess {k id} (h : s.Listed) : (s.dropAccess k id).Listed := h.modTeam

theorem State.Listed.suspend {k tm a} (h : s.Listed) : (s.suspend k tm a).Listed := listed_ite (h.dropAccess.sideLogs.getD h.modAccess) h.modAccess

theorem State.Listed.accFault {k tm a code info va} (h : s.Listed) : (s.accFault k tm a code info va).Listed :=
  listed_ite h (listed_ite h.suspend (listed_ite (listed_ite h.report.dropAccess.discardEntry h.report.modAccess).freezeTeam.settle h.reportOnce.suspend))

theorem State.Listed.halfDone {k a p} (h : s.Listed) : (s.halfDone k a p).Listed := by
  unfold State.halfDone
  split
  · exact h.modAccess
  · exact (h.modTeam fun _ ht => ht.accJoin).modAccess
  · exact (h.modTeam fun _ ht => ht.accJoin).modAccess
  · exact (h.modTeam fun _ ht => ht.accJoin).modAccess
  · exact h

theorem State.Listed.performAccess {k tm a} (h : s.Listed) : (s.performAccess k tm a).1.Listed := by
  unfold State.performAccess
  extract_lets lower
  split
  rename_i u p e
  have hu : u.Listed := by
    split at e
    · exact h.performMember.of_eq e
    · exact h.performAt.of_eq e
  split
  · exact hu
  · exact hu.accFault
  split
  · exact hu.halfDone
  split
  · exact hu.modAccess
  · exact hu.modAccess
  · exact hu.accDone
  · exact hu.accDone
  · exact hu

theorem State.Listed.performLanes {k tm a} (h : s.Listed) : (s.performLanes k tm a).1.Listed := by
  unfold State.performLanes
  refine h.foldlFst fun p a' ht => ?_
  split
  exact ht.performAccess.of_eq ‹_›

theorem State.Listed.performOrphan {c o} (h : s.Listed) : (s.performOrphan c o).Listed := by
  unfold State.performOrphan
  extract_lets rest t0 half done hold
  have hrest : ∀ t, t.Listed → (rest t).Listed := fun _ ht => ht.modCol
  have hdone : ∀ t n peer, t.Listed → (done t n peer).Listed := by
    intro t n peer ht
    unfold done
    split
    rename_i u n e
    have hu : u.Listed := by
      split at e
      · exact ht.writeBack.of_eq e
      · cases e
        exact ht
    exact .modCol (.modGrid (listed_ite hu.modCol (hrest _ hu)))
  refine listed_ite h ?_
  split
  rename_i u p e
  have hu : u.Listed := h.performAt.of_eq e
  split
  · exact hu
  · exact hdone _ _ _ hu
  · exact hdone _ _ _ hu
  · exact hdone _ _ _ hu
  · exact hdone _ _ _ hu
  · extract_lets r w v
    have hv : v.Listed := listed_ite hu hu.reportOnce
    have hw : w.Listed := hrest _ hu.report
    refine listed_ite hu (listed_ite (listed_ite hw.discardEntry hw) ?_)
    have hhold : (hold v).Listed := hv.modCol
    split
    · exact (hrest _ hv).sideLogs.getD hhold
    · exact (hrest _ hv).sideLogs.getD hhold
    · exact hhold

theorem State.Listed.execHomeRead {col slot entry} (h : s.Listed) : OutListed (Machine.execHomeRead col slot entry s) := by
  unfold Machine.execHomeRead
  extract_lets
  refine .next ?_
  split
  · exact listed_ite (h.foldl fun _ _ ht => ht.performOrphan) h
  split
  · exact h
  split
  · exact listed_ite h h.demand.performLanes
  · exact h

theorem State.Listed.execHomeWriteApply {line} (h : s.Listed) : OutListed (Machine.execHomeWriteApply line s) := .next h.applyDue

theorem State.Listed.releaseStep {k t} (h : s.Listed) : (s.releaseStep k t).Listed := by
  unfold State.releaseStep
  split
  · exact h
  · exact listed_ite (listed_ite (h.foldl fun _ _ ht => ht.startRelease).modAccess h) (listed_ite h.modAccess h)

theorem State.Listed.holdStep {k t} (h : s.Listed) : (s.holdStep k t).Listed := by
  unfold State.holdStep
  split
  · exact h
  split
  · exact h
  · exact listed_ite (listed_ite (listed_ite h.startRelease.modThread h) (listed_ite h.modThread h)) (listed_ite h.modThread h)

theorem State.Listed.execHorizonWaitEnd {col slot thread} (h : s.Listed) : OutListed (Machine.execHorizonWaitEnd col slot thread s) :=
  .next h.releaseStep.holdStep

theorem State.Listed.grantAcquires {ck addr n} (h : s.Listed) : OptListed (s.grantAcquires ck addr n) := by
  induction n generalizing s with
  | zero =>
    unfold State.grantAcquires
    exact .some h
  | succ n ih =>
    unfold State.grantAcquires
    split
    · exact .none
    · exact ih (h.countAcquire.of_eq ‹_›).capture

theorem State.Listed.execCountedAcquireGrant {col slot thread} (h : s.Listed) : OutListed (Machine.execCountedAcquireGrant col slot thread s) := by
  unfold Machine.execCountedAcquireGrant
  extract_lets
  refine .next ?_
  split
  · exact h
  extract_lets
  split
  · exact h
  split
  · exact h
  split
  · split
    · split
      · exact (h.grantAcquires.of_eq ‹_›).modThread
      · exact h
    · exact h
  split
  · exact h
  extract_lets
  split
  · exact h
  split
  · exact h
  split
  · exact ((h.grantAcquires.of_eq ‹_›).performLanes.of_eq ‹_›).modThreads
  · exact h.performLanes

theorem State.Listed.execPeerAcknowledgement {col slot thread} (h : s.Listed) : OutListed (Machine.execPeerAcknowledgement col slot thread s) := by
  unfold Machine.execPeerAcknowledgement
  extract_lets
  refine .next ?_
  split
  · exact listed_ite (h.modThread fun _ hr => hr) (listed_ite h (h.demand.modTeam fun _ ht => ht.modThread fun _ hr => hr))
  split
  · exact h
  split
  · exact h.modGrid
  split
  · exact h.modPut
  · exact h

theorem State.Listed.deliver {k id} (h : s.Listed) : (s.deliver k id).Listed := by
  unfold State.deliver
  split
  · exact h
  split
  · exact h
  · exact listed_ite h.modAccess.accFault (h.setTeamOf ‹_› RegsRise.deliverAll)

theorem State.Listed.execPendingWriteDelivery {col slot entry} (h : s.Listed) : OutListed (Machine.execPendingWriteDelivery col slot entry s) := by
  unfold Machine.execPendingWriteDelivery
  extract_lets
  refine .next ?_
  split
  · exact h
  split
  · exact h
  · exact listed_ite h h.demand.deliver

theorem State.Listed.execColumnCacheWriteBack {col line} (h : s.Listed) : OutListed (Machine.execColumnCacheWriteBack col line s) :=
  .next (listed_ite h h.evict)

theorem State.Listed.execWriteBackBufferRelease {col line} (h : s.Listed) : OutListed (Machine.execWriteBackBufferRelease col line s) :=
  .next h.modCol

theorem State.Listed.execLeasecfgWrite {v} (h : s.Listed) : OutListed (Machine.execLeasecfgWrite v s) := .next (listed_ite h.rset h)

/-! ### Migration and the stake bus (Migrate) -/

theorem State.Listed.goFatal {code src} (h : s.Listed) : (s.goFatal code src).Listed :=
  ((listed_ite h h.rset).foldl fun _ _ ht => ht.raiseMsix).foldl fun _ _ ht => ht.report

theorem State.Listed.abandonMigration {c} (h : s.Listed) : (s.abandonMigration c).Listed := by
  unfold State.abandonMigration
  split
  · exact h
  extract_lets _ s₁
  have hs₁ : s₁.Listed := h.modCol
  split
  · exact hs₁
  split
  · exact h
  · exact (listed_ite hs₁.modTeam.dmEnd hs₁.modTeam).settle

theorem State.Listed.closeCore {c l} (h : s.Listed) : (s.closeCore c l).Listed := by
  unfold State.closeCore
  extract_lets s₁
  have hs₁ : s₁.Listed := h.modCol
  split
  · exact listed_ite hs₁.abandonMigration hs₁
  · exact hs₁

theorem State.Listed.reportWorn {kind index worn spare} (h : s.Listed) : (s.reportWorn kind index worn spare).Listed := by
  unfold State.reportWorn
  split
  · exact h.pfEvent
  split
  exact (h.free.of_eq ‹_›).pfFault

theorem State.Listed.wearSite {c l} (h : s.Listed) : (s.wearSite c l).Listed :=
  listed_ite h (listed_ite h.modCol.closeCore (.reportWorn h.modCol.closeCore))

theorem State.Listed.wearSlice {i} (h : s.Listed) : (s.wearSlice i).Listed := listed_ite h (.reportWorn h)

theorem State.Listed.wearStack {i} (h : s.Listed) : (s.wearStack i).Listed := listed_ite h (.reportWorn h)

theorem State.Listed.disableLane {c b d g} (h : s.Listed) : (s.disableLane c b d g).Listed :=
  listed_ite (listed_ite h.countError.wearSite h.countError).setLane.goFatal (listed_ite h.countError.wearSite h.countError).setLane

theorem State.Listed.remapLane {c b d g signal} (h : s.Listed) : (s.remapLane c b d g signal).Listed :=
  listed_ite h (listed_ite h.disableLane h.setLane.pfEvent)

theorem State.Listed.beginRealign {o} (h : s.Listed) : (s.beginRealign o).Listed := by
  unfold State.beginRealign
  extract_lets _ _ s₁ s₂
  have hs₁ : s₁.Listed := h.setLane
  have hs₂ : s₂.Listed := hs₁
  exact hs₂.foldl fun _ _ ht => ht.remapLane

theorem State.Listed.execRealignmentDue {col boundary direction group} (h : s.Listed) :
    OutListed (Machine.execRealignmentDue col boundary direction group s) := by
  unfold Machine.execRealignmentDue
  extract_lets u o v
  have hu : u.Listed := by
    unfold u
    split
    · exact listed_ite h.relinquish h
    · exact h
  have hv : v.Listed := hu
  exact .next (listed_ite h (listed_ite hv hv.beginRealign))

theorem State.Listed.execRealignmentStart {col boundary direction} (h : s.Listed) :
    OutListed (Machine.execRealignmentStart col boundary direction s) := by
  unfold Machine.execRealignmentStart
  refine .next ?_
  split
  · exact listed_ite h h.beginRealign
  · exact h

theorem State.Listed.execRealignmentForced {col boundary direction} (h : s.Listed) :
    OutListed (Machine.execRealignmentForced col boundary direction s) := by
  unfold Machine.execRealignmentForced
  refine .next ?_
  split
  · exact listed_ite h.beginRealign h
  · exact h

theorem State.Listed.execRealignmentEnd {col boundary direction locked} (h : s.Listed) :
    OutListed (Machine.execRealignmentEnd col boundary direction locked s) := by
  unfold Machine.execRealignmentEnd
  refine .next ?_
  split
  · exact h
  split
  · exact h
  extract_lets _ _ drop s₁
  have hdrop : ∀ t, t.Listed → (drop t).Listed := by
    intro t ht
    unfold drop
    exact ht
  have hs₁ : s₁.Listed := h.setLane
  exact listed_ite (hdrop _ h.setLane) (listed_ite (hdrop _ h.setLane).disableLane hs₁)

theorem State.Listed.execStakeParityReplay {col boundary direction group signal} (h : s.Listed) :
    OutListed (Machine.execStakeParityReplay col boundary direction group signal s) := by
  unfold Machine.execStakeParityReplay
  refine .next (listed_ite h ?_)
  extract_lets u k x failed here v w y op
  have hu : u.Listed := h.countError
  have hv : v.Listed := by
    unfold v
    split
    · exact listed_ite hu.relinquish hu
    · exact hu
  have hw : w.Listed := hv.remapLane
  refine listed_ite hu (listed_ite hu.setLane (listed_ite hw ?_))
  exact hw.frame rfl rfl

theorem State.Listed.execBackgroundTestStart {col boundary direction group} (h : s.Listed) :
    OutListed (Machine.execBackgroundTestStart col boundary direction group s) :=
  .next (listed_ite h h)

theorem State.Listed.execBackgroundTestRelinquish (h : s.Listed) : OutListed (Machine.execBackgroundTestRelinquish s) := by
  unfold Machine.execBackgroundTestRelinquish
  refine .next ?_
  split
  · exact h
  · exact h.relinquish

theorem State.Listed.execBackgroundTestComplete {openBond} (h : s.Listed) : OutListed (Machine.execBackgroundTestComplete openBond s) := by
  unfold Machine.execBackgroundTestComplete
  refine .next ?_
  split
  · exact h
  split
  · exact h
  extract_lets s₁
  have hs₁ : s₁.Listed := h
  split
  · split
    exact (hs₁.free.of_eq ‹_›).setLane
  · exact hs₁.setLane

theorem State.Listed.govErr (h : s.Listed) : s.govErr.Listed := h

theorem State.Listed.startMigration {k dst directed} (h : s.Listed) : (s.startMigration k dst directed).Listed := h.modCol.modTeam

theorem State.Listed.activities {l} (h : s.Listed) : (s.activities l).1.Listed := by
  induction l generalizing s with
  | nil =>
    unfold State.activities
    exact h
  | cons a l ih =>
    unfold State.activities
    split
    split
    exact (ih (h.free.of_eq ‹_›)).of_eq ‹_›

theorem State.Listed.mostActive {ts} (h : s.Listed) : (s.mostActive ts).1.Listed := by
  unfold State.mostActive
  split
  exact h.activities.of_eq ‹_›

theorem State.Listed.evacuate {c l} (h : s.Listed) : (s.evacuate c l).Listed := by
  unfold State.evacuate
  split
  · exact h.mostActive.of_eq ‹_›
  split
  · exact h.mostActive.of_eq ‹_›
  split
  · exact (h.mostActive.of_eq ‹_›).startMigration
  · exact (h.mostActive.of_eq ‹_›).modTeam

theorem State.Listed.dmTrigger {c} (h : s.Listed) : (s.dmTrigger c).Listed := by
  unfold State.dmTrigger
  extract_lets
  split
  · exact h.dmEnd
  · exact listed_ite h.dmEnd (listed_ite h.dmEnd (listed_ite h.dmEnd h.startMigration))

theorem State.Listed.coolLayers {c l} (h : s.Listed) : (s.coolLayers c l).Listed := by
  induction l generalizing s with
  | nil =>
    unfold State.coolLayers
    exact h
  | cons a l ih =>
    unfold State.coolLayers
    split
    · exact ih (h.mostActive.of_eq ‹_›)
    split
    · exact (h.mostActive.of_eq ‹_›).startMigration
    · exact ih (h.mostActive.of_eq ‹_›)

theorem State.Listed.setTmax (h : s.Listed) : s.setTmax.Listed := h

theorem State.Listed.execGovernorEvaluation {col} (h : s.Listed) : OutListed (Machine.execGovernorEvaluation col s) := by
  unfold Machine.execGovernorEvaluation
  refine .next (listed_ite h ?_)
  split
  extract_lets s₁ s₂
  have hs₁ : s₁.Listed := (h.free.of_eq ‹_›).rset.modCol.setTmax
  have hs₂ : s₂.Listed := listed_ite hs₁.dmTrigger hs₁
  split
  · exact hs₂
  split
  · exact hs₂.evacuate
  · exact hs₂.coolLayers

theorem State.Listed.execDirectedMoveArm {col w2} (h : s.Listed) : OutListed (Machine.execDirectedMoveArm col w2 s) :=
  .next (listed_ite h (listed_ite h.govErr (listed_ite h.rwrite.rsetBits h.rwrite)))

theorem State.Listed.execDirectedMoveTrigger {col} (h : s.Listed) : OutListed (Machine.execDirectedMoveTrigger col s) :=
  .next (listed_ite h (listed_ite h.dmTrigger h))

theorem State.Listed.execMigrationAbandon {col} (h : s.Listed) : OutListed (Machine.execMigrationAbandon col s) := by
  unfold Machine.execMigrationAbandon
  refine .next ?_
  split
  · split
    · exact listed_ite h.abandonMigration h
    · exact h.modCol
  · exact h

theorem State.Listed.execMigrationTransfer {col} (h : s.Listed) : OutListed (Machine.execMigrationTransfer col s) := by
  unfold Machine.execMigrationTransfer
  refine .next ?_
  split
  · exact h
  extract_lets
  split
  · exact h.modCol
  have htm := h.team ‹_›
  split
  · refine listed_ite h (listed_ite h.modCol.holdTransfer ?_)
    exact .modCol (h.startTransfer.setTeam (.map htm fun _ hr => hr))
  · exact h

theorem State.Listed.execReturnForward {col slot entry} (h : s.Listed) : OutListed (Machine.execReturnForward col slot entry s) := by
  unfold Machine.execReturnForward
  extract_lets
  refine .next ?_
  split
  · exact h
  · exact listed_ite h.demand.modTeam h

theorem State.Listed.applyForwarded {k} (h : s.Listed) : (s.applyForwarded k).Listed := by
  unfold State.applyForwarded
  split
  · exact h
  · exact h.foldl fun _ _ ht => ht.deliver

theorem State.Listed.execMigrationResume {col} (h : s.Listed) : OutListed (Machine.execMigrationResume col s) := by
  unfold Machine.execMigrationResume
  refine .next ?_
  split
  · exact h
  extract_lets
  split
  · exact h.modCol
  rename_i tm htm
  have htm : RegsRise tm.threads := h.team htm
  split
  · extract_lets u c held um v w
    have hum : RegsRise um.threads := htm
    have hv : v.Listed := (h.markPath.setTeam hum).modCol.applyForwarded
    have hw : w.Listed := hv.modTeam fun _ ht => ht.denyLong
    exact listed_ite h (listed_ite hw.dmEnd hw).settle
  · exact h

/-! ### Translation control, page moves and windows (Xlate) -/

theorem State.Listed.replaySide {ck lo size c} (h : s.Listed) : (s.replaySide ck lo size c).Listed := by
  unfold State.replaySide
  extract_lets _ _ s₁
  have hs₁ : s₁.Listed := h.modCol
  refine hs₁.foldl fun t a ht => ?_
  split
  · exact ht.modTeam
  · exact ht.modCol

theorem State.Listed.retryTeam {k lo size} (h : s.Listed) : (s.retryTeam k lo size).Listed := by
  unfold State.retryTeam
  split
  · exact h
  · have htm := h.team ‹_›
    extract_lets free wake stream u
    have hu : u.Listed := h.setTeam (.map htm fun _ hr => by rwa [Thread.ite_regs, ite_self])
    exact listed_ite hu.handoverRead hu

theorem State.Listed.forgetAts {ck lo size} (h : s.Listed) : (s.forgetAts ck lo size).Listed := h

theorem State.Listed.retry {ck lo size} (h : s.Listed) : (s.retry ck lo size).Listed := by
  unfold State.retry
  extract_lets s₁ s₂ s₃ go s₄ card rec_ s₅
  have hs₃ : s₃.Listed := (h.forgetAts.foldl fun _ _ ht => ht.replaySide).foldl fun _ _ ht => ht.retryTeam
  have hs₄ : s₄.Listed := hs₃.mapGrids fun _ => ite_keyed
  exact .enterRecords hs₄.modCtx

theorem State.Listed.notice {ck va lo size isz} (h : s.Listed) : (s.notice ck va lo size isz).Listed := h.retry.hwEvent

theorem State.Listed.discardSide {ck} (h : s.Listed) : (s.discardSide ck).Listed := by
  unfold State.discardSide
  extract_lets es mine s₁
  have hs₁ : s₁.Listed := h.mapTeams (fun _ => ite_keyed) fun p hp => by
    dsimp only
    split <;> exact hp
  exact hs₁.foldl fun _ _ ht => ht.discardEntry

theorem State.Listed.dropXlats {drop} (h : s.Listed) : (s.dropXlats drop).Listed := h

theorem State.Listed.dropXlat {ck lo size} (h : s.Listed) : (s.dropXlat ck lo size).Listed := h

theorem State.Listed.dropCached {cache ck lo size} (h : s.Listed) : (s.dropCached cache ck lo size).Listed := listed_ite h.modCol h

theorem State.Listed.disown {line} (h : s.Listed) : (s.disown line).Listed := h

theorem State.Listed.giveUp {p} (h : s.Listed) : (s.giveUp p).Listed := .foldl h fun _ _ ht => ht.disown

theorem State.Listed.shootDown {ck lo size} (h : s.Listed) : (s.shootDown ck lo size).Listed :=
  h.dropXlat.giveUp.foldl fun _ _ ht => ht.writeBackAll

theorem State.Listed.execPageTableWalk {col fn c va} (h : s.Listed) : OutListed (Machine.execPageTableWalk col fn c va s) := by
  unfold Machine.execPageTableWalk
  extract_lets
  refine .next (listed_ite h ?_)
  split
  · exact listed_ite h.askAts h.modCol
  · exact h

theorem State.Listed.execTranslationControlWrite {fn c off v} (h : s.Listed) : OutListed (Machine.execTranslationControlWrite fn c off v s) :=
  .next (listed_ite h.modCtx (listed_ite h (listed_ite h.rwrite.discardSide h.rwrite)))

theorem State.Listed.execInvalidation {fn c v} (h : s.Listed) : OutListed (Machine.execInvalidation fn c v s) := .next (listed_ite h h.rset.modCtx)

theorem State.Listed.execInvalidationComplete {fn c} (h : s.Listed) : OutListed (Machine.execInvalidationComplete fn c s) := by
  unfold Machine.execInvalidationComplete
  extract_lets
  refine .next ?_
  split
  · exact h
  split
  extract_lets s₁ s₂
  have hs₁ : s₁.Listed := h.shootDown.modCtx
  have hs₂ : s₂.Listed := hs₁
  exact hs₂.rset.notice

theorem State.Listed.keepAts {cache ck va log2size g} (h : s.Listed) : (s.keepAts cache ck va log2size g).Listed := by
  unfold State.keepAts
  split
  · exact h
  · exact listed_ite h h.dropCached.xlatKeep

theorem State.Listed.execAtsTranslationCompletion {fn c va result rd wr} (h : s.Listed) :
    OutListed (Machine.execAtsTranslationCompletion fn c va result rd wr s) :=
  .next (listed_ite h (listed_ite (.keepAts h) (.keepAts h)))

theorem State.Listed.pageFailed {ck va response} (h : s.Listed) : (s.pageFailed ck va response).Listed := by
  unfold State.pageFailed
  extract_lets s₁ s₂
  have hs₁ : s₁.Listed := by
    unfold s₁
    refine h.foldl fun t a ht => ?_
    split
    · exact listed_ite ht ht.keepAts
    · exact ht
  have hs₂ : s₂.Listed := hs₁.foldl fun _ _ ht => ht.foldl fun _ _ ht' => ht'.reportOnce
  exact hs₂.foldl fun _ _ ht => ht.foldl fun _ _ ht' => ht'.reportOnce

theorem State.Listed.execPageRequestGroupResponse {fn c va response} (h : s.Listed) :
    OutListed (Machine.execPageRequestGroupResponse fn c va response s) := by
  unfold Machine.execPageRequestGroupResponse
  extract_lets
  refine .next ?_
  split
  · exact h
  · exact .foldl (.sendPage h) fun _ _ ht => listed_ite ht.notice ht.pageFailed

theorem State.Listed.execAtsInvalidateRequest {fn c va log2size} (h : s.Listed) :
    OutListed (Machine.execAtsInvalidateRequest fn c va log2size s) := by
  unfold Machine.execAtsInvalidateRequest
  extract_lets _ _ _ s₁
  have hs₁ : s₁.Listed := h.dropXlats
  exact .next hs₁

theorem State.Listed.putWords {key ws} (h : s.Listed) : (s.putWords key ws).Listed := h.setHome.putLine

theorem State.Listed.agentPut {id key ws} (h : s.Listed) : (s.agentPut id key ws).Listed := h.recallDirty.homeArrive

theorem State.Listed.markLeaf {pte id ws} (h : s.Listed) : (s.markLeaf pte id ws).Listed := h.putWords.setHome

theorem State.Listed.plmvTranslate {r} (h : s.Listed) : (s.plmvTranslate r).Listed := by
  unfold State.plmvTranslate
  extract_lets done
  have hdone : ∀ t, t.Listed → (done t).Listed := by
    intro t ht
    unfold done
    exact ht.modReq
  split
  · exact h.reqFault
  split
  · exact h
  split
  · exact listed_ite (hdone _ h) h.reqFault
  split
  · exact hdone _ h
  split
  · exact h.reqFault
  · exact hdone _ (listed_ite h h.xlatKeep)

theorem State.Listed.plmvStart {r} (h : s.Listed) : (s.plmvStart r).Listed := by
  unfold State.plmvStart
  extract_lets refuse
  have hrefuse : ∀ a, (refuse a).Listed := by
    intro a
    unfold refuse
    exact h.reqFreeze
  split
  · exact hrefuse _
  split
  · exact listed_ite (hrefuse _) h.reqFault
  split
  · exact h.reqFault
  split
  · exact hrefuse _
  · exact listed_ite h.recallDirty h.recallDirty.markLeaf.modReq

theorem State.Listed.moveLine {old new} (h : s.Listed) : (s.moveLine old new).Listed := by
  unfold State.moveLine
  extract_lets bs p u v w
  have hu : u.Listed := h
  exact hu.setHome.setHome.setPoison

theorem State.Listed.plmvLine {r i} (h : s.Listed) : (s.plmvLine r i).Listed := by
  unfold State.plmvLine
  extract_lets _ _ done s₁
  have hdone : ∀ t, t.Listed → (done t).Listed := by
    intro t ht
    unfold done
    exact ht.modReq
  have hs₁ : s₁.Listed := h.recallDirty.recallDirty
  split
  · exact h
  split
  · exact hdone _ h
  split
  · exact h
  · exact h
  · exact listed_ite h (listed_ite hs₁.setHome hs₁)
  · exact listed_ite (hdone _ h.moveLine) h

theorem State.Listed.execPlmvLineMove {req line} (h : s.Listed) : OutListed (Machine.execPlmvLineMove req line s) :=
  .next (h.onReq fun _ => listed_ite h.plmvLine (listed_ite h (listed_ite h.plmvTranslate h.plmvStart)))

theorem State.Listed.execPlmvSwap {req} (h : s.Listed) : OutListed (Machine.execPlmvSwap req s) :=
  .next (h.onReq fun _ => listed_ite h.agentPut.modReq h)

theorem State.Listed.execPlmvRetire {req} (h : s.Listed) : OutListed (Machine.execPlmvRetire req s) := by
  unfold Machine.execPlmvRetire
  refine .next (h.onReq fun r => listed_ite (.endReq ?_) h)
  have hs : (s.shootDown r.ctx r.pageBase r.pageSize).Listed := h.shootDown
  refine hs.foldl fun _ _ ht => ?_
  split
  · exact ht
  · exact ht.setHome

theorem State.Listed.setMoves {n l} (h : s.Listed) : ({ s with idNext := n, peerMoves := l } : State).Listed := h

theorem State.Listed.execPeerMoveAttempt {fn c va peer} (h : s.Listed) : OutListed (Machine.execPeerMoveAttempt fn c va peer s) := by
  unfold Machine.execPeerMoveAttempt
  refine .next (listed_ite h ?_)
  split
  · exact h
  refine listed_ite h (listed_ite ?_ (listed_ite ?_ h))
  · extract_lets full u
    have hu : u.Listed := h.recallDirty
    refine listed_ite h (listed_ite hu ?_)
    split
    extract_lets v
    have hv : v.Listed := listed_ite hu.rset hu
    exact listed_ite hv.markLeaf.setMoves hv.putWords
  · exact listed_ite h h.rset.setMoves

theorem State.Listed.modMove {m f} (h : s.Listed) : (s.modMove m f).Listed := h

theorem State.Listed.pmLeaveLine {m w0 w3 i} (h : s.Listed) : (s.pmLeaveLine m w0 w3 i).Listed := by
  unfold State.pmLeaveLine
  extract_lets _ s₁
  have hs₁ : s₁.Listed := h.recallDirty
  split
  · exact listed_ite h (listed_ite hs₁.setHome hs₁)
  · exact listed_ite (.modMove (.setHome h)) h
  · exact h

/-- The lines of a page that has left are no longer forwarded. -/
theorem State.Listed.dropLines {m : PeerMove} {l : List Nat} (h : s.Listed) :
    (l.foldl (fun s i => (s.setHome (m.line i) {}).setPoison (m.line i) false) s).Listed :=
  h.foldl fun _ _ ht => ht.setHome.setPoison

theorem State.Listed.setCandidates {l} (h : s.Listed) : ({ s with candidates := l } : State).Listed := h

theorem State.Listed.pmLeave {m w0} (h : s.Listed) : (s.pmLeave m w0).Listed := by
  unfold State.pmLeave
  extract_lets tail key u v w
  have hu : u.Listed := h.shootDown
  have hv : v.Listed := hu.dropLines
  have hw : w.Listed := hv.setCandidates
  refine listed_ite h ?_
  split
  · exact h.agentPut.modMove
  · exact listed_ite h hw.agentPut.modMove
  · exact h.frame rfl rfl

theorem State.Listed.pmArriveLine {m i poison} (h : s.Listed) : (s.pmArriveLine m i poison).Listed := by
  unfold State.pmArriveLine
  extract_lets l u
  have hu : u.Listed := h
  exact listed_ite hu.setHome.setPoison.modMove h.recallDirty

theorem State.Listed.pmArrive {m w0 w3} (h : s.Listed) : (s.pmArrive m w0 w3).Listed := by
  unfold State.pmArrive
  split
  · exact h
  split
  · exact listed_ite h h.agentPut.modMove
  · exact h.shootDown

theorem State.Listed.execPeerMoveComplete {fn c va leaf} (h : s.Listed) : OutListed (Machine.execPeerMoveComplete fn c va leaf s) := by
  unfold Machine.execPeerMoveComplete
  extract_lets
  refine .next ?_
  split
  · exact h
  · exact listed_ite (listed_ite h (listed_ite h.pmArriveLine h.pmLeaveLine)) (listed_ite h (listed_ite h.pmArrive h.pmLeave))

theorem State.Listed.execPeerMoveControlWrite {fn c v} (h : s.Listed) : OutListed (Machine.execPeerMoveControlWrite fn c v s) := .next h.rwrite

theorem State.Listed.execCsplanWrite {part v} (h : s.Listed) : OutListed (Machine.execCsplanWrite part v s) := .next (listed_ite h h.rwrite)

theorem State.Listed.l2Change {ck fromPf v} (h : s.Listed) : (s.l2Change ck fromPf v).Listed :=
  listed_ite h.rsetBits (listed_ite h.rsetBits (listed_ite h.rset h.rset.modCtx))

theorem State.Listed.execL2partChange {fn c fromPf v} (h : s.Listed) : OutListed (Machine.execL2partChange fn c fromPf v s) := .next h.l2Change

theorem State.Listed.execL2partWinHiStage {fn c v} (h : s.Listed) : OutListed (Machine.execL2partWinHiStage fn c v s) := .next h.rset

theorem State.Listed.recallGroup {grp} (h : s.Listed) : (s.recallGroup grp).Listed := h.giveUp

theorem State.Listed.execL2partChangeComplete {fn c} (h : s.Listed) : OutListed (Machine.execL2partChangeComplete fn c s) := by
  unfold Machine.execL2partChangeComplete
  extract_lets ck mineLine u old rest mine v
  have hu : u.Listed := listed_ite h.recallGroup h
  have hv : v.Listed := hu
  refine .next (listed_ite h ?_)
  split
  extract_lets rest' gone
  exact .retry (.rsetBits hv)

theorem State.Listed.bankCorrected {b} (h : s.Listed) : (s.bankCorrected b).Listed := .countError h

theorem State.Listed.execHbmScrub {stack chan bank corrected} (h : s.Listed) : OutListed (Machine.execHbmScrub stack chan bank corrected s) :=
  .next (listed_ite h.bankCorrected h)

theorem State.Listed.execHbmRowSwap {stack chan bank row} (h : s.Listed) : OutListed (Machine.execHbmRowSwap stack chan bank row s) :=
  .next (listed_ite h (listed_ite h (listed_ite (.pfEvent h) (listed_ite h (.pfFault h)))))

theorem State.Listed.execHbmRefreshWindow {stack} (h : s.Listed) : OutListed (Machine.execHbmRefreshWindow stack s) := .next (listed_ite h h)

theorem State.Listed.mraStart {stack op v} (h : s.Listed) : (s.mraStart stack op v).Listed := by
  unfold State.mraStart
  split
  · exact h.rsetBits
  extract_lets s₁
  have hs₁ : s₁.Listed := h.rsetBits
  exact hs₁

theorem State.Listed.execMraReadBankCounts {stack v} (h : s.Listed) : OutListed (Machine.execMraReadBankCounts stack v s) := .next h.mraStart

theorem State.Listed.execMraReadModeRegister {stack v} (h : s.Listed) : OutListed (Machine.execMraReadModeRegister stack v s) := .next h.mraStart

theorem State.Listed.execMraClearBankCounts {stack v} (h : s.Listed) : OutListed (Machine.execMraClearBankCounts stack v s) := .next h.mraStart

theorem State.Listed.execMraOperationComplete {stack} (h : s.Listed) : OutListed (Machine.execMraOperationComplete stack s) := by
  unfold Machine.execMraOperationComplete
  refine .next ?_
  split
  · exact h
  extract_lets _ s₁
  have hs₁ : s₁.Listed := .rsetBits h
  split
  · exact hs₁.rset
  · split
    exact (hs₁.free.of_eq ‹_›).rset
  · exact hs₁

/-! ### Power (Power) -/

theorem State.Listed.showColumn {c} (h : s.Listed) : (s.showColumn c).Listed := h

theorem State.Listed.execEstimatorPeriod {col counts temps} (h : s.Listed) : OutListed (Machine.execEstimatorPeriod col counts temps s) :=
  .next (listed_ite h h.modCol.showColumn)

theorem State.Listed.hoopOn (h : s.Listed) : s.hoopOn.Listed := h

theorem State.Listed.execHoopBaseStop (h : s.Listed) : OutListed (Machine.execHoopBaseStop s) := .next (listed_ite h (.rset (.hoopOn h)))

theorem State.Listed.execHoopLayerStop {layer} (h : s.Listed) : OutListed (Machine.execHoopLayerStop layer s) := by
  unfold Machine.execHoopLayerStop
  extract_lets
  refine .next (listed_ite h (h.foldl fun t a ht => ?_).hoopOn)
  extract_lets
  split
  exact .showColumn (.setCol ht)

theorem State.Listed.execHoopcfgWrite {v} (h : s.Listed) : OutListed (Machine.execHoopcfgWrite v s) := .next h.rset

theorem State.Listed.execFrequencyChange {k v} (h : s.Listed) : OutListed (Machine.execFrequencyChange k v s) :=
  .next (listed_ite h h.noteClocks.rsetBits.rsetBits)

theorem State.Listed.execFrequencyChangeComplete {k} (h : s.Listed) : OutListed (Machine.execFrequencyChangeComplete k s) := .next h.rsetBits

theorem State.Listed.execRegulatorSelectWrite {j v} (h : s.Listed) : OutListed (Machine.execRegulatorSelectWrite j v s) :=
  .next (h.noteClocks.foldl fun _ _ ht => listed_ite ht ht.rsetBits)

theorem State.Listed.setLgate {l v} (h : s.Listed) : (s.setLgate l v).Listed := h

theorem State.Listed.setEvac {l on} (h : s.Listed) : (s.setEvac l on).Listed := h.foldl fun _ _ ht => ht.modCol

theorem State.Listed.gateLayer {l} (h : s.Listed) : (s.gateLayer l).Listed :=
  listed_ite h (listed_ite h.rsetBits (listed_ite h.rsetBits.setLgate.setEvac h))

theorem State.Listed.execLayerGateRequest {layer} (h : s.Listed) : OutListed (Machine.execLayerGateRequest layer s) := .next h.gateLayer

theorem State.Listed.execLayerEvacuationComplete {layer} (h : s.Listed) : OutListed (Machine.execLayerEvacuationComplete layer s) :=
  .next (listed_ite h.setLgate.setEvac.pfEvent h)

theorem State.Listed.execLayerGateRelease {layer} (h : s.Listed) : OutListed (Machine.execLayerGateRelease layer s) := by
  unfold Machine.execLayerGateRelease
  refine .next (listed_ite h ?_)
  extract_lets s₁
  have hs₁ : s₁.Listed := h.rsetBits
  split
  · exact hs₁.setLgate.setEvac
  · exact hs₁.setLgate
  · exact hs₁

theorem State.Listed.execLayerWakeComplete {layer} (h : s.Listed) : OutListed (Machine.execLayerWakeComplete layer s) :=
  .next (listed_ite (listed_ite h.setLgate.gateLayer h.setLgate) h)

theorem State.Listed.execGovernorPolicyWrite {off v} (h : s.Listed) : OutListed (Machine.execGovernorPolicyWrite off v s) :=
  .next (listed_ite (listed_ite h.govErr h.rset) (listed_ite (listed_ite h.govErr h.rwrite) h))

/-! ### Links, checkpoint and device reset (Links) -/

theorem State.Listed.execPeerLinkControlWrite {off v} (h : s.Listed) : OutListed (Machine.execPeerLinkControlWrite off v s) :=
  .next (listed_ite (listed_ite h.rsetBits h.rwrite) (listed_ite h.rwrite (listed_ite (listed_ite h h.rwrite) h)))

theorem State.Listed.execLinkFlitReplay {peer link} (h : s.Listed) : OutListed (Machine.execLinkFlitReplay peer link s) :=
  .next (listed_ite h h.countError)

theorem State.Listed.markLost {n} (h : s.Listed) : (s.markLost n).Listed := h

theorem State.Listed.execLinkLoss {peer link} (h : s.Listed) : OutListed (Machine.execLinkLoss peer link s) := by
  unfold Machine.execLinkLoss
  extract_lets u
  have hu : u.Listed := h.rsetBits.markLost
  refine .next (listed_ite (listed_ite h hu) (.markLost ?_))
  exact h

theorem State.Listed.execHostLinkDown (h : s.Listed) : OutListed (Machine.execHostLinkDown s) := .next (.markLost h)

theorem State.Listed.execLinkRetrained {peer link} (h : s.Listed) : OutListed (Machine.execLinkRetrained peer link s) := by
  unfold Machine.execLinkRetrained
  extract_lets _ post s₁
  have hpost : ∀ t, t.Listed → (post t).Listed := by
    intro t ht
    unfold post
    exact listed_ite (.pfEvent ht) ht
  have hs₁ : s₁.Listed := h.rsetBits
  exact .next (listed_ite (listed_ite h (hpost _ hs₁)) (hpost _ h))

theorem State.Listed.holdPeer {dev ck} (h : s.Listed) : (s.holdPeer dev ck).Listed := by
  unfold State.holdPeer
  extract_lets hold stop
  have hhold : ∀ t a, t.Listed → (hold t a).Listed := by
    intro t a ht
    unfold hold
    exact ht.foldl fun _ _ ht' => ht'.suspend
  have hstop : ∀ t a, t.Listed → (stop t a).Listed := by
    intro t a ht
    unfold stop
    exact ht.foldl fun _ _ ht' => ht'.modReq
  split
  · exact hstop _ _ (hhold _ _ h.report)
  · exact hstop _ _ h.report
  · exact h

theorem State.Listed.abandonMove {m} (h : s.Listed) : (s.abandonMove m).Listed :=
  listed_ite h (listed_ite h (.report (.agentPut (.foldl (.foldl h fun _ _ ht => ht.setHome) fun _ _ ht => ht.setPoison))))

theorem State.Listed.ckptFail (h : s.Listed) : s.ckptFail.Listed := h

theorem State.Listed.execPeerRouteLost {dev} (h : s.Listed) : OutListed (Machine.execPeerRouteLost dev s) :=
  .next (listed_ite h ((listed_ite (h.foldl fun _ _ ht => ht.holdPeer).ckptFail (h.foldl fun _ _ ht => ht.holdPeer)).foldl fun _ _ ht => ht.abandonMove))

theorem State.Listed.memberWrite {ck v} (h : s.Listed) : (s.memberWrite ck v).Listed := by
  unfold State.memberWrite
  extract_lets _ s₁
  have hs₁ : s₁.Listed := h.rwrite
  exact listed_ite hs₁ hs₁

theorem State.Listed.remoteWrite {ck dctx va dev} (h : s.Listed) : (s.remoteWrite ck dctx va dev).Listed := by
  unfold State.remoteWrite
  split
  · exact h
  · exact listed_ite h h

theorem State.Listed.send {m} (h : s.Listed) : (s.send m).Listed := h

theorem State.Listed.peerError {dev va code} (h : s.Listed) : (s.peerError dev va code).Listed := h

theorem State.Listed.peerFault {ck dev dctx va code info} (h : s.Listed) : (s.peerFault ck dev dctx va code info).Listed :=
  (listed_ite h.report.freezeOther h.reportOnce).peerError

theorem State.Listed.peerHome {ck dev dctx va key kind data} (h : s.Listed) : (s.peerHome ck dev dctx va key kind data).Listed := by
  unfold State.peerHome
  extract_lets _ _ _ reply arrive _ s₁
  have hreply : ∀ t a, t.Listed → (reply t a).Listed := by
    intro t a ht
    unfold reply
    exact ht.send
  have harrive : ∀ a, (arrive a).Listed := by
    intro a
    unfold arrive
    exact h.homeArrive
  have hs₁ : s₁.Listed := harrive _
  split
  · exact h
  split
  · exact listed_ite h.peerFault (hreply _ _ h)
  · exact hs₁.capture.remoteWrite
  · exact listed_ite h.peerFault (harrive _).capture.remoteWrite
  split
  exact listed_ite (hreply _ _ (h.promote.of_eq ‹_›)) (h.promote.of_eq ‹_›)

theorem State.Listed.peerServe {ck dev dctx va req data} (h : s.Listed) : (s.peerServe ck dev dctx va req data).Listed := by
  unfold State.peerServe
  split
  · exact listed_ite h h.peerFault
  · exact h.peerHome
  · split
    · exact h.peerHome
    · exact listed_ite h.reportOnce.peerError (listed_ite h.send h)
  · exact h.peerFault
  · exact h.peerFault

theorem State.Listed.execPeerInboundRequest {dev dctx va req data} (h : s.Listed) :
    OutListed (Machine.execPeerInboundRequest dev dctx va req data s) := by
  unfold Machine.execPeerInboundRequest
  refine .next (listed_ite h ?_)
  split
  · exact listed_ite h.send h
  split
  · exact h
  split
  · exact h.peerError
  · exact listed_ite h.peerError h.peerServe

theorem State.Listed.execPeerUnfreeze {hi v} (h : s.Listed) : OutListed (Machine.execPeerUnfreeze hi v s) := by
  unfold Machine.execPeerUnfreeze
  extract_lets _ s₁
  have hs₁ : s₁.Listed := h.rwrite
  exact .next hs₁

theorem State.Listed.hostRefuse {ck e} (h : s.Listed) : (s.hostRefuse ck e).Listed := h.report

theorem State.Listed.hostWrite {w} (h : s.Listed) : OptListed (s.hostWrite w) := by
  unfold State.hostWrite
  split
  · exact .none
  split
  · exact .none
  · exact .some h.hostRefuse
  extract_lets _ s₁
  have hs₁ : s₁.Listed := h.foldl fun _ _ ht => ht.homeArrive
  split
  · exact .none
  · exact .some hs₁.capture

theorem State.Listed.hostServe {blocked l} (h : s.Listed) : (s.hostServe blocked l).1.Listed := by
  induction l generalizing s blocked with
  | nil => exact h
  | cons w l ih =>
    unfold State.hostServe
    split
    · rename_i u e
      have hu : u.Listed := by
        split at e
        · cases e
        · exact h.hostWrite.of_eq e
      exact ih hu
    · split
      exact (ih h).of_eq ‹_›

theorem State.Listed.serveHost (h : s.Listed) : s.serveHost.Listed := by
  unfold State.serveHost
  refine listed_ite h ?_
  split
  rename_i u l e
  have hu : u.Listed := by
    refine .of_eq ?_ e
    exact .hostServe h
  exact hu

theorem State.Listed.execHostInboundAccess {fn c off access data} (h : s.Listed) :
    OutListed (Machine.execHostInboundAccess fn c off access data s) := by
  unfold Machine.execHostInboundAccess
  extract_lets
  refine .next (listed_ite h (listed_ite h.send (listed_ite (.serveHost h) (listed_ite h ?_))))
  split
  · exact h
  · exact h.hostRefuse.send
  · exact listed_ite h h.send

theorem State.Listed.execCheckpointStart {v} (h : s.Listed) : OutListed (Machine.execCheckpointStart v s) := by
  unfold Machine.execCheckpointStart
  extract_lets _ s₁
  have hs₁ : s₁.Listed := h.rwrite
  exact .next (listed_ite hs₁ (listed_ite hs₁.rsetBits (.rset (.rsetBits hs₁))))

theorem State.Listed.sendImage {cells lo hi l n} (h : s.Listed) : (s.sendImage cells lo hi l n).Listed := by
  induction l generalizing s cells lo hi n with
  | nil =>
    unfold State.sendImage
    exact h
  | cons a l ih =>
    unfold State.sendImage
    exact ih (listed_ite h.send h)

theorem State.Listed.carry {mib} (h : s.Listed) : (s.carry mib).Listed := listed_ite h (h.sendImage.foldl fun _ _ ht => ht.pfFault).rset

theorem State.Listed.execCheckpointComplete (h : s.Listed) : OutListed (Machine.execCheckpointComplete s) :=
  .next (listed_ite h (.raiseMsix (.rset (.rset (.rsetBits h.carry)))))

theorem State.Listed.execAttestationReport {v} (h : s.Listed) : OutListed (Machine.execAttestationReport v s) :=
  .next (listed_ite h.rwrite (listed_ite h.rwrite.rsetBits h.rwrite.rsetBits))

theorem State.Listed.execAttestationReportComplete (h : s.Listed) : OutListed (Machine.execAttestationReportComplete s) :=
  .next (listed_ite h h.send.rsetBits.raiseMsix)

theorem State.Listed.resetDevice {cause} : (s.resetDevice cause).Listed := by
  unfold State.resetDevice
  extract_lets cause _ u
  have hu : u.Listed := ⟨.nil, .nil, fun _ hp => absurd hp List.not_mem_nil⟩
  exact hu.rset

theorem State.Listed.boot (h : s.Listed) : s.boot.Listed := by
  unfold State.boot
  split
  · exact h
  extract_lets s₁
  have hs₁ : s₁.Listed := h
  split
  · split
    exact (hs₁.free.of_eq ‹_›).goFatal
  split
  · split
    exact (hs₁.free.of_eq ‹_›).goFatal
  · exact hs₁.rsetBits

theorem State.Listed.execDeviceReset {cause} (h : s.Listed) : OutListed (Machine.execDeviceReset cause s) := .next (listed_ite h .resetDevice)

/-! ### Faults and errors (Faults) -/

theorem State.Listed.fbErr {ck} (h : s.Listed) : (s.fbErr ck).Listed := h

theorem State.Listed.execFaultBlockConfigWrite {fn c off v} (h : s.Listed) : OutListed (Machine.execFaultBlockConfigWrite fn c off v s) := by
  unfold Machine.execFaultBlockConfigWrite
  extract_lets
  refine .next ?_
  split
  · exact listed_ite h.fbErr h.rwrite.enterRecords
  · exact h.rwrite
  · exact listed_ite h.fbErr h.rwrite
  · exact h.rwrite
  · exact h

theorem State.Listed.execFaultBufferConsume {fn c v} (h : s.Listed) : OutListed (Machine.execFaultBufferConsume fn c v s) :=
  .next (listed_ite h.fbErr h.rset.enterRecords)

theorem State.Listed.newGen {ck} (h : s.Listed) : (s.newGen ck).Listed := by
  unfold State.newGen
  extract_lets _ _ _ _ u v w x
  have hw : w.Listed := h.modCtx.rsetBits.rsetBits
  have hx : x.Listed := hw.mapGrids fun _ => ite_keyed
  exact hx.retry

theorem State.Listed.execFaultFlush {fn c v} (h : s.Listed) : OutListed (Machine.execFaultFlush fn c v s) := .next (listed_ite h.newGen h.fbErr)

theorem State.Listed.retakeHandlers {fn} (h : s.Listed) : (s.retakeHandlers fn).Listed := h

theorem State.Listed.execEventQueueControlWrite {fn off v} (h : s.Listed) : OutListed (Machine.execEventQueueControlWrite fn off v s) := by
  unfold Machine.execEventQueueControlWrite
  refine .next ?_
  split
  · exact listed_ite h.rwrite.retakeHandlers.releaseHeld h.rwrite
  · exact h.rwrite
  · exact h.rwrite

theorem State.Listed.execCorrectedError {k} (h : s.Listed) : OutListed (Machine.execCorrectedError k s) := by
  unfold Machine.execCorrectedError
  refine .next (listed_ite ?_ (listed_ite h.countError h))
  split
  exact (h.free.of_eq ‹_›).bankCorrected

theorem State.Listed.countWear {key} (h : s.Listed) : (s.countWear key).1.Listed := h

theorem State.Listed.storeWear {c} (h : s.Listed) : (s.storeWear c).Listed := by
  unfold State.storeWear
  split
  split
  exact listed_ite ((h.free.of_eq ‹_›).countWear.of_eq ‹_›).wearSite ((h.free.of_eq ‹_›).countWear.of_eq ‹_›)

theorem State.Listed.sliceWear (h : s.Listed) : s.sliceWear.Listed := by
  unfold State.sliceWear
  split
  split
  exact listed_ite ((h.free.of_eq ‹_›).countWear.of_eq ‹_›).wearSlice ((h.free.of_eq ‹_›).countWear.of_eq ‹_›)

theorem State.Listed.bankWear {b} (h : s.Listed) : (s.bankWear b).Listed := by
  unfold State.bankWear
  split
  exact listed_ite (h.countWear.of_eq ‹_›).wearStack (h.countWear.of_eq ‹_›)

theorem State.Listed.execUncorrectedError {where_} (h : s.Listed) : OutListed (Machine.execUncorrectedError where_ s) := by
  unfold Machine.execUncorrectedError
  refine .next ?_
  split
  · exact listed_ite (.bankWear h.setPoison.countError) h.setPoison.countError.sliceWear
  split
  · obtain ⟨tm, htm, e⟩ := Option.bind_eq_some_iff.1 ‹_›
    extract_lets u
    have hu : u.Listed := (h.setTeam ((h.team htm).poisonUnit e)).countError
    split
    · exact hu.storeWear
    · exact hu.storeWear
    · exact hu
  · exact h

theorem State.Listed.execFatalError {code} (h : s.Listed) : OutListed (Machine.execFatalError code s) := by
  unfold Machine.execFatalError
  refine .next (listed_ite h ?_)
  extract_lets s₁
  have hs₁ : s₁.Listed := listed_ite h.rsetBits h
  split
  exact (hs₁.free.of_eq ‹_›).goFatal

theorem State.Listed.loseTeam {k} (h : s.Listed) : (s.loseTeam k).Listed := by
  unfold State.loseTeam
  split
  · exact h
  · exact h.report.modGrid.retireAbandoned

theorem State.Listed.resetDie {layer} (h : s.Listed) : (s.resetDie layer).Listed :=
  listed_ite h (h.setLgate.setEvac.foldl fun _ _ ht => ht.loseTeam).pfEvent

theorem State.Listed.execDieReset {layer} (h : s.Listed) : OutListed (Machine.execDieReset layer s) := .next h.resetDie

theorem State.Listed.execCoreHaltTimeout {col layer} (h : s.Listed) : OutListed (Machine.execCoreHaltTimeout col layer s) :=
  .next (listed_ite h.resetDie h)

theorem State.Listed.execTripThresholdWrite {off v} (h : s.Listed) : OutListed (Machine.execTripThresholdWrite off v s) :=
  .next (listed_ite (listed_ite h.govErr h.rwrite) (listed_ite h.rwrite h))

theorem State.Listed.execThermalSoftTrip {col layer reading} (h : s.Listed) : OutListed (Machine.execThermalSoftTrip col layer reading s) := by
  unfold Machine.execThermalSoftTrip
  refine .next (listed_ite h (listed_ite h.rsetBits.setTmax.closeCore.modCol.rsetBits ?_))
  split
  exact (h.rsetBits.setTmax.closeCore.modCol.rsetBits.free.of_eq ‹_›).pfFault

theorem State.Listed.execSoftTripEnd {col} (h : s.Listed) : OutListed (Machine.execSoftTripEnd col s) := .next (listed_ite h h.modCol)

theorem State.Listed.execSupplyExcursion {cool} (h : s.Listed) : OutListed (Machine.execSupplyExcursion cool s) := by
  unfold Machine.execSupplyExcursion
  refine .next (listed_ite (.rset h) ?_)
  split
  refine .pfFault (.of_eq ?_ ‹_›)
  exact .free (.rset h)

theorem State.Listed.execSupplyExcursionEnd {cool} (h : s.Listed) : OutListed (Machine.execSupplyExcursionEnd cool s) :=
  .next (listed_ite h (listed_ite (.rset h) (listed_ite (.rset h) (.rset h))))

theorem State.Listed.trip {cause col layer reading} (h : s.Listed) : (s.trip cause col layer reading).Listed :=
  .foldl (listed_ite h.send h) fun _ _ ht => listed_ite ht ht.haltContext

theorem State.Listed.execHardTrip {cause col layer reading} (h : s.Listed) : OutListed (Machine.execHardTrip cause col layer reading s) :=
  .next (listed_ite h (listed_ite (listed_ite h h.trip) (listed_ite h (listed_ite h.trip h))))

theorem State.Listed.tripNext (h : s.Listed) : s.tripNext.Listed := by
  unfold State.tripNext
  split
  · exact h
  · exact listed_ite h (listed_ite h (.saveContext h))

theorem State.Listed.execHardTripPowerOff (h : s.Listed) : OutListed (Machine.execHardTripPowerOff s) := by
  unfold Machine.execHardTripPowerOff
  refine .next ?_
  split
  · exact h
  · exact listed_ite h h

theorem State.Listed.execPartWorn {kind index} (h : s.Listed) : OutListed (Machine.execPartWorn kind index s) := by
  unfold Machine.execPartWorn
  refine .next ?_
  split
  · exact h.wearSite
  · exact h.wearSlice
  · exact h.wearStack
  · exact h

theorem State.Listed.execAgeingMonitorRead {site steps} (h : s.Listed) : OutListed (Machine.execAgeingMonitorRead site steps s) := by
  unfold Machine.execAgeingMonitorRead
  split
  · exact .next h
  extract_lets _ _ s₁
  have hs₁ : s₁.Listed := h
  split
  · exact .next hs₁.wearSite
  · exact .next hs₁

theorem State.Listed.execCaptureControlWrite {off v} (h : s.Listed) : OutListed (Machine.execCaptureControlWrite off v s) :=
  .next (listed_ite h.rwrite (listed_ite (listed_ite h h.rwrite) (listed_ite h.rwrite h)))

theorem State.Listed.execReplayGateWrite {v} (h : s.Listed) : OutListed (Machine.execReplayGateWrite v s) := .next h.rwrite

/-! ### Register writes (Registers) -/

theorem State.Listed.after {o} (h : s.Listed) (ho : OutListed o) : (s.after o).Listed := by
  unfold State.after
  split
  · exact ho _ rfl
  · exact h

theorem State.Listed.preCommand {ck v spare} (h : s.Listed) : (s.preCommand ck v spare).Listed := by
  unfold State.preCommand
  extract_lets go
  have hgo : ∀ act : State → State, (∀ t, t.Listed → (act t).Listed) → (go act).Listed := fun _ hact => h.after (h.command hact)
  split
  · exact hgo _ fun _ ht => ht.haltQueue
  · exact hgo _ fun _ ht => ht.haltContext
  · exact hgo _ fun _ ht => ht.saveContext
  · exact hgo _ fun _ ht => ht.resumeQueue
  · exact hgo _ fun _ ht => ht.resumeContext
  · exact h

theorem State.Listed.queueWrite {fn c q o v} (h : s.Listed) : (s.queueWrite fn c q o v).Listed := by
  unfold State.queueWrite
  split
  · exact h.after h.execQueueControlWrite
  · exact h.after h.execDoorbell
  · exact listed_ite (h.after h.execStopClear) h
  · exact h.rwrite

theorem State.Listed.l2Write {ck o fromPf v} (h : s.Listed) : (s.l2Write ck o fromPf v).Listed :=
  listed_ite h.l2Change (h.after h.execL2partWinHiStage)

theorem State.Listed.mraWrite {st o v} (h : s.Listed) : (s.mraWrite st o v).Listed := listed_ite (listed_ite h h.mraStart) h.rwrite

theorem State.Listed.lgateWrite {v} (h : s.Listed) : (s.lgateWrite v).Listed :=
  h.foldl fun _ _ ht => listed_ite ht.gateLayer (listed_ite (ht.after ht.execLayerGateRelease) ht)

theorem State.Listed.powerWrite {off v} (h : s.Listed) : (s.powerWrite off v).Listed := by
  refine listed_ite (h.after h.execGovernorPolicyWrite) (listed_ite (h.after h.execHoopcfgWrite) (listed_ite h.lgateWrite ?_))
  refine listed_ite (h.after h.execFrequencyChange) (listed_ite (h.after h.execRegulatorSelectWrite) ?_)
  exact listed_ite (h.after h.execTripThresholdWrite) (listed_ite (h.after h.execDirectedMoveArm) h.rwrite)

theorem State.Listed.managementWrite {off v} (h : s.Listed) : (s.managementWrite off v).Listed := by
  refine listed_ite (listed_ite .resetDevice h) (listed_ite (h.after h.execReplayGateWrite) (listed_ite (h.after h.execCaptureControlWrite) ?_))
  exact listed_ite h (listed_ite (h.after h.execAttestationReport) (listed_ite (h.after h.execCheckpointStart) h.rwrite))

theorem State.Listed.pfWrite {off v} (h : s.Listed) : (s.pfWrite off v).Listed := by
  refine listed_ite (h.after h.execCsplanWrite) (listed_ite h.mraWrite (listed_ite h.l2Write ?_))
  refine listed_ite (h.after h.execLeasecfgWrite) (listed_ite h.powerWrite (listed_ite h.managementWrite ?_))
  exact listed_ite (h.after h.execPeerLinkControlWrite) h.rwrite

theorem State.Listed.write0 {fn off v} (h : s.Listed) : (s.write0 fn off v).Listed := by
  refine listed_ite h.queueWrite (listed_ite (listed_ite h.preCommand h.rwrite) (listed_ite h.l2Write ?_))
  refine listed_ite (listed_ite (h.after h.execInvalidation) (h.after h.execTranslationControlWrite)) ?_
  exact listed_ite (h.after h.execPeerMoveControlWrite) (listed_ite h.memberWrite (listed_ite h.rwrite (listed_ite h.pfWrite h)))

theorem State.Listed.write4 {fn off v} (h : s.Listed) : (s.write4 fn off v).Listed := by
  unfold State.write4
  split
  · extract_lets
    split
    · exact h.after h.execFaultBufferConsume
    · exact h.after h.execFaultFlush
    · exact h.after h.execFaultBlockConfigWrite
  · exact listed_ite (h.after h.execEventQueueControlWrite) (listed_ite (h.after h.execPeerUnfreeze) h.rwrite)

theorem State.Listed.regWrite {fn region off v} (h : s.Listed) : (s.regWrite fn region off v).Listed :=
  listed_ite h (listed_ite h.write4 (listed_ite h.write0 h))

theorem State.Listed.execRegisterWrite {fn region off v} (h : s.Listed) : OutListed (Machine.execRegisterWrite fn region off v s) :=
  .next h.regWrite

theorem State.Listed.execCsrrd {m d a k} (h : s.Listed) : OutListed (Machine.execCsrrd m d a k s) :=
  h.runWord fun _ _ _ => listed_ite h.advance h.putAll.modThreads.advance

theorem State.Listed.csrWrite {fn off v} (h : s.Listed) : (s.csrWrite fn off v).Listed := listed_ite h.l2Write (listed_ite h.preCommand h.regWrite)

theorem State.Listed.execCsrwr {m d a k} (h : s.Listed) : OutListed (Machine.execCsrwr m d a k s) := by
  unfold Machine.execCsrwr
  refine h.runWord fun x a' ht => listed_ite h.advance (h.afterRelease fun t ht' => ?_)
  extract_lets _ _ _ s₁
  have hs₁ : s₁.Listed := ht'.csrWrite
  split
  · exact listed_ite hs₁.waitAt hs₁.advance
  · exact hs₁.advance

/-! ### The instructions (Dispatch) -/

theorem State.Listed.exec {i} (h : s.Listed) : OutListed (Machine.exec i s) := by
  cases i with
  | iadd | iaddc | isub | imul | imulh | imad | imadw | isad | imin | imax | iabs | ineg | shl | shr | sar | fsl | fsr
   | bfn3 | and | or | xor | bfx | bfi | bysel | iset | isel | mov | lea | leaw | idot4 | idot2 | fadd | fsub | fmul
   | ffma | fmin | fmax | fset | fsel | frnd | ffrc | fscl | fext | frcp | frsq | fsqt | fexp2 | flog2 | fsin | fcos
   | pkadd | pksub | pkmul | pkfma | pkmin | pkmax | pkcmp | cvt | cvpk | cvsc | iaddi | shli | shri | sari | andi
   | ori | xori | popc | clz | ctz | brev | fcls | movi | movh | uadd | usub | umov | uand | uor | uxor | ushl | ushr
   | ucmp | usel | umul | ulea | umovi =>
    exact h.runArith
  | lxch | vote | ball | gred | gscn => exact h.runCollective
  | scat => exact h.execScat
  | tdset => exact h.execTdset
  | tdrd => exact h.execTdrd
  | ttag => exact h.execTtag
  | jnext => exact h.execJnext
  | coll => exact h.execColl
  | plmv => exact h.execPlmv
  | brl => exact h.execBrl
  | jmp => exact h.execJmp
  | ret => exact h.execRet
  | bra => exact h.execBra
  | brc => exact h.execBrc
  | ld => exact h.execLd
  | st => exact h.execSt
  | lds => exact h.execLds
  | sts => exact h.execSts
  | ldc => exact h.execLdc
  | prf => exact h.execPrf
  | fence => exact h.execFence
  | prm => exact h.execPrm
  | atom => exact h.execAtom
  | red => exact h.execRed
  | atoms => exact h.execAtoms
  | cpy => exact h.execCpy
  | cpyt => exact h.execCpyt
  | gath => exact h.execGath
  | mxacq => exact h.execMxacq
  | mxrel => exact h.execMxrel
  | mxgo => exact h.execMxgo
  | callDirect => exact h.execCallDirect
  | callRegister => exact h.execCallRegister
  | nop => exact h.execNop
  | yield => exact h.execYield
  | exit => exact h.execExit
  | rets => exact h.execRets
  | launch => exact h.execLaunch
  | gbar => exact h.execGbar
  | trap => exact h.execTrap
  | evpost => exact h.execEvpost
  | frz => exact h.execFrz
  | sleep => exact h.execSleep
  | rzinit => exact h.execRzinit
  | rzarv => exact h.execRzarv
  | rzwait => exact h.execRzwait
  | rzarw => exact h.execRzarw
  | rzcarv => exact h.execRzcarv
  | rztest => exact h.execRztest
  | vgrow => exact h.execVgrow
  | vshrk => exact h.execVshrk
  | srd => exact h.execSrd
  | swr => exact h.execSwr
  | csrrd => exact h.execCsrrd
  | csrwr => exact h.execCsrwr
  | mnop => exact h.execMnop
  | mend => exact h.execMend
  | mlda => exact h.execMlda
  | mldb => exact h.execMldb
  | mma => exact h.execMma
  | mzro => exact h.execMzro
  | mstc => exact h.execMstc
  | madc => exact h.execMadc
  | mrza => exact h.execMrza
  | mrzw => exact h.execMrzw
  | mwtg => exact h.execMwtg
  | mset => exact h.execMset
  | madd => exact h.execMadd
  | mlop => exact h.execMlop
  | maud => exact h.execMaud
  | clauseStart => exact h.execClauseStart
  | formationPoint => exact h.execFormationPoint
  | groupCollectiveConvergence => exact h.execGroupCollectiveConvergence
  | vgrowGrant => exact h.execVgrowGrant
  | vgrowDenialAllWaiting => exact h.execVgrowDenialAllWaiting
  | vgrowDenialTooLong => exact h.execVgrowDenialTooLong
  | parkedTeamPlace => exact h.execParkedTeamPlace
  | governorEvaluation => exact h.execGovernorEvaluation
  | migrationAbandon => exact h.execMigrationAbandon
  | migrationTransfer => exact h.execMigrationTransfer
  | migrationResume => exact h.execMigrationResume
  | returnForward => exact h.execReturnForward
  | directedMoveArm => exact h.execDirectedMoveArm
  | directedMoveTrigger => exact h.execDirectedMoveTrigger
  | realignmentDue => exact h.execRealignmentDue
  | realignmentStart => exact h.execRealignmentStart
  | realignmentForced => exact h.execRealignmentForced
  | realignmentEnd => exact h.execRealignmentEnd
  | backgroundTestStart => exact h.execBackgroundTestStart
  | backgroundTestRelinquish => exact h.execBackgroundTestRelinquish
  | backgroundTestComplete => exact h.execBackgroundTestComplete
  | queueControlWrite => exact h.execQueueControlWrite
  | doorbell => exact h.execDoorbell
  | cardIntake => exact h.execCardIntake
  | stopClear => exact h.execStopClear
  | dependenceCounterRead => exact h.execDependenceCounterRead
  | teamPlacement => exact h.execTeamPlacement
  | cooperativeGuard => exact h.execCooperativeGuard
  | gridSignal => exact h.execGridSignal
  | jnextServe => exact h.execJnextServe
  | handoverDrainComplete => exact h.execHandoverDrainComplete
  | successorStart => exact h.execSuccessorStart
  | gbarAdmissionWindow => exact h.execGbarAdmissionWindow
  | haltQueue => exact h.execHaltQueue
  | haltContext => exact h.execHaltContext
  | saveContext => exact h.execSaveContext
  | resumeQueue => exact h.execResumeQueue
  | resumeContext => exact h.execResumeContext
  | haltComplete => exact h.execHaltComplete
  | saveComplete => exact h.execSaveComplete
  | pendingWriteDelivery => exact h.execPendingWriteDelivery
  | csplanWrite => exact h.execCsplanWrite
  | l2partChange => exact h.execL2partChange
  | l2partWinHiStage => exact h.execL2partWinHiStage
  | l2partChangeComplete => exact h.execL2partChangeComplete
  | hbmScrub => exact h.execHbmScrub
  | hbmRowSwap => exact h.execHbmRowSwap
  | hbmRefreshWindow => exact h.execHbmRefreshWindow
  | mraReadBankCounts => exact h.execMraReadBankCounts
  | mraReadModeRegister => exact h.execMraReadModeRegister
  | mraClearBankCounts => exact h.execMraClearBankCounts
  | mraOperationComplete => exact h.execMraOperationComplete
  | pageTableWalk => exact h.execPageTableWalk
  | translationControlWrite => exact h.execTranslationControlWrite
  | invalidation => exact h.execInvalidation
  | invalidationComplete => exact h.execInvalidationComplete
  | atsTranslationCompletion => exact h.execAtsTranslationCompletion
  | pageRequestGroupResponse => exact h.execPageRequestGroupResponse
  | atsInvalidateRequest => exact h.execAtsInvalidateRequest
  | plmvLineMove => exact h.execPlmvLineMove
  | plmvSwap => exact h.execPlmvSwap
  | plmvRetire => exact h.execPlmvRetire
  | peerMoveAttempt => exact h.execPeerMoveAttempt
  | peerMoveComplete => exact h.execPeerMoveComplete
  | peerMoveControlWrite => exact h.execPeerMoveControlWrite
  | homeRead => exact h.execHomeRead
  | homeWriteApply => exact h.execHomeWriteApply
  | horizonWaitEnd => exact h.execHorizonWaitEnd
  | columnCacheWriteBack => exact h.execColumnCacheWriteBack
  | writeBackBufferRelease => exact h.execWriteBackBufferRelease
  | leasecfgWrite => exact h.execLeasecfgWrite
  | engineOwnershipRequest => exact h.execEngineOwnershipRequest
  | copyComplete => exact h.execCopyComplete
  | cpytComplete => exact h.execCpytComplete
  | gatherComplete => exact h.execGatherComplete
  | scatterComplete => exact h.execScatterComplete
  | tensorIdWriteComplete => exact h.execTensorIdWriteComplete
  | tensorIdReadComplete => exact h.execTensorIdReadComplete
  | engineFault => exact h.execEngineFault
  | ttagApply => exact h.execTtagApply
  | mxrelComplete => exact h.execMxrelComplete
  | batonExpiry => exact h.execBatonExpiry
  | collectiveComplete => exact h.execCollectiveComplete
  | estimatorPeriod => exact h.execEstimatorPeriod
  | hoopBaseStop => exact h.execHoopBaseStop
  | hoopLayerStop => exact h.execHoopLayerStop
  | hoopcfgWrite => exact h.execHoopcfgWrite
  | frequencyChange => exact h.execFrequencyChange
  | frequencyChangeComplete => exact h.execFrequencyChangeComplete
  | regulatorSelectWrite => exact h.execRegulatorSelectWrite
  | ageingMonitorRead => exact h.execAgeingMonitorRead
  | layerGateRequest => exact h.execLayerGateRequest
  | layerEvacuationComplete => exact h.execLayerEvacuationComplete
  | layerGateRelease => exact h.execLayerGateRelease
  | layerWakeComplete => exact h.execLayerWakeComplete
  | governorPolicyWrite => exact h.execGovernorPolicyWrite
  | peerLinkControlWrite => exact h.execPeerLinkControlWrite
  | linkFlitReplay => exact h.execLinkFlitReplay
  | linkLoss => exact h.execLinkLoss
  | linkRetrained => exact h.execLinkRetrained
  | peerRouteLost => exact h.execPeerRouteLost
  | peerInboundRequest => exact h.execPeerInboundRequest
  | peerAcknowledgement => exact h.execPeerAcknowledgement
  | peerUnfreeze => exact h.execPeerUnfreeze
  | hostInboundAccess => exact h.execHostInboundAccess
  | checkpointStart => exact h.execCheckpointStart
  | checkpointComplete => exact h.execCheckpointComplete
  | attestationReport => exact h.execAttestationReport
  | attestationReportComplete => exact h.execAttestationReportComplete
  | deviceReset => exact h.execDeviceReset
  | faultBlockConfigWrite => exact h.execFaultBlockConfigWrite
  | faultBufferConsume => exact h.execFaultBufferConsume
  | faultFlush => exact h.execFaultFlush
  | eventQueueControlWrite => exact h.execEventQueueControlWrite
  | correctedError => exact h.execCorrectedError
  | uncorrectedError => exact h.execUncorrectedError
  | fatalError => exact h.execFatalError
  | stakeParityReplay => exact h.execStakeParityReplay
  | dieReset => exact h.execDieReset
  | coreHaltTimeout => exact h.execCoreHaltTimeout
  | tripThresholdWrite => exact h.execTripThresholdWrite
  | thermalSoftTrip => exact h.execThermalSoftTrip
  | softTripEnd => exact h.execSoftTripEnd
  | supplyExcursion => exact h.execSupplyExcursion
  | supplyExcursionEnd => exact h.execSupplyExcursionEnd
  | hardTrip => exact h.execHardTrip
  | hardTripPowerOff => exact h.execHardTripPowerOff
  | partWorn => exact h.execPartWorn
  | captureControlWrite => exact h.execCaptureControlWrite
  | countedAcquireGrant => exact h.execCountedAcquireGrant
  | replayGateWrite => exact h.execReplayGateWrite
  | sleepExpiry => exact h.execSleepExpiry
  | registerWrite => exact h.execRegisterWrite
  | parkingPlacingComplete => exact h.execParkingPlacingComplete
  | hostLinkDown => exact h.execHostLinkDown

/-! ### Turns and steps (Auto) -/

theorem State.Listed.streamTurn {k} (h : s.Listed) : OutListed (s.streamTurn k) := by
  unfold State.streamTurn
  split
  · split
    · exact .next h
    split
    · exact .next h.fetchM.auditStep
    split
    · exact State.Listed.exec (s := { s with cur := some (.stream k) }) h
    · exact .next h.takeStreamFault
  · exact .next h

theorem State.Listed.takeTurn {u} (h : s.Listed) : OutListed (s.takeTurn u) := by
  unfold State.takeTurn
  split
  · split
    · exact State.Listed.exec (s := { s with cur := some (.bundle _ _) }) h
    · exact .next h
  · exact h.streamTurn
  · split
    · exact h.exec
    · exact .next h
  · exact .next h.boot
  · exact .next h.carry
  · exact .next h

theorem State.Listed.beginStep (h : s.Listed) : s.beginStep.Listed := by
  unfold State.beginStep
  extract_lets u
  have hu : u.Listed := h
  exact (hu.foldl fun _ _ ht => ht.applyDue).serveHost

theorem State.Listed.rotate {c l sl} (h : s.Listed) : (s.rotate c l sl).Listed :=
  listed_ite (h.foldl fun _ _ ht => ht.modBundle) ((h.foldl fun _ _ ht => ht.modBundle).foldl fun _ _ ht => ht.modBundle)

theorem State.Listed.rotateAll (h : s.Listed) : s.rotateAll.Listed := h.foldl fun _ _ ht => ht.foldl fun _ _ ht' => ht'.rotate

theorem State.Listed.noteIssue (h : s.Listed) : s.noteIssue.Listed := by
  unfold State.noteIssue
  split
  · exact h.modTeam fun _ ht => by rwa [Team.firstIssue_threads]
  · exact h

theorem State.Listed.noteHalts (h : s.Listed) : s.noteHalts.Listed := by
  refine h.foldl fun t p ht => ?_
  split
  · split
    · have htm := ht.team ‹_›
      exact listed_ite (ht.modCol.setTeam htm) ht
    · exact ht
  · exact ht

theorem State.Listed.endStep (h : t.Listed) : (s.endStep t).Listed := by
  unfold State.endStep
  extract_lets _ u v ks w x y z a
  have hu : u.Listed := h.noteIssue.noteHalts
  have hv : v.Listed := listed_ite hu.rereadWaits hu
  have hw : w.Listed := hv.foldl fun _ _ ht => ht.modTeam
  have hx : x.Listed := hw.foldl fun _ _ ht => ht.settle
  have hy : y.Listed := hx.foldl fun _ _ ht => ht.barrier
  have hz : z.Listed := hy.settlePuts.settleRecords
  have ha : a.Listed := listed_ite hz.tripNext hz
  exact listed_ite ha.rotateAll ha

theorem State.Listed.nextTurn (h : s.Listed) : s.nextTurn.1.Listed := by
  unfold State.nextTurn
  split <;> exact h

theorem State.Listed.oneStep (h : s.Listed) : OutListed s.oneStep := by
  unfold State.oneStep
  extract_lets p
  have hp : OutListed (p.1.takeTurn p.2) := h.beginStep.nextTurn.takeTurn
  split
  · exact .next (hp _ ‹_›).endStep
  · rename_i hne
    intro t e
    exact absurd e (hne t)

/-- Settles O5: a step is `oneStep`, and its begin, its turn and its end each keep the lists in rising order. -/
theorem aStepKeepsTheOrder : Obligations.AStepKeepsTheOrder := by
  unfold Obligations.AStepKeepsTheOrder
  exact fun s t h e => State.Listed.oneStep h t e

end Sys2Proof.Machine
end

section
/-! SUPPORT. Words that act on one team: what a change of some threads, a write of their registers, going on, resuming and a release with nothing to wait for
leave behind. -/

namespace Sys2Proof.Machine

set_option Elab.async false

variable {s t : State} {x : Iss} {k d cnt : Nat} {ts : List Nat} {tm tm' : Team} {f g : Nat → Thread → Thread}

/-! ### A change of some threads -/

theorem Team.modThread_eq_self {u : Nat} {f : Thread → Thread} (h : f (tm.thread u) = tm.thread u) : tm.modThread u f = tm := by
  have e : tm.threads.modify u f = tm.threads := by
    refine List.ext_getElem (by simp) fun i hi hi' => ?_
    rw [List.getElem_modify]
    split
    · subst u
      simpa [Team.thread, hi'] using h
    · rfl
  rw [Team.modThread_eq, e]

theorem Team.modThread_congr {u : Nat} {f g : Thread → Thread} (h : f (tm.thread u) = g (tm.thread u)) : tm.modThread u f = tm.modThread u g := by
  have e : tm.threads.modify u f = tm.threads.modify u g := by
    refine List.ext_getElem (by simp) fun i hi hi' => ?_
    have hl : i < tm.threads.length := by simpa using hi
    rw [List.getElem_modify, List.getElem_modify]
    split
    · subst u
      simpa [Team.thread, hl] using h
    · rfl
  rw [Team.modThread_eq, Team.modThread_eq, e]

/-- `tm'` is `tm` with the threads of a list changed, each as `f` says. -/
structure Team.Maps (tm : Team) (ts : List Nat) (f : Nat → Thread → Thread) (tm' : Team) : Prop where
  eq : tm' = { tm with threads := tm'.threads }
  length : tm'.threads.length = tm.threads.length
  thread : ∀ u, tm'.thread u = if u ∈ ts ∧ u < tm.threads.length then f u (tm.thread u) else tm.thread u

theorem Team.Maps.trans {tm'' : Team} (h : tm.Maps ts f tm') (h' : tm'.Maps ts g tm'') : tm.Maps ts (fun t th => g t (f t th)) tm'' where
  eq := by rw [h'.eq, h.eq]
  length := h'.length.trans h.length
  thread u := by
    rw [h'.thread, h.thread, h.length]
    split <;> rfl

theorem Team.Maps.rest (h : tm.Maps ts f tm') : tm'.rest = tm.rest := by rw [h.eq]; rfl

theorem Team.Maps.bundles (h : tm.Maps ts f tm') : tm'.bundles = tm.bundles := by rw [h.eq]

theorem Team.Maps.freezing (h : tm.Maps ts f tm') : tm'.freezing = tm.freezing := by rw [h.eq]

theorem Team.Maps.n (h : tm.Maps ts f tm') (u : Nat) : tm'.n u = tm.n u := by rw [h.eq]; rfl

theorem Team.Maps.point (h : tm.Maps ts f tm') (z : Nat) : tm'.point z = tm.point z := by rw [h.eq]; rfl

theorem Team.Maps.mem (h : tm.Maps ts f tm') {u : Nat} (hu : u ∈ ts) (hl : u < tm.threads.length) : tm'.thread u = f u (tm.thread u) := by
  rw [h.thread, if_pos ⟨hu, hl⟩]

theorem Team.Maps.of_mem {ts' : List Nat} (h : tm.Maps ts f tm') (hts : ∀ u, u ∈ ts ↔ u ∈ ts') : tm.Maps ts' f tm' :=
  ⟨h.eq, h.length, fun u => by simp only [h.thread, hts]⟩

/-- Where the change keeps an aspect of every thread, it keeps it of the team's. -/
theorem Team.Maps.keeps {α : Type} {p : Thread → α} (h : tm.Maps ts f tm') (hf : ∀ t th, p (f t th) = p th) (u : Nat) :
    p (tm'.thread u) = p (tm.thread u) := by
  rw [h.thread]
  split
  · exact hf _ _
  · rfl

/-- A fold that changes one thread after another, each by an idempotent function, changes the threads of its list. -/
theorem Team.foldl_maps {step : Team → Nat → Team} (hf : ∀ t th, f t (f t th) = f t th)
    (hs : ∀ acc t, acc = { tm with threads := acc.threads } → step acc t = acc.modThread t (f t)) : tm.Maps ts f (ts.foldl step tm) := by
  suffices go : ∀ acc : Team, acc = { tm with threads := acc.threads } → acc.Maps ts f (ts.foldl step acc) from go tm rfl
  induction ts with
  | nil => exact fun acc _ => ⟨rfl, rfl, fun u => by simp⟩
  | cons t ts ih =>
    intro acc e
    have e' : acc.modThread t (f t) = { tm with threads := (acc.modThread t (f t)).threads } := by
      rw [Team.modThread_eq, e]
    have h := ih (acc.modThread t (f t)) e'
    rw [List.foldl_cons, hs acc t e]
    refine ⟨h.eq, h.length.trans (by simp), fun u => ?_⟩
    rw [h.thread, Team.modThread_thread, Team.modThread_threads_length]
    by_cases hu : u = t
    · subst hu
      by_cases hl : u < acc.threads.length <;> simp [hl, hf]
    · simp [hu]

/-- A fold that does to each thread of its list what `f` says. -/
theorem Team.foldl_modThread_maps (hf : ∀ t th, f t (f t th) = f t th) : tm.Maps ts f (ts.foldl (fun tm t => tm.modThread t (f t)) tm) :=
  Team.foldl_maps hf fun _ _ _ => rfl

theorem Team.modThreads_maps {f : Thread → Thread} (hf : ∀ th, f (f th) = f th) : tm.Maps ts (fun _ => f) (tm.modThreads f ts) := by
  have e : ∀ tm : Team, tm.modThreads f ts = ts.foldl (fun tm t => tm.modThread t f) tm := by
    induction ts with
    | nil => exact fun _ => rfl
    | cons t ts ih => exact fun tm => ih _
  rw [e]
  exact Team.foldl_modThread_maps fun _ => hf

/-! ### A write of registers -/

/-- `tm'` is `tm` after a write of `v` to `cnt` registers from `d` in the threads of a list, each of which raises `fl`. -/
structure Team.Puts (tm : Team) (ts : List Nat) (d cnt : Nat) (v : Nat → Nat) (fl : Flags) (tm' : Team) : Prop where
  rest : tm'.rest = tm.rest
  length : tm'.threads.length = tm.threads.length
  thread : ∀ u, (tm'.thread u).rest = (tm.thread u).rest
  other : ∀ u, u ∉ ts → tm'.thread u = tm.thread u
  regs : ∀ u r, r < d ∨ d + cnt ≤ r → (tm'.thread u).get r = (tm.thread u).get r
  result : ∀ u ∈ ts, u < tm.threads.length → d + cnt ≤ tm.n u → ∀ j, j < cnt → (tm'.thread u).get (d + j) = BitVec.ofNat 32 (v u / 2 ^ (32 * j))
  status : ∀ u ∈ ts, u < tm.threads.length → (tm'.thread u).status = (tm.thread u).status ||| fl.setWidth 32

theorem Team.n_of_rest (h : tm'.rest = tm.rest) (u : Nat) : tm'.n u = tm.n u :=
  (congrArg (Team.n · u) h : tm'.rest.n u = tm.rest.n u)

theorem Team.point_of_rest (h : tm'.rest = tm.rest) (z : Nat) : tm'.point z = tm.point z :=
  (congrArg (Team.point · z) h : tm'.rest.point z = tm.rest.point z)

theorem Thread.raise_zero {th : Thread} : th.raise 0 = th := by
  simp [Thread.raise]

/-- A write in one thread. -/
theorem Team.putRegs_puts {u : Nat} {v : Nat → Nat} {fl : Flags} :
    tm.Puts [u] d cnt v fl ((tm.putRegs u d (v u) cnt).modThread u fun th => th.raise fl) := by
  by_cases hl : u < tm.threads.length
  · have w := (Team.Written.nil true (v u, fl) tm d cnt fun _ => (0, 0)).cons hl
    refine ⟨w.rest, w.length, w.thread, w.other, w.regs, fun a ha _ hn j hj => ?_, fun a ha _ => w.status a ha⟩
    obtain rfl : a = u := by simpa using ha
    exact w.result a ha hn j hj
  · have ho : ∀ f, tm.modThread u f = tm := fun f => by rw [Team.modThread_eq, List.modify_eq_self (by omega)]
    have e : ((tm.putRegs u d (v u) cnt).modThread u fun th => th.raise fl) = tm := by
      simp [Team.putRegs, ho]
    rw [e]
    refine ⟨rfl, rfl, fun _ => rfl, fun _ _ => rfl, fun _ _ _ => rfl, fun a ha hal => ?_, fun a ha hal => ?_⟩
    all_goals
      obtain rfl : a = u := by simpa using ha
      exact absurd hal hl

theorem Team.Puts.trans {ts' : List Nat} {tm'' : Team} {v : Nat → Nat} {fl : Flags} (h : tm.Puts ts d cnt v fl tm') (h' : tm'.Puts ts' d cnt v fl tm'') :
    tm.Puts (ts ++ ts') d cnt v fl tm'' where
  rest := h'.rest.trans h.rest
  length := h'.length.trans h.length
  thread u := (h'.thread u).trans (h.thread u)
  other u hu := by
    rw [List.mem_append, not_or] at hu
    rw [h'.other u hu.2, h.other u hu.1]
  regs u r hr := (h'.regs u r hr).trans (h.regs u r hr)
  result u hu hl hn j hj := by
    by_cases hu' : u ∈ ts'
    · exact h'.result u hu' (h.length ▸ hl) (Team.n_of_rest h.rest u ▸ hn) j hj
    · rw [h'.other u hu', h.result u ((List.mem_append.1 hu).resolve_right hu') hl hn j hj]
  status u hu hl := by
    by_cases hu' : u ∈ ts'
    · rw [h'.status u hu' (h.length ▸ hl)]
      by_cases hu : u ∈ ts
      · rw [h.status u hu hl, or_or_self]
      · rw [h.other u hu]
    · rw [h'.other u hu', h.status u ((List.mem_append.1 hu).resolve_right hu') hl]

/-- A fold that writes in one thread after another. -/
theorem Team.foldl_puts {step : Team → Nat → Team} {v : Nat → Nat} {fl : Flags}
    (hs : ∀ acc, ∀ t ∈ ts, acc.rest = tm.rest → step acc t = (acc.putRegs t d (v t) cnt).modThread t fun th => th.raise fl) :
    tm.Puts ts d cnt v fl (ts.foldl step tm) := by
  induction ts generalizing tm with
  | nil => exact ⟨rfl, rfl, fun _ => rfl, fun _ _ => rfl, fun _ _ _ => rfl, by simp, by simp⟩
  | cons t ts ih =>
    have h : tm.Puts [t] d cnt v fl (step tm t) := by
      rw [hs tm t List.mem_cons_self rfl]
      exact Team.putRegs_puts
    exact h.trans (ih fun acc u hu e => hs acc u (List.mem_cons_of_mem _ hu) (e.trans h.rest))

theorem Team.putRegs_eq_raise {u v : Nat} : tm.putRegs u d v cnt = (tm.putRegs u d v cnt).modThread u fun th => th.raise 0 :=
  (Team.modThread_eq_self Thread.raise_zero).symm

theorem Team.foldl_putRegs_puts {v : Nat → Nat} : tm.Puts ts d cnt v 0 (ts.foldl (fun tm t => tm.putRegs t d (v t) cnt) tm) :=
  Team.foldl_puts fun _ _ _ _ => Team.putRegs_eq_raise

theorem Team.Puts.status_zero {v : Nat → Nat} (h : tm.Puts ts d cnt v 0 tm') (hts : ∀ u ∈ ts, u < tm.threads.length) (u : Nat) :
    (tm'.thread u).status = (tm.thread u).status := by
  by_cases hu : u ∈ ts
  · simp [h.status u hu (hts u hu)]
  · rw [h.other u hu]

theorem Team.Puts.freezing {v : Nat → Nat} {fl : Flags} (h : tm.Puts ts d cnt v fl tm') : tm'.freezing = tm.freezing := by
  have e := h.rest
  exact (congrArg Team.freezing e : tm'.rest.freezing = tm.rest.freezing)

theorem Team.Puts.wait {v : Nat → Nat} {fl : Flags} (h : tm.Puts ts d cnt v fl tm') (u : Nat) : (tm'.thread u).wait = (tm.thread u).wait := by
  have e := h.thread u
  exact (congrArg Thread.wait e : (tm'.thread u).rest.wait = (tm.thread u).rest.wait)

/-- A write of one register. -/
theorem Team.Puts.value {v : Nat → Nat} {fl : Flags} (h : tm.Puts ts d 1 v fl tm') {u : Nat} (hu : u ∈ ts) (hl : u < tm.threads.length) (hn : d < tm.n u) :
    (tm'.thread u).get d = BitVec.ofNat 32 (v u) := by
  simpa using h.result u hu hl hn 0 Nat.one_pos

theorem State.setTeam_team?_self {a : Team} : (s.setTeam k a).team? k = some a := (State.setTeam_team? ..).trans (if_pos rfl)

/-! ### Going on, and resuming a word that has acted -/

/-- `t` is `s` with the team `tm` in slot `k`, up to its bundles and program counters. -/
def State.GoesOn (s t : State) (k : Nat) (tm : Team) : Prop := ∃ u, t = s.setTeam k u ∧ tm.WentOn u

theorem State.GoesOn.of_setTeam {a : Team} (h : (s.setTeam k a).GoesOn t k tm) : s.GoesOn t k tm := by
  obtain ⟨u, rfl, hu⟩ := h
  exact ⟨u, State.setTeam_setTeam .., hu⟩

theorem State.GoesOn.of_wentOn (h : s.GoesOn t k tm) (hw : tm'.WentOn tm) : s.GoesOn t k tm' := by
  obtain ⟨u, hu, hw'⟩ := h
  exact ⟨u, hu, hw.trans hw'⟩

theorem State.GoesOn.onlyTeam (h : s.GoesOn t k tm) : s.OnlyTeam t k := by
  obtain ⟨u, hu, -⟩ := h
  exact ⟨u, hu⟩

theorem State.GoesOn.team? (h : s.GoesOn t k tm) : ∃ u, t.team? k = some u ∧ tm.WentOn u := by
  obtain ⟨u, rfl, hu⟩ := h
  exact ⟨u, by simp, hu⟩

/-- What the team shows of a thread beside its program counter. -/
theorem Team.WentOn.keeps {α : Type} {p : Thread → α} (h : tm.WentOn tm') (hp : ∀ th, p { th with pc := 0 } = p th) (u : Nat) :
    p (tm'.thread u) = p (tm.thread u) := by
  rw [← hp, h.thread, hp]

theorem State.GoesOn.reg (h : s.GoesOn t k tm) (u r : Nat) : t.reg k u r = (tm.thread u).get r := by
  obtain ⟨tm', h, hw⟩ := h.team?
  simpa [State.reg, h] using hw.keeps (p := fun th => th.get r) (fun _ => rfl) u

theorem State.GoesOn.status (h : s.GoesOn t k tm) (u : Nat) : t.status k u = (tm.thread u).status := by
  obtain ⟨tm', h, hw⟩ := h.team?
  simpa [State.status, h] using hw.keeps (p := Thread.status) (fun _ => rfl) u

theorem State.GoesOn.wait (h : s.GoesOn t k tm) (u : Nat) : (t.th k u).wait = (tm.thread u).wait := by
  obtain ⟨tm', h, hw⟩ := h.team?
  simpa [State.th, h] using hw.keeps (p := Thread.wait) (fun _ => rfl) u

theorem State.reg_of_team? (h : s.team? k = some tm) (u r : Nat) : s.reg k u r = (tm.thread u).get r := by
  simp [State.reg, h]

theorem State.status_of_team? (h : s.team? k = some tm) (u : Nat) : s.status k u = (tm.thread u).status := by
  simp [State.status, h]

/-- A word that writes registers and goes on leaves everything else unchanged. -/
theorem State.GoesOn.regFrame {v : Nat → Nat} {fl : Flags} (h : s.GoesOn t k tm') (hs : s.team? k = some tm) (hp : tm.Puts ts d cnt v fl tm') :
    s.RegFrame t k ts d cnt where
  only := h.onlyTeam
  regs u r hr := by
    rw [h.reg, State.reg_of_team? hs]
    rcases hr with hu | hr
    · rw [hp.other u hu]
    · exact hp.regs u r hr
  status u hu := by
    rw [h.status, State.status_of_team? hs, hp.other u hu]
  team a ha := by
    obtain rfl : tm = a := Option.some.inj (hs.symm.trans ha)
    obtain ⟨u, hu, hw⟩ := h.team?
    refine ⟨u, hu, hw.rest.trans hp.rest, hw.length.trans hp.length, fun w => ?_⟩
    exact (hw.keeps (p := Thread.rest) (fun _ => rfl) w).trans (hp.thread w)

theorem State.advance_goesOn (h : s.team? x.k = some tm) (hf : tm.freezing = none) : s.GoesOn (s.advance x) x.k tm := State.advance_eq h hf

/-- A thread's rendezvous wait ends where its point has left the phase of its token (`Team.endRendezvous`). -/
def Team.leavePhase (tm : Team) (now : Nat) (th : Thread) : Thread :=
  if th.wait.kind = .rendezvous ∧ (tm.point th.wait.point).p ≠ th.wait.token then
    { th.acquire (if (tm.point th.wait.point).marks.contains th.wait.token then 1 else 0) now with wait := {} }
  else th

/-- A thread's CSR wait ends where the change it waits for has ended. -/
def State.endCsrWait (s : State) (th : Thread) : Thread :=
  if th.wait.kind = .csr ∧ s.rbits (kL2 th.wait.token 0) 15 15 = 0 then { th with wait := {} } else th

/-- What `resumeWord` does to a thread of the bundle. -/
def State.resumeThread (s : State) (tm : Team) (th : Thread) : Thread := s.endCsrWait (tm.leavePhase s.dt th)

/-- `resumeThread` in every thread of a list, as `resumeWord` does it. -/
def Team.resumed (tm : Team) (s : State) (ts : List Nat) : Team :=
  ts.foldl (fun tm t => tm.modThread t s.endCsrWait) (ts.foldl (fun tm t => tm.endRendezvous s.dt t) tm)

theorem Team.endRendezvous_eq {now u : Nat} : tm.endRendezvous now u = tm.modThread u (tm.leavePhase now) := by
  unfold Team.endRendezvous
  extract_lets w
  split
  · rename_i h
    exact Team.modThread_congr (if_pos h).symm
  · rename_i h
    exact (Team.modThread_eq_self (f := tm.leavePhase now) (if_neg h)).symm

theorem Team.leavePhase_idem {now : Nat} (th : Thread) : tm.leavePhase now (tm.leavePhase now th) = tm.leavePhase now th := by
  by_cases h : th.wait.kind = .rendezvous ∧ (tm.point th.wait.point).p ≠ th.wait.token
  · unfold Team.leavePhase
    rw [if_pos h]
    simp
  · simp only [Team.leavePhase, if_neg h]

theorem State.endCsrWait_idem (th : Thread) : s.endCsrWait (s.endCsrWait th) = s.endCsrWait th := by
  by_cases h : th.wait.kind = .csr ∧ s.rbits (kL2 th.wait.token 0) 15 15 = 0
  · unfold State.endCsrWait
    rw [if_pos h]
    simp
  · simp only [State.endCsrWait, if_neg h]

theorem Team.resumed_maps : tm.Maps ts (fun _ => s.resumeThread tm) (tm.resumed s ts) := by
  have h : tm.Maps ts (fun _ => tm.leavePhase s.dt) (ts.foldl (fun tm t => tm.endRendezvous s.dt t) tm) :=
    Team.foldl_maps (fun _ => Team.leavePhase_idem) fun acc t e => by
      rw [Team.endRendezvous_eq, e]
      rfl
  exact h.trans (Team.foldl_modThread_maps fun _ => s.endCsrWait_idem)

/-- A thread's wait, if any, does not end as its word resumes. -/
def Team.Stays (tm : Team) (th : Thread) : Prop :=
  th.wait.kind ≠ .csr ∧ (th.wait.kind = .rendezvous → (tm.point th.wait.point).p = th.wait.token)

theorem Team.stays_of_wait {th : Thread} (h : th.wait = {}) : tm.Stays th := by
  simp [Team.Stays, h]

theorem Team.Stays.resumeThread {th : Thread} (h : tm.Stays th) : s.resumeThread tm th = th := by
  obtain ⟨hc, hr⟩ := h
  have e : tm.leavePhase s.dt th = th := if_neg fun ⟨hk, hp⟩ => hp (hr hk)
  rw [State.resumeThread, e]
  exact if_neg fun ⟨hk, _⟩ => hc hk

theorem State.resumeThread_wait_of_left {th : Thread} (hr : th.wait.kind = .rendezvous) (hp : (tm.point th.wait.point).p ≠ th.wait.token) :
    (s.resumeThread tm th).wait = {} := by
  simp [State.resumeThread, Team.leavePhase, State.endCsrWait, hr, hp]

theorem Thread.acquire_get {th : Thread} {scope now r : Nat} : (th.acquire scope now).get r = th.get r := by
  unfold Thread.acquire
  split <;> rfl

theorem Team.leavePhase_get {th : Thread} {now r : Nat} : (tm.leavePhase now th).get r = th.get r := by
  unfold Team.leavePhase
  split
  · exact Thread.acquire_get
  · rfl

theorem State.resumeThread_get {th : Thread} {r : Nat} : (s.resumeThread tm th).get r = th.get r := by
  have h : (s.resumeThread tm th).get r = (tm.leavePhase s.dt th).get r := by
    unfold State.resumeThread State.endCsrWait
    split <;> rfl
  exact h.trans Team.leavePhase_get

theorem State.resumeWord_eq (h : s.team? x.k = some tm) :
    s.resumeWord x = if x.b.threads.any fun t => ((tm.resumed s x.b.threads).thread t).wait.kind != .none then s.setTeam x.k (tm.resumed s x.b.threads)
      else (s.setTeam x.k (tm.resumed s x.b.threads)).advance x := by
  simp only [State.resumeWord, State.modTeam_of_team? h, State.setTeam_team?, if_true, State.modTeam_of_team? (State.setTeam_team? .. |>.trans (if_pos rfl)),
    State.setTeam_setTeam]
  rfl

/-- A word that has acted leaves its team as it acted on it, with the waits that have ended gone. -/
theorem State.resume_goesOn (h : s.team? x.k = some tm) (hf : tm.freezing = none) :
    s.GoesOn (((s.modBundle x.k x.idx fun b => { b with issued := true }).resumeWord x).settle x.k) x.k (tm.resumed s x.b.threads) := by
  set u : Team := { tm with bundles := tm.bundles.modify x.idx fun b => { b with issued := true } } with hu
  have e : (s.modBundle x.k x.idx fun b => { b with issued := true }) = s.setTeam x.k u := State.modTeam_of_team? h _
  have hm := Team.resumed_maps (tm := u) (s := s.setTeam x.k u) (ts := x.b.threads)
  have hw : (tm.resumed s x.b.threads).WentOn (u.resumed (s.setTeam x.k u) x.b.threads) := by
    have hm' := Team.resumed_maps (tm := tm) (s := s) (ts := x.b.threads)
    refine ⟨hm.rest.trans hm'.rest.symm, hm.length.trans hm'.length.symm, fun t => ?_⟩
    rw [hm.thread, hm'.thread]
    rfl
  have hg : s.GoesOn ((s.setTeam x.k u).resumeWord x) x.k (u.resumed (s.setTeam x.k u) x.b.threads) := by
    rw [State.resumeWord_eq (tm := u) (by simp)]
    split
    · exact ⟨_, State.setTeam_setTeam .., .refl _⟩
    · rw [State.setTeam_setTeam]
      exact .of_setTeam (State.advance_goesOn (by simp) (hm.freezing.trans hf))
  rw [e]
  obtain ⟨v, hv, hwv⟩ := hg.team?
  rw [State.settle_of_not_freezing hv (hwv.freezing.trans (hm.freezing.trans hf))]
  exact hg.of_wentOn hw

/-- A word acts on its team, and goes on where no wait holds it. -/
theorem State.act_resume_goesOn {F : Team → Team} (h : s.team? x.k = some tm) (hf : (F tm).freezing = none) :
    s.GoesOn ((((s.modTeam x.k F).modBundle x.k x.idx fun b => { b with issued := true }).resumeWord x).settle x.k) x.k
      ((F tm).resumed (s.setTeam x.k (F tm)) x.b.threads) := by
  rw [State.modTeam_of_team? h]
  exact .of_setTeam (State.resume_goesOn (by simp) hf)

/-- Where no wait ends as the word resumes, its team stays as the word acted on it. -/
theorem State.act_stay_goesOn {F : Team → Team} (h : s.team? x.k = some tm) (hf : (F tm).freezing = none)
    (hw : ∀ t ∈ x.b.threads, (F tm).Stays ((F tm).thread t)) :
    s.GoesOn ((((s.modTeam x.k F).modBundle x.k x.idx fun b => { b with issued := true }).resumeWord x).settle x.k) x.k (F tm) := by
  have hm := Team.resumed_maps (tm := F tm) (s := s.setTeam x.k (F tm)) (ts := x.b.threads)
  refine (State.act_resume_goesOn h hf).of_wentOn ⟨hm.rest, hm.length, fun t => ?_⟩
  rw [hm.thread]
  split
  · rename_i ht
    obtain ⟨ht, -⟩ := ht
    rw [(hw t ht).resumeThread]
  · rfl

theorem State.act_advance_goesOn {F : Team → Team} (h : s.team? x.k = some tm) (hf : (F tm).freezing = none) :
    s.GoesOn ((s.modTeam x.k F).advance x) x.k (F tm) := by
  rw [State.modTeam_of_team? h]
  exact .of_setTeam (State.advance_goesOn (by simp) hf)

/-! ### A release with nothing to wait for -/

theorem State.Drained.thread (h : s.Drained x) (u : Nat) :
    (x.tm.thread u).horizon + 2 ≤ s.dt ∧ (x.tm.thread u).peerOut = 0 ∧ (x.tm.thread u).redOut = false ∧ (x.tm.thread u).wait = {} := by
  obtain ⟨-, -, -, -, -, h⟩ := h
  exact h u

theorem State.Drained.wait (h : s.Drained x) (u : Nat) : (x.tm.thread u).wait = {} := by
  obtain ⟨-, -, -, hw⟩ := h.thread u
  exact hw

theorem State.Drained.pendingMax (h : s.Drained x) : s.pendingMax (teamCol x.k) = 0 := by
  obtain ⟨-, -, -, hw, hd, -⟩ := h
  unfold State.pendingMax
  rw [hw]
  have inner : ∀ l : List (Nat × DirLine), (∀ p ∈ l, ∀ w ∈ p.2.waiting, w.col ≠ some (teamCol x.k)) →
      l.foldl (fun t p => p.2.waiting.foldl (fun t w => if w.col = some (teamCol x.k) then max t w.t else t) t) 0 = 0 := by
    intro l hl
    induction l with
    | nil => rfl
    | cons p l ih =>
      have hp : ∀ t, p.2.waiting.foldl (fun t w => if w.col = some (teamCol x.k) then max t w.t else t) t = t := by
        intro t
        have hp := hl p List.mem_cons_self
        generalize p.2.waiting = ws at hp
        induction ws with
        | nil => rfl
        | cons w ws ih =>
          rw [List.foldl_cons, if_neg (hp w List.mem_cons_self)]
          exact ih fun v hv => hp v (List.mem_cons_of_mem _ hv)
      rw [List.foldl_cons, hp]
      exact ih fun q hq => hl q (List.mem_cons_of_mem _ hq)
  exact inner s.dir hd

theorem State.Drained.startRelease {u scope : Nat} (h : s.Drained x) (hs : s.team? x.k = some x.tm) :
    s.startRelease x.k u scope = s ∨ s.startRelease x.k u scope = s.setTeam x.k x.tm := by
  obtain ⟨-, -, hl, -⟩ := id h
  have hd : s.dirtyOf (teamCol x.k) (teamSlot x.k) = [] := by simp [State.dirtyOf, hl]
  unfold State.startRelease
  split
  · exact .inl rfl
  · refine .inr ?_
    simp only [hd, State.writeBackAll, h.pendingMax, State.modThread, State.modTeam_of_team? hs]
    rw [Team.modThread_eq_self (by simp)]

theorem State.Drained.startReleases {scope : Nat} (h : s.Drained x) (hs : s.team? x.k = some x.tm) (ts : List Nat) :
    ts.foldl (fun s t => s.startRelease x.k t scope) s = s ∨ ts.foldl (fun s t => s.startRelease x.k t scope) s = s.setTeam x.k x.tm := by
  induction ts generalizing s with
  | nil => exact .inl rfl
  | cons t ts ih =>
    rw [List.foldl_cons]
    rcases h.startRelease (u := t) (scope := scope) hs with e | e
    · rw [e]
      exact ih h hs
    · rw [e]
      have h' := ih (s := s.setTeam x.k x.tm) h (by simp)
      rw [State.setTeam_setTeam, or_self] at h'
      exact .inr h'

theorem State.Drained.released {u scope id : Nat} (h : s.Drained x) (hs : s.team? x.k = some x.tm) : s.released x.k u scope id = true := by
  obtain ⟨hh, hp, hr, -⟩ := h.thread u
  obtain ⟨ha, hg, -⟩ := h
  simp [State.released, State.teamReleased, State.sideEntries, hs, ha, hg, hh, hp, hr]

theorem State.Drained.canRelease {scope : Nat} (h : s.Drained x) : s.canRelease x.k scope = true := by
  obtain ⟨-, -, hl, -, hd, -⟩ := h
  have hp : s.pendingHeld (teamCol x.k) = false := by
    simp only [State.pendingHeld, List.any_eq_false, Bool.and_eq_true, beq_iff_eq, not_and, List.any_eq_true, not_exists]
    exact fun p hp _ w hw => hd p hp w hw
  simp [State.canRelease, hp, State.dirtyOf, hl]

theorem State.Drained.clearWaits (h : s.Drained x) (hs : s.team? x.k = some x.tm) : s.clearWaits x = s.setTeam x.k x.tm := by
  have e : ∀ l : List Nat, x.tm.modThreads (fun th => { th with wait := {} }) l = x.tm := by
    intro l
    induction l with
    | nil => rfl
    | cons t l ih =>
      unfold Team.modThreads
      rw [Team.modThread_eq_self, ih]
      rw [← h.wait t]
  rw [State.clearWaits, State.modThreads, State.modTeam_of_team? hs, e]

/-- A word that releases first, with nothing to wait for, acts at once, on the state as it stands. -/
theorem State.Drained.afterRelease {scope : Nat} {act : State → State} (h : s.Drained x) (hs : s.team? x.k = some x.tm) (hts : ts ≠ []) :
    s.afterRelease x ts scope act = act (s.setTeam x.k x.tm) := by
  obtain ⟨t, ht⟩ := List.exists_mem_of_ne_nil ts hts
  have hst : (ts.all fun t => (x.tm.thread t).wait.started) = false := by
    rw [List.all_eq_false]
    exact ⟨t, ht, by simp [h.wait t]⟩
  have htr : (ts.all fun t => s.teamReleased x.k t s.idNext) = true := List.all_eq_true.2 fun u _ => by
    have hr := h.released (u := u) (scope := 0) (id := s.idNext) hs
    simp only [State.released, hs, Bool.and_eq_true] at hr
    exact hr.1.1
  unfold State.afterRelease
  simp only [hst, h.canRelease, htr, Bool.and_self, Bool.not_true, Bool.and_false, Bool.false_eq_true, if_false]
  rcases h.startReleases (scope := scope) hs ts with e | e
  · rw [e, if_pos (List.all_eq_true.2 fun u _ => h.released hs), h.clearWaits hs]
  · have h' : (s.setTeam x.k x.tm).Drained x := h
    rw [e, if_pos (List.all_eq_true.2 fun u _ => h'.released (by simp)), h'.clearWaits (by simp), State.setTeam_setTeam]

/-! ### A word at issue -/

theorem State.Issues.team? {i : Instr} {f : Form} (h : s.Issues i x f) : s.team? x.k = some x.tm := by
  obtain ⟨hi, -⟩ := h
  exact (State.iss_team hi).2

theorem State.Issues.freezing {i : Instr} {f : Form} (h : s.Issues i x f) : x.tm.freezing = none := by
  obtain ⟨-, -, -, hf, -⟩ := h
  exact hf

theorem State.Issues.lt {i : Instr} {f : Form} (h : s.Issues i x f) : ∀ u ∈ x.b.threads, u < x.tm.threads.length := by
  obtain ⟨-, -, -, -, hl, -⟩ := h
  exact hl

theorem Iss.mem_of_passing {m : Mods} {u : Nat} (h : u ∈ x.passing m) : u ∈ x.b.threads := List.mem_of_mem_filter h

theorem State.Issues.passing_lt {i : Instr} {f : Form} (h : s.Issues i x f) : ∀ u ∈ x.passing f.m, u < x.tm.threads.length :=
  fun u hu => h.lt u (Iss.mem_of_passing hu)

/-- A word whose written registers are judged against a count of its own acts, when they lie below that count too. -/
theorem runWord_of_writable {i : Instr} {f : Form} {n : Iss → Nat → Nat} (h : s.Issues i x f)
    (hw : ∀ u ∈ x.judged f, ∀ o ∈ f.operands, o.wr = true → o.reg.toNat + o.cnt ≤ n x u) (act : Iss → List Nat → State) :
    runWord s i n noExtra act = .next (act x (x.passing f.m)) := by
  have hfault : ∀ u ∈ x.judged f, x.fault f u (n x u) (noExtra x u) = none := by
    intro u hu
    obtain ⟨-, -, -, -, -, hc⟩ := h
    have hb : firstBeyond (n x u) (x.tm.n u) f.operands = none := by
      obtain ⟨hn, -⟩ := hc u hu
      simp only [firstBeyond, Option.map_eq_none_iff, List.find?_eq_none, decide_eq_true_eq, not_lt]
      intro o ho
      split
      · exact hw u hu o ho ‹_›
      · exact hn o ho
    have hb' : firstBeyond (x.tm.n u) (x.tm.n u) f.operands = none := by
      obtain ⟨hn, -⟩ := hc u hu
      simp only [firstBeyond, ite_self, Option.map_eq_none_iff, List.find?_eq_none, decide_eq_true_eq, not_lt]
      exact hn
    have hf := Iss.fault_of_clearAt (hc u hu) (extra := noExtra x u) rfl
    unfold Iss.fault at hf ⊢
    rw [hb'] at hf
    rw [hb]
    exact hf
  obtain ⟨hi, hf, hb, -⟩ := h
  simp only [runWord, hi, hf, hb, Iss.firstFault_none hfault]
  simp

end Sys2Proof.Machine
end

section
/-! SUPPORT. VGROW and VSHRK (R42, R277, R278): what they do to the register counts of the groups. Settles O38. -/

namespace Sys2Proof.Machine

set_option Elab.async false

variable {s : State} {x : Iss} {tm tm' : Team} {ts : List Nat} {clk off d m c : Nat}

/-! ### VGROW -/

/-- The pending request of a thread's group. -/
def Team.reqOf (tm : Team) (t : Nat) : Option Nat := (tm.groups.getD (t / 32) { n := 0 }).req

/-- A request that its group meets is answered at once. -/
theorem Team.grow_of_le {t : Nat} (hr : tm.reqOf t = none) (hn : m ≤ tm.n t) : tm.grow clk off d m t = tm.putRegs t d (tm.n t) 1 := by
  unfold Team.reqOf at hr
  unfold Team.n at hn ⊢
  simp only [Team.grow, hr, Option.getD_none, Nat.max_zero, if_pos hn]

/-- What a thread waits for whose request is pending. -/
def growWait (off d m : Nat) : Wait := { kind := .vgrow, word := off, point := d, token := m }

/-- `tm'` is `tm` after requests for `m` registers by the threads of a list, which their groups do not meet. -/
structure Team.Pends (tm : Team) (ts : List Nat) (w : Wait) (m : Nat) (tm' : Team) : Prop where
  freezing : tm'.freezing = tm.freezing
  threads : tm'.threads.length = tm.threads.length
  groups : tm'.groups.length = tm.groups.length
  n : ∀ u, tm'.n u = tm.n u
  get : ∀ u r, (tm'.thread u).get r = (tm.thread u).get r
  req : ∀ u, tm'.reqOf u = tm.reqOf u ∨ tm'.reqOf u = some m
  wait : ∀ u, (tm'.thread u).wait = (tm.thread u).wait ∨ (tm'.thread u).wait = w
  asked : ∀ u ∈ ts, tm'.reqOf u = some m
  waits : ∀ u ∈ ts, (tm'.thread u).wait = w

/-- A request that its group does not meet, and which no other request than one for `m` stands before, is pending. -/
theorem Team.grow_pends {t : Nat} (hn : tm.n t < m) (hr : tm.reqOf t = none ∨ tm.reqOf t = some m) (hg : t / 32 < tm.groups.length)
    (hl : t < tm.threads.length) : tm.Pends [t] (growWait off d m) m (tm.grow clk off d m t) := by
  obtain ⟨g', hn', hr', e⟩ : ∃ g' : Group, g'.n = tm.n t ∧ g'.req = some m ∧
      tm.grow clk off d m t = { tm with groups := tm.groups.set (t / 32) g' }.modThread t fun th => { th with wait := growWait off d m } := by
    have hm : max m ((tm.reqOf t).getD 0) = m := by
      rcases hr with hr | hr <;> simp [hr]
    have hlt : ¬ m ≤ (tm.groups.getD (t / 32) { n := 0 }).n := Nat.not_le.2 hn
    unfold Team.reqOf at hm
    simp only [Team.grow, hm, if_neg hlt]
    refine ⟨_, ?_, ?_, rfl⟩ <;> split <;> rfl
  have hgr : ∀ u, (tm.grow clk off d m t).groups.getD (u / 32) { n := 0 } = if u / 32 = t / 32 then g' else tm.groups.getD (u / 32) { n := 0 } := by
    intro u
    rw [e]
    by_cases hu : u / 32 = t / 32
    · simp [Team.modThread, hu, hg]
    · simp [Team.modThread, hu, List.getD_eq_getElem?_getD, Ne.symm hu]
  have hth : ∀ u, (tm.grow clk off d m t).thread u = if u = t then { tm.thread t with wait := growWait off d m } else tm.thread u := by
    intro u
    rw [e, Team.modThread_thread]
    simp only [hl, and_true]
    rfl
  have hnt : ∀ u, u / 32 = t / 32 → tm.n u = tm.n t := fun u hu => by
    unfold Team.n
    rw [hu]
  refine ⟨by rw [e]; rfl, by rw [e]; simp, by rw [e]; simp [Team.modThread], fun u => ?_, fun u r => ?_, fun u => ?_, fun u => ?_, fun u hu => ?_,
    fun u hu => ?_⟩
  · rw [Team.n, hgr]
    split
    · exact hn'.trans (hnt u ‹_›).symm
    · rfl
  · rw [hth]
    split
    · subst u
      rfl
    · rfl
  · rw [Team.reqOf, hgr]
    split
    · exact .inr hr'
    · exact .inl rfl
  · rw [hth]
    split
    · exact .inr rfl
    · exact .inl rfl
  · obtain rfl : u = t := by simpa using hu
    rw [Team.reqOf, hgr, if_pos rfl, hr']
  · obtain rfl : u = t := by simpa using hu
    rw [hth, if_pos rfl]

theorem Team.Pends.trans {ts' : List Nat} {w : Wait} {tm'' : Team} (h : tm.Pends ts w m tm') (h' : tm'.Pends ts' w m tm'') :
    tm.Pends (ts ++ ts') w m tm'' where
  freezing := h'.freezing.trans h.freezing
  threads := h'.threads.trans h.threads
  groups := h'.groups.trans h.groups
  n u := (h'.n u).trans (h.n u)
  get u r := (h'.get u r).trans (h.get u r)
  req u := (h'.req u).elim (fun e => e ▸ h.req u) .inr
  wait u := (h'.wait u).elim (fun e => e ▸ h.wait u) .inr
  asked u hu := (List.mem_append.1 hu).elim (fun hu => (h'.req u).elim (fun e => e.trans (h.asked u hu)) id) (h'.asked u)
  waits u hu := (List.mem_append.1 hu).elim (fun hu => (h'.wait u).elim (fun e => e.trans (h.waits u hu)) id) (h'.waits u)

theorem Team.foldl_grow_pends
    (h : ∀ t ∈ ts, tm.n t < m ∧ (tm.reqOf t = none ∨ tm.reqOf t = some m) ∧ t / 32 < tm.groups.length ∧ t < tm.threads.length) :
    tm.Pends ts (growWait off d m) m (ts.foldl (fun tm t => tm.grow clk off d m t) tm) := by
  induction ts generalizing tm with
  | nil => exact ⟨rfl, rfl, rfl, fun _ => rfl, fun _ _ => rfl, fun _ => .inl rfl, fun _ => .inl rfl, by simp, by simp⟩
  | cons t ts ih =>
    obtain ⟨hn, hr, hg, hl⟩ := h t List.mem_cons_self
    have h₁ : tm.Pends [t] (growWait off d m) m (tm.grow clk off d m t) := Team.grow_pends hn hr hg hl
    refine h₁.trans (ih fun u hu => ?_)
    obtain ⟨hn, hr, hg, hl⟩ := h u (List.mem_cons_of_mem _ hu)
    exact ⟨(h₁.n u).trans_lt hn, (h₁.req u).elim (fun e => e ▸ hr) .inr, h₁.groups ▸ hg, h₁.threads ▸ hl⟩

theorem exec_vgrow {m : Mods} {d : RegNo} {cnt : BitVec 9} : exec (.vgrow m d cnt) s = execVgrow m d cnt s := rfl

theorem exec_vshrk {m : Mods} {d : RegNo} {cnt : BitVec 9} : exec (.vshrk m d cnt) s = execVshrk m d cnt s := rfl

/-- A VGROW that its group's n meets returns n and goes on. -/
theorem vgrow_met {m : Mods} {d : RegNo} {cnt : BitVec 9} {f : Form} (h : s.Issues (.vgrow m d cnt) x f) (hd : s.Drained x)
    (hm : ∀ t ∈ x.passing f.m, cnt.toNat ≤ x.tm.n t ∧ x.tm.reqOf t = none) :
    ∃ t tm', exec (.vgrow m d cnt) s = .next t ∧ x.tm.Puts (x.passing f.m) d.toNat 1 x.tm.n 0 tm' ∧ s.GoesOn t x.k tm' := by
  have hp : ∀ clk, x.tm.Puts (x.passing f.m) d.toNat 1 x.tm.n 0
      ((x.passing f.m).foldl (fun tm t => tm.grow clk x.off d.toNat cnt.toNat t) x.tm) := fun clk =>
    Team.foldl_puts fun acc t ht e => by
      obtain ⟨hn, hr⟩ := hm t ht
      have hr' : acc.reqOf t = x.tm.reqOf t := (congrArg (Team.reqOf · t) e : acc.rest.reqOf t = x.tm.rest.reqOf t)
      rw [Team.grow_of_le (hr'.trans hr) (by rwa [Team.n_of_rest e]), Team.n_of_rest e]
      exact Team.putRegs_eq_raise
  refine ⟨_, _, exec_vgrow.trans (runWord_noExtra h _), hp (s.clock (teamCol x.k)), State.act_stay_goesOn h.team? ?_ fun t _ => Team.stays_of_wait ?_⟩
  · exact (congrArg Team.freezing (hp _).rest).trans h.freezing
  · exact (congrArg Thread.wait ((hp _).thread t)).trans (hd.wait t)

/-- A VGROW that no group meets becomes the groups' pending requests, and waits. -/
theorem vgrow_pends {m : Mods} {d : RegNo} {cnt : BitVec 9} {f : Form} (h : s.Issues (.vgrow m d cnt) x f) (hd : s.Drained x)
    (hm : ∀ t ∈ x.passing f.m, x.tm.n t < cnt.toNat ∧ x.tm.reqOf t = none ∧ t / 32 < x.tm.groups.length) :
    ∃ t tm', exec (.vgrow m d cnt) s = .next t ∧ x.tm.Pends (x.passing f.m) (growWait x.off d.toNat cnt.toNat) cnt.toNat tm' ∧ s.GoesOn t x.k tm' := by
  have hp : ∀ clk, x.tm.Pends (x.passing f.m) (growWait x.off d.toNat cnt.toNat) cnt.toNat
      ((x.passing f.m).foldl (fun tm t => tm.grow clk x.off d.toNat cnt.toNat t) x.tm) := fun clk =>
    Team.foldl_grow_pends fun t ht => by
      obtain ⟨hn, hr, hg⟩ := hm t ht
      exact ⟨hn, .inl hr, hg, h.passing_lt t ht⟩
  refine ⟨_, _, exec_vgrow.trans (runWord_noExtra h _), hp (s.clock (teamCol x.k)), State.act_stay_goesOn h.team? ?_ fun t _ => ?_⟩
  · exact (hp _).freezing.trans h.freezing
  · rcases (hp (s.clock (teamCol x.k))).wait t with hw | hw
    · exact Team.stays_of_wait (hw.trans (hd.wait t))
    · simp [Team.Stays, hw, growWait]

/-! ### VSHRK -/

theorem Team.shrink_n {g u : Nat} (hg : g < tm.groups.length) : (tm.shrink g c).n u = if u / 32 = g then c else tm.n u := by
  by_cases hu : u / 32 = g
  · simp [Team.n, Team.shrink, hu, hg]
  · simp [Team.n, Team.shrink, hu, Ne.symm hu]

/-- The register counts of some groups fall to `c`, where they exceed it. -/
theorem Team.foldl_shrink {gs : List Nat} (hg : ∀ g ∈ gs, g < tm.groups.length) :
    let tm' := gs.foldl (fun tm g => tm.shrink g (min (tm.n (32 * g)) c)) tm
    tm'.freezing = tm.freezing ∧ tm'.threads.length = tm.threads.length ∧ ∀ u, tm'.n u = if u / 32 ∈ gs then min (tm.n u) c else tm.n u := by
  induction gs generalizing tm with
  | nil => exact ⟨rfl, rfl, fun u => rfl⟩
  | cons g gs ih =>
    obtain ⟨hf, hl, hn⟩ := ih (tm := tm.shrink g (min (tm.n (32 * g)) c)) fun j hj => by
      simpa [Team.shrink] using hg j (List.mem_cons_of_mem _ hj)
    refine ⟨hf, hl.trans (by simp [Team.shrink]), fun u => ?_⟩
    rw [List.foldl_cons, hn, Team.shrink_n (hg g List.mem_cons_self)]
    by_cases hu : u / 32 = g
    · have e : tm.n (32 * g) = tm.n u := by
        unfold Team.n
        rw [hu, Nat.mul_div_cancel_left g (by omega)]
      simp [hu, e]
    · simp [hu]

theorem mem_groupsOf {g : Nat} : g ∈ groupsOf ts ↔ ∃ t ∈ ts, t / 32 = g := by
  simp [groupsOf, List.mem_eraseDups]

/-- VSHRK lowers the register counts of the groups of its passing threads, and returns them. -/
theorem vshrk_goesOn {m : Mods} {d : RegNo} {cnt : BitVec 9} {f : Form} (h : s.Issues (.vshrk m d cnt) x f)
    (hw : ∀ t ∈ x.judged f, ∀ o ∈ f.operands, o.wr = true → o.reg.toNat + o.cnt ≤ cnt.toNat)
    (hg : ∀ t ∈ x.passing f.m, t / 32 < x.tm.groups.length) :
    ∃ t, ∃ a b : Team, exec (.vshrk m d cnt) s = .next t ∧ s.GoesOn t x.k b ∧ a.Puts (x.passing f.m) d.toNat 1 a.n 0 b
      ∧ a.threads.length = x.tm.threads.length
      ∧ ∀ u ∈ x.passing f.m, a.n u = min (x.tm.n u) cnt.toNat := by
  have hw' : ∀ u ∈ x.judged f, ∀ o ∈ f.operands, o.wr = true → o.reg.toNat + o.cnt ≤ min (x.tm.n u) cnt.toNat := by
    intro u hu o ho hwr
    obtain ⟨-, -, -, -, -, hc⟩ := h
    obtain ⟨hn, -⟩ := hc u hu
    exact le_min (hn o ho) (hw u hu o ho hwr)
  set a := (groupsOf (x.passing f.m)).foldl (fun tm g => tm.shrink g (min (tm.n (32 * g)) cnt.toNat)) x.tm with ha
  obtain ⟨haf, hal, han⟩ : a.freezing = x.tm.freezing ∧ a.threads.length = x.tm.threads.length
      ∧ ∀ u, a.n u = if u / 32 ∈ groupsOf (x.passing f.m) then min (x.tm.n u) cnt.toNat else x.tm.n u :=
    Team.foldl_shrink fun g hg' => by
      obtain ⟨t, ht, rfl⟩ := mem_groupsOf.1 hg'
      exact hg t ht
  have hp : a.Puts (x.passing f.m) d.toNat 1 a.n 0 ((x.passing f.m).foldl (fun tm t => tm.putRegs t d.toNat (tm.n t) 1) a) :=
    Team.foldl_puts fun acc t _ e => by
      rw [Team.n_of_rest e]
      exact Team.putRegs_eq_raise
  refine ⟨_, a, _, exec_vshrk.trans (runWord_of_writable h hw' _), .of_setTeam (a := a) ?_, hp, hal, fun u hu => ?_⟩
  · rw [State.modTeam_of_team? h.team?]
    exact State.act_advance_goesOn (by simp) ((congrArg Team.freezing hp.rest).trans (haf.trans h.freezing))
  · rw [han, if_pos (mem_groupsOf.2 ⟨u, hu, rfl⟩)]

/-! ### The obligation -/

/-- Settles O38: VGROW answers at once or pends (`Team.grow`), VSHRK lowers each group once (`Team.shrink`). -/
theorem registerCountWords : Obligations.RegisterCountWords := by
  unfold Obligations.RegisterCountWords
  refine fun m d cnt => ⟨fun s x f h ⟨hd, hm⟩ => ?_, fun s x f h ⟨hd, _, hm⟩ => ?_, fun s x f h _ hw hg => ?_⟩
  · obtain ⟨t, tm', e, hp, hg⟩ := vgrow_met h hd fun t ht => by
      obtain ⟨hn, hr, -⟩ := hm t ht
      exact ⟨hn, hr⟩
    refine ⟨t, e, hg.regFrame h.team? hp, fun u hu hn => ?_⟩
    have hr := hp.result u hu (h.passing_lt u hu) hn 0 Nat.one_pos
    rw [hg.reg]
    simpa using hr
  · obtain ⟨t, tm', e, hp, hg⟩ := vgrow_pends h hd hm
    refine ⟨t, e, hg.onlyTeam, fun u r => ?_, fun u hu => ⟨?_, ?_⟩⟩
    · rw [hg.reg, hp.get, State.reg_of_team? h.team?]
    · rw [hg.wait, hp.waits u hu]
      rfl
    · obtain ⟨b, hb, hw⟩ := hg.team?
      refine ⟨b, hb, ?_, (Team.n_of_rest hw.rest u).trans (hp.n u)⟩
      exact (congrArg (Team.reqOf · u) hw.rest : b.rest.reqOf u = tm'.rest.reqOf u).trans (hp.asked u hu)
  · obtain ⟨t, a, b, e, hg, hp, hl, hn⟩ := vshrk_goesOn h hw hg
    refine ⟨t, e, hg.onlyTeam, fun u hu => ?_⟩
    obtain ⟨c, hc, hw⟩ := hg.team?
    refine ⟨c, hc, ?_, fun hd => ?_⟩
    · rw [Team.n_of_rest hw.rest, Team.n_of_rest hp.rest, hn u hu]
    · have hr := hp.result u hu (hl ▸ h.passing_lt u hu) (hn u hu ▸ hd) 0 Nat.one_pos
      rw [hg.reg, ← hn u hu]
      simpa using hr

end Sys2Proof.Machine
end

section
/-! SUPPORT. Group collectives (R38, R39, R325 to R327): when a group's collective executes, and what LXCH, VOTE and BALL write. Settles O24. -/

namespace Sys2Proof.Machine

set_option Elab.async false

variable {s : State} {x : Iss} {tm tm' : Team} {i : Instr} {f : Form} {g d cnt : Nat} {ts : List Nat}

/-! ### The live threads of a group -/

/-- The threads of a group that have not exited, in ascending order. -/
def Team.liveOf (tm : Team) (g : Nat) : List Nat :=
  ((List.range 32).map (32 * g + ·)).filter fun t => decide (t < tm.threads.length) && !(tm.thread t).exited

theorem mem_group {t : Nat} : t ∈ (List.range 32).map (32 * g + ·) ↔ t / 32 = g := by
  simp only [List.mem_map, List.mem_range]
  exact ⟨fun ⟨j, hj, e⟩ => by omega, fun h => ⟨t % 32, by omega, by omega⟩⟩

theorem Team.mem_liveOf {t : Nat} : t ∈ tm.liveOf g ↔ t / 32 = g ∧ t < tm.threads.length ∧ (tm.thread t).exited = false := by
  simp [Team.liveOf, mem_group]

/-- Whether a thread waits at the collective at which another does. -/
def Team.meets (tm : Team) (t0 t : Nat) : Bool :=
  (tm.thread t).wait.kind == .collective && (tm.thread t).wait.word == (tm.thread t0).wait.word && (tm.thread t).pc == (tm.thread t0).pc

/-- A group one of whose threads waits at no collective executes none. -/
theorem Team.converge_of_absent {u : Nat} (hu : u ∈ tm.liveOf g) (hw : (tm.thread u).wait.kind ≠ .collective) : tm.converge g = tm := by
  obtain ⟨t0, rest, e⟩ := List.exists_cons_of_ne_nil (List.ne_nil_of_mem hu)
  have ha : ¬ ((t0 :: rest).all (tm.meets t0)) = true := fun h => by
    have hm := List.all_eq_true.1 h u (e ▸ hu)
    simp [Team.meets, hw] at hm
  unfold Team.liveOf at e
  unfold Team.converge
  dsimp only
  rw [e]
  exact if_neg ha

/-- The lanes and threads of a list of active threads. -/
def Team.activeOf (tm : Team) (ts : List Nat) : Active := ts.map fun t => (t % 32, tm.thread t)

/-- A group whose live threads all wait at one collective executes it: `val` goes to the destination of each active thread, and none waits. -/
theorem Team.converge_of_complete {t0 : Nat} {val : Nat → Nat} {fl : Flags} (h0 : t0 ∈ tm.liveOf g)
    (hall : ∀ t ∈ tm.liveOf g, ∀ u ∈ tm.liveOf g, tm.meets u t = true) (hw : ∀ t ∈ tm.liveOf g, tm.wordOf t = some i) (hf : Sys2Proof.form i = some f)
    (hc : collectiveOf i (tm.activeOf ((tm.liveOf g).filter fun t => (tm.thread t).passes f.m)) = some (d, cnt, val, fl)) :
    ∃ a, tm.Puts ((tm.liveOf g).filter fun t => (tm.thread t).passes f.m) d cnt (fun t => val (t % 32)) fl a
      ∧ a.Maps (tm.liveOf g) (fun _ th => { th with wait := {} }) (tm.converge g) := by
  obtain ⟨t1, rest, e⟩ := List.exists_cons_of_ne_nil (List.ne_nil_of_mem h0)
  have h1 : t1 ∈ tm.liveOf g := e ▸ List.mem_cons_self
  have ha : ((t1 :: rest).all (tm.meets t1)) = true := List.all_eq_true.2 fun t ht => hall t (e ▸ ht) t1 h1
  have heq : tm.converge g = (tm.liveOf g).foldl (fun tm t => tm.modThread t fun th => { th with wait := {} })
      ((tm.activeOf ((tm.liveOf g).filter fun t => (tm.thread t).passes f.m)).foldl
        (fun tm p => (tm.putRegs (32 * g + p.1) d (val p.1) cnt).modThread (32 * g + p.1) fun th => th.raise fl) tm) := by
    unfold Team.activeOf at hc ⊢
    rw [e] at hc ⊢
    unfold Team.liveOf at e
    unfold Team.converge
    dsimp only
    rw [e]
    refine (if_pos ha).trans ?_
    rw [hw t1 h1]
    dsimp only
    rw [hf]
    dsimp only
    rw [hc]
  rw [heq]
  refine ⟨_, ?_, Team.foldl_modThread_maps fun _ _ => rfl⟩
  unfold Team.activeOf
  rw [List.foldl_map]
  refine Team.foldl_puts fun acc t ht _ => ?_
  obtain ⟨hg, -⟩ := Team.mem_liveOf.1 (List.mem_of_mem_filter ht)
  have et : 32 * g + t % 32 = t := by omega
  simp only [et]

/-! ### A bundle reaches a collective -/

/-- What a thread waits for at a collective. -/
def collectiveWait (off : Nat) : Wait := { kind := .collective, word := off }

/-- The team once the threads of a bundle have reached a collective. -/
def Iss.reached (x : Iss) : Team := x.b.threads.foldl (fun tm t => tm.modThread t fun th => { th with wait := collectiveWait x.off }) x.tm

theorem Iss.reached_maps : x.tm.Maps x.b.threads (fun _ th => { th with wait := collectiveWait x.off }) x.reached :=
  Team.foldl_modThread_maps fun _ _ => rfl

theorem runCollective_goesOn (h : s.Issues i x f) (hf : ((groupsOf x.b.threads).foldl Team.converge x.reached).freezing = none)
    (hw : ∀ t ∈ x.b.threads, ((groupsOf x.b.threads).foldl Team.converge x.reached).Stays (((groupsOf x.b.threads).foldl Team.converge x.reached).thread t)) :
    ∃ t, runCollective s i = .next t ∧ s.GoesOn t x.k ((groupsOf x.b.threads).foldl Team.converge x.reached) :=
  ⟨_, runWord_noExtra h _, State.act_stay_goesOn h.team? hf hw⟩

theorem mem_liveOf_of_maps {t : Nat} {fn : Nat → Thread → Thread} (h : tm.Maps ts fn tm') (hx : ∀ t th, (fn t th).exited = th.exited) :
    t ∈ tm'.liveOf g ↔ t ∈ tm.liveOf g := by
  rw [Team.mem_liveOf, Team.mem_liveOf, h.length, h.keeps (p := Thread.exited) hx]

/-- A bundle that reaches a collective before another thread of its group waits for it there. -/
theorem runCollective_waits {u : Nat} (h : s.Issues i x f) (hg : ∀ t ∈ x.b.threads, t / 32 = g) (hu : u / 32 = g) (hul : u < x.tm.threads.length)
    (hub : u ∉ x.b.threads) (hux : (x.tm.thread u).exited = false) (huw : (x.tm.thread u).wait.kind ≠ .collective) :
    ∃ t, runCollective s i = .next t ∧ s.GoesOn t x.k x.reached := by
  have hm := Iss.reached_maps (x := x)
  have hut : x.reached.thread u = x.tm.thread u := by
    rw [hm.thread, if_neg fun ⟨hb, _⟩ => hub hb]
  have hlive : u ∈ x.reached.liveOf g := (mem_liveOf_of_maps hm fun _ _ => rfl).2 (Team.mem_liveOf.2 ⟨hu, hul, hux⟩)
  have hfold : ∀ l : List Nat, (∀ j ∈ l, j = g) → l.foldl Team.converge x.reached = x.reached := by
    intro l hl
    induction l with
    | nil => rfl
    | cons j l ih =>
      obtain rfl : j = g := hl j List.mem_cons_self
      rw [List.foldl_cons, Team.converge_of_absent hlive (by rwa [hut])]
      exact ih fun j hj => hl j (List.mem_cons_of_mem _ hj)
  have hall : (groupsOf x.b.threads).foldl Team.converge x.reached = x.reached := hfold _ fun j hj => by
    obtain ⟨t, ht, rfl⟩ := mem_groupsOf.1 hj
    exact hg t ht
  have hrun := runCollective_goesOn h (by rw [hall]; exact hm.freezing.trans h.freezing) fun t ht => by
    rw [hall, hm.mem ht (h.lt t ht)]
    simp [Team.Stays, collectiveWait]
  rwa [hall] at hrun

/-! ### A complete collective -/

/-- Threads that waited at nothing wait at a word, registers are written, and they wait no more: nothing else is left changed. -/
theorem Team.Puts.of_waits {A : List Nat} {w : Wait} {a b c : Team} {v : Nat → Nat} {fl : Flags} (hw : ∀ t ∈ ts, (tm.thread t).wait = {})
    (h₁ : tm.Maps ts (fun _ th => { th with wait := w }) a) (h₂ : a.Puts A d cnt v fl b) (h₃ : b.Maps ts (fun _ th => { th with wait := {} }) c) :
    tm.Puts A d cnt v fl c := by
  have hl : b.threads.length = tm.threads.length := h₂.length.trans h₁.length
  have ha : ∀ u, tm.thread u = { a.thread u with wait := (tm.thread u).wait } := fun u => by
    rw [h₁.thread]
    split <;> rfl
  have hc : ∀ u, c.thread u = { b.thread u with wait := (tm.thread u).wait } := fun u => by
    rw [h₃.thread]
    split
    · rename_i hu
      obtain ⟨hu, -⟩ := hu
      rw [hw u hu]
    · rename_i hu
      have e : (b.thread u).wait = (tm.thread u).wait := by
        rw [h₂.wait, h₁.thread, if_neg (hl ▸ hu)]
      rw [← e]
  refine ⟨h₃.rest.trans (h₂.rest.trans h₁.rest), h₃.length.trans hl, fun u => ?_, fun u hu => ?_, fun u r hr => ?_, fun u hu hul hn j hj => ?_,
    fun u hu hul => ?_⟩
  · rw [hc, ha]
    exact congrArg (fun th : Thread => { th with wait := (tm.thread u).wait }) (h₂.thread u)
  · rw [hc, h₂.other u hu, ← ha]
  · rw [hc, ha]
    exact h₂.regs u r hr
  · rw [hc]
    exact h₂.result u hu (h₁.length ▸ hul) (h₁.n u ▸ hn) j hj
  · rw [hc, ha]
    exact h₂.status u hu (h₁.length ▸ hul)

theorem groupsOf_eq (h : ∀ t ∈ ts, t / 32 = g) (hne : ts ≠ []) : groupsOf ts = [g] := by
  obtain ⟨t, rest, rfl⟩ := List.exists_cons_of_ne_nil hne
  have e : (rest.map (· / 32)).filter (fun j => !j == t / 32) = [] := by
    rw [List.filter_eq_nil_iff]
    intro j hj
    obtain ⟨u, hu, rfl⟩ := List.mem_map.1 hj
    simp [h u (List.mem_cons_of_mem _ hu), h t List.mem_cons_self]
  rw [groupsOf, List.map_cons, List.eraseDups_cons, e, List.eraseDups_nil, h t List.mem_cons_self]

/-- What a complete collective shows of its active threads to the word: their lanes, and registers as they stood. -/
def Iss.Shows (x : Iss) (A : List Nat) (act : Active) : Prop :=
  ∃ T : Nat → Thread, act = A.map (fun t => (t % 32, T t)) ∧ ∀ t r, (T t).get r = (x.tm.thread t).get r

/-- A complete collective executes. -/
theorem runCollective_whole (h : s.Issues i x f) (hw : x.Whole i g) {val : Active → Nat → Nat} {fl : Active → Flags}
    (hc : ∀ act, collectiveOf i act = some (d, cnt, val act, fl act)) :
    ∃ t act tm', runCollective s i = .next t ∧ x.Shows (x.active f.m g) act ∧ x.tm.Puts (x.active f.m g) d cnt (fun t => val act (t % 32)) (fl act) tm'
      ∧ s.GoesOn t x.k tm' := by
  obtain ⟨-, hmem, hat⟩ := hw
  have hwait : ∀ t ∈ x.b.threads, (x.tm.thread t).wait = {} := fun t ht => by
    obtain ⟨-, -, hwt⟩ := hat t ht
    exact hwt
  have hm := Iss.reached_maps (x := x)
  have hlive : ∀ t, t ∈ x.reached.liveOf g ↔ t ∈ x.b.threads := fun t => by
    rw [mem_liveOf_of_maps hm fun _ _ => rfl, Team.mem_liveOf, hmem]
  have hpass : ∀ t, (x.reached.thread t).passes f.m = (x.tm.thread t).passes f.m := fun t => hm.keeps (p := fun th => th.passes f.m) (fun _ _ => rfl) t
  have hA : (x.reached.liveOf g).filter (fun t => (x.reached.thread t).passes f.m) = x.active f.m g := by
    unfold Iss.active Team.liveOf Iss.passing
    rw [List.filter_filter]
    refine List.filter_congr fun t ht => ?_
    have hb : t ∈ x.b.threads ↔ t < x.reached.threads.length ∧ (x.reached.thread t).exited = false := by
      rw [← hlive, Team.mem_liveOf, mem_group.1 ht]
      simp
    rw [Bool.eq_iff_iff, hpass]
    simp [hb, and_comm]
  have hshow : x.Shows (x.active f.m g) (x.reached.activeOf (x.active f.m g)) :=
    ⟨x.reached.thread, rfl, fun t r => hm.keeps (p := fun th => th.get r) (fun _ _ => rfl) t⟩
  obtain ⟨tm', hF, hp, hclear⟩ : ∃ tm', (groupsOf x.b.threads).foldl Team.converge x.reached = tm'
      ∧ x.tm.Puts (x.active f.m g) d cnt (fun t => val (x.reached.activeOf (x.active f.m g)) (t % 32)) (fl (x.reached.activeOf (x.active f.m g))) tm'
      ∧ ∀ t ∈ x.b.threads, (tm'.thread t).wait = {} := by
    by_cases hne : x.b.threads = []
    · have hn : x.active f.m g = [] := by simp [Iss.active, Iss.passing, hne]
      refine ⟨x.tm, by simp [Iss.reached, hne, groupsOf], ?_, by simp [hne]⟩
      rw [hn]
      exact Team.foldl_puts (ts := []) (step := fun tm t => (tm.putRegs t d _ cnt).modThread t fun th => th.raise _) fun _ _ _ _ => rfl
    · obtain ⟨t0, h0⟩ := List.exists_mem_of_ne_nil _ hne
      have hrw : ∀ t ∈ x.b.threads, (x.reached.thread t).wait = collectiveWait x.off ∧ (x.reached.thread t).pc.toNat = x.pc := fun t ht => by
        obtain ⟨-, hpc, -⟩ := hat t ht
        rw [hm.mem ht (h.lt t ht)]
        exact ⟨rfl, hpc⟩
      have hword : ∀ t, x.reached.wordOf t = x.tm.wordOf t := fun t => by
        unfold Team.wordOf
        rw [hm.bundles]
      obtain ⟨-, hform, -⟩ := id h
      obtain ⟨a, hp, hclear⟩ := Team.converge_of_complete (g := g) ((hlive t0).2 h0) (fun t ht u hu => by
          obtain ⟨hwt, hpt⟩ := hrw t ((hlive t).1 ht)
          obtain ⟨hwu, hpu⟩ := hrw u ((hlive u).1 hu)
          have e : (x.reached.thread t).pc = (x.reached.thread u).pc := BitVec.eq_of_toNat_eq (hpt.trans hpu.symm)
          simp [Team.meets, hwt, hwu, e, collectiveWait])
        (fun t ht => by
          obtain ⟨hwd, -⟩ := hat t ((hlive t).1 ht)
          rw [hword, hwd])
        hform (hc _)
      rw [hA] at hp
      have hcl := hclear.of_mem hlive
      refine ⟨_, ?_, Team.Puts.of_waits hwait hm hp hcl, fun t ht => ?_⟩
      · rw [groupsOf_eq (fun t ht => ((hmem t).1 ht).1) hne]
        rfl
      · rw [hcl.mem ht (by rw [hp.length, hm.length]; exact h.lt t ht)]
  obtain ⟨t, ht, hg⟩ := runCollective_goesOn h (by rw [hF]; exact hp.freezing.trans h.freezing) fun t ht => by
    rw [hF]
    exact Team.stays_of_wait (hclear t ht)
  exact ⟨t, _, tm', ht, hshow, hp, hF ▸ hg⟩

/-! ### What LXCH, VOTE and BALL write -/

section
variable {A : List Nat} {act : Active}

theorem Thread.getN_congr {th th' : Thread} (h : ∀ r, th.get r = th'.get r) {r : Nat} : ∀ {cnt : Nat}, th.getN r cnt = th'.getN r cnt := by
  intro cnt
  induction cnt generalizing r with
  | zero => rfl
  | succ n ih => rw [Thread.getN, Thread.getN, h, ih]

/-- What the word sees on a lane. -/
theorem Active.on_map {T : Nat → Thread} {l : Nat} (hA : ∀ t ∈ A, t / 32 = g) :
    Active.on (A.map fun t => (t % 32, T t)) l = if 32 * g + l ∈ A then some (T (32 * g + l)) else none := by
  unfold Active.on
  rw [List.find?_map, Option.map_map]
  split
  · rename_i h
    have hl : l = (32 * g + l) % 32 := by
      have := hA _ h
      omega
    cases e : A.find? ((fun p : Nat × Thread => decide (p.1 = l)) ∘ fun t => (t % 32, T t)) with
    | none =>
      rw [List.find?_eq_none] at e
      exact absurd hl.symm (by simpa using e _ h)
    | some t =>
      have ht : t % 32 = l := by simpa using List.find?_some e
      have hg := hA t (List.mem_of_find?_eq_some e)
      obtain rfl : t = 32 * g + l := by omega
      rfl
  · rename_i h
    rw [List.find?_eq_none.2, Option.map_none]
    intro t ht
    have hg := hA t ht
    simp only [Function.comp_apply, decide_eq_true_eq]
    rintro rfl
    exact h (by rwa [show 32 * g + t % 32 = t by omega])

theorem Iss.mem_active {m : Mods} {t : Nat} (h : t ∈ x.active m g) : t / 32 = g := mem_group.1 (List.mem_of_mem_filter h)

end

theorem exec_lxch {m : Mods} {d a b : RegNo} : exec (.lxch m d a b) s = runCollective s (.lxch m d a b) := rfl
theorem exec_vote {m : Mods} {d a : RegNo} {mode : BitVec 2} : exec (.vote m d a mode) s = runCollective s (.vote m d a mode) := rfl
theorem exec_ball {m : Mods} {d a : RegNo} {mode : BitVec 2} : exec (.ball m d a mode) s = runCollective s (.ball m d a mode) := rfl
theorem exec_gred {m : Mods} {d a : RegNo} {excl : Bool} {op : BitVec 3} : exec (.gred m d a excl op) s = runCollective s (.gred m d a excl op) := rfl
theorem exec_gscn {m : Mods} {d a : RegNo} {excl : Bool} {op : BitVec 3} : exec (.gscn m d a excl op) s = runCollective s (.gscn m d a excl op) := rfl

/-- A collective whose result in each lane is `v` of the active threads' registers, and that raises no flag. -/
theorem collects_of_collectiveOf {d : RegNo} {cnt : Nat} {val : Active → Nat → Nat} {v : Iss → List Nat → Nat → Nat}
    (he : ∀ s, exec i s = runCollective s i) (hc : ∀ act, collectiveOf i act = some (d.toNat, cnt, val act, 0))
    (hv : ∀ x A act g, x.Shows A act → (∀ t ∈ A, t / 32 = g) → ∀ t ∈ A, val act (t % 32) = v x A t) : Collects i d cnt v fun _ _ => 0 := by
  intro s x f g h hw
  obtain ⟨t, act, tm', ht, hs, hp, hg⟩ := runCollective_whole h hw hc
  refine ⟨t, (he s).trans ht, hg.regFrame h.team? hp, fun u hu => ⟨?_, fun hn j hj => ?_⟩⟩
  all_goals have hl : u < x.tm.threads.length := h.passing_lt u (by simpa using List.of_mem_filter hu)
  · rw [hg.status, hp.status u hu hl, State.status_of_team? h.team?]
  · rw [hg.reg, hp.result u hu hl hn j hj, hv x _ act g hs (fun t ht => Iss.mem_active ht) u hu]


/-- The lane LXCH reads for a thread (R326). -/
def Iss.lxchLaneOf (x : Iss) (m : Mods) (b : RegNo) (act : List Nat) (t : Nat) : Nat :=
  let width := 32 / 2 ^ (m.xm.extractLsb' 2 2).toNat
  let l := t % 32
  let seg := l - l % width
  let bv := (x.tm.thread t).uNat b
  if m.xm.extractLsb' 0 2 = 0 then seg + bv % width
  else if m.xm.extractLsb' 0 2 = 1 then seg + (l - seg + bv) % width
  else if m.xm.extractLsb' 0 2 = 2 then l ^^^ (bv % width)
  else ((act.find? fun u => decide (seg ≤ u % 32 ∧ u % 32 < seg + width)).getD 0) % 32

/-- The thread whose a LXCH gives a thread: that of its lane, if active, else its own. -/
def Iss.lxchFrom (x : Iss) (m : Mods) (b : RegNo) (act : List Nat) (t : Nat) : Nat :=
  if t - t % 32 + x.lxchLaneOf m b act t ∈ act then t - t % 32 + x.lxchLaneOf m b act t else t

theorem mode_cases : ∀ v : BitVec 2, v = 0 ∨ v = 1 ∨ v = 2 ∨ v = 3 := by decide

theorem lxchLane_eq {m : Mods} {b : RegNo} {A : List Nat} {T : Nat → Thread} {t : Nat} (ht : t ∈ A) :
    lxchLane m (A.map fun t => (t % 32, T t)) (t % 32) ((x.tm.thread t).uNat b) = some (x.lxchLaneOf m b A t) := by
  unfold lxchLane Iss.lxchLaneOf
  have hcase := mode_cases (m.xm.extractLsb' 0 2)
  have hwd : 0 < 32 / 2 ^ (m.xm.extractLsb' 2 2).toNat := by
    rcases mode_cases (m.xm.extractLsb' 2 2) with e | e | e | e <;> rw [e] <;> decide
  generalize m.xm.extractLsb' 0 2 = md at hcase
  generalize 32 / 2 ^ (m.xm.extractLsb' 2 2).toNat = w at hwd
  rcases hcase with rfl | rfl | rfl | rfl
  · rfl
  · rfl
  · rfl
  · have hlt := Nat.mod_lt (t % 32) hwd
    have hle := Nat.mod_le (t % 32) w
    have hsome : (A.find? fun u => decide (t % 32 - t % 32 % w ≤ u % 32 ∧ u % 32 < t % 32 - t % 32 % w + w)).isSome :=
      List.find?_isSome.2 ⟨t, ht, decide_eq_true ⟨by omega, by omega⟩⟩
    obtain ⟨u, hu⟩ := Option.isSome_iff_exists.1 hsome
    have hmap : (List.find? (fun p : Nat × Thread => decide (t % 32 - t % 32 % w ≤ p.1 ∧ p.1 < t % 32 - t % 32 % w + w))
        (A.map fun t => (t % 32, T t))).map Prod.fst = some (u % 32) := by
      rw [List.find?_map, Option.map_map]
      exact congrArg (Option.map _) hu
    refine hmap.trans ?_
    change some (u % 32) = some ((A.find? fun u => decide (t % 32 - t % 32 % w ≤ u % 32 ∧ u % 32 < t % 32 - t % 32 % w + w)).getD 0 % 32)
    rw [hu, Option.getD_some]

theorem collects_lxch {m : Mods} {d a b : RegNo} : Collects (.lxch m d a b) d (tyRegs m.ty.toNat)
    (fun x act t => (x.tm.thread (x.lxchFrom m b act t)).getN a.toNat (tyRegs m.ty.toNat)) fun _ _ => 0 := by
  refine collects_of_collectiveOf (fun _ => exec_lxch) (fun _ => rfl) ?_
  rintro x A act g ⟨T, rfl, hT⟩ hA t ht
  have hg := hA t ht
  have ht' : 32 * g + t % 32 = t := by omega
  have hd : t - t % 32 = 32 * g := by omega
  have hown : Active.on (A.map fun t => (t % 32, T t)) (t % 32) = some (T t) := by
    rw [Active.on_map hA, if_pos (by rwa [ht']), ht']
  have hb : ((T t).get b.toNat).toNat = (x.tm.thread t).uNat b := by rw [hT, Thread.uNat]
  simp only [hown, hb, lxchLane_eq ht, Active.on_map hA, Iss.lxchFrom, hd]
  by_cases hmem : 32 * g + x.lxchLaneOf m b A t ∈ A
  · simp only [if_pos hmem]
    exact Thread.getN_congr (hT _)
  · simp only [if_neg hmem]
    exact Thread.getN_congr (hT _)

theorem collects_vote {m : Mods} {d a : RegNo} {mode : BitVec 2} : Collects (.vote m d a mode) d 1
    (fun x act _ =>
      if mode = 0 then (if ∀ u ∈ act, (x.tm.thread u).get a.toNat ≠ 0 then 1 else 0)
      else if mode = 1 then (if ∃ u ∈ act, (x.tm.thread u).get a.toNat ≠ 0 then 1 else 0)
      else if mode = 2 then (if ∀ u ∈ act, ∀ w ∈ act, (x.tm.thread u).get a.toNat = (x.tm.thread w).get a.toNat then 1 else 0)
      else act.countP fun u => (x.tm.thread u).get a.toNat != 0) fun _ _ => 0 := by
  refine collects_of_collectiveOf (fun _ => exec_vote) (fun _ => rfl) ?_
  rintro x A act g ⟨T, rfl, hT⟩ hA t ht
  have hset : (A.map fun t => (t % 32, T t)).filter (fun p => p.2.get a.toNat != 0)
      = (A.filter fun u => (x.tm.thread u).get a.toNat != 0).map fun t => (t % 32, T t) := by
    simp [List.filter_map, Function.comp_def, hT]
  have h10 : ¬ (1 : BitVec 2) = 0 := by decide
  have h20 : ¬ (2 : BitVec 2) = 0 := by decide
  have h21 : ¬ (2 : BitVec 2) = 1 := by decide
  dsimp only
  rw [hset]
  rcases mode_cases mode with rfl | rfl | rfl | rfl
  · rw [if_pos rfl]
    refine if_congr ?_ rfl rfl
    simp
  · rw [if_neg h10, if_pos rfl]
    refine (ite_not _ _ _).symm.trans (if_congr ?_ rfl rfl)
    simp
  · rw [if_neg h20, if_neg h21, if_pos rfl]
    refine if_congr ?_ rfl rfl
    obtain ⟨t0, rest, rfl⟩ := List.exists_cons_of_ne_nil (List.ne_nil_of_mem ht)
    have hg := hA t0 List.mem_cons_self
    have h0 : 32 * g + t0 % 32 = t0 := by omega
    have hon : Active.on ((t0 :: rest).map fun t => (t % 32, T t)) (t0 % 32) = some (T t0) := by
      rw [Active.on_map hA, if_pos (by rw [h0]; exact List.mem_cons_self), h0]
    have hhead : (((t0 :: rest).map fun t => (t % 32, T t)).headD (0, {})).1 = t0 % 32 := rfl
    rw [hhead, hon, List.all_map, List.all_eq_true]
    simp only [Function.comp_apply, hT, beq_iff_eq, BitVec.toNat_inj]
    exact ⟨fun h u hu w hw => (h u hu).trans (h w hw).symm, fun h u hu => h u hu t0 List.mem_cons_self⟩
  · simp [List.countP_eq_length_filter]

/-- The mask of the lanes whose registers satisfy a condition. -/
theorem laneMask_map {T : Nat → Thread} {p : Thread → Bool} {q : Nat → Bool} {A : List Nat} (h : ∀ t, p (T t) = q t) :
    laneMask (A.map fun t => (t % 32, T t)) p = ((A.filter q).map fun u => 2 ^ (u % 32)).sum := by
  have hadd : ∀ n, (A.map fun t => (t % 32, T t)).foldl (fun a q => if p q.2 then a + 2 ^ q.1 else a) n = n + ((A.filter q).map fun u => 2 ^ (u % 32)).sum := by
    induction A with
    | nil => exact fun n => rfl
    | cons t A ih =>
      intro n
      rw [List.map_cons, List.foldl_cons, ih, List.filter_cons, h]
      split
      · rw [List.map_cons, List.sum_cons, Nat.add_assoc]
      · rfl
  exact (hadd 0).trans (Nat.zero_add _)

theorem collects_ball {m : Mods} {d a : RegNo} {mode : BitVec 2} (hm : mode ≠ 3) : Collects (.ball m d a mode) d 1
    (fun x act t => ((act.filter fun u => if mode = 0 then (x.tm.thread u).get a.toNat != 0
      else if mode = 1 then (x.tm.thread u).get a.toNat == (x.tm.thread t).get a.toNat else true).map fun u => 2 ^ (u % 32)).sum) fun _ _ => 0 := by
  refine collects_of_collectiveOf (fun _ => exec_ball) (fun _ => rfl) ?_
  rintro x A act g ⟨T, rfl, hT⟩ hA t ht
  dsimp only
  rcases mode_cases mode with rfl | rfl | rfl | rfl
  · exact laneMask_map fun u => by simp [hT]
  · have hg := hA t ht
    have ht' : 32 * g + t % 32 = t := by omega
    have hon : Active.on (A.map fun t => (t % 32, T t)) (t % 32) = some (T t) := by
      rw [Active.on_map hA, if_pos (by rwa [ht']), ht']
    rw [hon]
    refine laneMask_map fun u => ?_
    dsimp only
    rw [hT, hT, Bool.eq_iff_iff]
    simp [BitVec.toNat_inj]
  · exact laneMask_map fun u => by simp
  · exact absurd rfl hm

/-! ### The obligation -/

/-- Settles O24: a group executes its collective with the last bundle that reaches it (`Team.converge`). -/
theorem collectivesWaitAndExchange : Obligations.CollectivesWaitAndExchange := by
  unfold Obligations.CollectivesWaitAndExchange
  refine ⟨fun m d a b mode excl op i hi g u s x f h ⟨hg, hu, hul, hub, hux, huw⟩ => ?_, fun m d a b mode =>
    ⟨collects_lxch, collects_vote, fun hm => collects_ball hm⟩⟩
  have he : exec i s = runCollective s i := by
    simp only [List.mem_cons, List.not_mem_nil, or_false] at hi
    rcases hi with rfl | rfl | rfl | rfl | rfl
    · exact exec_lxch
    · exact exec_vote
    · exact exec_ball
    · exact exec_gred
    · exact exec_gscn
  obtain ⟨t, ht, hgo⟩ := runCollective_waits h hg hu hul hub hux huw
  have hm := Iss.reached_maps (x := x)
  refine ⟨t, he.trans ht, hgo.onlyTeam, fun th r => ?_, fun th hth => ?_⟩
  · rw [hgo.reg, State.reg_of_team? h.team?]
    exact hm.keeps (p := fun th => th.get r) (fun _ _ => rfl) th
  · rw [hgo.wait, hm.mem hth (h.lt th hth)]
    rfl

end Sys2Proof.Machine
end

section
/-! SUPPORT. The rendezvous words (R51, R275): what arrivals do to a point, and how threads wait at one. Settles O37. -/

namespace Sys2Proof.Machine

set_option Elab.async false

variable {s t : State} {x : Iss} {tm : Team} {ts : List Nat} {z : Nat}

/-! ### Threads by lane -/

theorem byLane_ins_perm {t : Nat} : (byLane.ins t ts).Perm (t :: ts) := by
  induction ts with
  | nil => exact .refl _
  | cons u ts ih =>
    unfold byLane.ins
    split
    · exact .refl _
    · exact (ih.cons u).trans (.swap t u ts)

theorem byLane_perm : (byLane ts).Perm ts := by
  induction ts with
  | nil => exact .refl _
  | cons t ts ih => exact byLane_ins_perm.trans (ih.cons t)

/-! ### Arrivals -/

/-- `Q` is the point `P` after `n` arrivals, the last of which may complete the phase. -/
def RzPoint.Reached (P : RzPoint) (n : Nat) (Q : RzPoint) : Prop :=
  Q.e = P.e ∧ (P.a + n < P.e → Q.a = P.a + n ∧ Q.p = P.p) ∧ (P.a + n = P.e → Q.a = 0 ∧ Q.p = (P.p + 1) % 2 ^ 16)

theorem RzPoint.arrive_reached {P : RzPoint} {c : Bool} : P.Reached 1 (P.arrive c).1 := by
  unfold RzPoint.arrive
  extract_lets tok cl
  split
  · exact ⟨rfl, fun h => absurd h (by omega), fun _ => ⟨rfl, rfl⟩⟩
  · exact ⟨rfl, fun _ => ⟨rfl, rfl⟩, fun h => absurd h ‹_›⟩

theorem RzPoint.arrive_token {P : RzPoint} {c : Bool} : (P.arrive c).2 = P.p := by
  unfold RzPoint.arrive
  extract_lets tok cl
  split <;> rfl

/-- Arrivals after an arrival that does not complete the phase. -/
theorem RzPoint.Reached.succ {P Q R : RzPoint} {n : Nat} (h : P.Reached 1 Q) (h' : Q.Reached n R) (hlt : P.a + 1 < P.e) : P.Reached (n + 1) R := by
  obtain ⟨he, hl, -⟩ := h
  obtain ⟨ha, hp⟩ := hl hlt
  obtain ⟨he', hl', hc'⟩ := h'
  refine ⟨he'.trans he, fun h => ?_, fun h => ?_⟩
  · obtain ⟨ha', hp'⟩ := hl' (by omega)
    exact ⟨by omega, hp'.trans hp⟩
  · obtain ⟨ha', hp'⟩ := hc' (by omega)
    exact ⟨ha', by rw [hp', hp]⟩

@[simp] theorem Team.setPoint_point {P : RzPoint} : (tm.setPoint z P).point z = P := by
  simp [Team.setPoint, Team.point]

/-- Arrivals that complete no phase but, perhaps, with the last of them: each thread receives the phase they meet. -/
theorem Team.arriveAll_reached (hts : ts ≠ []) (hle : (tm.point z).a + ts.length ≤ (tm.point z).e) :
    (tm.arriveAll z ts).1 = { tm with rz := (tm.arriveAll z ts).1.rz } ∧ (tm.arriveAll z ts).2 = ts.map (fun t => (t, (tm.point z).p))
      ∧ (tm.point z).Reached ts.length ((tm.arriveAll z ts).1.point z) := by
  induction ts generalizing tm with
  | nil => exact absurd rfl hts
  | cons t ts ih =>
    have hr := RzPoint.arrive_reached (P := tm.point z) (c := false)
    have ht := RzPoint.arrive_token (P := tm.point z) (c := false)
    rw [List.length_cons] at hle
    unfold Team.arriveAll
    by_cases hn : ts = []
    · subst hn
      refine ⟨rfl, ?_, ?_⟩
      · simp [Team.arriveAll, ht]
      · simpa [Team.arriveAll] using hr
    · have hpos := List.length_pos_of_ne_nil hn
      have hlt : (tm.point z).a + 1 < (tm.point z).e := by omega
      obtain ⟨he, hl, -⟩ := id hr
      obtain ⟨ha, hp⟩ := hl hlt
      obtain ⟨heq, htok, hreach⟩ := ih (tm := tm.setPoint z ((tm.point z).arrive false).1) hn (by simp only [Team.setPoint_point]; omega)
      rw [Team.setPoint_point] at htok hreach
      refine ⟨heq, ?_, hr.succ hreach hlt⟩
      simp only [htok, ht, hp, List.map_cons]

theorem Team.arriveN_reached {n : Nat} (hn : n ≠ 0) (hle : (tm.point z).a + n ≤ (tm.point z).e) :
    tm.arriveN z n = { tm with rz := (tm.arriveN z n).rz } ∧ (tm.point z).Reached n ((tm.arriveN z n).point z) := by
  induction n generalizing tm with
  | zero => exact absurd rfl hn
  | succ n ih =>
    have hr := RzPoint.arrive_reached (P := tm.point z) (c := true)
    unfold Team.arriveN
    by_cases hn : n = 0
    · subst hn
      exact ⟨rfl, by simpa [Team.arriveN] using hr⟩
    · have hlt : (tm.point z).a + 1 < (tm.point z).e := by omega
      obtain ⟨he, hl, -⟩ := id hr
      obtain ⟨ha, hp⟩ := hl hlt
      obtain ⟨heq, hreach⟩ := ih (tm := tm.setPoint z ((tm.point z).arrive true).1) hn (by simp only [Team.setPoint_point]; omega)
      rw [Team.setPoint_point] at hreach
      exact ⟨heq, hr.succ hreach hlt⟩

/-- The passing threads arrive, and their tokens go to register `d`: the team, as RZARV and RZARW make it. -/
def Team.arriveTo (tm : Team) (z d : Nat) (ts : List Nat) : Team :=
  (tm.arriveAll z (byLane ts)).2.foldl (fun tm p => tm.putRegs p.1 d p.2 1) (tm.arriveAll z (byLane ts)).1

/-- `tm'` is `tm` after threads have arrived at point `z`, their tokens in register `d`. -/
structure Team.Arrived (tm : Team) (z d : Nat) (ts : List Nat) (tm' : Team) : Prop where
  freezing : tm'.freezing = tm.freezing
  length : tm'.threads.length = tm.threads.length
  point : (tm.point z).Reached ts.length (tm'.point z)
  wait : ∀ u, (tm'.thread u).wait = (tm.thread u).wait
  token : ∀ u ∈ ts, u < tm.threads.length → d < tm.n u → (tm'.thread u).get d = BitVec.ofNat 32 (tm.point z).p

theorem byLane_ne_nil (hts : ts ≠ []) : byLane ts ≠ [] := fun e =>
  hts (List.perm_nil.1 (e ▸ byLane_perm.symm))

/-- The tokens of arrivals that complete no phase but, perhaps, with the last of them. -/
theorem Team.arriveAll_tokens (hts : ts ≠ []) (hle : (tm.point z).a + ts.length ≤ (tm.point z).e) :
    (tm.arriveAll z (byLane ts)).2 = (byLane ts).map fun t => (t, (tm.point z).p) := by
  obtain ⟨-, htok, -⟩ := Team.arriveAll_reached (tm := tm) (z := z) (byLane_ne_nil hts) (by rwa [byLane_perm.length_eq])
  exact htok

theorem Team.arriveTo_arrived {d : Nat} (hts : ts ≠ []) (hle : (tm.point z).a + ts.length ≤ (tm.point z).e) :
    tm.Arrived z d ts (tm.arriveTo z d ts) := by
  obtain ⟨heq, -, hreach⟩ := Team.arriveAll_reached (tm := tm) (z := z) (byLane_ne_nil hts) (by rwa [byLane_perm.length_eq])
  have hp : (tm.arriveAll z (byLane ts)).1.Puts (byLane ts) d 1 (fun _ => (tm.point z).p) 0 (tm.arriveTo z d ts) := by
    unfold Team.arriveTo
    rw [Team.arriveAll_tokens hts hle, List.foldl_map]
    exact Team.foldl_putRegs_puts
  rw [byLane_perm.length_eq, ← Team.point_of_rest hp.rest] at hreach
  rw [heq] at hp
  exact ⟨hp.freezing, hp.length, hreach, hp.wait, fun u hu hl hn => hp.value (byLane_perm.mem_iff.2 hu) hl hn⟩

/-! ### Waiting at a point -/

/-- What a thread waits for at a rendezvous point. -/
def rzWaitOf (off z tok : Nat) : Wait := { kind := .rendezvous, word := off, token := tok, point := z }

/-- Threads wait at a point for the end of one phase: those wait on that are in it, and the others not. -/
theorem State.rzWait_goesOn {tok : Nat} (h : s.team? x.k = some tm) (hf : tm.freezing = none) (hts : ∀ u ∈ ts, u ∈ x.b.threads) :
    ∃ tm', s.GoesOn (s.rzWait x z (ts.map fun t => (t, tok))) x.k tm' ∧ (∀ u r, (tm'.thread u).get r = (tm.thread u).get r)
      ∧ ∀ u ∈ ts, u < tm.threads.length →
        ((tm.point z).p = tok → (tm'.thread u).wait = rzWaitOf x.off z tok) ∧ ((tm.point z).p ≠ tok → (tm'.thread u).wait = {}) := by
  have hm := Team.foldl_modThread_maps (tm := tm) (ts := ts) (f := fun _ th => { th with wait := rzWaitOf x.off z tok }) fun _ _ => rfl
  set a := ts.foldl (fun tm t => tm.modThread t fun th => { th with wait := rzWaitOf x.off z tok }) tm with ha
  have hg : s.GoesOn (s.rzWait x z (ts.map fun t => (t, tok))) x.k (a.resumed (s.setTeam x.k a) x.b.threads) := by
    have e : (ts.map fun t => (t, tok)).foldl
        (fun tm p => tm.modThread p.1 fun th => { th with wait := { kind := .rendezvous, word := x.off, token := p.2, point := z } }) tm = a :=
      List.foldl_map
    have hg := State.act_resume_goesOn (F := fun tm => (ts.map fun t => (t, tok)).foldl
      (fun tm p => tm.modThread p.1 fun th => { th with wait := { kind := .rendezvous, word := x.off, token := p.2, point := z } }) tm) h
      (by rw [e]; exact hm.freezing.trans hf)
    rw [e] at hg
    exact hg
  have hr := Team.resumed_maps (tm := a) (s := s.setTeam x.k a) (ts := x.b.threads)
  refine ⟨_, hg, fun u r => ?_, fun u hu hl => ?_⟩
  · exact (hr.keeps (p := fun th => th.get r) (fun _ _ => State.resumeThread_get) u).trans (hm.keeps (p := fun th => th.get r) (fun _ _ => rfl) u)
  · have hw : (a.thread u).wait = rzWaitOf x.off z tok := by rw [hm.mem hu hl]
    have hpt : (a.point (a.thread u).wait.point).p = (tm.point z).p := by
      rw [hw, hm.point]
      rfl
    have htk : (a.thread u).wait.token = tok := by rw [hw]; rfl
    have hk : (a.thread u).wait.kind = .rendezvous := by rw [hw]; rfl
    rw [hr.mem (hts u hu) (by rwa [hm.length])]
    refine ⟨fun hp => ?_, fun hp => ?_⟩
    · have hst : a.Stays (a.thread u) := ⟨by simp [hk], fun _ => by rw [hpt, htk, hp]⟩
      rw [hst.resumeThread, hw]
    · exact State.resumeThread_wait_of_left hk (by rwa [hpt, htk])

theorem Thread.acquire_acquire {th : Thread} {scope now : Nat} : (th.acquire scope now).acquire scope now = th.acquire scope now := by
  unfold Thread.acquire
  split <;> rfl

/-! ### The words -/

section
variable {m : Mods} {d a : RegNo} {pt : BitVec 5} {f : Form}

theorem exec_rzinit : exec (.rzinit m a pt) s = execRzinit m a pt s := rfl
theorem exec_rzarv : exec (.rzarv m d pt) s = execRzarv m d pt s := rfl
theorem exec_rzcarv : exec (.rzcarv m a pt) s = execRzcarv m a pt s := rfl
theorem exec_rztest : exec (.rztest m d a pt) s = execRztest m d a pt s := rfl
theorem exec_rzwait : exec (.rzwait m a pt) s = execRzwait m a pt s := rfl
theorem exec_rzarw : exec (.rzarw m d pt) s = execRzarw m d pt s := rfl

theorem pointBad_none {t : Nat} (h : (x.tm.point pt.toNat).e ≠ 0) : firstHeld (pointBad pt x t) = none := by
  simp [pointBad, firstHeld, h]

theorem arrivalBad_none {t : Nat} (h : (x.tm.point pt.toNat).e ≠ 0) : firstHeld (s.arrivalBad m pt x t) = none := by
  unfold State.arrivalBad
  split
  · exact pointBad_none h
  · rfl

theorem rzinit_goesOn (h : s.Issues (.rzinit m a pt) x f) (hne : x.passing f.m ≠ []) (he : (x.tm.point pt.toNat).e = 0)
    (ha : ∀ t ∈ x.judged f, 0 < (x.tm.thread t).uNat a ∧ (x.tm.thread t).uNat a < 2 ^ 16) :
    ∃ t, exec (.rzinit m a pt) s = .next t
      ∧ s.GoesOn t x.k (x.tm.setPoint pt.toNat { x.tm.point pt.toNat with e := (x.lead (x.passing f.m)).uNat a }) := by
  refine ⟨_, exec_rzinit.trans (runWord_of_issues h (fun t ht => ?_) _), ?_⟩
  · obtain ⟨h0, h1⟩ := ha t ht
    unfold Thread.uNat at h0 h1
    simp [firstHeld, he]
    omega
  · rw [if_neg hne]
    exact State.act_advance_goesOn h.team? h.freezing

theorem rzarv_goesOn (h : s.Issues (.rzarv m d pt) x f) (hd : s.Drained x) (hne : x.passing f.m ≠ [])
    (hle : (x.tm.point pt.toNat).a + (x.passing f.m).length ≤ (x.tm.point pt.toNat).e) :
    ∃ t tm', exec (.rzarv m d pt) s = .next t ∧ x.tm.Arrived pt.toNat d.toNat (x.passing f.m) tm' ∧ s.GoesOn t x.k tm' := by
  have hpos := List.length_pos_of_ne_nil hne
  have harr := Team.arriveTo_arrived (d := d.toNat) hne hle
  refine ⟨_, _, exec_rzarv.trans (runWord_of_issues h (fun t _ => arrivalBad_none (by omega)) _), harr, .of_setTeam (a := x.tm) ?_⟩
  rw [if_neg hne, hd.afterRelease h.team? hne]
  exact State.act_advance_goesOn (F := fun tm => tm.arriveTo pt.toNat d.toNat (x.passing f.m)) (by simp) (harr.freezing.trans h.freezing)

theorem rzcarv_goesOn (h : s.Issues (.rzcarv m a pt) x f) (hd : s.Drained x) (hne : x.passing f.m ≠ []) (hc : x.tm.cluster = [])
    (hle : (x.tm.point pt.toNat).a + (x.passing f.m).length ≤ (x.tm.point pt.toNat).e) (ha : (x.lead (x.passing f.m)).uNat a = 0)
    (hj : ∀ t ∈ x.judged f, (x.tm.thread t).uNat a = 0) :
    ∃ t, exec (.rzcarv m a pt) s = .next t ∧ s.GoesOn t x.k (x.tm.arriveN pt.toNat (x.passing f.m).length) := by
  have hpos := List.length_pos_of_ne_nil hne
  have hkey : x.tm.memberKey x.k 0 = some x.k := by simp [Team.memberKey, hc]
  have hmem : ∀ s : State, s.member? x.tm x.k 0 = some x.k := fun s => by simp [State.member?, hkey]
  obtain ⟨heq, -⟩ := Team.arriveN_reached (tm := x.tm) (z := pt.toNat) (n := (x.passing f.m).length) (by omega) hle
  rw [exec_rzcarv, execRzcarv]
  refine ⟨_, runWord_of_issues h (fun t ht => ?_) _, .of_setTeam (a := x.tm) ?_⟩
  · have hv : ((x.tm.thread t).get a.toNat).toNat = 0 := hj t ht
    have he : (x.tm.point pt.toNat).e ≠ 0 := by omega
    dsimp only
    split
    · rfl
    · simp only [hv, hkey, hmem, h.team?]
      simp [firstHeld, he]
  · have hv : ((x.lead (x.passing f.m)).get a.toNat).toNat = 0 := ha
    rw [if_neg hne, hd.afterRelease h.team? hne]
    simp only [hv, hmem]
    exact State.act_advance_goesOn (by simp) (by rw [heq]; exact h.freezing)

/-- The result of RZTEST: the phase, and whether it has left that of the token. -/
def rzResult (P : RzPoint) (tok : Nat) : Nat := 2 ^ 16 * P.p + if P.p = tok then 0 else 1

theorem rzResult_eq {P : RzPoint} {tok : Nat} : P.p * 2 ^ 16 + (if (P.p != tok) = true then 1 else 0) = rzResult P tok := by
  by_cases e : P.p = tok <;> simp [rzResult, e, Nat.mul_comm]

theorem rztest_goesOn (h : s.Issues (.rztest m d a pt) x f) (he : 0 < (x.tm.point pt.toNat).e) :
    ∃ t, exec (.rztest m d a pt) s = .next t ∧ ∃ tm', s.GoesOn t x.k tm' ∧ ∀ u ∈ x.passing f.m, d.toNat < x.tm.n u →
      (tm'.thread u).get d.toNat = BitVec.ofNat 32 (rzResult (x.tm.point pt.toNat) ((x.lead (x.passing f.m)).uNat a % 2 ^ 16)) := by
  refine ⟨_, exec_rztest.trans (runWord_of_issues h (fun t _ => pointBad_none (by omega)) _), ?_⟩
  unfold Thread.uNat
  dsimp only
  rw [rzResult_eq, State.putAll, State.modTeam_of_team? h.team?]
  set v := rzResult (x.tm.point pt.toNat) (((x.lead (x.passing f.m)).get a.toNat).toNat % 2 ^ 16)
  have hp : x.tm.Puts (x.passing f.m) d.toNat 1 (fun _ => v) 0 ((x.passing f.m).foldl (fun tm t => tm.putRegs t d.toNat v 1) x.tm) :=
    Team.foldl_putRegs_puts
  set tm' := (x.passing f.m).foldl (fun tm t => tm.putRegs t d.toNat v 1) x.tm
  have hf : tm'.freezing = none := hp.freezing.trans h.freezing
  split
  · have hm : ∀ scope now, tm'.Maps (x.passing f.m) (fun _ th => th.acquire scope now) (tm'.modThreads (fun th => th.acquire scope now) (x.passing f.m)) :=
      fun scope now => Team.modThreads_maps fun th => Thread.acquire_acquire
    refine ⟨_, .of_setTeam (State.act_advance_goesOn State.setTeam_team?_self ((hm _ _).freezing.trans hf)), fun u hu hn => ?_⟩
    rw [(hm _ _).keeps (p := fun th => th.get d.toNat) fun _ _ => Thread.acquire_get]
    exact hp.value hu (h.passing_lt u hu) hn
  · exact ⟨_, .of_setTeam (State.advance_goesOn State.setTeam_team?_self hf), fun u hu hn => hp.value hu (h.passing_lt u hu) hn⟩

/-- What threads wait for at a point after their word, and what they keep: those in the phase of the token wait. -/
def Team.WaitsAt (tm : Team) (ts : List Nat) (off z tok : Nat) (tm' : Team) : Prop :=
  (∀ u r, (tm'.thread u).get r = (tm.thread u).get r) ∧ ∀ u ∈ ts,
    ((tm.point z).p = tok → (tm'.thread u).wait = rzWaitOf off z tok) ∧ ((tm.point z).p ≠ tok → (tm'.thread u).wait = {})

theorem rzwait_goesOn (h : s.Issues (.rzwait m a pt) x f) (he : 0 < (x.tm.point pt.toNat).e) :
    ∃ t tm', exec (.rzwait m a pt) s = .next t ∧ s.GoesOn t x.k tm'
      ∧ x.tm.WaitsAt (x.passing f.m) x.off pt.toNat ((x.lead (x.passing f.m)).uNat a % 2 ^ 16) tm' := by
  obtain ⟨tm', hg, hr, hw⟩ := State.rzWait_goesOn (z := pt.toNat) (tok := (x.lead (x.passing f.m)).uNat a % 2 ^ 16) h.team? h.freezing
    (ts := x.passing f.m) fun u hu => Iss.mem_of_passing hu
  exact ⟨_, tm', exec_rzwait.trans (runWord_of_issues h (fun t _ => pointBad_none (by omega)) _), hg, hr, fun u hu => hw u hu (h.passing_lt u hu)⟩

theorem rzarw_goesOn (h : s.Issues (.rzarw m d pt) x f) (hd : s.Drained x) (hne : x.passing f.m ≠ [])
    (hle : (x.tm.point pt.toNat).a + (x.passing f.m).length ≤ (x.tm.point pt.toNat).e) :
    ∃ t a tm', exec (.rzarw m d pt) s = .next t ∧ x.tm.Arrived pt.toNat d.toNat (x.passing f.m) a ∧ s.GoesOn t x.k tm'
      ∧ a.WaitsAt (x.passing f.m) x.off pt.toNat (x.tm.point pt.toNat).p tm' := by
  have hpos := List.length_pos_of_ne_nil hne
  have harr := Team.arriveTo_arrived (d := d.toNat) hne hle
  obtain ⟨tm', hg, hr, hw⟩ := State.rzWait_goesOn (s := s.setTeam x.k (x.tm.arriveTo pt.toNat d.toNat (x.passing f.m))) (z := pt.toNat)
    (tok := (x.tm.point pt.toNat).p) (ts := byLane (x.passing f.m)) State.setTeam_team?_self (harr.freezing.trans h.freezing)
    fun u hu => Iss.mem_of_passing (byLane_perm.mem_iff.1 hu)
  refine ⟨_, _, tm', exec_rzarw.trans (runWord_of_issues h (fun t _ => arrivalBad_none (by omega)) _), harr,
    .of_setTeam (a := x.tm.arriveTo pt.toNat d.toNat (x.passing f.m)) ?_, hr, fun u hu =>
    hw u (byLane_perm.mem_iff.2 hu) (harr.length ▸ h.passing_lt u hu)⟩
  rw [if_neg hne, hd.afterRelease h.team? hne]
  simp only [State.setTeam_team?_self, State.setTeam_setTeam]
  rw [← Team.arriveAll_tokens hne hle] at hg
  exact hg

end

/-! ### The obligation -/

/-- Settles O37: the phase of an arrival is the token of all that arrive with it, and a thread waits on while its point is in the phase of its token. -/
theorem rendezvousWords : Obligations.RendezvousWords := by
  unfold Obligations.RendezvousWords
  refine ⟨fun m d a pt z => ⟨?rzinit, ?rzarv, ?rzcarv, ?rztest⟩, fun m d a pt z => ⟨?rzwait, ?rzarw⟩⟩
  case rzinit =>
    rintro s x f h ⟨hne, rfl, he, ha⟩
    obtain ⟨t, ht, hg⟩ := rzinit_goesOn h hne he ha
    obtain ⟨u, hu, hw⟩ := hg.team?
    refine ⟨t, ht, hg.onlyTeam, fun u r => ?_, u, hu, ?_⟩
    · rw [hg.reg, State.reg_of_team? h.team?]
      rfl
    · rw [Team.point_of_rest hw.rest, Team.setPoint_point]
  case rzarv =>
    rintro s x f h ⟨hd, hne, rfl, -, hle⟩
    obtain ⟨t, tm', ht, ha, hg⟩ := rzarv_goesOn h hd hne hle
    obtain ⟨u, hu, hw⟩ := hg.team?
    refine ⟨t, ht, hg.onlyTeam, fun v hv hn => ?_, u, hu, ?_⟩
    · rw [hg.reg]
      exact ha.token v hv (h.passing_lt v hv) hn
    · rw [Team.point_of_rest hw.rest]
      exact ha.point
  case rzcarv =>
    rintro s x f h ⟨hd, hne, rfl, hc, hle, ha, hj⟩
    obtain ⟨t, ht, hg⟩ := rzcarv_goesOn h hd hne hc hle ha hj
    obtain ⟨u, hu, hw⟩ := hg.team?
    obtain ⟨heq, hreach⟩ := Team.arriveN_reached (fun e => hne (List.length_eq_zero_iff.1 e)) hle
    refine ⟨t, ht, hg.onlyTeam, fun v r => ?_, u, hu, ?_⟩
    · rw [hg.reg, heq, State.reg_of_team? h.team?]
      rfl
    · rw [Team.point_of_rest hw.rest]
      exact hreach
  case rztest =>
    rintro s x f h ⟨rfl, he⟩
    obtain ⟨t, ht, tm', hg, hr⟩ := rztest_goesOn h he
    refine ⟨t, ht, hg.onlyTeam, fun v hv hn => ?_⟩
    rw [hg.reg]
    exact hr v hv hn
  case rzwait =>
    rintro s x f h ⟨hd, hne, rfl, he⟩
    obtain ⟨t, tm', ht, hg, hr, hw⟩ := rzwait_goesOn h he
    refine ⟨t, ht, hg.onlyTeam, fun u r => ?_, fun u hu => ?_⟩
    · rw [hg.reg, hr, State.reg_of_team? h.team?]
    · rw [hg.wait]
      exact hw u hu
  case rzarw =>
    rintro s x f h ⟨hd, hne, ⟨rfl, he⟩, hp, hle⟩
    obtain ⟨t, a, tm', ht, ha, hg, hr, hw⟩ := rzarw_goesOn h hd hne hle
    obtain ⟨-, hin, hout⟩ := ha.point
    refine ⟨t, ht, hg.onlyTeam, fun u hu hn => ?_, fun u hu => ?_⟩
    · rw [hg.reg, hr]
      exact ha.token u hu (h.passing_lt u hu) hn
    · rw [hg.wait]
      obtain ⟨hstay, hleave⟩ := hw u hu
      refine ⟨fun hlt => hstay ?_, fun heq => hleave ?_⟩
      · obtain ⟨-, hp'⟩ := hin hlt
        exact hp'
      · obtain ⟨-, hp'⟩ := hout heq
        omega

end Sys2Proof.Machine
end

section
/-! SUPPORT. Register requests that end (R42 to R44), and the ways of teams to a core and to the store (R47 to R49, R64, R81). Settles O46. -/

namespace Sys2Proof.Machine

set_option Elab.async false

variable {s t : State} {tm tm' : Team} {g v k : Nat}

/-! ### The end of a request -/

theorem Team.modThread_modThread {u : Nat} {f h : Thread → Thread} : (tm.modThread u f).modThread u h = tm.modThread u (h ∘ f) := by
  simp only [Team.modThread_eq, List.modify_modify_eq]

/-- What the end of its group's request does to thread `t`, which then has `n` registers: if it waits for it, it receives `v`. -/
def answer (v n : Nat) (th : Thread) : Thread :=
  if th.wait.kind = .vgrow then { (if th.wait.point + 1 ≤ n then th.putN th.wait.point v 1 else th) with wait := {} } else th

theorem answer_idem {n : Nat} (th : Thread) : answer v n (answer v n th) = answer v n th := by
  by_cases h : th.wait.kind = .vgrow
  · have hw : (answer v n th).wait = {} := by
      rw [answer, if_pos h]
    conv_lhs => rw [answer, hw]
    exact if_neg (by decide)
  · have e : answer v n th = th := if_neg h
    rw [e, e]

/-- A team with its group's request gone. -/
def Team.requestGone (tm : Team) (g : Nat) : Team :=
  { tm with groups := tm.groups.modify g fun x => { x with req := none, waited := 0, mark := none } }

theorem Team.endRequest_maps :
    (tm.requestGone g).Maps ((List.range 32).map (32 * g + ·)) (fun t => answer v ((tm.requestGone g).n t)) (tm.endRequest g v) := by
  have h : (tm.requestGone g).Maps ((List.range 32).map (32 * g + ·)) (fun t => answer v ((tm.requestGone g).n t))
      (((List.range 32).map (32 * g + ·)).foldl (fun tm t =>
        if (tm.thread t).wait.kind = .vgrow then (tm.putRegs t (tm.thread t).wait.point v 1).modThread t fun th => { th with wait := {} } else tm)
        (tm.requestGone g)) := by
    refine Team.foldl_maps (fun _ => answer_idem) fun acc t e => ?_
    have hn : acc.n t = (tm.requestGone g).n t := by rw [e]; rfl
    split
    · rename_i hk
      unfold Team.putRegs
      split
      · rename_i hp
        rw [Team.modThread_modThread]
        exact Team.modThread_congr (by rw [answer, if_pos hk, if_pos (hn ▸ hp)]; rfl)
      · rename_i hp
        exact Team.modThread_congr (by rw [answer, if_pos hk, if_neg (hn ▸ hp)])
    · rename_i hk
      exact (Team.modThread_eq_self (f := answer v _) (if_neg hk)).symm
  rw [List.foldl_map] at h
  exact h

/-- A group's request has ended: the group has `n` registers, and those of its threads that waited received `v`. -/
structure Team.Answered (tm : Team) (g v n : Nat) (tm' : Team) : Prop where
  group : (tm'.groups[g]?).map (fun x => (x.n, x.req)) = some (n, none)
  other : ∀ th, th / 32 ≠ g → tm'.thread th = tm.thread th
  waited : ∀ th, th / 32 = g → th < tm.threads.length → (tm.thread th).wait.kind = .vgrow → (tm'.thread th).wait = {}
    ∧ ((tm.thread th).wait.point < n → (tm'.thread th).get (tm.thread th).wait.point = BitVec.ofNat 32 v)

theorem Team.endRequest_answered {x : Group} (h : tm.groups[g]? = some x) : tm.Answered g v x.n (tm.endRequest g v) := by
  have hm := Team.endRequest_maps (tm := tm) (g := g) (v := v)
  have hgr : ((tm.requestGone g).groups[g]?).map (fun x => (x.n, x.req)) = some (x.n, none) := by
    simp [Team.requestGone, h]
  have hn : ∀ th, th / 32 = g → (tm.requestGone g).n th = x.n := fun th hth => by
    simp [Team.n, Team.requestGone, hth, h]
  refine ⟨?_, fun th hth => ?_, fun th hth hl hk => ?_⟩
  · rw [hm.eq]
    exact hgr
  · rw [hm.thread, if_neg fun ⟨hin, _⟩ => hth (mem_group.1 hin)]
    rfl
  · have e : (tm.endRequest g v).thread th = answer v x.n (tm.thread th) := by
      rw [hm.mem (mem_group.2 hth) hl, hn th hth]
      rfl
    rw [e, answer, if_pos hk]
    refine ⟨rfl, fun hp => ?_⟩
    rw [if_pos (Nat.succ_le_of_lt hp)]
    exact (Thread.get_put _ _ _ _).trans (if_pos rfl)

theorem Team.grant_answered {x : Group} {m : Nat} (h : tm.groups[g]? = some x) (hr : x.req = some m) :
    tm.Answered g (max x.n m) (max x.n m) (tm.grant g) := by
  have e : tm.grant g = ({ tm with groups := tm.groups.modify g fun x => { x with n := max x.n m } } : Team).endRequest g (max x.n m) := by
    simp only [Team.grant, h, hr]
  have ha := Team.endRequest_answered (tm := { tm with groups := tm.groups.modify g fun x => { x with n := max x.n m } }) (g := g) (v := max x.n m)
    (x := { x with n := max x.n m }) (by simp [h])
  rw [e]
  exact ⟨ha.group, ha.other, ha.waited⟩

/-! ### Grants and denials -/

theorem exec_vgrowGrant {col slot group : Nat} : exec (.vgrowGrant col slot group) s = execVgrowGrant col slot group s := rfl
theorem exec_vgrowDenialTooLong {col slot group : Nat} : exec (.vgrowDenialTooLong col slot group) s = execVgrowDenialTooLong col slot group s := rfl
theorem exec_vgrowDenialAllWaiting {col layer : Nat} : exec (.vgrowDenialAllWaiting col layer) s = execVgrowDenialAllWaiting col layer s := rfl

theorem vgrowGrant_eq {col slot : Nat} (h : s.team? (teamKey col slot) = some tm) (hg : s.grantable (teamKey col slot) g = true) :
    exec (.vgrowGrant col slot g) s = .next (s.setTeam (teamKey col slot) (tm.grant g)) := by
  rw [exec_vgrowGrant, execVgrowGrant, if_pos hg, State.modTeam_of_team? h]

theorem vgrowDenialTooLong_eq {col slot l : Nat} {x : Group} (h : s.team? (teamKey col slot) = some tm) (hp : tm.layer? = some l)
    (hx : tm.groups[g]? = some x) (hr : x.req.isSome = true) (hm : s.migrating (teamKey col slot) = false)
    (hg : s.grantable (teamKey col slot) g = false) (hc : 65536 ≤ x.cycles (s.clock col)) :
    exec (.vgrowDenialTooLong col slot g) s = .next (s.setTeam (teamKey col slot) (tm.endRequest g 0)) := by
  simp only [exec_vgrowDenialTooLong, execVgrowDenialTooLong, h, hp, hx]
  rw [if_pos ⟨hm, hr, hc, hg⟩, State.modTeam_of_team? h]

theorem Rising.sfind_of_mem {α : Type} {l : List (Nat × α)} {j : Nat} {a : α} (h : Rising l) (hm : (j, a) ∈ l) : sfind l j = some a := by
  induction l with
  | nil => cases hm
  | cons p l ih =>
    obtain ⟨hlt, hl⟩ := List.pairwise_cons.1 h
    unfold sfind
    rcases List.mem_cons.1 hm with rfl | hm
    · exact if_pos rfl
    · have hj : p.1 < j := hlt j (List.mem_map_of_mem hm)
      rw [if_neg (by omega), if_neg (by omega)]
      exact ih hl hm

theorem State.team?_of_mem {p : Nat × Team} (h : s.ordered) (hp : p ∈ s.teams) : s.team? p.1 = some p.2 := by
  obtain ⟨ht, -⟩ := h
  exact Rising.sfind_of_mem ht hp

theorem teamCol_teamKey {col slot : Nat} (h : slot < 32) : teamCol (teamKey col slot) = col := by
  unfold teamCol teamKey
  omega

theorem State.mem_teamsOf {p : Nat × Team} {c : Nat} : p ∈ s.teamsOf c ↔ p ∈ s.teams ∧ teamCol p.1 = c := by
  simp [State.teamsOf]

theorem eq_singleton_of_nodup {α : Type} {l : List α} {a : α} (h : l.Nodup) (hall : ∀ b ∈ l, b = a) (ha : a ∈ l) : l = [a] :=
  List.perm_singleton.1 ((List.perm_ext_iff_of_nodup h (List.nodup_singleton a)).2 fun b => by
    rw [List.mem_singleton]
    exact ⟨hall b, fun e => e ▸ ha⟩)

/-- The groups of a team with a pending request. -/
def Team.asking (tm : Team) : List Nat := (tm.groups.zipIdx.filter fun g => g.1.req.isSome).map Prod.snd

theorem Team.asking_eq {x : Group} (hx : tm.groups[g]? = some x) (hr : x.req.isSome = true)
    (h : ∀ j y, tm.groups[j]? = some y → y.req ≠ none → j = g) : tm.asking = [g] := by
  have hnd : tm.asking.Nodup := by
    have hs : tm.asking.Sublist (tm.groups.zipIdx.map Prod.snd) := List.filter_sublist.map _
    rw [List.zipIdx_map_snd] at hs
    exact hs.nodup List.nodup_range'
  have hall : ∀ j ∈ tm.asking, j = g := fun j hj => by
    obtain ⟨p, hp, rfl⟩ := List.mem_map.1 hj
    obtain ⟨hp, hpr⟩ := List.mem_filter.1 hp
    exact h p.2 p.1 (List.mem_zipIdx_iff_getElem?.1 hp) (Option.isSome_iff_ne_none.1 hpr)
  have hg : g ∈ tm.asking :=
    List.mem_map.2 ⟨(x, g), List.mem_filter.2 ⟨List.mem_zipIdx_iff_getElem?.2 hx, hr⟩, rfl⟩
  exact eq_singleton_of_nodup hnd hall hg

/-- Of the teams of a core with a pending request, only one: its request is denied, with every group of the core finished or stuck. -/
theorem vgrowDenialAllWaiting_eq {col slot layer : Nat} {x : Group} (hs : slot < 32) (h : s.team? (teamKey col slot) = some tm)
    (hp : tm.layer? = some layer) (hw : tm.waitsEnd = true) (hx : tm.groups[g]? = some x) (hr : x.req.isSome = true)
    (hg : s.grantable (teamKey col slot) g = false) (hone : ∀ p ∈ s.teamsOf col, p.2.layer? = some layer → p.1 = teamKey col slot) (ho : s.ordered)
    (hst : ∀ j, j < tm.groups.length → tm.finishedOrStuck j = true) (hreq : ∀ j y, tm.groups[j]? = some y → y.req ≠ none → j = g) :
    exec (.vgrowDenialAllWaiting col layer) s = .next (s.setTeam (teamKey col slot) (tm.endRequest g 0)) := by
  have hask : tm.asking = [g] := Team.asking_eq hx hr hreq
  have hteams : (s.teamsOf col).filter (fun p => p.2.layer? = some layer) = [(teamKey col slot, tm)] := by
    refine eq_singleton_of_nodup ?_ (fun p hm => ?_) (List.mem_filter.2 ⟨State.mem_teamsOf.2 ⟨mem_of_sfind h, teamCol_teamKey hs⟩, decide_eq_true hp⟩)
    · obtain ⟨ht, -⟩ := ho
      have hnd : s.teams.Nodup := List.Nodup.of_map Prod.fst (List.Pairwise.imp Nat.ne_of_lt ht)
      exact (hnd.filter _).filter _
    · obtain ⟨hm, hl⟩ := List.mem_filter.1 hm
      have hk := hone p hm (of_decide_eq_true hl)
      have ht := State.team?_of_mem ho (State.mem_teamsOf.1 hm).1
      rw [hk, h] at ht
      exact Prod.ext hk (Option.some.inj ht).symm
  have hstuck : ((List.range tm.groups.length).all fun j => tm.finishedOrStuck j) = true := List.all_eq_true.2 fun j hj => hst j (List.mem_range.1 hj)
  unfold Team.asking at hask
  rw [exec_vgrowDenialAllWaiting, execVgrowDenialAllWaiting]
  simp only [hteams, List.filter_cons, hask]
  simp [hask, hstuck, hg, hw, State.modTeam_of_team? h]

/-! ### Transfers -/

/-- `t` is `s` but for columns, lanes and transfers on their way: teams, memory and device registers are those of `s`. -/
structure State.MovesOnly (s t : State) : Prop where
  teams : t.teams = s.teams
  mem : s.SameMem t
  csr : t.csr = s.csr

theorem State.startPath_movesOnly {c : Nat} {p : Path} : s.MovesOnly (s.startPath c p) := by
  unfold State.startPath
  extract_lets u
  split
  · split
    · exact ⟨rfl, ⟨rfl, rfl, rfl⟩, rfl⟩
    · exact ⟨rfl, ⟨rfl, rfl, rfl⟩, rfl⟩
  · exact ⟨rfl, ⟨rfl, rfl, rfl⟩, rfl⟩

theorem State.startTransfer_movesOnly {c e : Nat} {p : Path} : s.MovesOnly (s.startTransfer c e p) := by
  obtain ⟨ht, ⟨hm, hw, hp⟩, hc⟩ := State.startPath_movesOnly (s := s) (c := c) (p := p)
  exact ⟨ht, ⟨hm, hw, hp⟩, hc⟩

/-- A team that begins a transfer is left as it stands in registers, and every other team, memory and the device registers as they were. -/
theorem State.MovesOnly.alone {u : State} (h : s.MovesOnly u) (hs : s.team? k = some tm) (hth : tm'.threads = tm.threads) :
    (∀ j, j ≠ k → (u.setTeam k tm').team? j = s.team? j) ∧ s.SameMem (u.setTeam k tm') ∧ (u.setTeam k tm').csr = s.csr
      ∧ ∀ th r, (u.setTeam k tm').reg k th r = s.reg k th r := by
  obtain ⟨ht, ⟨hm, hw, hp⟩, hc⟩ := h
  refine ⟨fun j hj => ?_, ⟨hm, hw, hp⟩, hc, fun th r => ?_⟩
  · rw [State.setTeam_team?, if_neg hj]
    exact congrArg (sfind · j) ht
  · rw [State.reg_of_team? State.setTeam_team?_self, State.reg_of_team? hs, Team.thread, Team.thread, hth]

theorem State.holdTransfer_teams {c e : Nat} : (s.holdTransfer c e).teams = s.teams := rfl

theorem State.mem_holdTransfer {c e : Nat} : e ∈ ((s.holdTransfer c e).col c).heldX := by
  unfold State.holdTransfer State.modCol
  rw [State.setCol_col, if_pos rfl]
  dsimp only
  split
  · exact List.contains_iff_mem.1 ‹_›
  · simp

theorem exec_parkedTeamPlace {col slot : Nat} : exec (.parkedTeamPlace col slot) s = execParkedTeamPlace col slot s := rfl
theorem exec_parkingPlacingComplete {col slot : Nat} : exec (.parkingPlacingComplete col slot) s = execParkingPlacingComplete col slot s := rfl

/-- The team is the first ready parked team of its column. -/
def State.FirstParked (s : State) (col k : Nat) (tm : Team) : Prop := s.team? k = some tm ∧ tm.place = .parked ∧ s.teamReady tm = true
  ∧ ∀ p ∈ s.teamsOf col, p.1 ≠ k → p.2.place = .parked → s.teamReady p.2 = true → tm.readyAt < p.2.readyAt

/-- What is done for the first ready parked team of a column. -/
def State.placeParked (s : State) (col slot k : Nat) (tm : Team) : State :=
  match s.chooseCore col k tm with
  | some l =>
    if s.mayTransfer col slot (fromStore l) then (s.startTransfer col slot (fromStore l)).setTeam k { tm with place := .moving 0 l }
    else s.holdTransfer col slot
  | none =>
    if (s.teamsOf col).any fun p => p.2.parking then s
    else
      match s.victim col with
      | some v => s.modTeam v fun tm => { tm with parking := true, haltAt := s.cyc }
      | none => s

theorem parkedTeamPlace_eq {col slot : Nat} (h : s.FirstParked col (teamKey col slot) tm) :
    exec (.parkedTeamPlace col slot) s = .next (s.placeParked col slot (teamKey col slot) tm) := by
  obtain ⟨ht, hp, hr, hf⟩ := h
  rw [exec_parkedTeamPlace, execParkedTeamPlace]
  have hfirst : ((s.teamsOf col).all fun p => !(p.2.place == .parked && s.teamReady p.2) || p.1 == teamKey col slot || decide (tm.readyAt < p.2.readyAt)
      || (tm.readyAt == p.2.readyAt && decide (teamKey col slot < p.1))) = true := List.all_eq_true.2 fun p hpm => by
    by_cases hk : p.1 = teamKey col slot
    · simp [hk]
    by_cases hready : p.2.place = .parked ∧ s.teamReady p.2 = true
    · obtain ⟨hpp, hpr⟩ := hready
      simp [hf p hpm hk hpp hpr]
    · have e : (p.2.place == .parked && s.teamReady p.2) = false := by simpa using hready
      simp [e]
  simp only [ht, hfirst]
  exact congrArg Host.Outcome.next (if_neg (by simp [hp, hr]))

theorem Team.allHalted_of_allAtRest (h : tm.allAtRest = true) : tm.allHalted = true :=
  List.all_eq_true.2 fun b hb => (Bool.and_eq_true_iff.1 (List.all_eq_true.1 h b hb)).1

theorem State.mayPark_of_allAtRest (h : tm.allAtRest = true) : s.mayPark tm = true := by
  unfold State.mayPark
  split
  · exact Team.allHalted_of_allAtRest h
  · exact h

theorem State.settle_setTeam (h : tm.freezing = none) : (s.setTeam k tm).settle k = s.setTeam k tm :=
  State.settle_of_not_freezing State.setTeam_team?_self h

/-- A placed team's transfer ends: it executes on its core. -/
theorem placingComplete_eq {col slot l : Nat} (h : s.team? (teamKey col slot) = some tm) (hp : tm.place = .moving 0 l) (hf : tm.freezing = none)
    (hh : s.pathHeld col (fromStore l) true = false) : exec (.parkingPlacingComplete col slot) s
      = .next ((s.markPath col (fromStore l)).setTeam (teamKey col slot) (tm.onto l s.dt s.cyc (s.clock col))) := by
  rw [exec_parkingPlacingComplete, execParkingPlacingComplete]
  simp only [h, hp, hh]
  exact congrArg Host.Outcome.next ((if_neg Bool.false_ne_true).trans (State.settle_setTeam hf))

/-- A parked team's transfer ends. -/
theorem parkingComplete_eq {col slot l : Nat} (hl : 0 < l) (h : s.team? (teamKey col slot) = some tm) (hp : tm.place = .moving l 0) (hf : tm.freezing = none)
    (hh : s.pathHeld col (toStore l) true = false) : exec (.parkingPlacingComplete col slot) s
      = .next ((s.markPath col (toStore l)).setTeam (teamKey col slot) { tm with place := .parked, parking := false, readyAt := s.dt }) := by
  obtain ⟨n, rfl⟩ := Nat.exists_eq_succ_of_ne_zero hl.ne'
  rw [exec_parkingPlacingComplete, execParkingPlacingComplete]
  simp only [h, hp, hh]
  exact congrArg Host.Outcome.next ((if_neg Bool.false_ne_true).trans (State.settle_setTeam hf))

/-- A victim whose bundles have halted begins its way to the store. -/
theorem parkingStart_eq {col slot l : Nat} (h : s.team? (teamKey col slot) = some tm) (hp : tm.place = .core l) (hpk : tm.parking = true)
    (hr : tm.allAtRest = true) (hm : s.migrating (teamKey col slot) = false) (ht : s.mayTransfer col slot (toStore l) = true) :
    exec (.parkingPlacingComplete col slot) s
      = .next ((s.startTransfer col slot (toStore l)).setTeam (teamKey col slot) (tm.leave s.dt (s.clock col) (.moving l 0))) := by
  have hto : s.toPark tm = true := by simp [State.toPark, hpk]
  rw [exec_parkingPlacingComplete, execParkingPlacingComplete]
  simp only [h, hp, hto, State.mayPark_of_allAtRest hr, hm, ht]
  rfl

/-! ### The obligation -/

theorem Team.Answered.answered {n : Nat} {w : Word} (h : tm.Answered g v n tm') (hw : BitVec.ofNat 32 v = w) (k : Nat) :
    s.OnlyTeam (s.setTeam k tm') k ∧ ∃ tm'', (s.setTeam k tm').team? k = some tm'' ∧ (tm''.groups[g]?).map (fun x => (x.n, x.req)) = some (n, none)
      ∧ (∀ th, th / 32 ≠ g → tm''.thread th = tm.thread th) ∧ ∀ th, th / 32 = g → th < tm.threads.length → (tm.thread th).wait.kind = .vgrow →
        (tm''.thread th).wait = {} ∧ ((tm.thread th).wait.point < n → (tm''.thread th).get (tm.thread th).wait.point = w) := by
  subst hw
  exact ⟨⟨tm', rfl⟩, tm', State.setTeam_team?_self, h.group, h.other, h.waited⟩

/-- Settles O46: requests end by `Team.endRequest`, and transfers change of a team its place and what follows from it. -/
theorem registerRequestsAndParking : Obligations.RegisterRequestsAndParking := by
  unfold Obligations.RegisterRequestsAndParking
  refine ⟨fun col slot layer group m tm g => ⟨?grant, ?tooLong, fun hs => ?allWaiting⟩,
    fun col slot l tm => ⟨?start, ?hold, fun v vt hv => ?victim, ?placed, ?leaves, fun hl => ?parked⟩⟩
  case grant =>
    rintro s ⟨⟨h, hx, hr, -⟩, hg⟩
    exact ⟨_, vgrowGrant_eq h hg, (Team.grant_answered hx hr).answered rfl _⟩
  case tooLong =>
    rintro s ⟨⟨h, hx, hr, hp⟩, hm, hg, hc⟩
    obtain ⟨l, hp⟩ := Option.ne_none_iff_exists'.1 hp
    exact ⟨_, vgrowDenialTooLong_eq h hp hx (by rw [hr]; rfl) hm hg hc, (Team.endRequest_answered hx).answered rfl _⟩
  case allWaiting =>
    rintro s ⟨⟨h, hx, hr, -⟩, hw, hp, hg, hone, ho, hst, hreq⟩
    exact ⟨_, vgrowDenialAllWaiting_eq hs h hp hw hx (by rw [hr]; rfl) hg hone ho hst hreq, (Team.endRequest_answered hx).answered rfl _⟩
  case start =>
    rintro s ⟨hf, hc, ht⟩
    obtain ⟨h, -⟩ := id hf
    refine ⟨_, parkedTeamPlace_eq hf, ?_⟩
    simp only [State.placeParked, hc, ht, if_true]
    exact ⟨State.startTransfer_movesOnly.alone h rfl, State.setTeam_team?_self⟩
  case hold =>
    rintro s ⟨hf, hc, ht⟩
    refine ⟨_, parkedTeamPlace_eq hf, ?_⟩
    simp only [State.placeParked, hc, ht, Bool.false_eq_true, if_false]
    exact ⟨rfl, State.mem_holdTransfer⟩
  case victim =>
    rintro s ⟨hf, hc, hpk, hvic, hvt⟩
    obtain ⟨h, -⟩ := id hf
    have hany : ((s.teamsOf col).any fun p => p.2.parking) = false := List.any_eq_false.2 fun p hp => by simp [hpk p hp]
    refine ⟨_, parkedTeamPlace_eq hf, ?_⟩
    simp only [State.placeParked, hc, hany, hvic, Bool.false_eq_true, if_false, State.modTeam_of_team? hvt]
    refine ⟨⟨_, rfl⟩, ?_, State.setTeam_team?_self⟩
    rw [State.setTeam_team?, if_neg hv.symm, h]
  case placed =>
    rintro s ⟨h, hp, hf, hh⟩
    refine ⟨_, placingComplete_eq h hp hf hh, ⟨_, rfl⟩, fun th r => ?_, _, State.setTeam_team?_self, rfl, rfl, rfl, fun b hb => ?_⟩
    · rw [State.reg_of_team? State.setTeam_team?_self, State.reg_of_team? h]
      rfl
    · obtain ⟨b', -, rfl⟩ := List.mem_map.1 hb
      exact ⟨rfl, rfl⟩
  case leaves =>
    rintro s ⟨h, hp, hpk, hr, hm, ht⟩
    refine ⟨_, parkingStart_eq h hp hpk hr hm ht, State.startTransfer_movesOnly.alone h rfl, _, State.setTeam_team?_self, rfl, fun b hb => ?_⟩
    obtain ⟨b', -, rfl⟩ := List.mem_map.1 hb
    rfl
  case parked =>
    rintro s ⟨h, hp, hf, hh⟩
    exact ⟨_, parkingComplete_eq hl h hp hf hh, ⟨_, rfl⟩, State.setTeam_team?_self⟩

end Sys2Proof.Machine
end

section
/-! SUPPORT. Reading code reads no team and changes none: a fetch with other teams in the slots gives the same bytes, and the same state but for those teams. -/

namespace Sys2Proof.Machine

set_option Elab.async false

variable {s : State} {T : List (Nat × Team)} {col own me : Option Nat} {ck kind va n fn key : Nat} {x : Xlat} {write priv sys : Bool}

/-- The state with other teams. -/
def State.withTeams (s : State) (T : List (Nat × Team)) : State := { s with teams := T }

@[simp] theorem State.withTeams_cyc : (s.withTeams T).cyc = s.cyc := rfl
@[simp] theorem State.withTeams_rget : (s.withTeams T).rget key = s.rget key := rfl
@[simp] theorem State.withTeams_rbits {a b : Nat} : (s.withTeams T).rbits key a b = s.rbits key a b := rfl
@[simp] theorem State.withTeams_winOf : (s.withTeams T).winOf ck va = s.winOf ck va := rfl
@[simp] theorem State.withTeams_winHeld : (s.withTeams T).winHeld ck va = s.winHeld ck va := rfl
@[simp] theorem State.withTeams_xlatOf : (s.withTeams T).xlatOf col ck va = s.xlatOf col ck va := rfl
@[simp] theorem State.withTeams_judgeLeaf : (s.withTeams T).judgeLeaf x va kind write priv = s.judgeLeaf x va kind write priv := rfl
@[simp] theorem State.withTeams_isPoison : (s.withTeams T).isPoison n = s.isPoison n := rfl
@[simp] theorem State.withTeams_entryIllegal {e : List Word} : (s.withTeams T).entryIllegal e n = s.entryIllegal e n := rfl
@[simp] theorem State.withTeams_tplaitLegal : (s.withTeams T).tplaitLegal ck = s.tplaitLegal ck := rfl
@[simp] theorem State.withTeams_pageReqs : (s.withTeams T).pageReqs = s.pageReqs := rfl
@[simp] theorem State.withTeams_byteAt : (s.withTeams T).byteAt key = s.byteAt key := rfl
@[simp] theorem State.withTeams_heldFor : (s.withTeams T).heldFor me key = s.heldFor me key := rfl
@[simp] theorem State.withTeams_ownByte {c : Nat} : (s.withTeams T).ownByte c key = s.ownByte c key := rfl
@[simp] theorem State.withTeams_ownWait {c : Nat} : (s.withTeams T).ownWait c key = s.ownWait c key := rfl
@[simp] theorem State.withTeams_targetUp {t : Target} : (s.withTeams T).targetUp t = s.targetUp t := rfl
@[simp] theorem State.withTeams_poisoned {t : Target} : (s.withTeams T).poisoned t = s.poisoned t := rfl

@[simp] theorem State.withTeams_bytesAt : (s.withTeams T).bytesAt key n = s.bytesAt key n := by
  induction n generalizing key with
  | zero => rfl
  | succ n ih => simp only [State.bytesAt, ih, State.withTeams_byteAt]

@[simp] theorem State.withTeams_walkFrom {p : Word} {t : Nat} : (s.withTeams T).walkFrom p va n t = s.walkFrom p va n t := by
  induction n generalizing t with
  | zero => rfl
  | succ n ih =>
    unfold State.walkFrom
    dsimp only
    rw [State.withTeams_isPoison]
    split
    · rfl
    rw [State.withTeams_bytesAt]
    split
    · rfl
    rw [State.withTeams_entryIllegal]
    split
    · rfl
    split
    · rfl
    · exact ih

@[simp] theorem State.withTeams_walk : (s.withTeams T).walk ck va = s.walk ck va := by
  unfold State.walk
  simp only [State.withTeams_walkFrom, State.withTeams_tplaitLegal, State.withTeams_rbits, State.withTeams_rget]

theorem State.askAts_withTeams : (s.withTeams T).askAts col ck va = (s.askAts col ck va).withTeams T := by
  unfold State.askAts
  by_cases h : s.atsAsked.contains (cacheNo col, ck, va / 4096) = true
  · rw [if_pos h]
    exact if_pos h
  · rw [if_neg h]
    exact if_neg h

theorem State.sendPage_withTeams : (s.withTeams T).sendPage fn = (s.sendPage fn).withTeams T := by
  unfold State.sendPage
  rw [State.withTeams_pageReqs]
  split
  · by_cases h : s.pagesSent fn < 32 + Config.pageAllocation fn
    · rw [if_pos h]
      exact if_pos h
    · rw [if_neg h]
      exact if_neg h
  · rfl

theorem State.requestPage_withTeams : (s.withTeams T).requestPage ck va write = (s.requestPage ck va write).withTeams T := by
  unfold State.requestPage
  simp only [State.withTeams_rbits, State.withTeams_pageReqs]
  split
  · split <;> rfl
  · exact State.sendPage_withTeams (s := { s with pageReqs := _ })

theorem State.xlatKeep_withTeams : (s.withTeams T).xlatKeep col x = (s.xlatKeep col x).withTeams T := by
  unfold State.xlatKeep
  dsimp only
  split
  · rfl
  · split <;> rfl

theorem State.xlateLeaf_withTeams :
    (s.withTeams T).xlateLeaf col x va kind write priv = Prod.map (State.withTeams · T) id (s.xlateLeaf col x va kind write priv) := by
  unfold State.xlateLeaf
  simp only [State.withTeams_judgeLeaf]
  split
  · split
    · simp [State.askAts_withTeams]
    · simp [State.requestPage_withTeams]
  · rfl

theorem State.xlate_withTeams :
    (s.withTeams T).xlate col ck va kind write priv sys = Prod.map (State.withTeams · T) id (s.xlate col ck va kind write priv sys) := by
  unfold State.xlate
  simp only [State.withTeams_rbits, State.withTeams_winHeld, State.withTeams_winOf, State.withTeams_xlatOf, State.withTeams_walk]
  split
  · rfl
  split
  · rfl
  split
  · split
    · rfl
    split
    · rfl
    split <;> rfl
  split
  · exact State.xlateLeaf_withTeams
  split
  · rfl
  · split
    · exact State.xlateLeaf_withTeams
    · rw [State.xlatKeep_withTeams]
      exact State.xlateLeaf_withTeams

theorem State.xlateAgent_withTeams :
    (s.withTeams T).xlateAgent col ck va kind write priv sys = Prod.map (State.withTeams · T) id (s.xlateAgent col ck va kind write priv sys) := by
  unfold State.xlateAgent
  rw [State.xlate_withTeams]
  obtain ⟨u, r⟩ := s.xlate col ck va kind write priv sys
  dsimp only [Prod.map, id]
  split <;> split <;> simp_all

theorem State.agentByte_withTeams :
    (s.withTeams T).agentByte col own me ck kind priv va = Prod.map (State.withTeams · T) id (s.agentByte col own me ck kind priv va) := by
  unfold State.agentByte
  rw [State.xlateAgent_withTeams]
  split
  · rfl
  obtain ⟨u, r⟩ := s.xlateAgent col ck va kind false priv false
  cases r with
  | error e => rfl
  | ok tgt =>
    simp only [apply_ite (Prod.map (State.withTeams · T) id), Prod.map_apply, id_eq, State.withTeams_ownByte, State.withTeams_ownWait,
      State.withTeams_heldFor, State.withTeams_targetUp, State.withTeams_byteAt,
      State.withTeams_poisoned, State.withTeams_cyc]
    rfl

theorem State.agentBytes_withTeams :
    (s.withTeams T).agentBytes col own me ck kind priv va n = Prod.map (State.withTeams · T) id (s.agentBytes col own me ck kind priv va n) := by
  induction n generalizing s va with
  | zero => rfl
  | succ n ih =>
    unfold State.agentBytes
    rw [State.agentByte_withTeams]
    obtain ⟨u, r⟩ := s.agentByte col own me ck kind priv va
    cases r with
    | error e => rfl
    | ok b =>
      dsimp only [Prod.map, id]
      rw [ih]
      rfl

theorem State.sendReads_withTeams {β : Type} {l : List (Target × β)} : (s.withTeams T).sendReads ck l = (s.sendReads ck l).withTeams T := by
  unfold State.sendReads
  induction targetPieces l generalizing s with
  | nil => rfl
  | cons p ps ih =>
    simp only [List.foldl_cons]
    rw [← ih]
    congr 1
    obtain ⟨t, bs⟩ := p
    cases t <;> rfl

theorem State.fetch_withTeams {k pc : Nat} {tm um : Team} (hc : s.teamCtx um = s.teamCtx tm) (hp : s.teamPriv um = s.teamPriv tm) :
    (s.withTeams T).fetch k um pc n = Prod.map (State.withTeams · T) id (s.fetch k tm pc n) := by
  have e1 : (s.withTeams T).teamCtx um = s.teamCtx tm := hc
  have e2 : (s.withTeams T).teamPriv um = s.teamPriv tm := hp
  unfold State.fetch State.colRead State.agentRead
  rw [e1, e2, State.agentBytes_withTeams]
  obtain ⟨u, l, e⟩ := s.agentBytes (some (teamCol k)) (some (teamCol k)) none (s.teamCtx tm) kFetch (s.teamPriv tm) pc n
  dsimp only [Prod.map, id]
  cases e with
  | some e => rfl
  | none =>
    dsimp only
    split
    · rfl
    · rw [State.sendReads_withTeams]

end Sys2Proof.Machine
end

section
/-! SUPPORT. The start of a clause (R60, R233, R236): the words a bundle latches, and the bundle that parts at its header. -/

namespace Sys2Proof.Machine

set_option Elab.async false

variable {s u v : State} {tm um : Team} {k idx : Nat} {b : Bundle} {ts : List Nat} {hd : Header} {c : Clause} {hb ws : List Byte}

/-- A team whose bundle `idx`, with the threads `ts`, has latched a clause: no thread of them waits, and the pending state that WAIT names has ended. -/
def Team.latched (tm : Team) (idx : Nat) (ts : List Nat) (wait : BitVec 12) (c : Clause) : Team :=
  { (tm.modThreads (fun th => { th with wait := {} }) ts).modThreads (fun th => th.endPend wait) ts with
    bundles := ((tm.modThreads (fun th => { th with wait := {} }) ts).modThreads (fun th => th.endPend wait) ts).bundles.modify idx fun b =>
      { b with clause := some c, pos := 0, issued := false, active := true, yielded := false } }

/-- The threads of a team whose bundle has latched a clause. -/
theorem Team.latched_maps {wait : BitVec 12} : tm.Maps ts (fun _ th => Thread.endPend { th with wait := {} } wait)
    ((tm.modThreads (fun th => { th with wait := {} }) ts).modThreads (fun th => th.endPend wait) ts) :=
  Team.Maps.trans (f := fun _ th => { th with wait := {} }) (g := fun _ th => th.endPend wait) (Team.modThreads_maps fun _ => rfl)
    (Team.modThreads_maps fun th => by simp [Thread.endPend])

theorem Team.latched_bundles {wait : BitVec 12} : (tm.latched idx ts wait c).bundles
    = tm.bundles.modify idx fun b => { b with clause := some c, pos := 0, issued := false, active := true, yielded := false } := by
  unfold Team.latched
  rw [Team.latched_maps.bundles]

theorem Thread.waitClear_iff {th : Thread} {wait : BitVec 12} : th.waitClear wait = true ↔ ∀ i, i < 12 → wait.getLsbD i = true → th.flag i = 0 := by
  simp only [Thread.waitClear, List.all_eq_true, List.mem_range, Bool.or_eq_true, Bool.not_eq_true', beq_iff_eq]
  refine forall_congr' fun i => forall_congr' fun _ => ?_
  cases wait.getLsbD i <;> simp

/-- What a fetch needs of a state does not depend on the team in a slot: with another team there, it gives the same bytes. -/
theorem State.fetch_setTeam {pc n : Nat} {r : Except (Nat × Nat × Nat) (List Byte)} {a : Team} (h : s.fetch k tm pc n = (u, r)) :
    (s.setTeam k a).fetch k tm pc n = (u.setTeam k a, r) := by
  have h0 : (s.withTeams s.teams).fetch k tm pc n = (u.withTeams s.teams, r) := by rw [State.fetch_withTeams rfl rfl, h]; rfl
  have hu : u = u.withTeams s.teams := congrArg Prod.fst (h.symm.trans h0)
  have h1 : (s.withTeams (sins s.teams k a)).fetch k tm pc n = (u.withTeams (sins s.teams k a), r) := by rw [State.fetch_withTeams rfl rfl, h]; rfl
  refine h1.trans (Prod.ext ?_ rfl)
  rw [hu]
  rfl

/-- A fetch reads for a team what its grid says: its context and its privilege. -/
theorem State.fetch_team?_eq {pc n : Nat} {r : Except (Nat × Nat × Nat) (List Byte)} (h : s.fetch k tm pc n = (u, r)) : u.team? k = s.team? k := by
  have h0 : (s.withTeams s.teams).fetch k tm pc n = (u.withTeams s.teams, r) := by rw [State.fetch_withTeams rfl rfl, h]; rfl
  have hu : u = u.withTeams s.teams := congrArg Prod.fst (h.symm.trans h0)
  rw [hu]
  rfl

/-- What a bundle finds at its header when its clause starts (R233, R236). -/
structure State.Latches (s : State) (k : Nat) (tm : Team) (b : Bundle) (hd : Header) (c : Clause) (v : State) : Prop where
  team : s.team? k = some tm
  words : ∃ u hb ws, s.fetch k tm (tm.pcOf b) 4 = (u, .ok hb) ∧ decodeHeader (nw (leNat hb)) = .ok hd
    ∧ u.fetch k tm ((tm.pcOf b + 4) % 2 ^ 52) (4 * hd.len) = (v, .ok ws) ∧ decodeClause (nw (leNat hb)) (bytesWords ws) = .ok c
  clear : ∀ t ∈ b.threads, (tm.thread t).waitClear hd.wait = true

theorem State.startClause_eq (h : s.Latches k tm b hd c v) : s.startClause k idx tm b = v.setTeam k (tm.latched idx b.threads hd.wait c) := by
  obtain ⟨ht, ⟨u, hb, ws, h1, hhd, h2, hc⟩, hcl⟩ := h
  have hw : (b.threads.any fun t => !(tm.thread t).waitClear hd.wait) = false :=
    List.any_eq_false.2 fun t ht => by simp [hcl t ht]
  unfold State.startClause
  simp only [State.modThreads, State.modTeam_of_team? ht, State.fetch_setTeam h1, hhd, hw, Bool.false_eq_true, if_false, State.fetch_setTeam h2, hc,
    State.modTeam_of_team? State.setTeam_team?_self, State.setTeam_setTeam, State.modBundle]
  rfl

/-- A team that has started a clause: it has issued on its core. -/
def Team.begun (tm : Team) (now clk : Nat) : Team :=
  if ((tm.firstIssue now clk).bundles.any fun c => c.clause.isSome) then { tm.firstIssue now clk with fresh := false, engAt := none }
  else tm.firstIssue now clk

theorem Team.firstIssue_bundles {now clk : Nat} : (tm.firstIssue now clk).bundles = tm.bundles := by
  unfold Team.firstIssue
  split <;> rfl

@[simp] theorem Team.begun_bundles {now clk : Nat} : (tm.begun now clk).bundles = tm.bundles := by
  unfold Team.begun
  split <;> exact Team.firstIssue_bundles

@[simp] theorem Team.begun_threads {now clk : Nat} : (tm.begun now clk).threads = tm.threads := by
  unfold Team.begun
  split <;> exact Team.firstIssue_threads

theorem exec_clauseStart {col slot : Nat} : exec (.clauseStart col slot idx) s = execClauseStart col slot idx s := rfl

/-- A bundle with its turn starts its clause, with the threads `ts` of it that can. -/
theorem clauseStart_eq {col slot : Nat} (h : s.team? (teamKey col slot) = some tm) (hb : tm.bundles[idx]? = some b) (hst : tm.starts = true)
    (hg : s.goers (teamKey col slot) tm b = ts) (hne : ts ≠ []) (hd0 : s.dmStops (teamKey col slot) tm (tm.pcOf b) = false)
    (hp : s.hasPlace (teamKey col slot) tm b = true)
    (hl : (s.setTeam (teamKey col slot) (tm.part idx b ts)).Latches (teamKey col slot) (tm.part idx b ts) { b with threads := ts } hd c v) :
    exec (.clauseStart col slot idx) s
      = .next (v.setTeam (teamKey col slot) (((tm.part idx b ts).latched idx ts hd.wait c).begun s.dt (s.clock col))) := by
  have hcond : (tm.starts && !ts.isEmpty && !s.dmStops (teamKey col slot) tm (tm.pcOf b) && s.hasPlace (teamKey col slot) tm b) = true := by
    simp [hst, hne, hd0, hp]
  rw [exec_clauseStart, execClauseStart]
  simp only [h, hb, hg]
  rw [if_pos hcond, State.startClause_eq hl, State.modTeam_of_team? State.setTeam_team?_self, State.setTeam_setTeam]
  rfl

/-- The threads that start the clause of a bundle whose header can be read. -/
theorem State.goers_eq (h1 : s.fetch k tm (tm.pcOf b) 4 = (u, .ok hb)) (hhd : decodeHeader (nw (leNat hb)) = .ok hd) :
    s.goers k tm b = (tm.standing b).filter fun t => (tm.thread t).waitClear hd.wait := by
  simp only [State.goers, h1, hhd]

theorem State.goers_subset {t : Nat} (h : t ∈ s.goers k tm b) : t ∈ b.threads := by
  have hst : t ∈ tm.standing b → t ∈ b.threads := fun ht => by
    unfold Team.standing at ht
    split at ht
    · exact List.mem_of_mem_filter ht
    · cases ht
  unfold State.goers at h
  split at h
  · exact hst h
  split at h
  · exact hst h
  · exact hst (List.mem_of_mem_filter h)

theorem Team.part_self : tm.part idx b b.threads = tm := if_pos (by simp)

theorem Team.part_of_rest (h : ∃ t ∈ b.threads, t ∉ ts) : tm.part idx b ts
    = { tm with bundles := tm.bundles.set idx { b with threads := ts } ++ [{ b with threads := b.threads.filter fun t => !ts.contains t, active := false }] } :=
  if_neg fun hall => by
    obtain ⟨t, hb, hn⟩ := h
    exact hn (List.contains_iff_mem.1 (List.all_eq_true.1 hall t hb))

end Sys2Proof.Machine
end

section
/-! SUPPORT. What the start of a clause, the convergence of a group's VOTE and the end of a SLEEP leave behind (R38, R60, R233, R236, R273). -/

namespace Sys2Proof.Machine

set_option Elab.async false

variable {s u v : State} {tm : Team} {k idx col slot g thread : Nat} {b : Bundle} {ts : List Nat} {hd : Header} {c : Clause}

/-! ### The bundles of a team that has started a clause -/

theorem Team.latched_bundle {wait : BitVec 12} (hb : tm.bundles[idx]? = some b) :
    (tm.latched idx ts wait c).bundles[idx]? = some { b with clause := some c, pos := 0, issued := false, active := true, yielded := false } := by
  rw [Team.latched_bundles, List.getElem?_modify_eq, hb]
  rfl

theorem Team.latched_other {wait : BitVec 12} {j : Nat} (hj : j ≠ idx) : (tm.latched idx ts wait c).bundles[j]? = tm.bundles[j]? := by
  rw [Team.latched_bundles, List.getElem?_modify]
  simp [Ne.symm hj]

theorem Team.latched_get {wait : BitVec 12} {th r : Nat} : ((tm.latched idx ts wait c).thread th).get r = (tm.thread th).get r :=
  Team.latched_maps.keeps (p := fun x => x.get r) (fun _ _ => rfl) th

theorem Team.latched_pend {wait : BitVec 12} {th : Nat} (hth : th ∈ ts) (hl : th < tm.threads.length) (p : Nat × Nat) :
    p ∈ ((tm.latched idx ts wait c).thread th).pend ↔ p ∈ (tm.thread th).pend ∧ wait.getLsbD p.2 = false := by
  have e : (tm.latched idx ts wait c).thread th = Thread.endPend { tm.thread th with wait := {} } wait := Team.latched_maps.mem hth hl
  simp [e, Thread.endPend]

theorem Team.part_bundle (hb : tm.bundles[idx]? = some b) (h : ∃ t ∈ b.threads, t ∉ ts) :
    (tm.part idx b ts).bundles[idx]? = some { b with threads := ts } := by
  have hi : idx < tm.bundles.length := (List.getElem?_eq_some_iff.1 hb).1
  rw [Team.part_of_rest h]
  simp [List.getElem?_append, hi]

theorem Team.part_last (h : ∃ t ∈ b.threads, t ∉ ts) :
    (tm.part idx b ts).bundles[tm.bundles.length]? = some { b with threads := b.threads.filter fun t => !ts.contains t, active := false } := by
  rw [Team.part_of_rest h]
  simp

theorem Team.part_other {j : Nat} (h : ∃ t ∈ b.threads, t ∉ ts) (hj : j ≠ idx) (hl : j < tm.bundles.length) :
    (tm.part idx b ts).bundles[j]? = tm.bundles[j]? := by
  rw [Team.part_of_rest h]
  simp [List.getElem?_append, hl, Ne.symm hj]

/-- A bundle of which some threads start has the program counter that all its threads have. -/
theorem Team.part_pcOf {um : Team} (hu : um.threads = tm.threads) (hne : ts ≠ []) (hts : ∀ t ∈ ts, t ∈ b.threads)
    (hpc : ∀ t ∈ b.threads, (tm.thread t).pc.toNat = tm.pcOf b) : um.pcOf { b with threads := ts } = tm.pcOf b := by
  cases ts with
  | nil => exact absurd rfl hne
  | cons t ts =>
    have e : um.thread t = tm.thread t := by simp only [Team.thread, hu]
    refine Eq.trans ?_ (hpc t (hts t List.mem_cons_self))
    exact congrArg (fun th : Thread => th.pc.toNat) e

/-- A bundle all of whose threads can start starts its clause. -/
theorem clauseStart_whole_eq {hb ws : List Byte} (h : s.team? (teamKey col slot) = some tm) (hbi : tm.bundles[idx]? = some b) (hst : tm.starts = true)
    (hall : tm.standing b = b.threads) (hne : b.threads ≠ []) (hdm : s.dmStops (teamKey col slot) tm (tm.pcOf b) = false)
    (hp : s.hasPlace (teamKey col slot) tm b = true) (h1 : s.fetch (teamKey col slot) tm (tm.pcOf b) 4 = (u, .ok hb))
    (hhd : decodeHeader (nw (leNat hb)) = .ok hd) (hfl : ∀ t ∈ b.threads, ∀ i, i < 12 → hd.wait.getLsbD i = true → (tm.thread t).flag i = 0)
    (h2 : u.fetch (teamKey col slot) tm ((tm.pcOf b + 4) % 2 ^ 52) (4 * hd.len) = (v, .ok ws))
    (hc : decodeClause (nw (leNat hb)) (bytesWords ws) = .ok c) :
    exec (.clauseStart col slot idx) s = .next (v.setTeam (teamKey col slot) ((tm.latched idx b.threads hd.wait c).begun s.dt (s.clock col))) := by
  have hcl : ∀ t ∈ b.threads, (tm.thread t).waitClear hd.wait = true := fun t ht => Thread.waitClear_iff.2 (hfl t ht)
  have hg : s.goers (teamKey col slot) tm b = b.threads := by
    rw [State.goers_eq h1 hhd, hall, List.filter_eq_self.2 hcl]
  have hlat : (s.setTeam (teamKey col slot) (tm.part idx b b.threads)).Latches (teamKey col slot) (tm.part idx b b.threads) b hd c
      (v.setTeam (teamKey col slot) tm) := by
    rw [Team.part_self]
    exact ⟨State.setTeam_team?_self, ⟨_, hb, ws, State.fetch_setTeam h1, hhd, State.fetch_setTeam h2, hc⟩, hcl⟩
  rw [clauseStart_eq h hbi hst hg hne hdm hp hlat, State.setTeam_setTeam, Team.part_self]

/-- Where only the threads `ts` of a bundle can start, it parts, and they start its clause. -/
theorem clauseStart_part_eq {hb ws : List Byte} (h : s.team? (teamKey col slot) = some tm) (hbi : tm.bundles[idx]? = some b) (hst : tm.starts = true)
    (hdm : s.dmStops (teamKey col slot) tm (tm.pcOf b) = false) (hp : s.hasPlace (teamKey col slot) tm b = true)
    (hg : s.goers (teamKey col slot) tm b = ts) (hne : ts ≠ []) (hpc : ∀ t ∈ b.threads, (tm.thread t).pc.toNat = tm.pcOf b)
    (h1 : (s.setTeam (teamKey col slot) (tm.part idx b ts)).fetch (teamKey col slot) (tm.part idx b ts) (tm.pcOf b) 4 = (u, .ok hb))
    (hhd : decodeHeader (nw (leNat hb)) = .ok hd) (hfl : ∀ t ∈ ts, ∀ i, i < 12 → hd.wait.getLsbD i = true → (tm.thread t).flag i = 0)
    (h2 : u.fetch (teamKey col slot) (tm.part idx b ts) ((tm.pcOf b + 4) % 2 ^ 52) (4 * hd.len) = (v, .ok ws))
    (hc : decodeClause (nw (leNat hb)) (bytesWords ws) = .ok c) :
    exec (.clauseStart col slot idx) s
      = .next (v.setTeam (teamKey col slot) (((tm.part idx b ts).latched idx ts hd.wait c).begun s.dt (s.clock col))) := by
  have hsub : ∀ t ∈ ts, t ∈ b.threads := fun t ht => State.goers_subset (hg ▸ ht)
  have epc : (tm.part idx b ts).pcOf { b with threads := ts } = tm.pcOf b := Team.part_pcOf Team.part_threads hne hsub hpc
  have hcl : ∀ t ∈ ts, ((tm.part idx b ts).thread t).waitClear hd.wait = true := fun t ht => by
    simp only [Team.thread, Team.part_threads]
    exact Thread.waitClear_iff.2 (hfl t ht)
  exact clauseStart_eq h hbi hst hg hne hdm hp ⟨State.setTeam_team?_self, ⟨u, hb, ws, epc.symm ▸ h1, hhd, epc.symm ▸ h2, hc⟩, hcl⟩

/-! ### Collectives and SLEEP -/

theorem exec_groupCollectiveConvergence : exec (.groupCollectiveConvergence col slot g) s = execGroupCollectiveConvergence col slot g s := rfl
theorem exec_sleepExpiry : exec (.sleepExpiry col slot thread) s = execSleepExpiry col slot thread s := rfl

theorem groupCollectiveConvergence_eq (h : s.team? (teamKey col slot) = some tm) (hw : tm.waitsEnd = true) (hf : tm.frozen = none) (hh : tm.halted = false)
    (hp : tm.layer? ≠ none ∨ tm.place = .parked) :
    exec (.groupCollectiveConvergence col slot g) s = .next (s.setTeam (teamKey col slot) (tm.converge g)) := by
  have hpl : (tm.layer?.isSome || tm.place == .parked) = true := by
    rcases hp with hp | hp
    · simp [Option.isSome_iff_ne_none.2 hp]
    · simp [hp]
  rw [exec_groupCollectiveConvergence, execGroupCollectiveConvergence, State.modTeam_of_team? h, if_pos (by simp [hw, hf, hh, hpl])]

/-- The live threads of a group all wait where `t0` does, at a VOTE for any. -/
def Team.VoteWaits (tm : Team) (g t0 : Nat) (m : Mods) (d a : RegNo) : Prop := ∀ t ∈ tm.liveOf g,
  (tm.thread t).wait = { kind := .collective, word := (tm.thread t0).wait.word } ∧ (tm.thread t).pc = (tm.thread t0).pc ∧ tm.wordOf t = some (.vote m d a 1)

theorem Team.VoteWaits.meets {m : Mods} {d a : RegNo} {t0 : Nat} (h : tm.VoteWaits g t0 m d a) :
    ∀ t ∈ tm.liveOf g, ∀ u ∈ tm.liveOf g, tm.meets u t = true := fun t ht u hu => by
  obtain ⟨ht, htp, -⟩ := h t ht
  obtain ⟨hu, hup, -⟩ := h u hu
  simp [Team.meets, ht, hu, htp, hup]

/-- The VOTE of a group of which all threads wait at it answers whether some active thread has a nonzero a. -/
theorem vote_any {m : Mods} {d a : RegNo} {t0 : Nat} (h0 : t0 ∈ tm.liveOf g) (hv : tm.VoteWaits g t0 m d a) :
    ∃ um, tm.Puts ((tm.liveOf g).filter fun t => (tm.thread t).passes m) d.toNat 1
        (fun _ => if ∃ w ∈ tm.liveOf g, (tm.thread w).passes m = true ∧ (tm.thread w).get a.toNat ≠ 0 then 1 else 0) 0 um
      ∧ um.Maps (tm.liveOf g) (fun _ th => { th with wait := {} }) (tm.converge g) := by
  let A := (tm.liveOf g).filter fun t => (tm.thread t).passes m
  have hr : (if (tm.activeOf A).filter (fun p => p.2.get a.toNat != 0) = [] then 0 else 1)
      = if ∃ w ∈ tm.liveOf g, (tm.thread w).passes m = true ∧ (tm.thread w).get a.toNat ≠ 0 then 1 else 0 := by
    refine (ite_not _ _ _).symm.trans (if_congr ?_ rfl rfl)
    simp [A, Team.activeOf, and_assoc]
  exact Team.converge_of_complete h0 hv.meets (fun t ht => (hv t ht).2.2) rfl (congrArg (fun r : Nat => some (d.toNat, 1, fun _ : Nat => r, (0 : Flags))) hr)

/-- The end of a thread's SLEEP whose count has run out. -/
def Team.sleepEnds (tm : Team) (now t : Nat) : Team :=
  if tm.waitsEnd then tm.modThread t fun th => if th.wait.kind = .sleep ∧ th.wait.until_ ≤ now then { th with wait := {} } else th else tm

theorem Team.sleepEnds_thread {now t u : Nat} : (tm.sleepEnds now t).thread u
    = if u = t ∧ tm.waitsEnd = true ∧ (tm.thread u).wait.kind = .sleep ∧ (tm.thread u).wait.until_ ≤ now then { tm.thread u with wait := {} }
      else tm.thread u := by
  by_cases hw : tm.waitsEnd = true
  · rw [Team.sleepEnds, if_pos hw, Team.modThread_thread]
    by_cases e : u = t
    · subst e
      by_cases hl : u < tm.threads.length
      · simp [hl, hw]
      · have hd : tm.thread u = {} := by simp [Team.thread, hl]
        simp [hl, hd]
    · rw [if_neg fun h => e h.1, if_neg fun h => e h.1]
  · rw [Team.sleepEnds, if_neg hw, if_neg fun h => hw h.2.1]

theorem sleepExpiry_eq (h : s.team? (teamKey col slot) = some tm) :
    exec (.sleepExpiry col slot thread) s = .next (s.setTeam (teamKey col slot) (tm.sleepEnds s.dt thread)) := by
  rw [exec_sleepExpiry, execSleepExpiry, State.modTeam_of_team? h]
  rfl

theorem State.th_of_team? (h : s.team? k = some tm) (t : Nat) : s.th k t = tm.thread t := by
  simp [State.th, h]

end Sys2Proof.Machine
end

section
/-! SUPPORT. Formation points (R31, R32): which bundles a slice has after one, and what threads they hold. -/

namespace Sys2Proof.Machine

set_option Elab.async false

variable {s t : State} {tm um : Team} {k col layer sl : Nat}

/-! ### Ranks on a lane -/

/-- A thread below `t` of `t`'s lane, among those that satisfy `q`. -/
def onLane (q : Nat → Bool) (l u : Nat) : Bool := q u && u % 32 == l

theorem length_filter_range (p : Nat → Bool) (n : Nat) : ((List.range n).filter p).length = Nat.count (fun u => p u = true) n := by
  induction n with
  | zero => rfl
  | succ n ih =>
    rw [List.range_succ, List.filter_append, List.length_append, ih, Nat.count_succ]
    by_cases h : p n = true <;> simp [h]

theorem laneRank_range {q : Nat → Bool} {n t : Nat} (ht : t ≤ n) :
    laneRank ((List.range n).filter q) t = Nat.count (fun u => onLane q (t % 32) u = true) t := by
  have e : ((List.range n).filter q).filter (fun u => u % 32 == t % 32 && decide (u < t)) = (List.range t).filter (onLane q (t % 32)) := by
    obtain ⟨d, rfl⟩ := Nat.exists_eq_add_of_le ht
    have h2 : ((List.range d).map (t + ·)).filter (fun u => (u % 32 == t % 32 && decide (u < t)) && q u) = [] := by
      refine List.filter_eq_nil_iff.2 fun u hu => ?_
      obtain ⟨j, -, rfl⟩ := List.mem_map.1 hu
      simp
    rw [List.filter_filter, List.range_add, List.filter_append, h2, List.append_nil]
    refine List.filter_congr fun u hu => ?_
    simp [onLane, List.mem_range.1 hu, Bool.and_comm]
  rw [laneRank, e, length_filter_range]

/-- Every number below a count is the count at an earlier element. -/
theorem exists_count_eq {p : Nat → Prop} [DecidablePred p] {r t : Nat} (h : r < Nat.count p t) : ∃ u, u < t ∧ p u ∧ Nat.count p u = r := by
  induction t with
  | zero => exact absurd h (by simp)
  | succ t ih =>
    rw [Nat.count_succ] at h
    by_cases hr : r < Nat.count p t
    · obtain ⟨u, hu, hp, hc⟩ := ih hr
      exact ⟨u, by omega, hp, hc⟩
    · by_cases hp : p t
      · rw [if_pos hp] at h
        exact ⟨t, by omega, hp, by omega⟩
      · rw [if_neg hp] at h
        exact absurd h hr

/-- Among `t` threads, at most one of 32 is on a lane. -/
theorem count_onLane_le {q : Nat → Bool} {l t : Nat} (hl : l < 32) : Nat.count (fun u => onLane q l u = true) t ≤ (t + 31 - l) / 32 := by
  induction t with
  | zero => simp
  | succ t ih =>
    rw [Nat.count_succ]
    by_cases h : onLane q l t = true
    · have hm : t % 32 = l := by
        simp only [onLane, Bool.and_eq_true, beq_iff_eq] at h
        exact h.2
      rw [if_pos h]
      omega
    · rw [if_neg h]
      omega

/-- The candidates of one entry: those of `n` threads that satisfy `q`. Their ranks on a lane are below 32, none is left out, and two on one lane differ. -/
theorem laneRank_lt {q : Nat → Bool} {n t : Nat} (hn : n ≤ 1024) (ht : t < n) : laneRank ((List.range n).filter q) t < 32 := by
  rw [laneRank_range (Nat.le_of_lt ht)]
  have := count_onLane_le (q := q) (t := t) (Nat.mod_lt t (by omega : 0 < 32))
  omega

theorem exists_laneRank {q : Nat → Bool} {n t r : Nat} (ht : t < n) (hr : r < laneRank ((List.range n).filter q) t) :
    ∃ u ∈ (List.range n).filter q, laneRank ((List.range n).filter q) u = r := by
  rw [laneRank_range (Nat.le_of_lt ht)] at hr
  obtain ⟨u, hu, hp, hc⟩ := exists_count_eq hr
  simp only [onLane, Bool.and_eq_true, beq_iff_eq] at hp
  obtain ⟨hq, hm⟩ := hp
  exact ⟨u, List.mem_filter.2 ⟨List.mem_range.2 (by omega), hq⟩, by rw [laneRank_range (by omega), hm, hc]⟩

theorem laneRank_inj {q : Nat → Bool} {n t u : Nat} (ht : t ∈ (List.range n).filter q) (hu : u ∈ (List.range n).filter q) (hm : t % 32 = u % 32)
    (hr : laneRank ((List.range n).filter q) t = laneRank ((List.range n).filter q) u) : t = u := by
  obtain ⟨htn, hqt⟩ := List.mem_filter.1 ht
  obtain ⟨hun, hqu⟩ := List.mem_filter.1 hu
  rw [laneRank_range (Nat.le_of_lt (List.mem_range.1 htn)), laneRank_range (Nat.le_of_lt (List.mem_range.1 hun)), hm] at hr
  rcases Nat.lt_trichotomy t u with h | h | h
  · have := Nat.count_strict_mono (p := fun v => onLane q (u % 32) v = true) (by simp [onLane, hqt, hm]) h
    omega
  · exact h
  · have := Nat.count_strict_mono (p := fun v => onLane q (u % 32) v = true) (by simp [onLane, hqu]) h
    omega

/-! ### The bundles formed of one entry -/

/-- A bundle formed of the candidates `ts` with one rank. -/
structure Bundle.FormedOf (ts : List Nat) (b : Bundle) : Prop where
  rank : ∃ r, b.threads = ts.filter fun t => laneRank ts t == r
  some : b.threads ≠ []
  slice : b.slice = b.threads.headD 0 / 32 % 4
  clause : b.clause = none
  yielded : b.yielded = false

theorem formFrom_formed {src : List Bundle} {ts used : List Nat} {r fuel : Nat} : ∀ b ∈ (formFrom src ts used r fuel).1, b.FormedOf ts := by
  induction fuel generalizing r used with
  | zero => exact fun b hb => absurd hb (by simp [formFrom])
  | succ fuel ih =>
    intro b hb
    unfold formFrom at hb
    dsimp only at hb
    split at hb
    · cases hb
    · rename_i t0 rest hmine
      rcases List.mem_cons.1 hb with rfl | hb
      · exact ⟨⟨r, rfl⟩, by simp only [hmine]; simp, by simp only [hmine]; rfl, rfl, rfl⟩
      · exact ih b hb

theorem formFrom_covers {src : List Bundle} {ts used : List Nat} {r fuel j : Nat} (hj : j < fuel)
    (hne : ∀ i, i ≤ j → (ts.filter fun t => laneRank ts t == r + i) ≠ []) :
    ∃ b ∈ (formFrom src ts used r fuel).1, b.threads = ts.filter fun t => laneRank ts t == r + j := by
  induction fuel generalizing r used j with
  | zero => omega
  | succ fuel ih =>
    unfold formFrom
    dsimp only
    split
    · rename_i h
      exact absurd h (hne 0 (by omega))
    · cases j with
      | zero => exact ⟨_, List.mem_cons_self, rfl⟩
      | succ j =>
        obtain ⟨b, hb, e⟩ := ih (r := r + 1) (j := j) (by omega) fun i hi => by
          have := hne (i + 1) (by omega)
          rwa [← Nat.add_assoc, Nat.add_right_comm] at this
        exact ⟨b, List.mem_cons_of_mem _ hb, by rw [e]; congr 1; funext t; congr 1; omega⟩

/-- Every candidate of an entry is in a bundle formed of it. -/
theorem formFrom_mem {src : List Bundle} {used : List Nat} {q : Nat → Bool} {n t : Nat} (hn : n ≤ 1024) (ht : t ∈ (List.range n).filter q) :
    ∃ b ∈ (formFrom src ((List.range n).filter q) used 0 32).1, t ∈ b.threads := by
  have htn : t < n := List.mem_range.1 (List.mem_filter.1 ht).1
  obtain ⟨b, hb, e⟩ := formFrom_covers (src := src) (used := used) (r := 0) (laneRank_lt (q := q) hn htn) fun i hi => by
    rcases Nat.lt_or_eq_of_le hi with hlt | rfl
    · obtain ⟨u, hu, hr⟩ := exists_laneRank htn hlt
      exact List.ne_nil_of_mem (List.mem_filter.2 ⟨hu, by simp [hr]⟩)
    · exact List.ne_nil_of_mem (List.mem_filter.2 ⟨ht, by simp⟩)
  exact ⟨b, hb, e ▸ List.mem_filter.2 ⟨ht, by simp⟩⟩

end Sys2Proof.Machine
end

section
/-! SUPPORT. Formation points (R31, R32): the bundles of the team, and the entries of the slice's PC table. -/

namespace Sys2Proof.Machine

set_option Elab.async false

variable {s t : State} {tm um : Team} {k col layer sl : Nat} {pcs : List Nat} {b : Bundle}

/-! ### The bundles of the team -/

/-- Whether a bundle of a team is a candidate of a slice's formation point, which forms the entries `pcs`. -/
def Team.candidate (tm : Team) (sl : Nat) (pcs : List Nat) (b : Bundle) : Bool := b.slice == sl && tm.forms b && pcs.contains (tm.pcOf b)

/-- The threads of the candidates. -/
def Team.joining (tm : Team) (sl : Nat) (pcs : List Nat) : List Nat :=
  (List.range tm.threads.length).filter fun t => (tm.bundles.filter (tm.candidate sl pcs)).any fun b => b.threads.contains t

/-- The threads of the candidates that stand at one program counter. -/
def Team.joiningAt (tm : Team) (sl : Nat) (pcs : List Nat) (key : Nat) : List Nat :=
  (tm.joining sl pcs).filter fun t => (tm.thread t).pc.toNat == key

/-- The program counters of the candidates. -/
def Team.joinPcs (tm : Team) (sl : Nat) (pcs : List Nat) : List Nat := ((tm.joining sl pcs).map fun t => (tm.thread t).pc.toNat).eraseDups

/-- The bundles formed, entry by entry, with the places taken. -/
def Team.formed (tm : Team) (sl : Nat) (pcs keys : List Nat) (acc : List Bundle × List Nat) : List Bundle × List Nat :=
  keys.foldl (fun acc key =>
    let (bs, used) := formFrom (tm.bundles.filter (tm.candidate sl pcs)) (tm.joiningAt sl pcs key) acc.2 0 32
    (acc.1 ++ bs, used)) acc

theorem Team.reform_eq : tm.reform sl pcs = { tm with bundles := (tm.bundles.filter fun b => !tm.candidate sl pcs b)
    ++ (tm.formed sl pcs (tm.joinPcs sl pcs) ([], [])).1 } := rfl

theorem Team.mem_formed {keys : List Nat} {acc : List Bundle × List Nat} (h : b ∈ (tm.formed sl pcs keys acc).1) :
    b ∈ acc.1 ∨ ∃ key, b.FormedOf (tm.joiningAt sl pcs key) := by
  induction keys generalizing acc with
  | nil => exact .inl h
  | cons key keys ih =>
    rcases ih h with h | h
    · exact (List.mem_append.1 h).imp_right fun h => ⟨key, formFrom_formed b h⟩
    · exact .inr h

theorem Team.formed_grows {keys : List Nat} {acc : List Bundle × List Nat} (h : b ∈ acc.1) : b ∈ (tm.formed sl pcs keys acc).1 := by
  induction keys generalizing acc with
  | nil => exact h
  | cons key keys ih => exact ih (List.mem_append_left _ h)

theorem Team.joiningAt_eq {key : Nat} : tm.joiningAt sl pcs key = (List.range tm.threads.length).filter fun t =>
    ((tm.thread t).pc.toNat == key) && (tm.bundles.filter (tm.candidate sl pcs)).any fun b => b.threads.contains t :=
  List.filter_filter

theorem Team.exists_formed {keys : List Nat} {acc : List Bundle × List Nat} {key u : Nat} (hn : tm.threads.length ≤ 1024) (hk : key ∈ keys)
    (hu : u ∈ tm.joiningAt sl pcs key) : ∃ b ∈ (tm.formed sl pcs keys acc).1, u ∈ b.threads := by
  induction keys generalizing acc with
  | nil => cases hk
  | cons key' keys ih =>
    rcases List.mem_cons.1 hk with rfl | hk
    · have e := Team.joiningAt_eq (tm := tm) (sl := sl) (pcs := pcs) (key := key)
      obtain ⟨b, hb, hub⟩ := formFrom_mem (src := tm.bundles.filter (tm.candidate sl pcs)) (used := acc.2) hn (e ▸ hu)
      refine ⟨b, Team.formed_grows (keys := keys) ?_, hub⟩
      exact List.mem_append_right _ (e ▸ hb)
    · exact ih hk

/-- A bundle of the slice whose threads stand at a header: it is ready again. -/
def Bundle.ready (sl : Nat) (b : Bundle) : Bundle := if b.slice = sl ∧ b.clause = none then { b with yielded := false } else b

theorem Bundle.ready_threads : (b.ready sl).threads = b.threads := by unfold Bundle.ready; split <;> rfl
theorem Bundle.ready_slice : (b.ready sl).slice = b.slice := by unfold Bundle.ready; split <;> rfl
theorem Bundle.ready_clause : (b.ready sl).clause = b.clause := by unfold Bundle.ready; split <;> rfl

theorem Bundle.ready_yielded (h : b.slice = sl ∧ b.clause = none) : (b.ready sl).yielded = false := by rw [Bundle.ready, if_pos h]

/-- The team after a formation point of a slice that forms the entries `pcs`. -/
def Team.rebuilt (tm : Team) (sl : Nat) (pcs : List Nat) : Team := { tm.reform sl pcs with bundles := (tm.reform sl pcs).bundles.map (Bundle.ready sl) }

/-- The bundles of a team are well placed: their threads are the team's, of their slice, and stand where they do. -/
def Team.placed (tm : Team) : Prop :=
  ∀ b ∈ tm.bundles, ∀ t ∈ b.threads, t < tm.threads.length ∧ t / 32 % 4 = b.slice ∧ (tm.thread t).pc.toNat = tm.pcOf b

/-- Every bundle that can be formed anew is a candidate. -/
def Team.allChosen (tm : Team) (sl : Nat) (pcs : List Nat) : Prop := ∀ b ∈ tm.bundles, b.slice = sl → tm.forms b = true → tm.pcOf b ∈ pcs

theorem Team.forms_clause (h : tm.forms b = true) : b.clause = none := by
  simp only [Team.forms, Bool.and_eq_true, Option.isNone_iff_eq_none] at h
  exact h.1

theorem Team.candidate_iff : tm.candidate sl pcs b = true ↔ b.slice = sl ∧ tm.forms b = true ∧ tm.pcOf b ∈ pcs := by
  simp [Team.candidate, and_assoc]

theorem Team.mem_joining {u : Nat} : u ∈ tm.joining sl pcs
    ↔ u < tm.threads.length ∧ ∃ b ∈ tm.bundles, tm.candidate sl pcs b = true ∧ u ∈ b.threads := by
  simp [Team.joining]

theorem Team.mem_joiningAt {u key : Nat} : u ∈ tm.joiningAt sl pcs key ↔ u ∈ tm.joining sl pcs ∧ (tm.thread u).pc.toNat = key := by
  simp [Team.joiningAt]

/-- What a bundle formed anew holds: threads of candidates at one program counter, on the slice, no two on one lane. -/
structure Team.Forms (tm : Team) (sl : Nat) (pcs : List Nat) (b : Bundle) : Prop where
  here : b.slice = sl ∧ b.clause = none
  from_ : ∀ u ∈ b.threads, u ∈ tm.joining sl pcs
  pc : ∀ u ∈ b.threads, (tm.thread u).pc.toNat = tm.pcOf b
  lane : ∀ u ∈ b.threads, ∀ w ∈ b.threads, u % 32 = w % 32 → u = w

theorem Team.forms_of_formed (hp : tm.placed) (h : b ∈ (tm.formed sl pcs (tm.joinPcs sl pcs) ([], [])).1) : tm.Forms sl pcs b := by
  obtain ⟨key, ⟨r, hr⟩, hne, hsl, hcl, -⟩ := (Team.mem_formed h).resolve_left List.not_mem_nil
  have hmem : ∀ u ∈ b.threads, u ∈ tm.joiningAt sl pcs key := fun u hu => List.mem_of_mem_filter (hr ▸ hu)
  have hjoin : ∀ u ∈ b.threads, u ∈ tm.joining sl pcs := fun u hu => (Team.mem_joiningAt.1 (hmem u hu)).1
  have hpc : ∀ u ∈ b.threads, (tm.thread u).pc.toNat = key := fun u hu => (Team.mem_joiningAt.1 (hmem u hu)).2
  have hhead : b.threads.headD 0 ∈ b.threads := by
    obtain ⟨t0, rest, e⟩ := List.exists_cons_of_ne_nil hne
    rw [e]
    exact List.mem_cons_self
  refine ⟨⟨?_, hcl⟩, hjoin, fun u hu => (hpc u hu).trans (hpc _ hhead).symm, fun u hu w hw hm => ?_⟩
  · obtain ⟨-, c, hc, hcand, hin⟩ := Team.mem_joining.1 (hjoin _ hhead)
    rw [hsl, (hp c hc _ hin).2.1]
    exact (Team.candidate_iff.1 hcand).1
  · have hrank : ∀ u ∈ b.threads, laneRank (tm.joiningAt sl pcs key) u = r := fun u hu =>
      beq_iff_eq.1 (List.of_mem_filter (p := fun t => laneRank (tm.joiningAt sl pcs key) t == r) (hr ▸ hu))
    have e := Team.joiningAt_eq (tm := tm) (sl := sl) (pcs := pcs) (key := key)
    exact laneRank_inj (e ▸ hmem u hu) (e ▸ hmem w hw) hm (e ▸ (hrank u hu).trans (hrank w hw).symm)

theorem Team.mem_rebuilt : b ∈ (tm.rebuilt sl pcs).bundles
    ↔ ∃ c, (c ∈ tm.bundles ∧ tm.candidate sl pcs c = false ∨ c ∈ (tm.formed sl pcs (tm.joinPcs sl pcs) ([], [])).1) ∧ c.ready sl = b := by
  simp [Team.rebuilt, Team.reform_eq, or_and_right, exists_or]

/-! ### What stays, and what is formed -/

theorem Team.mem_rebuilt_of_not_here (hp : tm.placed) (h : ¬ (b.slice = sl ∧ b.clause = none)) : b ∈ (tm.rebuilt sl pcs).bundles ↔ b ∈ tm.bundles := by
  have hready : ∀ c : Bundle, c.ready sl = b → c = b := fun c e => by
    have hc : ¬ (c.slice = sl ∧ c.clause = none) := by rwa [← Bundle.ready_slice (b := c), ← Bundle.ready_clause (sl := sl) (b := c), e]
    exact (if_neg hc).symm.trans e
  rw [Team.mem_rebuilt]
  constructor
  · rintro ⟨c, hc, e⟩
    obtain rfl := hready c e
    rcases hc with ⟨hc, -⟩ | hc
    · exact hc
    · exact absurd (Team.forms_of_formed hp hc).here h
  · intro hb
    refine ⟨b, .inl ⟨hb, Bool.eq_false_iff.2 fun hc => ?_⟩, if_neg h⟩
    obtain ⟨hsl, hf, -⟩ := Team.candidate_iff.1 hc
    exact h ⟨hsl, Team.forms_clause hf⟩

theorem Team.rebuilt_threads_mem (hp : tm.placed) (hn : tm.threads.length ≤ 1024) {u : Nat} :
    (∃ b ∈ (tm.rebuilt sl pcs).bundles, (b.slice = sl ∧ b.clause = none) ∧ u ∈ b.threads)
      ↔ ∃ b ∈ tm.bundles, (b.slice = sl ∧ b.clause = none) ∧ u ∈ b.threads := by
  constructor
  · rintro ⟨b, hb, hh, hu⟩
    obtain ⟨c, hc, rfl⟩ := Team.mem_rebuilt.1 hb
    rw [Bundle.ready_slice, Bundle.ready_clause] at hh
    rw [Bundle.ready_threads] at hu
    rcases hc with ⟨hc, -⟩ | hc
    · exact ⟨c, hc, hh, hu⟩
    · obtain ⟨-, a, ha, hcand, hau⟩ := Team.mem_joining.1 ((Team.forms_of_formed hp hc).from_ u hu)
      obtain ⟨hsl, hf, -⟩ := Team.candidate_iff.1 hcand
      exact ⟨a, ha, ⟨hsl, Team.forms_clause hf⟩, hau⟩
  · rintro ⟨b, hb, hh, hu⟩
    by_cases hcand : tm.candidate sl pcs b = true
    · have hj : u ∈ tm.joining sl pcs := Team.mem_joining.2 ⟨(hp b hb u hu).1, b, hb, hcand, hu⟩
      have hk : (tm.thread u).pc.toNat ∈ tm.joinPcs sl pcs := List.mem_eraseDups.2 (List.mem_map_of_mem hj)
      obtain ⟨c, hc, huc⟩ := Team.exists_formed (acc := ([], [])) hn hk (Team.mem_joiningAt.2 ⟨hj, rfl⟩)
      refine ⟨c.ready sl, Team.mem_rebuilt.2 ⟨c, .inr hc, rfl⟩, ?_, Bundle.ready_threads.symm ▸ huc⟩
      rw [Bundle.ready_slice, Bundle.ready_clause]
      exact (Team.forms_of_formed hp hc).here
    · refine ⟨b.ready sl, Team.mem_rebuilt.2 ⟨b, .inl ⟨hb, Bool.eq_false_iff.2 hcand⟩, rfl⟩, ?_, Bundle.ready_threads.symm ▸ hu⟩
      rwa [Bundle.ready_slice, Bundle.ready_clause]

/-- A bundle that stands at a header of the slice afterwards. -/
theorem Team.rebuilt_here (hp : tm.placed) (hall : tm.allChosen sl pcs)
    (hl : ∀ c ∈ tm.bundles, (c.slice = sl ∧ c.clause = none) → tm.forms c = false → ∀ u ∈ c.threads, ∀ w ∈ c.threads, u % 32 = w % 32 → u = w)
    (hb : b ∈ (tm.rebuilt sl pcs).bundles) (hh : b.slice = sl ∧ b.clause = none) :
    b.yielded = false ∧ (∀ u ∈ b.threads, (tm.thread u).pc.toNat = (tm.rebuilt sl pcs).pcOf b)
      ∧ ∀ u ∈ b.threads, ∀ w ∈ b.threads, u % 32 = w % 32 → u = w := by
  obtain ⟨c, hc, rfl⟩ := Team.mem_rebuilt.1 hb
  rw [Bundle.ready_slice, Bundle.ready_clause] at hh
  have hpc : (tm.rebuilt sl pcs).pcOf (c.ready sl) = tm.pcOf c := by
    show tm.pcOf (c.ready sl) = tm.pcOf c
    simp only [Team.pcOf, Bundle.ready_threads]
  rw [hpc, Bundle.ready_threads, Bundle.ready_yielded hh]
  refine ⟨rfl, ?_⟩
  rcases hc with ⟨hc, hcand⟩ | hc
  · have hf : tm.forms c = false := Bool.eq_false_iff.2 fun hf => by
      rw [Team.candidate_iff.2 ⟨hh.1, hf, hall c hc hh.1 hf⟩] at hcand
      cases hcand
    exact ⟨fun u hu => (hp c hc u hu).2.2, hl c hc hh hf⟩
  · have h := Team.forms_of_formed hp hc
    exact ⟨h.pc, h.lane⟩

/-! ### The entries of the PC table -/

/-- The team and program counter of a bundle, which name its entry. -/
def entryKey (p : Nat × Nat × Team × Bundle) : Nat × Nat := (p.1, p.2.2.1.pcOf p.2.2.2)

/-- The names of the entries of a table. -/
def tableKeys (l : List (Nat × Nat × Nat)) : List (Nat × Nat) := l.map fun e => (e.1, e.2.1)

/-- A bundle's entry joins the table, or its age goes into the one there is. -/
def tableStep (l : List (Nat × Nat × Nat)) (p : Nat × Nat × Team × Bundle) : List (Nat × Nat × Nat) :=
  if l.any fun e => e.1 == p.1 && e.2.1 == p.2.2.1.pcOf p.2.2.2 then
    l.map fun e => if e.1 == p.1 && e.2.1 == p.2.2.1.pcOf p.2.2.2 then (e.1, e.2.1, min e.2.2 p.2.2.2.stamp) else e
  else l ++ [(p.1, p.2.2.1.pcOf p.2.2.2, p.2.2.2.stamp)]

theorem pcTable_eq {bs : List (Nat × Nat × Team × Bundle)} : pcTable bs = bs.foldl tableStep [] := rfl

theorem tableKeys_step {l : List (Nat × Nat × Nat)} {p : Nat × Nat × Team × Bundle} :
    tableKeys (tableStep l p) = if entryKey p ∈ tableKeys l then tableKeys l else tableKeys l ++ [entryKey p] := by
  have hany : (l.any fun e => e.1 == p.1 && e.2.1 == p.2.2.1.pcOf p.2.2.2) = true ↔ entryKey p ∈ tableKeys l := by
    simp [entryKey, tableKeys]
  unfold tableStep
  by_cases h : entryKey p ∈ tableKeys l
  · rw [if_pos (hany.2 h), if_pos h]
    unfold tableKeys
    rw [List.map_map]
    refine List.map_congr_left fun e _ => ?_
    dsimp only [Function.comp_apply]
    split <;> rfl
  · rw [if_neg fun ha => h (hany.1 ha), if_neg h]
    simp [tableKeys, entryKey]

theorem tableKeys_foldl {bs : List (Nat × Nat × Team × Bundle)} {l : List (Nat × Nat × Nat)} (hl : (tableKeys l).Nodup) :
    (tableKeys (bs.foldl tableStep l)).Nodup ∧ ∀ x, x ∈ tableKeys (bs.foldl tableStep l) ↔ x ∈ tableKeys l ∨ x ∈ bs.map entryKey := by
  induction bs generalizing l with
  | nil => exact ⟨hl, fun x => by simp⟩
  | cons p bs ih =>
    have hstep : (tableKeys (tableStep l p)).Nodup ∧ ∀ x, x ∈ tableKeys (tableStep l p) ↔ x ∈ tableKeys l ∨ x = entryKey p := by
      rw [tableKeys_step]
      split
      · rename_i h
        exact ⟨hl, fun x => ⟨.inl, fun hx => hx.elim id fun e => e ▸ h⟩⟩
      · rename_i h
        exact ⟨by rw [← List.concat_eq_append]; exact hl.concat h, fun x => by simp⟩
    obtain ⟨hnd, hmem⟩ := ih hstep.1
    exact ⟨hnd, fun x => by simp [hmem, hstep.2, or_assoc]⟩

theorem pcTable_nodup {bs : List (Nat × Nat × Team × Bundle)} : (tableKeys (pcTable bs)).Nodup := (tableKeys_foldl (l := []) List.nodup_nil).1

theorem mem_pcTable {bs : List (Nat × Nat × Team × Bundle)} {x : Nat × Nat} : x ∈ tableKeys (pcTable bs) ↔ x ∈ bs.map entryKey := by
  rw [pcTable_eq, (tableKeys_foldl (l := []) List.nodup_nil).2]
  simp [tableKeys]

theorem pcTable_length_mono {bs cs : List (Nat × Nat × Team × Bundle)} (h : ∀ p ∈ bs, p ∈ cs) : (pcTable bs).length ≤ (pcTable cs).length := by
  have hsub : tableKeys (pcTable bs) ⊆ tableKeys (pcTable cs) := fun x hx => by
    obtain ⟨p, hp, e⟩ := List.mem_map.1 (mem_pcTable.1 hx)
    exact mem_pcTable.2 (List.mem_map.2 ⟨p, h p hp, e⟩)
  simpa [tableKeys] using (pcTable_nodup.subperm hsub).length_le

/-- The entries that are formed: the first 64. -/
def chosenOf (table : List (Nat × Nat × Nat)) : List (Nat × Nat × Nat) :=
  table.filter fun e => decide ((table.filter fun f => entryBefore f e).length < 64)

theorem chosenOf_eq {table : List (Nat × Nat × Nat)} (h : table.length ≤ 64) : chosenOf table = table := by
  refine List.filter_eq_self.2 fun e he => decide_eq_true ?_
  have hne : entryBefore e e ≠ true := by simp [entryBefore]
  have := List.length_filter_lt_length_iff_exists (p := fun f => entryBefore f e).2 ⟨e, he, hne⟩
  omega

/-! ### The event -/

/-- A change of each team of a list that is on a layer, in turn. -/
def State.modOnLayer (s : State) (layer : Nat) (F : Nat → Team → Team) (l : List (Nat × Team)) : State :=
  l.foldl (fun s p => if p.2.layer? = some layer then s.modTeam p.1 (F p.1) else s) s

theorem State.modOnLayer_cons {F : Nat → Team → Team} {p : Nat × Team} {l : List (Nat × Team)} :
    s.modOnLayer layer F (p :: l) = (if p.2.layer? = some layer then s.modTeam p.1 (F p.1) else s).modOnLayer layer F l := rfl

theorem State.modTeam_team?_ne {j : Nat} {f : Team → Team} (h : j ≠ k) : (s.modTeam j f).team? k = s.team? k := by
  unfold State.modTeam
  split
  · rw [State.setTeam_team?, if_neg (Ne.symm h)]
  · rfl

theorem State.modOnLayer_team?_of_absent {F : Nat → Team → Team} {l : List (Nat × Team)} (h : k ∉ l.map Prod.fst) :
    (s.modOnLayer layer F l).team? k = s.team? k := by
  induction l generalizing s with
  | nil => rfl
  | cons p l ih =>
    obtain ⟨hp, hl⟩ := List.ne_and_not_mem_of_not_mem_cons h
    rw [State.modOnLayer_cons, ih hl]
    split
    · exact State.modTeam_team?_ne (Ne.symm hp)
    · rfl

theorem State.modOnLayer_team? {F : Nat → Team → Team} {l : List (Nat × Team)} (hnd : (l.map Prod.fst).Nodup) (hp : (k, tm) ∈ l)
    (hl : tm.layer? = some layer) (hs : s.team? k = some tm) : (s.modOnLayer layer F l).team? k = some (F k tm) := by
  induction l generalizing s with
  | nil => cases hp
  | cons p l ih =>
    obtain ⟨hnot, hnd⟩ := List.nodup_cons.1 hnd
    rw [State.modOnLayer_cons]
    rcases List.mem_cons.1 hp with rfl | hp
    · rw [State.modOnLayer_team?_of_absent hnot, if_pos hl, State.modTeam_of_team? hs]
      exact State.setTeam_team?_self
    · refine ih hnd hp ?_
      have hne : p.1 ≠ k := fun e => hnot (List.mem_map.2 ⟨_, hp, e.symm⟩)
      split
      · exact (State.modTeam_team?_ne hne).trans hs
      · exact hs

/-- The entries that a formation point forms. -/
def State.formingOf (s : State) (col layer sl : Nat) : List (Nat × Nat × Nat) :=
  chosenOf (pcTable ((s.sliceBundles col layer sl).filter fun p => p.2.2.1.forms p.2.2.2))

/-- Those of one team. -/
def pcsOf (l : List (Nat × Nat × Nat)) (k : Nat) : List Nat := (l.filter fun e => e.1 == k).map fun e => e.2.1

theorem formationPoint_eq : exec (.formationPoint col layer sl) s
    = .next (s.modOnLayer layer (fun j tm => tm.rebuilt sl (pcsOf (s.formingOf col layer sl) j)) (s.teamsOf col)) := rfl

/-- Where all entries fit, every bundle of a team that can be formed anew is a candidate. -/
theorem State.allChosen_formingOf (hm : (k, tm) ∈ s.teamsOf col) (hl : tm.layer? = some layer)
    (hfit : (pcTable ((s.sliceBundles col layer sl).filter fun p => p.2.2.2.clause.isNone)).length ≤ 64) :
    tm.allChosen sl (pcsOf (s.formingOf col layer sl) k) := by
  intro b hb hsl hf
  have hlen : (pcTable ((s.sliceBundles col layer sl).filter fun p => p.2.2.1.forms p.2.2.2)).length ≤ 64 := by
    refine (pcTable_length_mono fun p hp => ?_).trans hfit
    obtain ⟨hp, hpf⟩ := List.mem_filter.1 hp
    exact List.mem_filter.2 ⟨hp, by rw [Team.forms_clause hpf]; rfl⟩
  obtain ⟨i, hi⟩ := List.mem_iff_getElem?.1 hb
  have hin : (k, i, tm, b) ∈ (s.sliceBundles col layer sl).filter fun p => p.2.2.1.forms p.2.2.2 := by
    refine List.mem_filter.2 ⟨List.mem_flatMap.2 ⟨(k, tm), hm, ?_⟩, hf⟩
    rw [if_pos hl]
    exact List.mem_map.2 ⟨(b, i), List.mem_filter.2 ⟨List.mem_zipIdx_iff_getElem?.2 hi, by simp [hsl]⟩, rfl⟩
  have hkey : (k, tm.pcOf b) ∈ tableKeys (s.formingOf col layer sl) := by
    rw [State.formingOf, chosenOf_eq hlen]
    exact mem_pcTable.2 (List.mem_map.2 ⟨_, hin, rfl⟩)
  obtain ⟨e, he, heq⟩ := List.mem_map.1 hkey
  obtain ⟨h1, h2⟩ := Prod.ext_iff.1 heq
  exact List.mem_map.2 ⟨e, List.mem_filter.2 ⟨he, by simpa using h1⟩, h2⟩

theorem State.teamsOf_nodup (h : s.ordered) : ((s.teamsOf col).map Prod.fst).Nodup := by
  obtain ⟨ht, -⟩ := h
  have hs : ((s.teamsOf col).map Prod.fst).Sublist (s.teams.map Prod.fst) := List.filter_sublist.map _
  exact hs.nodup (List.Pairwise.imp (fun h => Nat.ne_of_lt h) ht)

theorem formationPoint_team? {slot : Nat} (hslot : slot < 32) (h : s.team? (teamKey col slot) = some tm) (ho : s.ordered) (hl : tm.layer? = some layer)
    (hfit : (pcTable ((s.sliceBundles col layer sl).filter fun p => p.2.2.2.clause.isNone)).length ≤ 64) :
    ∃ t pcs, exec (.formationPoint col layer sl) s = .next t ∧ t.team? (teamKey col slot) = some (tm.rebuilt sl pcs) ∧ tm.allChosen sl pcs := by
  have hm : (teamKey col slot, tm) ∈ s.teamsOf col := State.mem_teamsOf.2 ⟨mem_of_sfind h, teamCol_teamKey hslot⟩
  exact ⟨_, _, formationPoint_eq, State.modOnLayer_team? (State.teamsOf_nodup ho) hm hl h, State.allChosen_formingOf hm hl hfit⟩

end Sys2Proof.Machine
end

section
/-! SUPPORT. Clause starts, convergence, the end of SLEEP, and formation points. Settles O45. -/

namespace Sys2Proof.Machine

set_option Elab.async false

/-- Settles O45: each event's next state is written out by an equation of its own, and what it leaves behind is read off. -/
theorem clausesStartAndBundlesForm : Obligations.ClausesStartAndBundlesForm := by
  refine ⟨fun col slot idx group thread tm => ⟨?_, ?_, ?_, ?_, ?_⟩, fun col slot layer slice tm => ?_⟩
  · rintro b hd c hb ws u v s ⟨h, hbi, hst, hall, hne, hdm, hp, h1, hhd, hfl, h2, hc, -, -, hl⟩
    have hv : v.team? (teamKey col slot) = some tm := by rw [State.fetch_team?_eq h2, State.fetch_team?_eq h1, h]
    refine ⟨_, clauseStart_whole_eq h hbi hst hall hne hdm hp h1 hhd hfl h2 hc, ⟨_, rfl⟩, fun th r => ?_, _, State.setTeam_team?_self, ?_,
      fun j hj => ?_, fun th hth p => ?_⟩
    · rw [State.reg_of_team? State.setTeam_team?_self, State.reg_of_team? hv]
      simp only [Team.thread, Team.begun_threads]
      exact Team.latched_get
    · rw [Team.begun_bundles]
      exact Team.latched_bundle hbi
    · rw [Team.begun_bundles]
      exact Team.latched_other hj
    · simp only [Team.thread, Team.begun_threads]
      exact Team.latched_pend hth (hl th hth) p
  · rintro b ts hd c hb ws u v s ⟨h, hbi, hst, hdm, hp, hg, hne, hrest, hpc, h1, hhd, hfl, h2, hc, -⟩
    have hi : idx < tm.bundles.length := (List.getElem?_eq_some_iff.1 hbi).1
    refine ⟨_, clauseStart_part_eq h hbi hst hdm hp hg hne hpc h1 hhd hfl h2 hc, ⟨_, rfl⟩, _, State.setTeam_team?_self, ?_, ?_, fun j hj hjl => ?_⟩
    all_goals rw [Team.begun_bundles]
    · exact Team.latched_bundle (Team.part_bundle hbi hrest)
    · rw [Team.latched_other (Nat.ne_of_gt hi)]
      exact Team.part_last hrest
    · rw [Team.latched_other hj]
      exact Team.part_other hrest hj hjl
  · rintro m d a t0 s ⟨h, hpl, ⟨hw, hf, hh⟩, hg0, hl0, hx0, hall⟩
    have hv : tm.VoteWaits group t0 m d a := fun t ht =>
      have ⟨hg, hl, hx⟩ := Team.mem_liveOf.1 ht
      hall t hg hl hx
    have h0 : t0 ∈ tm.liveOf group := Team.mem_liveOf.2 ⟨hg0, hl0, hx0⟩
    obtain ⟨um, hput, hmap⟩ := vote_any h0 hv
    have hreg : ∀ th r, (s.setTeam (teamKey col slot) (tm.converge group)).reg (teamKey col slot) th r = (um.thread th).get r := fun th r => by
      rw [State.reg_of_team? State.setTeam_team?_self]
      exact hmap.keeps (p := fun x => x.get r) (fun _ _ => rfl) th
    refine ⟨_, groupCollectiveConvergence_eq h hw hf hh hpl, ⟨_, rfl⟩, fun th r hr => ?_, fun th hg hl hx => ⟨?_, fun hps hn => ?_⟩⟩
    · rw [hreg, State.reg_of_team? h]
      rcases hr with hr | hr
      · rw [hput.other th fun hin => hr (Team.mem_liveOf.1 (List.mem_of_mem_filter hin)).1]
      · exact hput.regs th r (by omega)
    · rw [State.th_of_team? State.setTeam_team?_self, hmap.mem (Team.mem_liveOf.2 ⟨hg, hl, hx⟩) (hput.length ▸ hl)]
    · rw [hreg, hput.value (List.mem_filter.2 ⟨Team.mem_liveOf.2 ⟨hg, hl, hx⟩, hps⟩) hl hn]
      have hiff : (∃ w ∈ tm.liveOf group, (tm.thread w).passes m = true ∧ (tm.thread w).get a.toNat ≠ 0) ↔ ∃ w, w / 32 = group
          ∧ w < tm.threads.length ∧ (tm.thread w).exited = false ∧ (tm.thread w).passes m = true ∧ (tm.thread w).get a.toNat ≠ 0 :=
        exists_congr fun w => (and_congr_left' Team.mem_liveOf).trans (by simp only [and_assoc])
      rw [← hiff]
      split
      · rename_i hex
        exact ⟨iff_of_true rfl hex, .inr rfl⟩
      · rename_i hex
        exact ⟨iff_of_false (by decide) hex, .inl rfl⟩
  · rintro s ⟨h, hw, hl, hk, hu⟩
    have hth := fun th => (State.th_of_team? (State.setTeam_team?_self (s := s) (k := teamKey col slot)) th).trans
      (Team.sleepEnds_thread (tm := tm) (now := s.dt) (t := thread))
    refine ⟨_, sleepExpiry_eq h, ⟨_, rfl⟩, ?_, fun th hne => ?_, fun th r => ?_⟩
    · rw [hth, if_pos ⟨rfl, hw, hk, hu⟩]
    · rw [hth, if_neg fun ⟨e, _⟩ => hne e, State.th_of_team? h]
    · rw [State.reg_of_team? State.setTeam_team?_self, State.reg_of_team? h, Team.sleepEnds_thread]
      split <;> rfl
  · rintro s ⟨h, hk, hu⟩
    refine ⟨_, sleepExpiry_eq h, fun th => ?_⟩
    rw [State.th_of_team? State.setTeam_team?_self, State.th_of_team? h, Team.sleepEnds_thread]
    refine if_neg ?_
    rintro ⟨rfl, -, -, hle⟩
    omega
  · rintro k here hslot s ⟨h, ho, hl, hn, hp, hlane, hfit⟩
    obtain ⟨t, pcs, he, ht, hall⟩ := formationPoint_team? hslot h ho hl hfit
    refine ⟨t, he, _, ht, rfl, rfl, fun b hb => Team.mem_rebuilt_of_not_here hp hb, fun th => ?_,
      fun b hb hh => Team.rebuilt_here hp hall hlane hb hh⟩
    exact Team.rebuilt_threads_mem hp hn

end Sys2Proof.Machine
end

section
/-! SUPPORT. Lists in rising order as maps, and the registers of a thread that starts: the launch values (R58) and those a successor inherits (R104). -/

namespace Sys2Proof.Machine

set_option Elab.async false

variable {α β : Type} {l a : List (Nat × α)} {j k n idx t r mask : Nat} {v d : α} {w : Card}

/-! ### What a list in rising order finds -/

theorem Rising.sfind_eq_some (h : Rising l) : sfind l j = some v ↔ (j, v) ∈ l := ⟨mem_of_sfind, h.sfind_of_mem⟩

theorem Rising.sfind_tail {p : Nat × α} (h : Rising (p :: l)) (hj : j ≤ p.1) : sfind l j = none := by
  obtain ⟨hlt, -⟩ := List.pairwise_cons.1 h
  refine Option.eq_none_iff_forall_ne_some.2 fun v hv => ?_
  have := hlt j (List.mem_map_of_mem (mem_of_sfind hv))
  omega

theorem Rising.tail {p : Nat × α} (h : Rising (p :: l)) : Rising l := (List.pairwise_cons.1 h).2

theorem sget_eq_getD : sget d l j = (sfind l j).getD d := by
  induction l with
  | nil => rfl
  | cons p l ih =>
    unfold sget sfind
    split
    · rfl
    split
    · rfl
    · exact ih

theorem Rising.sfind_filter {f : Nat → Bool} (h : Rising l) : sfind (l.filter fun p => f p.1) j = if f j then sfind l j else none := by
  refine Option.ext fun v => ?_
  rw [h.filter.sfind_eq_some, List.mem_filter]
  by_cases hf : f j = true
  · rw [if_pos hf, h.sfind_eq_some]
    simp [hf]
  · simp [hf]

theorem sfind_map {f : Nat → α → β} : sfind (l.map fun p => (p.1, f p.1 p.2)) j = (sfind l j).map (f j) := by
  induction l with
  | nil => rfl
  | cons p l ih =>
    rw [List.map_cons]
    unfold sfind
    split
    · rename_i e
      rw [e]
      rfl
    split
    · rfl
    · exact ih

theorem Rising.sget_sput [DecidableEq α] (h : Rising l) : sget d (Machine.sput d l k v) j = if j = k then v else sget d l j := by
  unfold Machine.sput
  split
  · rename_i e
    rw [sget_sdel (sok_none_iff_rising.2 h), e]
  · exact sget_sins ..

/-- Writes of the entries of a list, each over what was there. -/
theorem Rising.sget_foldl_sput [DecidableEq α] (hl : Rising l) (ha : Rising a) :
    sget d (l.foldl (fun m p => Machine.sput d m p.1 p.2) a) j = (sfind l j).getD (sget d a j) := by
  induction l generalizing a with
  | nil => rfl
  | cons p l ih =>
    have hp : sfind (p :: l) j = if j = p.1 then some p.2 else if j < p.1 then none else sfind l j := rfl
    rw [List.foldl_cons, ih hl.tail ha.sput, ha.sget_sput, hp]
    by_cases e : j = p.1
    · rw [hl.sfind_tail (Nat.le_of_eq e), if_pos e, if_pos e]
      rfl
    · rw [if_neg e, if_neg e]
      by_cases hlt : j < p.1
      · rw [hl.sfind_tail (Nat.le_of_lt hlt), if_pos hlt]
      · rw [if_neg hlt]

/-! ### Inherited registers (R104) -/

/-- The register blocks that a successor inherits. -/
def keptReg (mask r : Nat) : Bool := mask.testBit (r / 16) && decide (r / 16 < 8)

theorem sget_inheritRegs {old new : List (Nat × Word)} (ho : Rising old) (hn : Rising new) :
    sget 0 (inheritRegs mask n old new) r = (if !keptReg mask r then sfind new r else none).getD
      ((if keptReg mask r && decide (r < n) then sfind old r else none).getD 0) := by
  have ha : Rising ((old.filter fun p => keptReg mask p.1 && decide (p.1 < n)).foldl (fun m p => sput 0 m p.1 p.2) []) := Rising.nil.foldl fun _ _ h => h.sput
  have hnew := hn.sfind_filter (j := r) (f := fun r => !keptReg mask r)
  have hold := ho.sfind_filter (j := r) (f := fun r => keptReg mask r && decide (r < n))
  rw [← hnew, ← hold]
  refine (hn.filter.sget_foldl_sput ha).trans ?_
  rw [ho.filter.sget_foldl_sput .nil]
  rfl

theorem sget_inheritRegs_kept {old new : List (Nat × Word)} (ho : Rising old) (hn : Rising new) (hr : r < 128) (hm : mask.testBit (r / 16) = true)
    (hlt : r < n) : sget 0 (inheritRegs mask n old new) r = sget 0 old r := by
  have hk : keptReg mask r = true := by
    have : r / 16 < 8 := by omega
    simp [keptReg, hm, this]
  rw [sget_inheritRegs ho hn, sget_eq_getD]
  simp [hk, hlt]

theorem sget_inheritRegs_fresh {old new : List (Nat × Word)} (ho : Rising old) (hn : Rising new) (hm : mask.testBit (r / 16) = false) :
    sget 0 (inheritRegs mask n old new) r = sget 0 new r := by
  have hk : keptReg mask r = false := by simp [keptReg, hm]
  rw [sget_inheritRegs ho hn, sget_eq_getD]
  simp [hk]

/-! ### The launch values (R58) -/

/-- The launch values of v0 to v3: a persistent card has no argument. -/
def startVals (w : Card) (idx t : Nat) : List (Nat × Word) :=
  if w.persist then [(0, nw t), (1, nw idx)]
  else [(0, nw t), (1, nw idx), (2, nw (w.arg + idx * w.rsz)), (3, nw ((w.arg + idx * w.rsz) / 2 ^ 32 % 2 ^ 20))]

theorem sget_startRegs : sget 0 (startRegs w idx t) r = (sfind (startVals w idx t) r).getD 0 := by
  have hr : Rising (startVals w idx t) := by
    unfold startVals
    split <;> simp [Rising]
  have e : startRegs w idx t = (startVals w idx t).foldl (fun m p => sput 0 m p.1 p.2) [] := by
    unfold startRegs startVals
    dsimp only
    split <;> rfl
  rw [e, hr.sget_foldl_sput .nil]
  rfl

theorem sget_startRegs_zero : sget 0 (startRegs w idx t) 0 = nw t := by
  rw [sget_startRegs, startVals]
  split <;> rfl

theorem sget_startRegs_one : sget 0 (startRegs w idx t) 1 = nw idx := by
  rw [sget_startRegs, startVals]
  split <;> rfl

theorem sget_startRegs_arg (h : w.persist = false) :
    sget 0 (startRegs w idx t) 3 ++ sget 0 (startRegs w idx t) 2 = BitVec.ofNat 64 ((w.arg + idx * w.rsz) % 2 ^ 52) := by
  have e3 : sget 0 (startRegs w idx t) 3 = nw ((w.arg + idx * w.rsz) / 2 ^ 32 % 2 ^ 20) := by
    rw [sget_startRegs, startVals, h]
    rfl
  have e2 : sget 0 (startRegs w idx t) 2 = nw (w.arg + idx * w.rsz) := by
    rw [sget_startRegs, startVals, h]
    rfl
  rw [e2, e3]
  refine BitVec.eq_of_toNat_eq ?_
  rw [BitVec.toNat_append, ← Nat.shiftLeft_add_eq_or_of_lt (BitVec.isLt _), Nat.shiftLeft_eq]
  simp only [nw, BitVec.toNat_ofNat]
  omega

theorem sget_startRegs_above (h : 4 ≤ r) : sget 0 (startRegs w idx t) r = 0 := by
  have hk : ∀ p ∈ startVals w idx t, p.1 < 4 := by
    unfold startVals
    split <;> simp
  have hn : sfind (startVals w idx t) r = none := Option.eq_none_iff_forall_ne_some.2 fun v hv => absurd (hk _ (mem_of_sfind hv)) (Nat.not_lt.2 h)
  rw [sget_startRegs, hn]
  rfl

end Sys2Proof.Machine
end

section
/-! SUPPORT. What leaves the grids and the time as they are: writes that arrive at their homes, the write-backs of columns, translations, and the writes of the
S4's own. `s₀.Calm s` goes along with a state through the model's functions, one lemma for each, in the model's order. -/

namespace Sys2Proof.Machine

set_option Elab.async false

variable {s₀ s t : State} {α : Type}

/-- The grids and the time are as they were in `s₀`. -/
def State.Calm (s₀ s : State) : Prop := s.grids = s₀.grids ∧ s.cyc = s₀.cyc

theorem State.Calm.refl : s.Calm s := ⟨rfl, rfl⟩

theorem State.Calm.trans (h : s₀.Calm s) (h' : s.Calm t) : s₀.Calm t := ⟨h'.1.trans h.1, h'.2.trans h.2⟩

theorem State.Calm.dt (h : s₀.Calm s) : s.dt = s₀.dt := congrArg (· / 2) h.2

theorem State.Calm.of_eq {p : State × α} {a : α} (h : s₀.Calm p.1) (e : p = (t, a)) : s₀.Calm t := by
  rw [e] at h
  exact h

theorem calm_ite {c : Prop} [Decidable c] (hs : s₀.Calm s) (ht : s₀.Calm t) : s₀.Calm (if c then s else t) := by
  split <;> assumption

theorem calm_ite_fst {c : Prop} [Decidable c] {p q : State × α} (hp : s₀.Calm p.1) (hq : s₀.Calm q.1) : s₀.Calm (if c then p else q).1 := by
  split <;> assumption

theorem State.Calm.foldl {f : State → α → State} {l : List α} (h : s₀.Calm s) (hf : ∀ t a, s₀.Calm t → s₀.Calm (f t a)) : s₀.Calm (l.foldl f s) := by
  induction l generalizing s with
  | nil => exact h
  | cons a l ih => exact ih (hf _ _ h)

/-! ### Homes and column caches -/

theorem State.Calm.setTeam {k tm} (h : s₀.Calm s) : s₀.Calm (s.setTeam k tm) := h

theorem State.Calm.modTeam {k f} (h : s₀.Calm s) : s₀.Calm (s.modTeam k f) := by
  unfold State.modTeam
  split <;> exact h

theorem State.Calm.rset {k v} (h : s₀.Calm s) : s₀.Calm (s.rset k v) := h

theorem State.Calm.modCol {c f} (h : s₀.Calm s) : s₀.Calm (s.modCol c f) := h

theorem State.Calm.setHome {line d} (h : s₀.Calm s) : s₀.Calm (s.setHome line d) := h

theorem State.Calm.setPoison {line p} (h : s₀.Calm s) : s₀.Calm (s.setPoison line p) := h

theorem State.Calm.setCline {c line l} (h : s₀.Calm s) : s₀.Calm (s.setCline c line l) := h

theorem State.Calm.putByte {k b} (h : s₀.Calm s) : s₀.Calm (s.putByte k b) := by
  unfold State.putByte
  split <;> exact h

theorem State.Calm.putLine {line : Nat} {l} (h : s₀.Calm s) : s₀.Calm (s.putLine line l) := by
  induction l generalizing s with
  | nil => exact h
  | cons p l ih => exact ih h.putByte

theorem State.Calm.grantNow {line} (h : s₀.Calm s) : s₀.Calm (s.grantNow line).1 := calm_ite_fst h.setHome h

theorem State.Calm.keepLine {line c t} (h : s₀.Calm s) : s₀.Calm (s.keepLine line c t) := by
  unfold State.keepLine
  split
  · split
    · exact (h.grantNow.of_eq ‹_›).setCline
    · exact h.grantNow.of_eq ‹_›
  · exact h

theorem State.Calm.applyWrite {line w} (h : s₀.Calm s) : s₀.Calm (s.applyWrite line w) := by
  unfold State.applyWrite
  extract_lets ack
  have hack : ∀ t a a', s₀.Calm t → s₀.Calm (ack t a a') := by
    intro t a a' ht
    unfold ack
    split
    · split <;> exact ht
    · split <;> exact ht
  split
  · extract_lets s₁ s₂ _ s₃
    have hs₁ : s₀.Calm s₁ := h.putLine
    have hs₂ : s₀.Calm s₂ := calm_ite hs₁.setPoison hs₁
    have hs₃ : s₀.Calm s₃ := calm_ite hs₂.setHome hs₂
    refine hack _ _ _ ?_
    split
    · exact hs₃.keepLine
    · exact hs₃
  · exact calm_ite (hack _ _ _ h) (hack _ _ _ h.putLine)
  · exact hack _ _ _ h.putLine

theorem State.Calm.applyWrites {line l} (h : s₀.Calm s) : s₀.Calm (s.applyWrites line l) := by
  induction l generalizing s with
  | nil => exact h
  | cons a l ih => exact ih h.applyWrite

theorem State.Calm.applyDue {line} (h : s₀.Calm s) : s₀.Calm (s.applyDue line) := by
  unfold State.applyDue
  extract_lets
  split
  · exact h
  split
  · exact calm_ite h h.setHome.applyWrites
  split
  · exact h
  · exact h.setHome.applyWrite

theorem State.Calm.homeArrive {line w} (h : s₀.Calm s) : s₀.Calm (s.homeArrive line w).1 := by
  unfold State.homeArrive
  extract_lets _ s₁
  have hs₁ : s₀.Calm s₁ := h.applyDue
  split
  exact hs₁.setHome

theorem State.Calm.dropLine {c line} (h : s₀.Calm s) : s₀.Calm (s.dropLine c line) := h

theorem State.Calm.writeBack {c line team keep} (h : s₀.Calm s) : s₀.Calm (s.writeBack c line team keep).1 := by
  unfold State.writeBack
  extract_lets _ _ _ leave
  have hleave : ∀ t a, s₀.Calm t → s₀.Calm (leave t a) := fun _ _ ht => ht.dropLine.modCol
  split
  · exact calm_ite h (hleave _ _ h)
  split
  exact calm_ite_fst (h.homeArrive.of_eq ‹_›).setCline (hleave _ _ (h.homeArrive.of_eq ‹_›))

theorem State.Calm.recallDirty {line} (h : s₀.Calm s) : s₀.Calm (s.recallDirty line) := h.foldl fun _ _ ht => ht.writeBack

theorem State.Calm.writeBackAll {c team l} (h : s₀.Calm s) : s₀.Calm (s.writeBackAll c team l).1 := by
  induction l generalizing s with
  | nil => exact h
  | cons a l ih =>
    unfold State.writeBackAll
    split
    split
    exact (ih (h.writeBack.of_eq ‹_›)).of_eq ‹_›

theorem State.Calm.bind {c part} (h : s₀.Calm s) : s₀.Calm (s.bind c part) := calm_ite h (calm_ite h (h.foldl fun _ _ ht => ht.writeBack)).modCol

/-! ### Translations -/

theorem State.Calm.askAts {col ck va} (h : s₀.Calm s) : s₀.Calm (s.askAts col ck va) := calm_ite h h

theorem State.Calm.sendPage {fn} (h : s₀.Calm s) : s₀.Calm (s.sendPage fn) := by
  unfold State.sendPage
  split
  · exact calm_ite h h
  · exact h

theorem State.Calm.requestPage {ck va write} (h : s₀.Calm s) : s₀.Calm (s.requestPage ck va write) := by
  unfold State.requestPage
  extract_lets
  split
  · exact calm_ite h h
  · exact .sendPage h

theorem State.Calm.xlatKeep {col x} (h : s₀.Calm s) : s₀.Calm (s.xlatKeep col x) := calm_ite h.modCol (calm_ite h h)

theorem State.Calm.xlateLeaf {col x va kind write priv} (h : s₀.Calm s) : s₀.Calm (s.xlateLeaf col x va kind write priv).1 := by
  unfold State.xlateLeaf
  split
  · exact calm_ite_fst h.askAts h.requestPage
  · exact h

theorem State.Calm.xlate {col ck va kind write priv sys} (h : s₀.Calm s) : s₀.Calm (s.xlate col ck va kind write priv sys).1 := by
  unfold State.xlate
  split
  · exact h
  split
  · exact h
  split
  · exact calm_ite_fst h (calm_ite_fst h (calm_ite_fst h h))
  split
  · exact h.xlateLeaf
  split
  · exact h
  · exact (calm_ite h h.xlatKeep).xlateLeaf

theorem State.Calm.xlateAgent {col ck va kind write priv sys} (h : s₀.Calm s) : s₀.Calm (s.xlateAgent col ck va kind write priv sys).1 := by
  unfold State.xlateAgent
  split
  · exact h.xlate.of_eq ‹_›
  · exact h.xlate

/-! ### Writes of the S4's own, and events -/

theorem State.Calm.writeTargets {ck kind priv va n} (h : s₀.Calm s) : s₀.Calm (s.writeTargets ck kind priv va n).1 := by
  induction n generalizing s va with
  | zero => exact h
  | succ n ih =>
    unfold State.writeTargets
    split
    · exact h.xlateAgent.of_eq ‹_›
    refine calm_ite_fst (h.xlateAgent.of_eq ‹_›) ?_
    split <;> exact (ih (h.xlateAgent.of_eq ‹_›)).of_eq ‹_›

theorem State.Calm.modPut {id f} (h : s₀.Calm s) : s₀.Calm (s.modPut id f) := h

theorem State.Calm.putPiece {ck id p} (h : s₀.Calm s) : s₀.Calm (s.putPiece ck id p) := by
  unfold State.putPiece
  split
  · split
    exact (h.recallDirty.homeArrive.of_eq ‹_›).modPut
  · split
    exact (h.homeArrive.of_eq ‹_›).modPut
  · exact h
  · exact .modPut h

theorem State.Calm.localWrite {ck va} (h : s₀.Calm s) : s₀.Calm (s.localWrite ck va) := h

theorem State.Calm.sendPut {id ck todo} (h : s₀.Calm s) : s₀.Calm (s.sendPut id ck todo).1 := by
  unfold State.sendPut
  extract_lets sent
  have hsent : ∀ t, s₀.Calm t → s₀.Calm (sent t) := fun _ ht => ht.modPut
  split
  · split
    · exact h.writeTargets.of_eq ‹_›
    · exact ((hsent _ (h.writeTargets.of_eq ‹_›)).foldl fun _ _ ht => ht.putPiece).localWrite.localWrite
  split
  · exact h.writeTargets.of_eq ‹_›
  extract_lets s₁ s₂
  have hs₁ : s₀.Calm s₁ := hsent _ (h.writeTargets.of_eq ‹_›)
  have hs₂ : s₀.Calm s₂ := by
    unfold s₂
    split
    · exact hs₁.putPiece
    · exact hs₁.putPiece
    · extract_lets
      split
      exact (hs₁.homeArrive.of_eq ‹_›).modPut
    extract_lets
    split
    exact (hs₁.homeArrive.of_eq ‹_›).modPut
  exact hs₂.localWrite

theorem State.Calm.postEvent {fn ws} (h : s₀.Calm s) : s₀.Calm (s.postEvent fn ws) := by
  unfold State.postEvent State.post
  extract_lets
  split
  refine .of_eq ?_ ‹_›
  exact .sendPut h

theorem State.Calm.releaseHeld {fn n} (h : s₀.Calm s) : s₀.Calm (s.releaseHeld fn n) := by
  induction n generalizing s with
  | zero => exact h
  | succ n ih =>
    unfold State.releaseHeld
    split
    · exact calm_ite (ih (.postEvent h)) h
    · exact h

theorem State.Calm.countDone {fn n} (h : s₀.Calm s) : s₀.Calm (s.countDone fn n) := by
  induction n generalizing s with
  | zero => exact h
  | succ n ih =>
    unfold State.countDone
    exact calm_ite (ih (.rset h)) h

theorem State.Calm.dmEnd {c st} (h : s₀.Calm s) : s₀.Calm (s.dmEnd c st) := h

theorem State.Calm.dropMigration {k} (h : s₀.Calm s) : s₀.Calm (s.dropMigration k) := by
  unfold State.dropMigration
  split
  · exact calm_ite (calm_ite (dmEnd (modTeam h.modCol)) (modTeam h.modCol)) h
  · exact h

end Sys2Proof.Machine
end

section
/-! SUPPORT. What the end of a team leaves of the cards of grids, and the grid barrier of a team that is on no core (R97, R105, R106, R114). -/

namespace Sys2Proof.Machine

set_option Elab.async false

variable {s t v : State} {tm u : Team} {k id now : Nat}

/-! ### The cards of grids -/

/-- Every grid of `s` is in `t`, with its card. -/
def State.Cards (s t : State) : Prop := ∀ id g, sfind s.grids id = some g → ∃ g', sfind t.grids id = some g' ∧ g'.card = g.card

theorem State.Cards.trans (h : s.Cards t) (h' : t.Cards v) : s.Cards v := fun id g hg => by
  obtain ⟨a, ha, hac⟩ := h id g hg
  obtain ⟨b, hb, hbc⟩ := h' id a ha
  exact ⟨b, hb, hbc.trans hac⟩

theorem State.Calm.cards (h : s.Calm t) : s.Cards t := fun _ g hg => ⟨g, h.1.symm ▸ hg, rfl⟩

theorem State.cards_setGrid {g g' : Grid} (hg : sfind s.grids id = some g) (hc : g'.card = g.card) : s.Cards { s with grids := sins s.grids id g' } := by
  intro j x hx
  by_cases e : j = id
  · subst e
    obtain rfl : g = x := Option.some.inj (hg.symm.trans hx)
    exact ⟨g', by simp, hc⟩
  · exact ⟨x, by simpa [e] using hx, rfl⟩

theorem State.Cards.modGrid {f : Grid → Grid} (h : s.Cards t) (hf : ∀ g, (f g).card = g.card) : s.Cards (t.modGrid id f) := by
  unfold State.modGrid
  split
  · exact h.trans (State.cards_setGrid ‹_› (hf _))
  · exact h

theorem State.cards_completeGrids {n : Nat} (h : s.Listed) : s.Cards (s.completeGrids n) := by
  induction n generalizing s with
  | zero => exact State.Calm.refl.cards
  | succ n ih =>
    unfold State.completeGrids
    split
    · exact State.Calm.refl.cards
    · rename_i j g hfind
      have hg : sfind s.grids j = some g := Rising.sfind_of_mem h.2.1 (List.mem_of_find?_eq_some hfind)
      extract_lets s₁ _ s₂
      have h₁ : s₁.Listed := State.Listed.setGrid h
      have hs₁ : s.Cards s₁ := State.cards_setGrid hg rfl
      have hs₂ : s₂.Listed ∧ s₁.Cards s₂ := by
        unfold s₂
        split
        · refine ⟨.releaseHeld (.countDone h₁), State.Calm.cards ?_⟩
          exact .releaseHeld (.countDone .refl)
        · exact ⟨h₁, State.Calm.refl.cards⟩
      exact (hs₁.trans hs₂.2).trans (ih hs₂.1)

theorem State.cards_retire (h : s.Listed) : s.Cards (s.retire k false) := by
  unfold State.retire
  split
  · exact State.Calm.refl.cards
  · extract_lets
    split
    rename_i s₁ _ he
    have hw : s.Calm s₁ := (State.Calm.writeBackAll (State.Calm.dropMigration .refl)).of_eq he
    have hl : s₁.Listed := h.dropMigration.writeBackAll.of_eq he
    refine State.Cards.trans ?_ (State.cards_completeGrids ?_)
    · exact State.Cards.modGrid hw.modCol.cards fun _ => rfl
    · exact hl.modCol.modGrid

/-- What a full barrier makes of a team. -/
def State.passed (s : State) (g : Nat) (x : Grid) (tm : Team) : Team :=
  if tm.grid != g then tm
  else if tm.layer?.isSome && tm.halting && x.halted then tm.passBarrier s.dt s.cyc
  else if tm.layer?.isSome then { tm with admitting := tm.anyWaits .gbar }
  else { tm.leaveBarrier s.dt with readyAt := s.dt }

/-- A barrier that is not full changes nothing; a full one starts a generation. -/
theorem State.barrier_cases (s : State) (g : Nat) : s.barrier g = s ∨ ∃ x, sfind s.grids g = some x
    ∧ (s.barrier g).grids = sins s.grids g { x with barGen := x.barGen + 1, barWait := [] }
    ∧ (s.barrier g).teams = s.teams.map fun p => (p.1, s.passed g x p.2) := by
  unfold State.barrier
  split
  · exact .inl rfl
  · rename_i x hx
    split
    · refine .inr ⟨x, hx, ?_⟩
      extract_lets
      unfold State.modGrid
      split
      · rename_i y hy
        obtain rfl : y = x := Option.some.inj (hy.symm.trans hx)
        exact ⟨rfl, rfl⟩
      · rename_i hy
        cases hy.symm.trans hx
    · exact .inl rfl

theorem State.cards_barrier {g : Nat} : s.Cards (s.barrier g) := by
  rcases s.barrier_cases g with e | ⟨x, hx, hg, -⟩
  · rw [e]
    exact State.Calm.refl.cards
  · intro j y hy
    rw [hg]
    exact State.cards_setGrid (g' := { x with barGen := x.barGen + 1, barWait := [] }) hx rfl j y hy

/-! ### The barrier of a team on no core -/

/-- What a barrier does to a team on no core whose threads wait at no GBAR: it may count as released. -/
def Team.Released (tm u : Team) : Prop := u = tm ∨ ∃ now, u = { tm with admitting := false, readyAt := now }

/-- What a team shows beside its admission. -/
def Team.unadmitted (tm : Team) : Team := { tm with admitting := false, readyAt := 0 }

theorem Team.Released.unadmitted (h : tm.Released u) : u.unadmitted = tm.unadmitted := by
  rcases h with rfl | ⟨now, rfl⟩ <;> rfl

theorem Team.leaveBarrier_of_noWait (h : ∀ th ∈ tm.threads, th.wait.kind ≠ .gbar) : tm.leaveBarrier now = { tm with admitting := false } := by
  have e : (tm.threads.map fun th => if th.wait.kind = .gbar then { th.acquire 2 now with wait := {} } else th) = tm.threads :=
    (List.map_congr_left fun th hth => if_neg (h th hth)).trans (List.map_id _)
  unfold Team.leaveBarrier
  rw [e]

theorem State.barrier_team? {g : Nat} (h : s.team? k = some tm) (hl : tm.layer? = none) (hw : ∀ th ∈ tm.threads, th.wait.kind ≠ .gbar) :
    ∃ u, (s.barrier g).team? k = some u ∧ tm.Released u := by
  rcases s.barrier_cases g with e | ⟨x, -, -, ht⟩
  · exact ⟨tm, e.symm ▸ h, .inl rfl⟩
  · refine ⟨s.passed g x tm, ?_, ?_⟩
    · rw [State.team?, ht, sfind_map (f := fun _ => s.passed g x)]
      exact congrArg (Option.map _) h
    · unfold State.passed
      rw [hl, Team.leaveBarrier_of_noWait hw]
      split
      · exact .inl rfl
      · exact .inr ⟨s.dt, rfl⟩

end Sys2Proof.Machine
end

section
/-! SUPPORT. The start of a team and its placement (R58, R59, R95), the cooperative guard, the grid's signal (R97) and the admission past the grid barrier
(R114). -/

namespace Sys2Proof.Machine

set_option Elab.async false

variable {s t u : State} {tm um : Team} {k id col sl idx now cyc : Nat} {g : Grid} {w : Card} {b e : Nat × Nat}

/-! ### The start of a team -/

/-- What of a team the choice of its core leaves as it was. -/
def Team.unplaced (tm : Team) : Team := { tm with place := .parked, engAt := none, since := 0, placedAt := 0, resFrom := 0, groups := [], bundles := [] }

/-- The team that a start puts into its slot. -/
def State.started (s : State) (k : Nat) (tm : Team) : Team :=
  match s.chooseCore (teamCol k) k tm with
  | some l => (tm.form s.cyc).onto l s.dt s.cyc (s.clock (teamCol k))
  | none => tm.form s.cyc

theorem State.startTeam_eq : s.startTeam k tm = s.setTeam k (s.started k tm) := by
  unfold State.startTeam State.started
  dsimp only
  have e : s.chooseCore (teamCol k) k (tm.form s.cyc) = s.chooseCore (teamCol k) k tm := rfl
  rw [e]
  cases s.chooseCore (teamCol k) k tm <;> rfl

theorem State.started_unplaced : (s.started k tm).unplaced = tm.unplaced := by
  unfold State.started
  split <;> rfl

theorem State.started_threads : (s.started k tm).threads = tm.threads := by
  have h := State.started_unplaced (s := s) (k := k) (tm := tm)
  exact (congrArg Team.threads h : _)

theorem State.started_thread {th : Nat} : (s.started k tm).thread th = tm.thread th := by
  rw [Team.thread, State.started_threads, Team.thread]

theorem startWaits_n {gs : List Group} {clk i : Nat} : ((startWaits gs clk).getD i { n := 0 }).n = (gs.getD i { n := 0 }).n := by
  unfold startWaits
  rw [List.getD_eq_getElem?_getD, List.getD_eq_getElem?_getD, List.getElem?_map]
  cases gs[i]? with
  | none => rfl
  | some x =>
    dsimp only [Option.map_some, Option.getD_some]
    split <;> rfl

theorem State.started_n {th : Nat} : (s.started k tm).n th = tm.n th := by
  unfold State.started
  split
  · exact startWaits_n
  · rfl

/-! ### Placement -/

theorem newTeam_thread {age : Nat} {cluster : List Nat} {th m : Nat} (h : th < w.thr) :
    (newTeam w id idx m age now cluster b e).thread th = { pc := BitVec.ofNat 52 w.entry, regs := startRegs w idx th, floor := now } := by
  simp [newTeam, Team.thread, h]

theorem newTeam_n {age : Nat} {cluster : List Nat} {th m : Nat} (h : th < w.thr) : (newTeam w id idx m age now cluster b e).n th = w.n := by
  have hg : th / 32 < w.thr / 32 := by
    unfold Card.thr at h ⊢
    omega
  simp [newTeam, Team.n, hg]

theorem Card.entry_lt : w.entry < 2 ^ 52 := by
  unfold Card.entry addr52
  omega

/-- The threads of a new team start at ENTRY with the launch values, and everything else zero (R58, R59). -/
theorem newTeam_starts {age : Nat} {cluster : List Nat} {th m : Nat} (h : th < w.thr) :
    let x := (newTeam w id idx m age now cluster b e).thread th
    x.pc.toNat = w.entry ∧ x.floor = now ∧ x.status = 0 ∧ x.get 0 = nw th ∧ x.get 1 = nw idx
      ∧ (w.persist = false → x.pair 2 = BitVec.ofNat 64 ((w.arg + idx * w.rsz) % 2 ^ 52)) ∧ ∀ r, 4 ≤ r → x.get r = 0 := by
  intro x
  have hx : x = { pc := BitVec.ofNat 52 w.entry, regs := startRegs w idx th, floor := now } := newTeam_thread h
  rw [hx]
  exact ⟨(BitVec.toNat_ofNat ..).trans (Nat.mod_eq_of_lt Card.entry_lt), rfl, rfl, sget_startRegs_zero, sget_startRegs_one, sget_startRegs_arg,
    fun _ => sget_startRegs_above⟩

theorem State.lt_of_columnTakes (h : s.columnTakes w col = some (b, e, sl)) : col < s.ncol := by
  unfold State.columnTakes at h
  split at h
  · cases h
  · rename_i hc
    omega

theorem rectangle_one : rectangle col 1 1 = [col] := by simp [rectangle]

/-- A card of single teams is placed in a column that takes it. -/
theorem State.placeAt_eq (hr : Card.crows g.card = 1) (hc : Card.ccols g.card = 1) (hb : Card.bsp g.card = false)
    (ht : s.columnTakes g.card col = some (b, e, sl)) :
    s.placeAt id g col = some (((s.bind col (Card.part g.card)).startTeam (teamKey col sl)
      (newTeam g.card id g.placed 0 (s.bind col (Card.part g.card)).cyc (s.bind col (Card.part g.card)).dt [] b e)).modGrid id fun g =>
        { g with placed := g.placed + 1 }) := by
  have hlt := State.lt_of_columnTakes ht
  have hfit : rectFits s.ncol col 1 1 = true := by
    simp [rectFits, rectangle_one, hlt]
    omega
  have hsize : Card.csize g.card = 1 := by simp [Card.csize, hr, hc]
  unfold State.placeAt
  simp [hr, hc, hb, rectangle_one, hfit, ht, State.placeMembers, hsize]

theorem exec_teamPlacement : exec (.teamPlacement id col) s = execTeamPlacement id col s := rfl

theorem teamPlacement_eq (hg : sfind s.grids id = some g) (hp : g.pending = true) (hgu : s.guarded id g = false) (hf : s.fatal = false)
    (hpw : s.powered = true) (ht : s.hardTrip = none)
    (hfirst : ∀ p ∈ s.grids, p.1 = id ∨ p.2.before g p.1 id = false ∨ s.placeable p.1 p.2 = false) (hc : Card.coop g.card = false)
    (h : s.placeAt id g col = some t) :
    exec (.teamPlacement id col) s = .next { t with coopGuard := t.coopGuard.filter fun q => q != id } := by
  have hany : (s.grids.any fun p => p.1 != id && p.2.before g p.1 id && s.placeable p.1 p.2) = false := by
    refine List.any_eq_false.2 fun p hp => ?_
    rcases hfirst p hp with h | h | h <;> simp [h]
  have hgrid : s.placeGrid id g col = some t := by
    rw [State.placeGrid, hc]
    exact h
  rw [exec_teamPlacement, execTeamPlacement]
  simp [hg, hp, hgu, hf, hpw, ht, hany, hgrid]

theorem State.bind_bound {part : Nat} : ((s.bind col part).col col).bound = true := by
  unfold State.bind
  extract_lets x
  split
  · assumption
  · simp [State.modCol]

/-! ### The cooperative guard -/

theorem exec_cooperativeGuard : exec (.cooperativeGuard id) s = execCooperativeGuard id s := rfl

theorem cooperativeGuard_eq (hg : sfind s.grids id = some g) (hc : Card.coop g.card = true) (hp : g.pending = true) (ha : g.age + 1000000 ≤ s.dt)
    (hn : id ∉ s.coopGuard) : exec (.cooperativeGuard id) s = .next { s with coopGuard := id :: s.coopGuard } := by
  rw [exec_cooperativeGuard, execCooperativeGuard]
  simp [hg, hc, hp, ha, hn]

/-! ### The signal -/

theorem exec_gridSignal : exec (.gridSignal id) s = execGridSignal id s := rfl

theorem State.modGrid_of_sfind {f : Grid → Grid} (h : sfind s.grids id = some g) : s.modGrid id f = { s with grids := sins s.grids id (f g) } := by
  rw [State.modGrid, h]

/-- A complete grid that has not signalled, and whose accesses have been performed. -/
def State.Signals (s : State) (id : Nat) (g : Grid) (tgt : Target) : Prop :=
  sfind s.grids id = some g ∧ g.complete = true ∧ g.signalled = false ∧ g.signalHeld = false ∧ s.gridReleased id g = true
    ∧ s.xlateAgent none g.ctx (Card.saddr g.card) kAtomic true g.priv true = (s, .ok tgt) ∧ s.targetUp tgt = true ∧ s.poisoned tgt = false

/-- The atomic that a signal sends to a counter in host memory. -/
def signalMsg (a sinc dctx : Nat) : OutMsg := { dev := none, addr := a, data := leBytes sinc 8, aop := some (0, 11), dctx, translated := true }

/-- A write that arrives at an idle home. -/
theorem State.homeArrive_of_idle {line : Nat} {x : HomeWrite} (hl : s.lineHeld line = false) (hm : s.lineOf line = line) (hw : (s.home line).waiting = []) :
    (s.homeArrive line x).1 = s.setHome line { (s.arrive line).2 with waiting := [{ x with t := (s.arrive line).1 }] } := by
  simp only [State.lineHeld, Bool.or_eq_false_iff, Option.isSome_eq_false_iff, Option.isNone_iff_eq_none] at hl
  obtain ⟨ho, hmv⟩ := hl
  have hdue : s.applyDue line = s := by
    simp [State.applyDue, hmv, ho, hw]
  have hwt : (s.arrive line).2.waiting = [] := hw
  simp only [State.homeArrive, hm, hdue, hwt, List.nil_append]

/-- The state in which a grid has signalled. -/
def State.signalled (s : State) (id : Nat) (g : Grid) : State := { s with grids := sins s.grids id { g with signalled := true } }

theorem State.signalled_eq (h : sfind s.grids id = some g) : (s.modGrid id fun g => { g with signalled := true }) = s.signalled id g :=
  State.modGrid_of_sfind h

theorem State.signalled_grid : ∃ g', sfind (s.signalled id g).grids id = some g' ∧ g'.signalled = true :=
  ⟨_, (sfind_sins ..).trans (if_pos rfl), rfl⟩

theorem gridSignal_host {a : Nat} (h : s.Signals id g (.host a)) : exec (.gridSignal id) s
    = .next (({ s with outbox := signalMsg a (Card.sinc g.card) (s.rbits (kLk g.ctx 8) 11 0) :: s.outbox } : State).signalled id g) := by
  obtain ⟨hg, hc, hs, hh, hr, hx, hu, hp⟩ := h
  rw [exec_gridSignal, execGridSignal]
  simp only [hg, hc, hs, hh, hr, hx, hu, hp]
  exact congrArg Host.Outcome.next (State.signalled_eq hg)

/-- The atomic that a signal sends to its counter's home. -/
def signalWrite (a sinc t : Nat) : HomeWrite := { t, op := .atomic (a % 128) 8 0 11 sinc 0, signal := true }

theorem gridSignal_hbm {a : Nat} (h : s.Signals id g (.hbm a)) (hl : s.lineHeld (a / 128) = false) (hm : s.lineOf (a / 128) = a / 128)
    (hw : (s.home (a / 128)).waiting = []) : exec (.gridSignal id) s
    = .next (((s.setHome (a / 128) { (s.arrive (a / 128)).2 with
        waiting := [signalWrite a (Card.sinc g.card) (s.arrive (a / 128)).1] }).localWrite g.ctx (Card.saddr g.card)).signalled id g) := by
  obtain ⟨hg, hc, hs, hh, hr, hx, hu, hp⟩ := h
  rw [exec_gridSignal, execGridSignal]
  simp only [hg, hc, hs, hh, hr, hx, hu, hp, hl, State.homeArrive_of_idle hl hm hw]
  exact congrArg Host.Outcome.next (State.signalled_eq hg)

/-! ### Admission past the grid barrier -/

/-- A team whose admission cycle has come goes on from the barrier. -/
def Team.goPast (now cyc : Nat) (tm : Team) : Team :=
  if tm.admitting then { tm.leaveBarrier now with bundles := (tm.leaveBarrier now).bundles.map fun b => { b with stamp := cyc } } else tm

theorem Team.goPast_goPast : (tm.goPast now cyc).goPast now cyc = tm.goPast now cyc := by
  by_cases h : tm.admitting = true
  · have e : (tm.goPast now cyc).admitting = false := by
      rw [Team.goPast, if_pos h]
      rfl
    exact if_neg (by simp [e])
  · have e : tm.goPast now cyc = tm := if_neg h
    rw [e, e]

/-- The admissions of a list. -/
def State.admitAll (s : State) (l : List (Nat × Nat)) : State := l.foldl (fun s q => s.modTeam q.2 (Team.goPast s.dt s.cyc)) s

theorem State.modTeam_dt_cyc {f : Team → Team} : (s.modTeam k f).dt = s.dt ∧ (s.modTeam k f).cyc = s.cyc ∧ (s.modTeam k f).admits = s.admits := by
  unfold State.modTeam
  split <;> exact ⟨rfl, rfl, rfl⟩

theorem State.admitAll_admits {l : List (Nat × Nat)} : (s.admitAll l).admits = s.admits := by
  induction l generalizing s with
  | nil => rfl
  | cons q l ih => exact ih.trans State.modTeam_dt_cyc.2.2

/-- A team that the list does not name stays; one that it names is admitted. -/
theorem State.admitAll_team? {l : List (Nat × Nat)} (h : s.team? k = some tm) :
    (s.admitAll l).team? k = some (if k ∈ l.map Prod.snd then tm.goPast s.dt s.cyc else tm) := by
  induction l generalizing s tm with
  | nil => exact h
  | cons q l ih =>
    obtain ⟨hdt, hcyc, -⟩ := State.modTeam_dt_cyc (s := s) (k := q.2) (f := Team.goPast s.dt s.cyc)
    show ((s.modTeam q.2 (Team.goPast s.dt s.cyc)).admitAll l).team? k = _
    by_cases hq : q.2 = k
    · subst hq
      have h' : (s.modTeam q.2 (Team.goPast s.dt s.cyc)).team? q.2 = some (tm.goPast s.dt s.cyc) := by
        rw [State.modTeam_of_team? h]
        exact State.setTeam_team?_self
      rw [ih h', hdt, hcyc, Team.goPast_goPast, ite_self]
      simp
    · rw [ih ((State.modTeam_team?_ne hq).trans h), hdt, hcyc]
      refine congrArg some (if_congr ?_ rfl rfl)
      simp [Ne.symm hq]

/-- Whether an admission of a grid is due. -/
def State.dueFor (s : State) (id : Nat) (q : Nat × Nat) : Bool :=
  decide (q.1 ≤ s.cyc) && (match s.team? q.2 with | some tm => tm.grid == id && tm.waitsEnd | none => true)

theorem gbarAdmissionWindow_eq : exec (.gbarAdmissionWindow id) s
    = .next (({ s with admits := s.admits.filter fun q => !s.dueFor id q } : State).admitAll (s.admits.filter (s.dueFor id))) := rfl

theorem State.dueFor_iff {q : Nat × Nat} (h : s.team? q.2 = some tm) (hg : tm.grid = id) (hw : tm.waitsEnd = true) : s.dueFor id q = true ↔ q.1 ≤ s.cyc := by
  simp [State.dueFor, h, hg, hw]

theorem Team.goPast_thread {th : Nat} (ha : tm.admitting = true) (hl : th < tm.threads.length) : (tm.goPast now cyc).thread th
    = if (tm.thread th).wait.kind = .gbar then { tm.thread th with wait := {}, floor := now } else tm.thread th := by
  rw [Team.goPast, if_pos ha]
  simp only [Team.leaveBarrier, Team.thread, List.getD_eq_getElem?_getD, List.getElem?_map, List.getElem?_eq_getElem hl, Option.map_some, Option.getD_some]
  rfl

end Sys2Proof.Machine
end

section
/-! SUPPORT. The end of a hand-over and the start of a successor (R103, R104). -/

namespace Sys2Proof.Machine

set_option Elab.async false

variable {s t u : State} {tm um : Team} {k id col slot idx now cyc mask age : Nat} {g : Grid} {h : Handover} {b e : Nat × Nat} {w : Card}

/-! ### A member of a cluster that waits for the others (R104) -/

theorem State.barrier_of_empty {j : Nat} (hg : sfind s.grids j = some g) (hb : g.barWait = []) : s.barrier j = s := by
  have hf : s.barrierFull j g = false := by simp [State.barrierFull, hb]
  rw [State.barrier, hg]
  dsimp only
  rw [hf]
  rfl

/-- The waits of step 3 of a hand-over are over. -/
def State.HandsOver (s : State) (k : Nat) (tm : Team) (g : Grid) (h : Handover) : Prop :=
  s.team? k = some tm ∧ tm.handover = some h ∧ sfind s.grids tm.grid = some g ∧ 3 ≤ h.step ∧ s.drained k tm = true ∧ g.halted = false ∧ tm.frozen = none
    ∧ tm.freezing = none ∧ tm.halting = false

/-- Every member of the team's cluster has begun its hand-over to the same card. -/
def State.allBegun (s : State) (tm : Team) (h : Handover) : Bool := tm.cluster.zipIdx.all fun m => s.memberReady tm h m.1 m.2

theorem exec_handoverDrainComplete : exec (.handoverDrainComplete col slot) s = execHandoverDrainComplete col slot s := rfl

theorem handoverDrainComplete_waits (hh : s.HandsOver (teamKey col slot) tm g h) (hst : h.step = 3) (hc : 1 < Card.csize h.words)
    (hb : s.allBegun tm h = false) (hw : g.barWait = []) :
    exec (.handoverDrainComplete col slot) s = .next (s.setTeam (teamKey col slot) { tm with handover := some { h with step := 6 } }) := by
  obtain ⟨ht, hho, hg, hs3, hd, hgh, hf, hfz, hha⟩ := hh
  have hbar : (s.setTeam (teamKey col slot) { tm with handover := some { h with step := 6 } }).barrier tm.grid
      = s.setTeam (teamKey col slot) { tm with handover := some { h with step := 6 } } := State.barrier_of_empty hg hw
  rw [exec_handoverDrainComplete, execHandoverDrainComplete]
  simp only [ht, hho, hg]
  rw [if_pos ⟨hs3, hd, hgh, hf, hfz, hha⟩]
  refine (congrArg Host.Outcome.next (if_pos ⟨hc, hb⟩)).trans ?_
  rw [if_pos hst, hbar]

/-! ### The successor takes the slot -/

/-- The team whose registers and memories its successor inherits: its stream has stopped, and its waiting M-word has left the tile queues. -/
def Team.ended (tm : Team) : Team := { tm.unplace with stream := tm.unplace.stream.stop }

theorem Team.ended_threads : tm.ended.threads = tm.threads := Team.unplace_threads

theorem Team.ended_spad : tm.ended.spad = tm.spad := Team.unplace_spad

theorem Team.unplace_of_stream : ∃ st ti, tm.unplace = { tm with stream := st, tiles := ti } := by
  unfold Team.unplace
  split
  · exact ⟨_, _, rfl⟩
  · exact ⟨_, _, rfl⟩

theorem Team.ended_eq : ∃ st ti, tm.ended = { tm with stream := st, tiles := ti } := by
  obtain ⟨st, ti, e⟩ := Team.unplace_of_stream (tm := tm)
  exact ⟨st.stop, ti, by rw [Team.ended, e]⟩

theorem State.applyTags_of_none (hr : ∀ r ∈ s.reqs, r.team = k → r.age = age → r.kind ≠ .ttag) : s.applyTags k age = s := by
  have hnil : (s.reqs.filter fun r => r.kind == .ttag && r.team == k && r.age == age) = [] := by
    refine List.filter_eq_nil_iff.2 fun r hm => ?_
    simp only [Bool.and_eq_true, beq_iff_eq]
    exact fun ⟨⟨hk, ht⟩, ha⟩ => hr r hm ht ha hk
  rw [State.applyTags, hnil]
  rfl

/-- The successor in its slot, not yet started. -/
def Team.heir (tm : Team) (w : Card) (mask id cyc now : Nat) : Team :=
  { tm.successorOf w mask id cyc now with
    place := .parked, bundles := [], engAt := if (tm.successorOf w mask id cyc now).engine.isSome then tm.layer? else none }

/-- A successor grid with one more team, that of a member with an index. -/
def Grid.comes (idx : Nat) (x : Grid) : Grid := { x with started := x.started + 1, placed := x.placed + 1, came := idx :: x.came }

/-- The predecessor retires, and the slot passes to its successor. -/
def State.passOn (s : State) (k : Nat) (tm : Team) (g : Grid) (h : Handover) : State :=
  let (s, id) := s.successorGrid tm.grid g h
  let u := tm.heir h.words h.mask id s.cyc s.dt
  let s := s.modGrid id (Grid.comes tm.index)
  ((s.retire k false).setTeam k u).barrier tm.grid

theorem handoverDrainComplete_ends (hh : s.HandsOver (teamKey col slot) tm g h) (hc : Card.csize h.words ≤ 1 ∨ s.allBegun tm h = true)
    (hr : ∀ r ∈ s.reqs, r.team = teamKey col slot → r.age = tm.age → r.kind ≠ .ttag) :
    exec (.handoverDrainComplete col slot) s = .next ((s.setTeam (teamKey col slot) tm.ended).passOn (teamKey col slot) tm.ended g h) := by
  obtain ⟨ht, hho, hg, hs3, hd, hgh, hf, hfz, hha⟩ := hh
  have hn : ¬ (1 < Card.csize h.words ∧ s.allBegun tm h = false) := by
    rintro ⟨h1, h2⟩
    rcases hc with hc | hc
    · omega
    · rw [hc] at h2
      cases h2
  have hage : tm.unplace.age = tm.age := by
    obtain ⟨st, ti, e⟩ := Team.unplace_of_stream (tm := tm)
    rw [e]
  have htags : (s.setTeam (teamKey col slot) tm.ended).applyTags (teamKey col slot) tm.unplace.age = s.setTeam (teamKey col slot) tm.ended := by
    rw [hage]
    exact State.applyTags_of_none hr
  rw [exec_handoverDrainComplete, execHandoverDrainComplete]
  simp only [ht, hho, hg]
  rw [if_pos ⟨hs3, hd, hgh, hf, hfz, hha⟩]
  refine (congrArg Host.Outcome.next (if_neg hn)).trans ?_
  show Host.Outcome.next (((s.setTeam (teamKey col slot) tm.ended).applyTags (teamKey col slot) tm.unplace.age).passOn (teamKey col slot)
    ((((s.setTeam (teamKey col slot) tm.ended).applyTags (teamKey col slot) tm.unplace.age).team? (teamKey col slot)).getD tm.unplace) g h) = _
  rw [htags, State.setTeam_team?_self]
  rfl

/-- The successor's grid, found or made, has the card of the hand-over. -/
theorem State.successorGrid_card {old : Nat} (hl : s.Listed) :
    ∃ x, sfind (s.successorGrid old g h).1.grids (s.successorGrid old g h).2 = some x ∧ x.card = h.words := by
  unfold State.successorGrid
  split
  · rename_i p hp
    have hq := List.find?_some hp
    simp only [Bool.and_eq_true, beq_iff_eq] at hq
    exact ⟨p.2, Rising.sfind_of_mem hl.2.1 (List.mem_of_find?_eq_some hp), hq.2⟩
  · exact ⟨_, (sfind_sins ..).trans (if_pos rfl), rfl⟩

theorem State.successorGrid_dt {old : Nat} : (s.successorGrid old g h).1.dt = s.dt := by
  unfold State.successorGrid
  split <;> rfl

/-- A thread of the successor: at ENTRY, with the launch values and the registers inherited. -/
def Team.heirThread (tm : Team) (w : Card) (mask now t : Nat) : Thread :=
  let f : Thread := { pc := BitVec.ofNat 52 w.entry, regs := startRegs w tm.index t, floor := now }
  if mask % 256 = 0 then f
  else { f with regs := inheritRegs mask (tm.n t) (tm.thread t).regs f.regs, poison := (tm.thread t).poison.filter fun r => mask.testBit (r / 16) }

theorem Team.heir_threads : (tm.heir w mask id cyc now).threads = (List.range w.thr).map (tm.heirThread w mask now) := by
  refine List.map_congr_left fun t ht => ?_
  rw [newTeam_thread (List.mem_range.1 ht)]
  rfl

theorem Team.heirThread_wait {t : Nat} : (tm.heirThread w mask now t).wait = {} := by
  unfold Team.heirThread
  dsimp only
  split <;> rfl

theorem Team.heirThread_start {t : Nat} : (tm.heirThread w mask now t).pc.toNat = w.entry ∧ (tm.heirThread w mask now t).floor = now := by
  have hpc : (BitVec.ofNat 52 w.entry).toNat = w.entry := by
    rw [BitVec.toNat_ofNat]
    exact Nat.mod_eq_of_lt Card.entry_lt
  unfold Team.heirThread
  dsimp only
  split <;> exact ⟨hpc, rfl⟩

theorem testBit_of_mod_eq_zero {i : Nat} (hm : mask % 256 = 0) (hi : i < 8) : mask.testBit i = false := by
  have h := Nat.testBit_mod_two_pow mask 8 i
  rw [show (2 : Nat) ^ 8 = 256 from rfl, hm] at h
  simpa [hi] using h.symm

theorem Team.heirThread_kept {t r : Nat} (hth : Rising (tm.thread t).regs) (hr : r < 128) (hm : mask.testBit (r / 16) = true) (hn : r < tm.n t) :
    (tm.heirThread w mask now t).get r = (tm.thread t).get r := by
  unfold Team.heirThread
  dsimp only
  split
  · rename_i h0
    rw [testBit_of_mod_eq_zero h0 (by omega)] at hm
    cases hm
  · exact sget_inheritRegs_kept hth startRegs_rising hr hm hn

theorem Team.heirThread_fresh {t r : Nat} (hth : Rising (tm.thread t).regs) (hm : mask.testBit (r / 16) = false) :
    (tm.heirThread w mask now t).get r = sget 0 (startRegs w tm.index t) r := by
  unfold Team.heirThread
  dsimp only
  split
  · rfl
  · exact sget_inheritRegs_fresh hth startRegs_rising hm

/-- What the threads of a successor start with (R58, R104). -/
theorem Team.heirThread_starts {t : Nat} (hth : Rising (tm.thread t).regs) :
    let x := tm.heirThread w mask now t
    x.pc.toNat = w.entry ∧ x.floor = now ∧ ∀ r, r < 128 → (mask.testBit (r / 16) = true ∧ r < tm.n t → x.get r = (tm.thread t).get r)
      ∧ (mask.testBit (r / 16) = false → x.get r = sget 0 (startRegs w tm.index t) r) := by
  obtain ⟨hpc, hfl⟩ := Team.heirThread_start (tm := tm) (w := w) (mask := mask) (now := now) (t := t)
  exact ⟨hpc, hfl, fun r hr => ⟨fun ⟨hm, hlt⟩ => Team.heirThread_kept hth hr hm hlt, Team.heirThread_fresh hth⟩⟩

/-- Thread `t` of a successor that a barrier may have released. -/
theorem Team.Released.heirThread {t : Nat} (hu : (tm.heir w mask id cyc now).Released um) (ht : t < w.thr) :
    um.thread t = tm.heirThread w mask now t := by
  have e : um.threads = (List.range w.thr).map (tm.heirThread w mask now) := (congrArg Team.threads hu.unadmitted).trans Team.heir_threads
  simp [Team.thread, e, ht]

/-- The successor holds the slot, in a grid of its card. -/
theorem State.passOn_team? (hl : s.Listed) : ∃ u x id cyc, (s.passOn k tm g h).team? k = some u ∧ (tm.heir h.words h.mask id cyc s.dt).Released u
    ∧ sfind (s.passOn k tm g h).grids u.grid = some x ∧ x.card = h.words := by
  obtain ⟨x, hx, hxc⟩ := State.successorGrid_card (s := s) (g := g) (h := h) (old := tm.grid) hl
  have hdt := State.successorGrid_dt (s := s) (g := g) (h := h) (old := tm.grid)
  have hl' : (s.successorGrid tm.grid g h).1.Listed := hl.successorGrid
  unfold State.passOn
  generalize s.successorGrid tm.grid g h = q at hx hdt hl' ⊢
  obtain ⟨s₁, id⟩ := q
  dsimp only at hx hdt hl' ⊢
  rw [hdt]
  have hwait : ∀ th ∈ (tm.heir h.words h.mask id s₁.cyc s.dt).threads, th.wait.kind ≠ .gbar := fun th hth => by
    rw [Team.heir_threads] at hth
    obtain ⟨t, -, rfl⟩ := List.mem_map.1 hth
    rw [Team.heirThread_wait]
    decide
  obtain ⟨u, hu, hrel⟩ := State.barrier_team? (g := tm.grid) (State.setTeam_team?_self (a := tm.heir h.words h.mask id s₁.cyc s.dt)) rfl hwait
  have hid : u.grid = id := by
    rcases hrel with rfl | ⟨now, rfl⟩ <;> rfl
  have hret : s₁.Cards (((s₁.modGrid id (Grid.comes tm.index)).retire k false).setTeam k (tm.heir h.words h.mask id s₁.cyc s.dt)) := fun j y hy =>
    State.Cards.trans (State.Cards.modGrid (f := Grid.comes tm.index) State.Calm.refl.cards fun _ => rfl) (State.cards_retire hl'.modGrid) j y hy
  obtain ⟨y, hy, hyc⟩ := (hret.trans State.cards_barrier) id x hx
  exact ⟨u, y, id, s₁.cyc, hu, hrel, hid.symm ▸ hy, hyc.trans hxc⟩

/-! ### The start of a successor (R104) -/

theorem exec_successorStart : exec (.successorStart col slot) s = execSuccessorStart col slot s := rfl

/-- The successor that begins, with its reservations. -/
def Team.begin (tm : Team) (b e : Nat × Nat) (cyc now : Nat) : Team :=
  { tm with successor := false, backing := b, extent := e, age := cyc, since := now, threads := tm.threads.map fun th => { th with floor := now } }

theorem successorStart_eq (ht : s.team? (teamKey col slot) = some tm) (hg : sfind s.grids tm.grid = some g) (hs : tm.successor = true)
    (hh : g.halted = false) (hf : tm.frozen = none) (hfz : tm.freezing = none) (he : tm.engine = none)
    (hr : s.room col (teamKey col slot) g.card = some (b, e)) :
    exec (.successorStart col slot) s
      = .next (s.setTeam (teamKey col slot) (s.started (teamKey col slot) (tm.begin b e s.cyc s.dt))) := by
  rw [exec_successorStart, execSuccessorStart]
  simp [ht, hg, hs, hh, hf, hfz, he, hr, State.startTeam_eq, Team.begin]

theorem Team.begin_thread {t : Nat} : (tm.begin b e cyc now).thread t = if t < tm.threads.length then { tm.thread t with floor := now } else {} := by
  simp only [Team.begin, Team.thread, List.getD_eq_getElem?_getD, List.getElem?_map]
  split
  · rename_i ht
    simp [ht]
  · rename_i ht
    simp [ht]

theorem Team.begin_keeps {α : Type} {p : Thread → α} (hp : ∀ th, p { th with floor := now } = p th) (t : Nat) :
    p ((tm.begin b e cyc now).thread t) = p (tm.thread t) := by
  rw [Team.begin_thread]
  split
  · exact hp _
  · rename_i ht
    simp [Team.thread, ht]

theorem Team.begin_sliceRegs {sl : Nat} : (tm.begin b e cyc now).sliceRegs sl = tm.sliceRegs sl := by
  unfold Team.sliceRegs
  simp only [Team.begin_keeps (p := Thread.exited) fun _ => rfl]
  rfl

theorem State.chooseCore_begin {c : Nat} : s.chooseCore c k (tm.begin b e cyc now) = s.chooseCore c k tm := by
  have hlen : (tm.begin b e cyc now).threads.length = tm.threads.length := List.length_map _
  have heng : (tm.begin b e cyc now).engine = tm.engine := rfl
  simp only [State.chooseCore, State.coreRoom, State.coreFits, hlen, heng, Team.begin_sliceRegs]

theorem State.started_place {l : Nat} (h : s.chooseCore (teamCol k) k tm = some l) : (s.started k tm).place = .core l := by
  simp only [State.started, h]
  rfl


end Sys2Proof.Machine
end

section
/-! SUPPORT. Placement, guard, signals, the barrier window, hand-over and successors. Settles O50. -/

namespace Sys2Proof.Machine

set_option Elab.async false

variable {s : State} {tm u : Team} {k id col slot sl : Nat} {g : Grid} {h : Handover} {b e : Nat × Nat}

/-- Settles O50: each event's next state is written out by an equation of its own, and what it leaves behind is read off. -/
theorem gridsAndSuccessors : Obligations.GridsAndSuccessors := by
  refine ⟨fun id col g w hw => ⟨fun b e sl => ?_, ?_, ⟨fun a => ?_, fun a => ?_⟩, fun k cy tm => ?_⟩,
    fun col slot tm g => ⟨fun h hh => ⟨?_, ?_⟩, fun b e => ?_⟩⟩
  · subst hw
    rintro s ⟨hg, hp, hgu, hf, hpw, ht, hfirst, hc, hr, hcc, hb, htk⟩
    have hgr : (s.bind col (Card.part g.card)).grids = s.grids := (State.Calm.bind .refl).1
    have hdt : (s.bind col (Card.part g.card)).dt = s.dt := (State.Calm.bind .refl).dt
    have hpl := State.placeAt_eq (id := id) hr hcc hb htk
    rw [State.startTeam_eq, State.modGrid_of_sfind (g := g) (by rw [State.setTeam_grids, hgr, hg]), hdt] at hpl
    refine ⟨_, teamPlacement_eq hg hp hgu hf hpw ht hfirst hc hpl, State.bind_bound, ⟨_, (sfind_sins ..).trans (if_pos rfl), rfl⟩,
      _, State.setTeam_team?_self, ?_⟩
    have hun := State.started_unplaced (s := s.bind col (Card.part g.card)) (k := teamKey col sl)
      (tm := newTeam g.card id g.placed 0 (s.bind col (Card.part g.card)).cyc s.dt [] b e)
    refine ⟨congrArg Team.grid hun, congrArg Team.index hun, congrArg Team.backing hun, congrArg Team.extent hun, congrArg Team.spad hun,
      congrArg Team.tiles hun, ?_, fun th hth => ?_⟩
    · rw [State.started_threads]
      simp [newTeam]
    · rw [State.started_thread, State.started_n]
      exact ⟨newTeam_n hth, newTeam_starts hth⟩
  · subst hw
    rintro s ⟨hg, hc, hp, ha, hn⟩
    exact ⟨_, cooperativeGuard_eq hg hc hp ha hn, rfl⟩
  · subst hw
    intro s hs
    exact ⟨_, gridSignal_host hs, rfl, State.signalled_grid⟩
  · subst hw
    rintro s ⟨hs, hl, hm, hwt⟩
    refine ⟨_, gridSignal_hbm hs hl hm hwt, ⟨signalWrite a (Card.sinc g.card) (s.arrive (a / 128)).1, ?_, rfl, rfl⟩, ⟨rfl, rfl, rfl⟩, State.signalled_grid⟩
    show _ ∈ ((s.setHome (a / 128) _).home (a / 128)).waiting
    rw [State.setHome_home, if_pos rfl]
    exact List.mem_singleton_self _
  · rintro s ⟨ht, hg, hwe, ha, hin, hcy⟩
    have hdue : (cy, k) ∈ s.admits.filter (s.dueFor id) := List.mem_filter.2 ⟨hin, (State.dueFor_iff ht hg hwe).2 hcy⟩
    refine ⟨_, gbarAdmissionWindow_eq, fun p hp => ?_, _, State.admitAll_team? ht, ?_⟩
    · rw [State.admitAll_admits] at hp
      obtain ⟨hp, hnot⟩ := List.mem_filter.1 hp
      refine ⟨hp, fun e => ?_⟩
      subst e
      have hlate := mt (State.dueFor_iff ht hg hwe).2 (by simpa using hnot)
      omega
    · rw [if_pos (List.mem_map.2 ⟨_, hdue, rfl⟩)]
      refine ⟨?_, fun th hth => ⟨fun hk => ?_, fun hk => ?_⟩⟩
      · rw [Team.goPast, if_pos ha]
        rfl
      · rw [Team.goPast_thread ha hth, if_pos hk]
        rfl
      · rw [Team.goPast_thread ha hth, if_neg hk]
  · rintro s ⟨⟨ht, hg, hd, hgh, hf, hfz, hha⟩, hst, hc, hb, hw⟩
    exact ⟨_, handoverDrainComplete_waits ⟨ht, hh, hg, hst.ge, hd, hgh, hf, hfz, hha⟩ hst hc hb hw, ⟨_, rfl⟩, State.setTeam_team?_self⟩
  · rintro s ⟨⟨ht, hg, hd, hgh, hf, hfz, hha⟩, hst, hc, ho, hr⟩
    have hl : s.Listed := State.listed_iff_ordered.2 ho
    have hth : RegsRise tm.ended.threads := Team.ended_threads.symm ▸ hl.team ht
    obtain ⟨u, x, id, cyc, hu, hrel, hx, hxc⟩ := State.passOn_team? (tm := tm.ended) (k := teamKey col slot) (g := g) (h := h) (hl.setTeam hth)
    refine ⟨_, handoverDrainComplete_ends ⟨ht, hh, hg, hst, hd, hgh, hf, hfz, hha⟩ hc hr, u, x, hu, ?_⟩
    obtain ⟨st, ti, hend⟩ := Team.ended_eq (tm := tm)
    have hidx : tm.ended.index = tm.index := by rw [hend]
    have hq := hrel.unadmitted
    refine ⟨congrArg Team.successor hq, (congrArg Team.index hq).trans hidx, congrArg Team.place hq, congrArg Team.bundles hq, ?_, hx, hxc,
      fun th hlt => ?_, ?_, fun hm => ?_⟩
    · exact (congrArg (fun v : Team => v.threads.length) hq).trans (by simp [Team.unadmitted, Team.heir_threads])
    · have hthr : tm.ended.thread th = tm.thread th := by rw [hend]; rfl
      have hn : tm.ended.n th = tm.n th := by rw [hend]; rfl
      have hrise : Rising (tm.ended.thread th).regs := hth.thread
      rw [hrel.heirThread hlt, ← hthr, ← hn, ← hidx]
      exact Team.heirThread_starts hrise
    · rw [← Team.ended_spad (tm := tm)]
      exact congrArg Team.spad hq
    · have he : (tm.ended.heir h.words h.mask id cyc s.dt).engine = none := if_neg (by simp [hm])
      exact (congrArg Team.engine hq).trans he
  · rintro s ⟨ht, hg, hs, hgh, hf, hfz, hcl, he, hr⟩
    refine ⟨_, successorStart_eq ht hg hs hgh hf hfz he hr, ⟨_, rfl⟩, fun th r => ?_, _, State.setTeam_team?_self, ?_⟩
    · rw [State.reg_of_team? State.setTeam_team?_self, State.reg_of_team? ht, State.started_thread]
      exact Team.begin_keeps (p := fun x => x.get r) (fun _ => rfl) th
    · have hun := State.started_unplaced (s := s) (k := teamKey col slot) (tm := tm.begin b e s.cyc s.dt)
      refine ⟨congrArg Team.successor hun, congrArg Team.backing hun, congrArg Team.extent hun, fun th hth => ?_, fun l hl => ?_⟩
      · rw [State.started_thread, Team.begin_thread, if_pos hth]
      · exact State.started_place (State.chooseCore_begin.trans hl)

end Sys2Proof.Machine
end

section
/-! SUPPORT. The engine's release (R359) at a slot that no column has. Refutes O54. -/

namespace Sys2Proof.Machine

set_option Elab.async false

variable {s : State}

/-- The release of an engine changes no column but that of its team's key. -/
theorem State.releaseEngine_col {k c : Nat} (h : c ≠ teamCol k) : (s.releaseEngine k).col c = s.col c := by
  unfold State.releaseEngine
  split
  · rfl
  · split
    · rfl
    · rfl
    · dsimp only
      split
      · split
        · exact (State.setCol_col ..).trans (if_neg h)
        · rfl
      · rfl

/-- A team on the first core layer whose MXREL passes the engine on (R359). -/
def passer : Team :=
  { grid := 0, index := 0, place := .core 1, age := 0, since := 0, groups := [], threads := [], bundles := [], spadLen := 0
    engine := some { releasing := some 32 } }

/-- The only team of a reset device stands at slot 32 of column 0: its key is that of slot 0 of column 1. -/
def passing : State := { State.reset with teams := [(32, passer)] }

/-- Refutes O54: its last clause speaks of every slot, and not of slots below 32 alone. The key of slot 32 of column 0 is that of slot 0 of column 1, so the
baton of that team's release goes to column 1, and column 0 has none. -/
theorem not_engineRequestsComplete : ¬ Obligations.EngineRequestsComplete := by
  intro h
  obtain ⟨-, -, -, -, -, -, -, -, -, -, -, -, -, -, -, -, -, hrelease⟩ :=
    h { id := 0, kind := .coll, ctx := 0, col := 0, team := 32, age := 0, threads := [], flag := none } passer passing []
  obtain ⟨t, ht, -, hbaton, -⟩ := (hrelease 0 32 1 32 { releasing := some 32 }).1 passing ⟨rfl, rfl, rfl, rfl⟩
  cases ht
  have hcol : (passing.releaseEngine (teamKey 0 32)).col 0 = passing.col 0 := State.releaseEngine_col (by decide)
  have hmem := hbaton (by decide)
  rw [hcol] at hmem
  cases hmem

end Sys2Proof.Machine
end

section
/-! SUPPORT. The fields of a device register that is written in part (R10), and the register of a directed move (R71, R390). -/

namespace Sys2Proof.Machine

set_option Elab.async false

variable {s : State} {c hi lo v : Nat} {w o m : Word}

/-! ### Fields of a word -/

theorem bits_eq_extract : bits w hi lo = (w.extractLsb' lo (hi + 1 - lo)).toNat := by
  rw [BitVec.extractLsb'_toNat, Nat.shiftRight_eq_div_pow, bits]

/-- A field that lies within the bits a mask selects is the new word's. -/
theorem bits_masked (h : ∀ i, i < hi + 1 - lo → m.getLsbD (lo + i) = true) : bits ((o &&& ~~~m) ||| (w &&& m)) hi lo = bits w hi lo := by
  rw [bits_eq_extract, bits_eq_extract]
  congr 1
  refine BitVec.eq_of_getLsbD_eq fun i hi => ?_
  simp [h i hi]

/-- A word with bits <hi:lo> replaced. -/
def setField (w : Word) (hi lo v : Nat) : Word := BitVec.ofNat 32 (w.toNat - bits w hi lo * 2 ^ lo + v % 2 ^ (hi + 1 - lo) * 2 ^ lo)

theorem State.rsetBits_eq {k : Nat} : s.rsetBits k hi lo v = s.rset k (setField (s.rget k) hi lo v) := rfl

/-- To write 1 to the highest bit is to set it. -/
theorem setField_31 : setField w 31 31 1 = w ||| 0x80000000 := by
  have hr : w.toNat % 2 ^ 31 < 2 ^ 31 := Nat.mod_lt _ (by decide)
  have hset : (setField w 31 31 1).toNat = 2 ^ 31 ||| w.toNat % 2 ^ 31 := by
    have hor := Nat.two_pow_add_eq_or_of_lt hr 1
    rw [Nat.mul_one] at hor
    rw [← hor, setField, bits, BitVec.toNat_ofNat]
    have := w.isLt
    omega
  have hw : w.toNat ||| 2 ^ 31 = 2 ^ 31 ||| w.toNat % 2 ^ 31 := by
    have hor := Nat.two_pow_add_eq_or_of_lt hr (w.toNat / 2 ^ 31)
    rw [Nat.div_add_mod] at hor
    conv_lhs => rw [hor]
    have : w.toNat / 2 ^ 31 = 0 ∨ w.toNat / 2 ^ 31 = 1 := by have := w.isLt; omega
    rcases this with e | e <;> rw [e]
    · rw [Nat.mul_zero, Nat.zero_or, Nat.or_comm]
    · rw [Nat.mul_one, Nat.or_comm, ← Nat.or_assoc, Nat.or_self]
  refine BitVec.eq_of_toNat_eq ?_
  rw [hset, BitVec.toNat_or]
  exact hw.symm

/-! ### The register of a directed move -/

/-- A directed move that has ended has GO = 0 and the state it ended in. -/
theorem State.dmEnd_state (h : v < 4) : (s.dmEnd c v).rbits (kCol c 8) 31 29 = v := by
  simp only [State.dmEnd, State.rsetBits_eq, State.rbits, State.rset_rget, if_true]
  generalize s.rget (kCol c 8) = w
  simp only [setField, bits, BitVec.toNat_ofNat]
  have := w.isLt
  omega

theorem State.dmEnd_csr : ∃ l, s.dmEnd c v = { s with csr := l } := ⟨_, rfl⟩

theorem kCol_attr : ∀ c, c < 48 → regAttr (kCol c 8) = { rw := 0x831F1FFF } := by decide +kernel

/-- What the write of an armed directed move leaves in its register. -/
theorem State.rwrite_kCol (h : c < 48) :
    (s.rwrite (kCol c 8) w).rget (kCol c 8) = (s.rget (kCol c 8) &&& ~~~0x831F1FFF) ||| (w &&& 0x831F1FFF) := by
  have hclear : ~~~(w &&& (0 : Word)) = BitVec.allOnes 32 := by simp
  simp only [State.rwrite, kCol_attr c h, State.rset_rget, if_true, hclear, BitVec.and_allOnes]

end Sys2Proof.Machine
end

section
/-! SUPPORT. The governor's evaluation (R65 to R67) and directed moves (R71): what the sensors' reading changes, and the migration that starts. -/

namespace Sys2Proof.Machine

set_option Elab.async false

variable {s u : State} {tm : Team} {col slot l d k : Nat} {m : Migration} {w : Word}

theorem teamSlot_teamKey (h : slot < 32) : teamSlot (teamKey col slot) = slot := by
  unfold teamSlot teamKey
  omega

@[simp] theorem State.modCol_col {c e : Nat} {f : Column → Column} : (s.modCol c f).col e = if e = c then f (s.col c) else s.col e := State.setCol_col ..

/-! ### The reading of the sensors -/

/-- A column after an evaluation: its hot layers are counted on, and the time is noted (R65, R66). -/
def Column.evaluated (x : Column) (phi now : Nat) : Column := { x.countHot phi with evalAt := some now }

/-- A column's sensors are read, a free value, and TMAX and the count of hot evaluations follow (R65, R66, R390). -/
def State.sensed (s : State) (c : Nat) : State :=
  ((s.free.1.rset (kCol c 0) s.free.2).modCol c fun x => x.evaluated s.phi s.dt).setTmax

theorem State.sensed_col : (s.sensed col).col col = (s.col col).evaluated s.phi s.dt :=
  (State.modCol_col (s := s.free.1.rset (kCol col 0) s.free.2) (f := fun x => x.evaluated s.phi s.dt)).trans (if_pos rfl)

/-- The device registers that an evaluation leaves alone. -/
theorem State.sensed_rget (h : k ≠ kCol col 0) (ht : k ≠ key0 0 0x170000) : (s.sensed col).rget k = s.rget k :=
  (State.rset_rget ..).trans ((if_neg ht).trans ((State.rset_rget s.free.1 ..).trans (if_neg h)))

theorem State.sensed_reading (h : col < 64) : (s.sensed col).rget (kCol col 0) = Config.freeWord s.freeCount := by
  have ht : kCol col 0 ≠ key0 0 0x170000 := by
    unfold kCol key0
    omega
  exact (State.rset_rget ..).trans ((if_neg ht).trans ((State.rset_rget s.free.1 ..).trans (if_pos rfl)))

theorem State.ncol_lt : s.ncol < 64 := Nat.mod_lt _ (by decide)

/-- The register of a column's directed move is not one that an evaluation writes. -/
theorem State.sensed_dm (h : col < 64) : (s.sensed col).rget (kCol col 8) = s.rget (kCol col 8) := by
  refine State.sensed_rget ?_ ?_ <;>
  · unfold kCol key0
    omega

/-- The core clock of a column goes on by its own account of time and its regulator's frequency (R7, R386). -/
theorem State.clock_congr (hx : ((u.col col).clkSum, (u.col col).clkAt) = ((s.col col).clkSum, (s.col col).clkAt)) (ht : u.cyc = s.cyc)
    (hr : ∀ o, 0x160020 ≤ o → o < 0x160060 → u.rget (key0 0 o) = s.rget (key0 0 o)) (h : col < 64) : u.clock col = s.clock col := by
  obtain ⟨hsum, hat⟩ := Prod.mk.inj hx
  have hreg : u.colReg col = s.colReg col := by
    unfold State.colReg State.rbits
    rw [hr _ (by omega) (by omega)]
  have hk : s.colReg col < 4 := by
    unfold State.colReg State.rbits bits
    refine (Nat.mod_lt _ (by positivity)).trans_le ?_
    rw [show 2 * (col % 16) + 1 + 1 - 2 * (col % 16) = 2 by omega]
    decide
  have hf : u.colFreq col = s.colFreq col := by
    unfold State.colFreq State.rbits
    rw [hreg, hr _ (by omega) (by omega)]
  unfold State.clock State.dt
  simp only [hsum, hat, ht, hf]

theorem State.sensed_clock (h : col < 64) : (s.sensed col).clock col = s.clock col := by
  refine State.clock_congr ?_ rfl (fun o hlo hhi => State.sensed_rget ?_ ?_) h
  · rw [State.sensed_col]
    rfl
  · unfold kCol key0
    omega
  · unfold key0
    omega

/-! ### The start of a migration -/

/-- A team that is to migrate: the halt request has reached its core (R72 step 1). -/
def Team.called (tm : Team) (now clk dt : Nat) : Team := { tm with halting := true, haltAt := now, migFrom := some (clk, dt), still := false }

/-- A column with another migration in flight, or none. -/
def State.withMigration (s : State) (c : Nat) (m : Option Migration) : State := s.modCol c fun x => { x with migration := m }

theorem State.withMigration_migration {o : Option Migration} : ((s.withMigration col o).col col).migration = o :=
  congrArg Column.migration (State.modCol_col.trans (if_pos rfl))

theorem State.withMigration_clock {o : Option Migration} (hc : col < 64) : (s.withMigration col o).clock col = s.clock col :=
  State.clock_congr (by simp [State.withMigration]) rfl (fun _ _ _ => rfl) hc

/-- The halt request reaches the team of a column's slot. -/
theorem State.startMigration_eq {directed : Bool} (hs : slot < 32) (hc : col < 64) (h : s.team? (teamKey col slot) = some tm) :
    s.startMigration (teamKey col slot) d directed
      = (s.withMigration col (some { slot, dst := d, directed })).setTeam (teamKey col slot) (tm.called s.cyc (s.clock col) s.dt) := by
  have ht : (s.withMigration col (some { slot, dst := d, directed })).team? (teamKey col slot) = some tm := h
  rw [← State.withMigration_clock (o := some { slot, dst := d, directed }) hc]
  simp only [State.startMigration, teamCol_teamKey hs, teamSlot_teamKey hs]
  exact State.modTeam_of_team? ht fun tm =>
    tm.called s.cyc ((s.withMigration col (some { slot, dst := d, directed })).clock col) s.dt

/-- A migration has started, of the team and to the core named. -/
theorem State.startMigration_chosen {directed : Bool} (hs : slot < 32) (hc : col < 64) (h : s.team? (teamKey col slot) = some tm) :
    ((s.startMigration (teamKey col slot) d directed).col col).migration = some { slot, dst := d, directed }
      ∧ (s.startMigration (teamKey col slot) d directed).team? (teamKey col slot) = some (tm.called s.cyc (s.clock col) s.dt) := by
  rw [State.startMigration_eq hs hc h]
  exact ⟨State.withMigration_migration, State.setTeam_team?_self⟩

/-! ### The choice of a team -/

/-- What an evaluation does once the sensors are read (R66, R67, R70, R71). -/
def State.govern (s : State) (c : Nat) : State :=
  let s := if (s.col c).migration.isNone && s.dmPending c && s.rbits (kCol c 8) 12 12 == 0 then s.dmTrigger c else s
  if (s.col c).migration.isSome then s
  else
    match (s.col c).evac.find? fun l => !(s.candidates_ c l false).isEmpty with
    | some l => s.evacuate c l
    | none => s.coolLayers c (s.hotLayers c)

theorem governorEvaluation_eq (hc : col < s.ncol) (ht : ∀ a, (s.col col).evalAt = some a → a + 1000 ≤ s.dt) :
    exec (.governorEvaluation col) s = .next ((s.sensed col).govern col) := by
  refine congrArg Host.Outcome.next (if_neg ?_)
  rintro (h | h)
  · omega
  · split at h
    · have hd := ht _ ‹_›
      have := of_decide_eq_true h
      omega
    · cases h

theorem governorEvaluation_early {a : Nat} (h : (s.col col).evalAt = some a) (ht : s.dt < a + 1000) : exec (.governorEvaluation col) s = .next s := by
  refine congrArg Host.Outcome.next (if_pos (.inr ?_))
  rw [h]
  exact decide_eq_true ht

/-- While a migration is in flight nothing is triggered (R66). -/
theorem State.govern_of_migration (h : (s.col col).migration = some m) : s.govern col = s := by
  simp [State.govern, h]

theorem State.govern_of_directed (hm : (s.col col).migration = none) (hp : s.dmPending col = true) (hn : s.rbits (kCol col 8) 12 12 = 0)
    (hd : ((s.dmTrigger col).col col).migration = some m) : s.govern col = s.dmTrigger col := by
  simp [State.govern, hm, hp, hn, hd]

theorem State.govern_of_none (hm : (s.col col).migration = none) (hp : s.dmPending col = false) (he : (s.col col).evac = []) :
    s.govern col = s.coolLayers col (s.hotLayers col) := by
  simp [State.govern, hm, hp, he]

/-- Of one team alone, that team is the most active, whatever its activity reads. -/
theorem State.mostActive_one {p : Nat × Team} : s.mostActive [p] = (s.free.1, some p.1) := by
  simp [State.mostActive, State.activities, State.free]

/-- The one team that may leave the first hot layer starts for its target (R67). -/
theorem State.coolLayers_one {rest : List Nat} (hc : s.candidates_ col l true = [(k, tm)]) (h : s.team? k = some tm)
    (ht : s.free.1.target col l k tm false = some d) : s.coolLayers col (l :: rest) = s.free.1.startMigration k d false := by
  have h' : s.free.1.team? k = some tm := h
  simp only [State.coolLayers, hc, State.mostActive_one, h', Option.bind_some, ht]

/-! ### Directed moves -/

/-- A directed move names the team: it is of the context named, on another layer, may move, and the layer has room for it (R69, R71). -/
structure State.Fits (s : State) (col slot : Nat) (tm : Team) : Prop where
  named : s.rbits (kCol col 8) 20 16 = slot
  team : s.team? (teamKey col slot) = some tm
  ctx : s.ctxId (s.teamCtx tm) = s.rbits (kCol col 8) 11 0
  layer : tm.layer? ≠ some (s.rbits (kCol col 8) 25 24 + 1)
  movable : s.movable tm = true
  room : s.coreRoom col (s.rbits (kCol col 8) 25 24 + 1) (teamKey col slot) tm = true

theorem State.dmTrigger_fits (h : s.Fits col slot tm) :
    s.dmTrigger col = s.startMigration (teamKey col slot) (s.rbits (kCol col 8) 25 24 + 1) true := by
  obtain ⟨hs, ht, hc, hl, hm, hr⟩ := h
  unfold State.rbits at hs hc hl hr
  simp [State.dmTrigger, State.rbits, hs, ht, hc, hl, hm, hr]

/-- A directed move to the layer its team is on is done at once (R71). -/
theorem State.dmTrigger_done (hs : s.rbits (kCol col 8) 20 16 = slot) (ht : s.team? (teamKey col slot) = some tm)
    (hc : s.ctxId (s.teamCtx tm) = s.rbits (kCol col 8) 11 0) (hl : tm.layer? = some (s.rbits (kCol col 8) 25 24 + 1)) :
    s.dmTrigger col = s.dmEnd col 2 := by
  unfold State.rbits at hs hc hl
  simp [State.dmTrigger, hs, ht, hc, hl]

/-- A directed move to a layer without room is missed (R71). -/
theorem State.dmTrigger_full (hs : s.rbits (kCol col 8) 20 16 = slot) (ht : s.team? (teamKey col slot) = some tm)
    (hc : s.ctxId (s.teamCtx tm) = s.rbits (kCol col 8) 11 0) (hl : tm.layer? ≠ some (s.rbits (kCol col 8) 25 24 + 1))
    (hr : s.coreRoom col (s.rbits (kCol col 8) 25 24 + 1) (teamKey col slot) tm = false) : s.dmTrigger col = s.dmEnd col 3 := by
  unfold State.rbits at hs hc hl hr
  simp [State.dmTrigger, hs, ht, hc, hl, hr]

theorem State.dmTrigger_empty (hs : s.rbits (kCol col 8) 20 16 = slot) (ht : s.team? (teamKey col slot) = none) : s.dmTrigger col = s.dmEnd col 3 := by
  unfold State.rbits at hs
  simp [State.dmTrigger, hs, ht]

theorem directedMoveTrigger_eq (hp : s.dmPending col = true) (hm : (s.col col).migration = none) (hn : s.rbits (kCol col 8) 12 12 = 1)
    (hr : s.dmReached col = true) : exec (.directedMoveTrigger col) s = .next (s.dmTrigger col) := by
  refine congrArg Host.Outcome.next ((if_neg ?_).trans (if_pos ⟨hn, hr⟩))
  simp [hp, hm]

/-- A directed move that names no address is no trigger's (R71). -/
theorem directedMoveTrigger_waits (hn : s.rbits (kCol col 8) 12 12 = 0) : exec (.directedMoveTrigger col) s = .next s := by
  refine congrArg Host.Outcome.next ?_
  split
  · rfl
  · exact if_neg (by simp [hn])

theorem State.dmEnd_ended {v : Nat} (hv : v < 4) : (∃ c, s.dmEnd col v = { s with csr := c }) ∧ (s.dmEnd col v).rbits (kCol col 8) 31 29 = v :=
  ⟨State.dmEnd_csr, State.dmEnd_state hv⟩

/-- What arms a directed move (R71, R390). -/
theorem directedMoveArm_eq (hc : col < s.ncol) (hp : s.dmPending col = false) (hw : w.getLsbD 31 = true) :
    exec (.directedMoveArm col w) s = .next ((s.rwrite (kCol col 8) w).rsetBits (kCol col 8) 30 29 1) := by
  refine congrArg Host.Outcome.next ((if_neg (by omega)).trans ((if_neg ?_).trans (if_pos hw)))
  simp [hp]

theorem directedMoveArm_pending (hc : col < s.ncol) (hp : s.dmPending col = true) (hw : w.getLsbD 31 = true) :
    exec (.directedMoveArm col w) s = .next s.govErr :=
  congrArg Host.Outcome.next ((if_neg (by omega)).trans (if_pos ⟨hw, hp⟩))

theorem State.govErr_sets : s.Sets s.govErr [(key0 0 0x160004, s.rget (key0 0 0x160004) ||| 0x80000000)] := by
  rw [State.govErr, State.rsetBits_eq, setField_31]
  refine ⟨⟨_, rfl⟩, fun p hp => ?_, fun k hk => ?_⟩
  · obtain rfl := List.mem_singleton.1 hp
    exact (State.rset_rget ..).trans (if_pos rfl)
  · exact (State.rset_rget ..).trans (if_neg (hk _ (List.mem_singleton_self _)).symm)

/-- The fields of an armed directed move: pending, with the layer, the slot, the context and whether it names an address as written. -/
theorem State.armed_fields (hc : col < 48) (hw : w.getLsbD 31 = true) :
    let t := (s.rwrite (kCol col 8) w).rsetBits (kCol col 8) 30 29 1
    t.rbits (kCol col 8) 31 29 = 5 ∧ t.rbits (kCol col 8) 25 24 = bits w 25 24 ∧ t.rbits (kCol col 8) 20 16 = bits w 20 16
      ∧ t.rbits (kCol col 8) 12 0 = bits w 12 0 := by
  simp only [State.rsetBits_eq, State.rbits, State.rset_rget, if_true, State.rwrite_kCol hc]
  have hfields : ∀ hi lo, (∀ i, i < hi + 1 - lo → (0x831F1FFF : Word).getLsbD (lo + i) = true) →
      bits (s.rget (kCol col 8) &&& ~~~0x831F1FFF ||| w &&& 0x831F1FFF) hi lo = bits w hi lo := fun _ _ h => bits_masked h
  generalize s.rget (kCol col 8) &&& ~~~0x831F1FFF ||| w &&& 0x831F1FFF = v at hfields ⊢
  have h31 : bits v 31 31 = 1 := by
    rw [hfields 31 31 (by decide)]
    rw [BitVec.getLsbD, Nat.testBit_eq_decide_div_mod_eq] at hw
    exact of_decide_eq_true hw
  rw [← hfields 25 24 (by decide), ← hfields 20 16 (by decide), ← hfields 12 0 (by decide)]
  clear hfields
  have hv := v.isLt
  simp only [setField, bits, BitVec.toNat_ofNat] at h31 ⊢
  refine ⟨?_, ?_, ?_, ?_⟩
  · omega
  all_goals
    clear h31
    omega

end Sys2Proof.Machine
end

section
/-! SUPPORT. Migrations (R72 to R75, R79): the transfer, the abandoning, the resumption and the returns that are forwarded. Settles O47. -/

namespace Sys2Proof.Machine

set_option Elab.async false

variable {s u : State} {tm : Team} {col slot l d k e : Nat} {m : Migration} {a : Access}

/-! ### The end of a directed move -/

/-- What the end of a migration is to a directed move (R71). -/
def State.endDirected (s : State) (c : Nat) (m : Migration) (v : Nat) : State := if m.directed then s.dmEnd c v else s

theorem State.endDirected_csr {v : Nat} : ∃ x, s.endDirected col m v = { s with csr := x } := by
  unfold State.endDirected
  split
  · exact State.dmEnd_csr
  · exact ⟨_, rfl⟩

@[simp] theorem State.endDirected_col {v c : Nat} : (s.endDirected col m v).col c = s.col c := by
  obtain ⟨x, hx⟩ := State.endDirected_csr (s := s) (col := col) (m := m) (v := v)
  rw [hx]
  rfl

@[simp] theorem State.endDirected_team? {v : Nat} : (s.endDirected col m v).team? k = s.team? k := by
  obtain ⟨x, hx⟩ := State.endDirected_csr (s := s) (col := col) (m := m) (v := v)
  rw [hx]
  rfl

theorem State.endDirected_state {v : Nat} (hd : m.directed = true) (hv : v < 4) : (s.endDirected col m v).rbits (kCol col 8) 31 29 = v := by
  rw [State.endDirected, if_pos hd]
  exact State.dmEnd_state hv

/-- No halt of its grid and no freeze holds the team where it stands. -/
def State.Released (s : State) (tm : Team) : Prop := tm.freezing = none ∧ ∀ g, sfind s.grids tm.grid = some g → g.halted = false

/-! ### The transfer -/

/-- A team whose state is on its way to another layer, with what the return router holds for it (R72 step 4, R75). -/
def Team.sentOff (tm : Team) (l d now : Nat) : Team :=
  { tm with place := .moving l d, counters := tm.resided now, resFrom := now
            bundles := tm.bundles.map fun b => { b with active := false }
            accesses := tm.accesses.map fun a => if a.state = .ready then a else { a with routed := true }
            threads := tm.threads.map fun th => { th with routedPeer := th.peerOut } }

/-- The transfer of a column's migration has begun, and the team's requests return by way of the source (R72 step 4, R75). -/
def State.sendOff (s : State) (c : Nat) (m : Migration) (l : Nat) (tm : Team) : State :=
  let u := s.startTransfer c m.slot [(l, m.dst)]
  { u.setTeam (teamKey c m.slot) (tm.sentOff l m.dst s.dt) with
      reqs := u.reqs.map fun r => if r.team = teamKey c m.slot ∧ r.age = tm.age then { r with routed := true } else r }

theorem migrationTransfer_eq (hm : (s.col col).migration = some m) (ht : s.team? (teamKey col m.slot) = some tm) (hp : tm.place = .core l)
    (hh : s.haltedInTime col m tm = true) (he : tm.ending = false) (hf : s.coreFits col m.dst (teamKey col m.slot) tm = true)
    (hx : s.mayTransfer col m.slot [(l, m.dst)] = true) :
    exec (.migrationTransfer col) s
      = .next ((s.sendOff col m l tm).withMigration col (some { m with halted := true, flits := tm.flits })) := by
  refine congrArg Host.Outcome.next ?_
  simp only [hm, ht, hp, hh, he, hf, hx]
  rfl

/-! ### The abandoning -/

/-- A team whose migration has been given up: its bundles resume in place. -/
def Team.stays (tm : Team) : Team := { tm with halting := false, migFrom := none, still := false }

theorem State.abandonMigration_eq (hm : (s.col col).migration = some m) (ht : s.team? (teamKey col m.slot) = some tm) (hp : tm.place = .core l)
    (hr : s.Released tm) :
    s.abandonMigration col = ((s.withMigration col none).setTeam (teamKey col m.slot) tm.stays).endDirected col m 3 := by
  obtain ⟨hf, hg⟩ := hr
  have ht' : (s.withMigration col none).team? (teamKey col m.slot) = some tm := ht
  have hsettle : (((s.withMigration col none).setTeam (teamKey col m.slot) tm.stays).endDirected col m 3).settle (teamKey col m.slot)
      = ((s.withMigration col none).setTeam (teamKey col m.slot) tm.stays).endDirected col m 3 :=
    State.settle_of_not_freezing (tm := tm.stays) (by rw [State.endDirected_team?]; exact State.setTeam_team?_self) hf
  rw [← hsettle, ← State.modTeam_of_team? ht' Team.stays]
  simp only [State.abandonMigration, hm, ht, hp, hf]
  rcases hgr : sfind (s.withMigration col none).grids tm.grid with _ | g
  · simp only [State.withMigration] at hgr
    simp only [hgr]
    rfl
  · have hgh := hg g hgr
    simp only [State.withMigration] at hgr
    simp only [hgr, hgh]
    rfl

theorem migrationAbandon_eq (hm : (s.col col).migration = some m) (ht : s.team? (teamKey col m.slot) = some tm) (hp : tm.place = .core l)
    (h : tm.ending = true ∨ (s.haltedInTime col m tm = false ∧ ∃ h, tm.migFrom = some h ∧ 2048 ≤ s.clock col - h.1)) :
    exec (.migrationAbandon col) s = .next (s.abandonMigration col) := by
  refine congrArg Host.Outcome.next ?_
  simp only [hm, ht]
  refine if_pos ?_
  rcases h with h | ⟨hh, ⟨c, t⟩, hf, hc⟩
  · simp [Team.layer?, hp, h]
  · simp [Team.layer?, hp, hh, hf, hc]

/-! ### The resumption -/

/-- A team that stands on its target core, with its bundles to resume and its counters changed (R72 step 6, R79). -/
def Team.arrived (tm : Team) (held : Bool) (d flits dt cyc : Nat) : Team :=
  { tm with place := .core d, since := dt, resFrom := dt, halting := held, still := false, migFrom := none
            migDone := (match tm.migFrom with | some h => [h.1] | none => []) ++ tm.migDone
            engAt := tm.engAt.map fun _ => d
            counters := { tm.counters with migCount := (tm.counters.migCount + 1) % 2 ^ 64
                                           stakeBytes := (tm.counters.stakeBytes + 256 * flits) % 2 ^ 64 }
            bundles := tm.bundles.map fun b => { b with stamp := cyc } }

/-- Whether a team is kept from resuming: its grid is halted, or it freezes. -/
def State.holds (s : State) (tm : Team) : Bool := (match sfind s.grids tm.grid with | some g => g.halted | none => false) || tm.freezing.isSome

theorem State.Released.holds (h : s.Released tm) : s.holds tm = false := by
  obtain ⟨hf, hg⟩ := h
  unfold State.holds
  rw [hf]
  split
  · simp [hg _ ‹_›]
  · rfl

/-- The last flit of a column's migration has arrived. -/
def State.landed (s : State) (c : Nat) (m : Migration) (l d : Nat) (tm : Team) : State :=
  ((s.markPath c [(l, d)]).setTeam (teamKey c m.slot) (tm.arrived (s.holds tm) d m.flits s.dt s.cyc)).withMigration c none

theorem State.landed_team? : (s.landed col m l d tm).team? (teamKey col m.slot) = some (tm.arrived (s.holds tm) d m.flits s.dt s.cyc) :=
  State.setTeam_team?_self (s := s.markPath col [(l, d)])

theorem State.landed_migration : ((s.landed col m l d tm).col col).migration = none := State.withMigration_migration

/-- A team that stands on its target takes what was forwarded; its requests that have waited too long are denied, and a directed move has ended. -/
def State.resumed (s : State) (c : Nat) (m : Migration) : State :=
  let u := s.applyForwarded (teamKey c m.slot)
  ((u.modTeam (teamKey c m.slot) fun tm => tm.denyLong (u.clock c)).endDirected c m 2).settle (teamKey c m.slot)

theorem migrationResume_eq (hm : (s.col col).migration = some m) (ht : s.team? (teamKey col m.slot) = some tm) (hp : tm.place = .moving l d)
    (hl : 0 < l) (hd : 0 < d) (hh : s.pathHeld col [(l, d)] true = false) :
    exec (.migrationResume col) s = .next ((s.landed col m l d tm).resumed col m) := by
  obtain ⟨n, rfl⟩ := Nat.exists_eq_succ_of_ne_zero hl.ne'
  have hgo : ¬ (d = 0 ∨ s.pathHeld col [(n + 1, d)] true = true) := by
    rintro (h | h)
    · exact hd.ne' h
    · cases hh.symm.trans h
  refine congrArg Host.Outcome.next ?_
  simp only [hm, ht, hp, if_neg hgo]
  exact congrArg (fun u : State => u.resumed col m) rfl

theorem Team.denyLong_of_no_request {clk : Nat} (h : ∀ g ∈ tm.groups, g.req = none) : tm.denyLong clk = tm := by
  refine List.foldl_fixed' (fun g => if_neg fun ⟨hsome, _⟩ => ?_) _
  have hreq : (tm.groups.getD g { n := 0 }).req = none := by
    rcases hg : tm.groups[g]? with _ | x
    · simp [List.getD, hg]
    · simpa [List.getD, hg] using h x (List.mem_of_getElem? hg)
  rw [hreq] at hsome
  cases hsome

/-- What remains to a migration that has arrived, of a team with no request and no freeze: nothing but the end of a directed move. -/
theorem State.settle_resumed {clk : Nat} (h : s.team? k = some tm) (hg : ∀ g ∈ tm.groups, g.req = none) (hf : tm.freezing = none) :
    ((s.modTeam k fun tm => tm.denyLong clk).endDirected col m 2).settle k = (s.setTeam k tm).endDirected col m 2 := by
  rw [State.modTeam_of_team? h, Team.denyLong_of_no_request hg]
  exact State.settle_of_not_freezing (by rw [State.endDirected_team?]; exact State.setTeam_team?_self) hf

/-! ### What was forwarded -/

theorem State.applyForwarded_none (h : s.team? k = some tm) (ha : tm.accesses.filter (fun a => a.forwarded && a.state == .ready) = []) :
    s.applyForwarded k = s := by
  simp [State.applyForwarded, h, ha]

/-- The only member of a list with a property is the first. -/
theorem find?_eq_some_of_unique {α : Type} {p : α → Bool} {x : α} {l : List α} (h : x ∈ l) (hp : p x = true) (hu : ∀ y ∈ l, p y = true → y = x) :
    l.find? p = some x := by
  obtain ⟨y, hy⟩ := Option.isSome_iff_exists.1 (List.find?_isSome.2 ⟨x, h, hp⟩)
  rw [hy, hu y (List.mem_of_find?_eq_some hy) (List.find?_some hy)]

/-- The one result that was forwarded is written (R72 step 6). -/
theorem State.applyForwarded_one (h : s.team? k = some tm) (ha : tm.accesses.filter (fun b => b.forwarded && b.state == .ready) = [a])
    (hid : ∀ b ∈ tm.accesses, b.id = a.id → b = a) (ht : a.t ≤ s.dt) (hp : a.poison = false) : s.applyForwarded k = s.setTeam k (tm.deliverAll a) := by
  have hmem : a ∈ tm.accesses ∧ (a.forwarded && a.state == .ready) = true := List.mem_filter.1 (ha ▸ List.mem_singleton_self a)
  obtain ⟨hmem, hready⟩ := hmem
  have hstate : (a.state == .ready) = true := (Bool.and_eq_true_iff.1 hready).2
  have hfind : tm.accesses.find? (fun b => b.id == a.id && b.state == .ready && decide (b.t ≤ s.dt)) = some a := by
    refine find?_eq_some_of_unique hmem ?_ ?_
    · simp [hstate, ht]
    · intro b hb h
      simp only [Bool.and_eq_true, beq_iff_eq] at h
      exact hid b hb h.1.1
  simp only [State.applyForwarded, h, ha, List.foldl_cons, List.foldl_nil, State.deliver, hfind, hp]
  rfl

/-- An access's result at one of its places: registers, flag and horizon. -/
def Team.putDest (tm : Team) (a : Access) (d : Dest) : Team :=
  let v : Nat :=
    match a.kind, d.before with
    | .atomic op ty _ _, some q => aopApply op ty a.value q 0
    | .atomic .., none => a.value
    | _, _ => loadVal a.ty a.value
  (tm.putRegs d.thread d.reg v d.cnt).modThread d.thread fun th => { th.dropFlag? d.flag with horizon := max th.horizon a.t }

theorem Team.deliverAll_eq_foldl :
    tm.deliverAll a = a.dests.foldl (fun tm d => tm.putDest a d) { tm with accesses := tm.accesses.filter fun x => x.id != a.id } :=
  rfl

theorem Team.putDest_threads {v : Team} {p : Dest} (hg : tm.groups = v.groups) (ht : tm.threads = v.threads) :
    (tm.putDest a p).threads = (v.putDest a p).threads := by
  have hput : ∀ x, (tm.putRegs p.thread p.reg x p.cnt).threads = (v.putRegs p.thread p.reg x p.cnt).threads := by
    intro x
    unfold Team.putRegs Team.n
    rw [hg]
    split
    · exact congrArg (fun l : List Thread => l.modify p.thread fun th => th.putN p.reg x p.cnt) ht
    · exact ht
  exact congrArg (fun l : List Thread => l.modify p.thread fun th => { th.dropFlag? p.flag with horizon := max th.horizon a.t }) (hput _)

theorem Team.putDest_eq {p : Dest} : tm.putDest a p = { tm with threads := (tm.putDest a p).threads } := by
  simp only [Team.putDest, Team.putRegs, Team.modThread]
  split <;> rfl

/-- The write of a result changes threads, and ends the access. -/
theorem Team.deliverAll_eq :
    tm.deliverAll a = { tm with accesses := tm.accesses.filter (fun x => x.id != a.id), threads := (tm.deliverAll a).threads } := by
  rw [Team.deliverAll_eq_foldl]
  refine List.foldlRecOn (motive := fun v : Team => v = { tm with accesses := tm.accesses.filter (fun x => x.id != a.id), threads := v.threads }) a.dests _
    rfl fun v hv p _ => ?_
  rw [Team.putDest_eq, hv]

/-- What is written into threads depends on the threads and the register counts of their groups alone. -/
theorem Team.deliverAll_threads {v : Team} (hg : tm.groups = v.groups) (ht : tm.threads = v.threads) :
    (tm.deliverAll a).threads = (v.deliverAll a).threads := by
  rw [Team.deliverAll_eq_foldl, Team.deliverAll_eq_foldl]
  refine (List.foldl_rel (r := fun x y : Team => x.groups = y.groups ∧ x.threads = y.threads) (f := fun tm d => tm.putDest a d)
    (g := fun tm d => tm.putDest a d) ?_ fun p _ x y hxy => ?_).2
  · exact ⟨hg, ht⟩
  obtain ⟨hgr, hth⟩ := hxy
  constructor
  · rw [Team.putDest_eq (tm := x), Team.putDest_eq (tm := y)]
    exact hgr
  · exact Team.putDest_threads hgr hth

/-- A team that has resumed: as it stood when what was forwarded had been written, with no migration in flight and the directed move done. -/
theorem State.resumed_of_applied (h : (s.applyForwarded (teamKey col m.slot)).team? (teamKey col m.slot) = some tm)
    (hm : ((s.applyForwarded (teamKey col m.slot)).col col).migration = none) (hg : ∀ g ∈ tm.groups, g.req = none) (hf : tm.freezing = none) :
    ((s.resumed col m).col col).migration = none ∧ (m.directed = true → (s.resumed col m).rbits (kCol col 8) 31 29 = 2)
      ∧ (s.resumed col m).team? (teamKey col m.slot) = some tm := by
  have hres : s.resumed col m = ((s.applyForwarded (teamKey col m.slot)).setTeam (teamKey col m.slot) tm).endDirected col m 2 :=
    State.settle_resumed h hg hf
  rw [hres]
  refine ⟨?_, fun hd => State.endDirected_state hd (by decide), State.endDirected_team?.trans State.setTeam_team?_self⟩
  rw [State.endDirected_col]
  exact hm

/-! ### Returns that are forwarded -/

/-- A team whose result `e` has been sent on to its target (R75, R79). -/
def Team.forward (tm : Team) (e : Nat) : Team :=
  { tm with counters := { tm.counters with stakeBytes := (tm.counters.stakeBytes + 256) % 2 ^ 64 }
            accesses := tm.accesses.map fun a => if a.id = e then { a with routed := false, forwarded := true } else a }

theorem State.demand_teams {p : Path} : (s.demand col p).teams = s.teams := by
  unfold State.demand
  split
  · exact State.startPath_movesOnly.teams
  · rfl

theorem returnForward_eq (h : s.team? (teamKey col slot) = some tm) (hp : s.pathHeld col tm.returnPath true = false)
    (ha : ∃ a ∈ tm.accesses, a.id = e ∧ a.state = .ready ∧ a.routed = true) :
    exec (.returnForward col slot e) s = .next ((s.demand col tm.returnPath).setTeam (teamKey col slot) (tm.forward e)) := by
  have hany : (tm.accesses.any fun a => a.id == e && a.state == .ready && a.routed) = true := by
    obtain ⟨a, hmem, hid, hst, hr⟩ := ha
    exact List.any_eq_true.2 ⟨a, hmem, by simp [hid, hst, hr]⟩
  have hteam : (s.demand col tm.returnPath).team? (teamKey col slot) = some tm := (congrArg (sfind · _) State.demand_teams).trans h
  refine congrArg Host.Outcome.next ?_
  simp only [h, hany, hp]
  exact State.modTeam_of_team? hteam fun tm => tm.forward e

/-! ### What the statement says -/

theorem State.sensed_rbits {hi lo : Nat} (h : col < s.ncol) : (s.sensed col).rbits (kCol col 8) hi lo = s.rbits (kCol col 8) hi lo :=
  congrArg (bits · hi lo) (State.sensed_dm (h.trans State.ncol_lt))

theorem State.sensed_migration : ((s.sensed col).col col).migration = (s.col col).migration := by
  rw [State.sensed_col]
  rfl

theorem State.sensed_dmPending (h : col < s.ncol) : (s.sensed col).dmPending col = s.dmPending col := congrArg (· == 1) (State.sensed_rbits h)

/-- The team that is to leave a hot layer is on its way, and the sensors' reading stands. -/
theorem governorEvaluation_cools {rest : List Nat} (hc : col < s.ncol) (ht : ∀ a, (s.col col).evalAt = some a → a + 1000 ≤ s.dt)
    (hm : (s.col col).migration = none) (hp : s.dmPending col = false) (he : (s.col col).evac = []) (hh : (s.sensed col).hotLayers col = l :: rest)
    (hone : (s.sensed col).candidates_ col l true = [(teamKey col slot, tm)]) (hteam : (s.sensed col).team? (teamKey col slot) = some tm)
    (hd : (s.sensed col).free.1.target col l (teamKey col slot) tm false = some d) :
    exec (.governorEvaluation col) s = .next ((s.sensed col).free.1.startMigration (teamKey col slot) d false) := by
  have hevac : ((s.sensed col).col col).evac = [] := (congrArg Column.evac State.sensed_col).trans he
  rw [governorEvaluation_eq hc ht, State.govern_of_none (State.sensed_migration.trans hm) ((State.sensed_dmPending hc).trans hp) hevac, hh,
    State.coolLayers_one hone hteam hd]

/-- A directed move that names no address, of a team that fits it, is triggered by an evaluation. -/
theorem governorEvaluation_directs (hs : slot < 32) (hc : col < s.ncol) (ht : ∀ a, (s.col col).evalAt = some a → a + 1000 ≤ s.dt)
    (hm : (s.col col).migration = none) (hp : s.dmPending col = true) (hn : s.rbits (kCol col 8) 12 12 = 0) (hf : (s.sensed col).Fits col slot tm) :
    exec (.governorEvaluation col) s = .next ((s.sensed col).startMigration (teamKey col slot) (s.rbits (kCol col 8) 25 24 + 1) true) := by
  have htrig := State.dmTrigger_fits hf
  have hchosen := State.startMigration_chosen (d := (s.sensed col).rbits (kCol col 8) 25 24 + 1) (directed := true) hs (hc.trans State.ncol_lt) hf.team
  rw [← htrig] at hchosen
  rw [governorEvaluation_eq hc ht, State.govern_of_directed (State.sensed_migration.trans hm) ((State.sensed_dmPending hc).trans hp)
    ((State.sensed_rbits hc).trans hn) hchosen.1,
    htrig, State.sensed_rbits hc]

/-- Settles O47: an evaluation's reading leaves all but the sensors' registers, the counts of hot evaluations and its time, and every clause is then the
one step it names; a migration that resumes writes what was forwarded before anything else. -/
theorem theGovernorMigratesTeams : Obligations.TheGovernorMigratesTeams := by
  unfold Obligations.TheGovernorMigratesTeams
  intro col slot l d tm m k dm moves ready read chosen named fits released hslot
  refine ⟨?_, ?_, ?_, ?_, ?_, ?_, ?_, ?_, ?_, ?_⟩
  · rintro s ⟨⟨hc, ht⟩, hm⟩
    have hm' : ((s.sensed col).col col).migration = some m := State.sensed_migration.trans hm
    refine ⟨s.sensed col, ?_, State.sensed_reading (hc.trans State.ncol_lt), rfl, hm', congrArg Column.evalAt State.sensed_col⟩
    rw [governorEvaluation_eq hc ht, State.govern_of_migration hm']
  · rintro a s ⟨ha, ht⟩
    exact ⟨s, governorEvaluation_early ha ht, rfl⟩
  · rintro rest s ⟨⟨hc, ht⟩, hm, hp, he, hh, hone, hteam, hd⟩
    have hcol := hc.trans State.ncol_lt
    refine ⟨_, governorEvaluation_cools hc ht hm hp he hh hone hteam (hd _), ?_⟩
    have hsensed : (s.sensed col).free.1.team? k = some tm := hteam
    rw [State.startMigration_eq hslot hcol hsensed]
    refine ⟨State.sensed_reading hcol, State.withMigration_migration, State.setTeam_team?_self.trans (congrArg some ?_)⟩
    exact congrArg (fun c => tm.called s.cyc c s.dt) (State.sensed_clock hcol)
  · rintro - s ⟨⟨hc, ht⟩, ⟨hp, hm, hn⟩, h12, hteam, hctx, hl, hmov, hroom⟩
    have hcol := hc.trans State.ncol_lt
    refine ⟨_, governorEvaluation_directs hslot hc ht hm hp h12 ⟨(State.sensed_rbits hc).trans hn, hteam, hctx, hl, hmov, hroom⟩, ?_⟩
    obtain ⟨hmig, hcalled⟩ := State.startMigration_chosen (d := s.rbits (kCol col 8) 25 24 + 1) (directed := true) hslot hcol hteam
    exact ⟨hmig, hcalled.trans (congrArg (fun c => some (tm.called s.cyc c s.dt)) (State.sensed_clock hcol))⟩
  · intro w hcol hw
    constructor
    · rintro s ⟨hc, hp⟩
      exact ⟨_, directedMoveArm_eq hc hp hw, ⟨_, rfl⟩, State.armed_fields hcol hw⟩
    · rintro s ⟨hc, hp⟩
      exact ⟨_, directedMoveArm_pending hc hp hw, State.govErr_sets⟩
  · intro hcol reached
    refine ⟨?_, ?_, ?_, ?_, ?_⟩
    · rintro s ⟨⟨⟨hp, hm, hn⟩, h12, hr⟩, hteam, hctx, hl, hmov, hroom⟩
      refine ⟨_, directedMoveTrigger_eq hp hm h12 hr, ?_⟩
      rw [State.dmTrigger_fits ⟨hn, hteam, hctx, hl, hmov, hroom⟩]
      exact State.startMigration_chosen hslot (by omega) hteam
    · rintro s ⟨⟨⟨hp, hm, hn⟩, h12, hr⟩, hteam, hctx, hl⟩
      refine ⟨_, directedMoveTrigger_eq hp hm h12 hr, ?_⟩
      rw [State.dmTrigger_done hn hteam hctx hl]
      exact State.dmEnd_ended (by decide)
    · rintro s ⟨⟨⟨hp, hm, hn⟩, h12, hr⟩, hteam, hctx, hl, hroom⟩
      refine ⟨_, directedMoveTrigger_eq hp hm h12 hr, ?_⟩
      rw [State.dmTrigger_full hn hteam hctx hl hroom]
      exact State.dmEnd_ended (by decide)
    · rintro s ⟨⟨⟨hp, hm, hn⟩, h12, hr⟩, hteam⟩
      refine ⟨_, directedMoveTrigger_eq hp hm h12 hr, ?_⟩
      rw [State.dmTrigger_empty hn hteam]
      exact State.dmEnd_ended (by decide)
    · rintro s ⟨-, h12⟩
      exact ⟨s, directedMoveTrigger_waits h12, rfl⟩
  · rintro s ⟨⟨hteam, hm, rfl⟩, hp, rfl, hh, he, hf, hx⟩
    refine ⟨_, migrationTransfer_eq hm hteam hp hh he hf hx, ⟨_, State.setTeam_team?_self, rfl, rfl, rfl, ?_, ?_⟩, State.withMigration_migration⟩
    · intro b hb
      obtain ⟨b', -, rfl⟩ := List.mem_map.1 hb
      rfl
    · exact fun a ha => List.mem_map.2 ⟨a, ha, rfl⟩
  · rintro s ⟨⟨hteam, hm, rfl⟩, hp, hr, h⟩
    refine ⟨_, migrationAbandon_eq hm hteam hp h, ?_⟩
    rw [State.abandonMigration_eq hm hteam hp hr]
    refine ⟨?_, State.endDirected_team?.trans State.setTeam_team?_self, fun hd _ => State.endDirected_state hd (by decide)⟩
    rw [State.endDirected_col]
    exact State.withMigration_migration
  · intro hl hd arrives
    constructor
    · rintro s ⟨⟨⟨hteam, hm, rfl⟩, hp, hr, hh, hg⟩, ha⟩
      refine ⟨_, migrationResume_eq hm hteam hp hl hd hh, ?_⟩
      have hnone : (s.landed col m l d tm).applyForwarded (teamKey col m.slot) = s.landed col m l d tm :=
        State.applyForwarded_none State.landed_team? (List.filter_eq_nil_iff.2 fun a hmem => by simp [ha a hmem])
      obtain ⟨hmig, hdm, hres⟩ := State.resumed_of_applied (s := s.landed col m l d tm)
        (tm := tm.arrived (s.holds tm) d m.flits s.dt s.cyc) (hnone.symm ▸ State.landed_team?) (hnone.symm ▸ State.landed_migration) hg hr.1
      exact ⟨hmig, fun hdir _ => hdm hdir, _, hres, rfl, rfl, State.Released.holds hr, rfl, rfl, rfl⟩
    · rintro a s ⟨⟨⟨hteam, hm, rfl⟩, hp, hr, hh, hg⟩, ha, hid, hat, hpois⟩
      refine ⟨_, migrationResume_eq hm hteam hp hl hd hh, ?_⟩
      have hone : (s.landed col m l d tm).applyForwarded (teamKey col m.slot)
          = (s.landed col m l d tm).setTeam (teamKey col m.slot) ((tm.arrived (s.holds tm) d m.flits s.dt s.cyc).deliverAll a) :=
        State.applyForwarded_one State.landed_team? ha hid hat hpois
      have hthreads : ((tm.arrived (s.holds tm) d m.flits s.dt s.cyc).deliverAll a).threads = (tm.deliverAll a).threads :=
        Team.deliverAll_threads rfl rfl
      have hframe := Team.deliverAll_eq (tm := tm.arrived (s.holds tm) d m.flits s.dt s.cyc) (a := a)
      have hgroups := congrArg Team.groups hframe
      obtain ⟨-, -, hres⟩ := State.resumed_of_applied (s := s.landed col m l d tm) (hone.symm ▸ State.setTeam_team?_self)
        (hone.symm ▸ State.landed_migration) (hgroups.symm ▸ hg) ((congrArg Team.freezing hframe).trans hr.1)
      refine ⟨_, hres, congrArg Team.place hframe, hthreads, fun hmem => ?_⟩
      rw [congrArg Team.accesses hframe] at hmem
      simpa using (List.mem_filter.1 hmem).2
  · rintro e s ⟨hteam, hp, ha⟩
    refine ⟨_, returnForward_eq hteam hp ha, ⟨_, rfl⟩, _, State.setTeam_team?_self, rfl, rfl, ?_⟩
    intro b hb hid
    obtain ⟨a, -, rfl⟩ := List.mem_map.1 hb
    split at hid
    · rw [if_pos ‹_›]
      exact ⟨rfl, rfl⟩
    · exact absurd hid ‹_›

end Sys2Proof.Machine
end

section
/-! SUPPORT. What leaves the lane groups of the stake buses and the device registers as they are: the writes of the S4's own (events and records, R411, R415).
`s₀.Apart s` goes along with a state through the model's functions, in the model's order; a step that changes other fields alone is `h` itself. -/

namespace Sys2Proof.Machine

set_option Elab.async false

variable {s₀ s t : State} {α : Type}

/-- The lane groups, what runs on them, the sites, the time and the device registers are as they were in `s₀`. -/
def State.Apart (s₀ s : State) : Prop :=
  s.stakeOps = s₀.stakeOps ∧ s.laneGroups = s₀.laneGroups ∧ s.bootWorn = s₀.bootWorn ∧ s.cyc = s₀.cyc ∧ s.csr = s₀.csr

theorem State.Apart.refl : s.Apart s := ⟨rfl, rfl, rfl, rfl, rfl⟩

theorem State.Apart.of_eq {p : State × α} {a : α} (h : s₀.Apart p.1) (e : p = (t, a)) : s₀.Apart t := by
  rw [e] at h
  exact h

theorem apart_ite {c : Prop} [Decidable c] (hs : s₀.Apart s) (ht : s₀.Apart t) : s₀.Apart (if c then s else t) := by
  split <;> assumption

theorem apart_ite_fst {c : Prop} [Decidable c] {p q : State × α} (hp : s₀.Apart p.1) (hq : s₀.Apart q.1) : s₀.Apart (if c then p else q).1 := by
  split <;> assumption

theorem State.Apart.foldl {f : State → α → State} {l : List α} (h : s₀.Apart s) (hf : ∀ t a, s₀.Apart t → s₀.Apart (f t a)) :
    s₀.Apart (l.foldl f s) :=
  List.foldlRecOn l f h fun _ ht a _ => hf _ a ht

/-! ### Homes and column caches -/

theorem State.Apart.putByte {k b} (h : s₀.Apart s) : s₀.Apart (s.putByte k b) := by
  unfold State.putByte
  split <;> exact h

theorem State.Apart.putLine {line : Nat} {l} (h : s₀.Apart s) : s₀.Apart (s.putLine line l) := by
  induction l generalizing s with
  | nil => exact h
  | cons p l ih => exact ih h.putByte

theorem State.Apart.grantNow {line} (h : s₀.Apart s) : s₀.Apart (s.grantNow line).1 := apart_ite_fst h h

theorem State.Apart.setCline {c line l} (h : s₀.Apart s) : s₀.Apart (s.setCline c line l) := h

theorem State.Apart.modPut {id f} (h : s₀.Apart s) : s₀.Apart (s.modPut id f) := h

theorem State.Apart.keepLine {line c t} (h : s₀.Apart s) : s₀.Apart (s.keepLine line c t) := by
  unfold State.keepLine
  split
  · split
    · exact (h.grantNow.of_eq ‹_›).setCline
    · exact h.grantNow.of_eq ‹_›
  · exact h

theorem State.Apart.modTeam {k f} (h : s₀.Apart s) : s₀.Apart (s.modTeam k f) := by
  unfold State.modTeam
  split <;> exact h

theorem State.Apart.applyWrite {line w} (h : s₀.Apart s) : s₀.Apart (s.applyWrite line w) := by
  unfold State.applyWrite
  extract_lets ack
  have hack : ∀ t a a', s₀.Apart t → s₀.Apart (ack t a a') := by
    intro t a a' ht
    unfold ack
    split
    · split <;> exact ht
    · split <;> exact ht
  split
  · extract_lets s₁ s₂ _ s₃
    have hs₂ : s₀.Apart s₂ := apart_ite h.putLine h.putLine
    have hs₃ : s₀.Apart s₃ := apart_ite hs₂ hs₂
    refine hack _ _ _ ?_
    split
    · exact hs₃.keepLine
    · exact hs₃
  · exact apart_ite (hack _ _ _ h) (hack _ _ _ h.putLine)
  · exact hack _ _ _ h.putLine

theorem State.Apart.applyWrites {line l} (h : s₀.Apart s) : s₀.Apart (s.applyWrites line l) := by
  induction l generalizing s with
  | nil => exact h
  | cons a l ih => exact ih h.applyWrite

theorem State.Apart.applyDue {line} (h : s₀.Apart s) : s₀.Apart (s.applyDue line) := by
  unfold State.applyDue
  extract_lets
  split
  · exact h
  split
  · exact apart_ite h (.applyWrites h)
  split
  · exact h
  · exact .applyWrite h

theorem State.Apart.homeArrive {line w} (h : s₀.Apart s) : s₀.Apart (s.homeArrive line w).1 := h.applyDue

theorem State.Apart.writeBack {c line team keep} (h : s₀.Apart s) : s₀.Apart (s.writeBack c line team keep).1 := by
  unfold State.writeBack
  extract_lets _ _ _ leave
  have hleave : ∀ t a, s₀.Apart t → s₀.Apart (leave t a) := fun _ _ ht => ht
  split
  · exact apart_ite h h
  split
  exact apart_ite_fst (h.homeArrive.of_eq ‹_›).setCline (hleave _ _ (h.homeArrive.of_eq ‹_›))

theorem State.Apart.recallDirty {line} (h : s₀.Apart s) : s₀.Apart (s.recallDirty line) := h.foldl fun _ _ ht => ht.writeBack

/-! ### Translations -/

theorem State.Apart.askAts {col ck va} (h : s₀.Apart s) : s₀.Apart (s.askAts col ck va) := apart_ite h h

theorem State.Apart.requestPage {ck va write} (h : s₀.Apart s) : s₀.Apart (s.requestPage ck va write) := by
  unfold State.requestPage State.sendPage
  extract_lets
  split
  · exact apart_ite h h
  · split
    · exact apart_ite h h
    · exact h

theorem State.Apart.xlatKeep {col x} (h : s₀.Apart s) : s₀.Apart (s.xlatKeep col x) := apart_ite h (apart_ite h h)

theorem State.Apart.xlateLeaf {col x va kind write priv} (h : s₀.Apart s) : s₀.Apart (s.xlateLeaf col x va kind write priv).1 := by
  unfold State.xlateLeaf
  split
  · exact apart_ite_fst h.askAts h.requestPage
  · exact h

theorem State.Apart.xlate {col ck va kind write priv sys} (h : s₀.Apart s) : s₀.Apart (s.xlate col ck va kind write priv sys).1 := by
  unfold State.xlate
  split
  · exact h
  split
  · exact h
  split
  · exact apart_ite_fst h (apart_ite_fst h (apart_ite_fst h h))
  split
  · exact h.xlateLeaf
  split
  · exact h
  · exact (apart_ite h h.xlatKeep).xlateLeaf

theorem State.Apart.xlateAgent {col ck va kind write priv sys} (h : s₀.Apart s) : s₀.Apart (s.xlateAgent col ck va kind write priv sys).1 := by
  unfold State.xlateAgent
  split
  · exact h.xlate.of_eq ‹_›
  · exact h.xlate

/-! ### Writes of the S4's own, and events -/

theorem State.Apart.writeTargets {ck kind priv va n} (h : s₀.Apart s) : s₀.Apart (s.writeTargets ck kind priv va n).1 := by
  induction n generalizing s va with
  | zero => exact h
  | succ n ih =>
    unfold State.writeTargets
    split
    · exact h.xlateAgent.of_eq ‹_›
    refine apart_ite_fst (h.xlateAgent.of_eq ‹_›) ?_
    split <;> exact (ih (h.xlateAgent.of_eq ‹_›)).of_eq ‹_›

theorem State.Apart.putPiece {ck id p} (h : s₀.Apart s) : s₀.Apart (s.putPiece ck id p) := by
  unfold State.putPiece
  split
  · split
    exact (h.recallDirty.homeArrive.of_eq ‹_›).modPut
  · split
    exact (h.homeArrive.of_eq ‹_›).modPut
  · exact h
  · exact h

theorem State.Apart.sendPut {id ck todo} (h : s₀.Apart s) : s₀.Apart (s.sendPut id ck todo).1 := by
  unfold State.sendPut
  extract_lets sent
  have hsent : ∀ t, s₀.Apart t → s₀.Apart (sent t) := fun _ ht => ht
  split
  · split
    · exact h.writeTargets.of_eq ‹_›
    · exact (hsent _ (h.writeTargets.of_eq ‹_›)).foldl fun _ _ ht => ht.putPiece
  split
  · exact h.writeTargets.of_eq ‹_›
  extract_lets s₁ s₂
  have hs₁ : s₀.Apart s₁ := hsent _ (h.writeTargets.of_eq ‹_›)
  have hs₂ : s₀.Apart s₂ := by
    unfold s₂
    split
    · exact hs₁.putPiece
    · exact hs₁.putPiece
    · extract_lets
      split
      exact (hs₁.homeArrive.of_eq ‹_›).modPut
    extract_lets
    split
    exact (hs₁.homeArrive.of_eq ‹_›).modPut
  exact hs₂

theorem State.Apart.postEvent {fn ws} (h : s₀.Apart s) : s₀.Apart (s.postEvent fn ws) := by
  unfold State.postEvent State.post
  extract_lets
  split
  refine .of_eq ?_ ‹_›
  exact .sendPut h

theorem State.Apart.virtWrite {ck va bs end_} (h : s₀.Apart s) : s₀.Apart (s.virtWrite ck va bs end_).1 := by
  unfold State.virtWrite
  extract_lets
  split
  next u _ hu =>
    have hu' : s₀.Apart u := by
      refine .of_eq ?_ hu
      exact .sendPut h
    exact hu'
  next u hu =>
    refine .of_eq ?_ hu
    exact .sendPut h

end Sys2Proof.Machine
end

section
/-! SUPPORT. Lane groups and what runs on them (R80 to R84, R453 to R455). What an event, an error, a fault and a worn site leave as they are; the model's
operations on a lane group, each in one equation. -/

namespace Sys2Proof.Machine

set_option Elab.async false

variable {s₀ s t : State} {α : Type} {col bd dir grp sig : Nat} {o p : StakeOp}

/-! ### What leaves the lane groups alone -/

/-- The lane groups, what runs on them, the sites and the time are as they were in `s₀`. -/
def State.SameLanes (s₀ s : State) : Prop := s.stakeOps = s₀.stakeOps ∧ s.laneGroups = s₀.laneGroups ∧ s.bootWorn = s₀.bootWorn ∧ s.cyc = s₀.cyc

theorem State.SameLanes.refl : s.SameLanes s := ⟨rfl, rfl, rfl, rfl⟩

theorem State.SameLanes.apart (h : s₀.SameLanes s) (ha : s.Apart t) : s₀.SameLanes t := by
  obtain ⟨hops, hlanes, hworn, hcyc⟩ := h
  obtain ⟨hops', hlanes', hworn', hcyc', -⟩ := ha
  exact ⟨hops'.trans hops, hlanes'.trans hlanes, hworn'.trans hworn, hcyc'.trans hcyc⟩

theorem State.SameLanes.of_eq {p : State × α} {a : α} (h : s₀.SameLanes p.1) (e : p = (t, a)) : s₀.SameLanes t := by
  rw [e] at h
  exact h

theorem sameLanes_ite {c : Prop} [Decidable c] (hs : s₀.SameLanes s) (ht : s₀.SameLanes t) : s₀.SameLanes (if c then s else t) := by
  split <;> assumption

theorem State.SameLanes.foldl {f : State → α → State} {l : List α} (h : s₀.SameLanes s) (hf : ∀ t a, s₀.SameLanes t → s₀.SameLanes (f t a)) :
    s₀.SameLanes (l.foldl f s) :=
  List.foldlRecOn l f h fun _ ht a _ => hf _ a ht

theorem State.SameLanes.modTeam {k f} (h : s₀.SameLanes s) : s₀.SameLanes (s.modTeam k f) := by
  unfold State.modTeam
  split <;> exact h

theorem State.SameLanes.rset {k v} (h : s₀.SameLanes s) : s₀.SameLanes (s.rset k v) := h

theorem State.SameLanes.dmEnd {c v} (h : s₀.SameLanes s) : s₀.SameLanes (s.dmEnd c v) := h

theorem State.SameLanes.raiseMsix {fn v} (h : s₀.SameLanes s) : s₀.SameLanes (s.raiseMsix fn v) := h

theorem State.SameLanes.modCtx {ck f} (h : s₀.SameLanes s) : s₀.SameLanes (s.modCtx ck f) := h

theorem State.SameLanes.hwEvent {fn ws} (h : s₀.SameLanes s) : s₀.SameLanes (s.hwEvent fn ws) :=
  sameLanes_ite (h.apart (.postEvent .refl)) (sameLanes_ite h h)

theorem State.SameLanes.pfEvent {kind payload} (h : s₀.SameLanes s) : s₀.SameLanes (s.pfEvent kind payload) := h.hwEvent

theorem State.SameLanes.countError {k} (h : s₀.SameLanes s) : s₀.SameLanes (s.countError k) := sameLanes_ite h (sameLanes_ite (.pfEvent h) h)

theorem State.SameLanes.pfFault {r} (h : s₀.SameLanes s) : s₀.SameLanes (s.pfFault r) := .pfEvent (s := State.free _ |>.1) (sameLanes_ite h.countError h)

theorem State.SameLanes.enterRecord {ck} (h : s₀.SameLanes s) : s₀.SameLanes (s.enterRecord ck).1 := by
  have hwrite : ∀ {va bs e}, s₀.SameLanes (s.virtWrite ck va bs e).1 := h.apart (.virtWrite .refl)
  unfold State.enterRecord
  split
  · exact h
  extract_lets
  split
  · split
    · exact sameLanes_ite (hwrite.of_eq ‹_›) (hwrite.of_eq ‹_›).modCtx
    · exact (hwrite.of_eq ‹_›).modCtx
  · exact h

theorem State.SameLanes.enterRecords {ck n} (h : s₀.SameLanes s) : s₀.SameLanes (s.enterRecords ck n) := by
  induction n generalizing s with
  | zero => exact h
  | succ n ih =>
    unfold State.enterRecords
    split
    · exact ih (h.enterRecord.of_eq ‹_›)
    · exact h.enterRecord.of_eq ‹_›

theorem State.SameLanes.report {ck r} (h : s₀.SameLanes s) : s₀.SameLanes (s.report ck r) :=
  sameLanes_ite (sameLanes_ite h.countError h).modCtx.enterRecords (sameLanes_ite h.countError h)

theorem State.SameLanes.settle {k} (h : s₀.SameLanes s) : s₀.SameLanes (s.settle k) := by
  unfold State.settle
  split
  · exact h
  split
  · exact h
  · exact h
  · exact sameLanes_ite (.hwEvent h) h

theorem State.SameLanes.abandonMigration {c} (h : s₀.SameLanes s) : s₀.SameLanes (s.abandonMigration c) := by
  unfold State.abandonMigration
  split
  · exact h
  extract_lets _ s₁
  have hs₁ : s₀.SameLanes s₁ := h
  split
  · exact hs₁
  split
  · exact h
  · exact (sameLanes_ite hs₁.modTeam.dmEnd hs₁.modTeam).settle

theorem State.SameLanes.closeCore {c l} (h : s₀.SameLanes s) : s₀.SameLanes (s.closeCore c l) := by
  unfold State.closeCore
  extract_lets s₁
  have hs₁ : s₀.SameLanes s₁ := h
  split
  · exact sameLanes_ite hs₁.abandonMigration hs₁
  · exact hs₁

theorem State.SameLanes.reportWorn {kind index worn spare} (h : s₀.SameLanes s) : s₀.SameLanes (s.reportWorn kind index worn spare) :=
  sameLanes_ite h.pfEvent (.pfFault (s := s.free.1) h)

theorem State.SameLanes.wearSite {c l} (h : s₀.SameLanes s) : s₀.SameLanes (s.wearSite c l) :=
  sameLanes_ite h (sameLanes_ite (.closeCore h) (.reportWorn (.closeCore h)))

theorem State.SameLanes.goFatal {code src} (h : s₀.SameLanes s) : s₀.SameLanes (s.goFatal code src) :=
  ((sameLanes_ite h h.rset).foldl fun _ _ ht => ht.raiseMsix).foldl fun _ _ ht => ht.report

/-! ### Operations on a lane group -/

@[simp] theorem State.setLane_lane {k j : Nat} {x : LaneGroup} : (s.setLane k x).lane j = if j = k then x else s.lane j := sget_sins ..

theorem State.SameLanes.lane (h : s₀.SameLanes s) {k : Nat} : s.lane k = s₀.lane k := by
  obtain ⟨-, hlanes, -⟩ := h
  exact congrArg (fun l => sget ({} : LaneGroup) l k) hlanes

/-- A lane group's key goes by the sites of the columns, which a boot alone changes. -/
theorem State.laneKey_congr (h : t.bootWorn = s.bootWorn) : t.laneKey col bd dir grp = s.laneKey col bd dir grp := by
  unfold State.laneKey State.siteOf State.sites
  rw [h]

/-- An operation is on a lane group. -/
def StakeOp.On (o : StakeOp) (col bd dir grp : Nat) : Prop := o.col = col ∧ o.boundary = bd ∧ o.direction = dir ∧ o.group = grp

theorem StakeOp.on_iff : (o.col == col && o.boundary == bd && o.direction == dir && o.group == grp) = true ↔ o.On col bd dir grp := by
  simp [StakeOp.On, and_assoc]

/-- The third failed retry disables a group (R455): its operations stay as they were, and it is disabled. -/
theorem State.disableLane_disables : (s.disableLane col bd dir grp).stakeOps = s.stakeOps ∧ (s.disableLane col bd dir grp).bootWorn = s.bootWorn
    ∧ ((s.disableLane col bd dir grp).lane (s.laneKey col bd dir grp)).disabled = true := by
  unfold State.disableLane
  extract_lets _ n s₁ s₂ _ s₃
  have hs₁ : s.SameLanes s₁ := .countError .refl
  have hs₂ : s.SameLanes s₂ := sameLanes_ite hs₁.wearSite hs₁
  have hend : s₃.SameLanes (if n = 0 then s₃.goFatal 0x20F1 10 else s₃) := sameLanes_ite (.goFatal .refl) .refl
  obtain ⟨hops, -, hworn, -⟩ := hs₂
  have ⟨hops', _, hworn', _⟩ := hend
  refine ⟨hops'.trans hops, hworn'.trans hworn, ?_⟩
  rw [hend.lane, State.setLane_lane, if_pos (State.laneKey_congr hworn).symm]

/-- A group with no signal to remap realigns: it is marked, and its operation runs from now on (R80). -/
theorem State.beginRealign_eq (h : (s.lane (s.laneKey o.col o.boundary o.direction o.group)).remap = []) :
    s.beginRealign o = { s.setLane (s.laneKey o.col o.boundary o.direction o.group)
        { s.lane (s.laneKey o.col o.boundary o.direction o.group) with aligned := some s.dt } with
      stakeOps := s.stakeOps.map fun x => if x = o then { x with running := true, at_ := s.dt } else x } := by
  unfold State.beginRealign
  extract_lets k _ s₁ s₂
  have hremap : (s₂.lane k).remap = [] := (congrArg LaneGroup.remap (State.setLane_lane.trans (if_pos rfl))).trans h
  rw [hremap]
  rfl

/-- A test on the lane group named is given back to traffic (R84). -/
def State.makeWay (s : State) (c b d g : Nat) : State :=
  match s.testOp with
  | some o => if o.col == c && o.boundary == b && o.direction == d && o.group == g then s.relinquish o else s
  | none => s

theorem State.makeWay_of_free (h : ∀ x ∈ s.stakeOps, ¬ x.On col bd dir grp) : s.makeWay col bd dir grp = s := by
  unfold State.makeWay
  split
  · exact if_neg fun hon => h _ (List.mem_of_find?_eq_some ‹_›) (StakeOp.on_iff.1 hon)
  · rfl

/-- What makes way leaves a lane group's signals as they were: the test's time and count alone change. -/
theorem State.makeWay_keeps : (s.makeWay col bd dir grp).bootWorn = s.bootWorn ∧ (s.makeWay col bd dir grp).cyc = s.cyc
    ∧ (s.makeWay col bd dir grp).csr = s.csr ∧ ∀ k, ∃ q n, (s.makeWay col bd dir grp).lane k = { s.lane k with quietAt := q, tries := n } := by
  unfold State.makeWay
  split
  · split
    · refine ⟨rfl, rfl, rfl, fun k => ?_⟩
      next o _ _ =>
      have hlane : (s.relinquish o).lane k = _ := State.setLane_lane
      rw [hlane]
      split
      · next he =>
        subst he
        exact ⟨_, _, rfl⟩
      · exact ⟨_, _, rfl⟩
    · exact ⟨rfl, rfl, rfl, fun k => ⟨_, _, rfl⟩⟩
  · exact ⟨rfl, rfl, rfl, fun k => ⟨_, _, rfl⟩⟩

/-- An event goes to memory, waits, or is counted as lost: no other device register changes (R415). -/
theorem State.hwEvent_rget {fn k : Nat} {ws : List Word} (h : k ≠ kEv fn 0x14) : (s.hwEvent fn ws).rget k = s.rget k := by
  unfold State.hwEvent
  extract_lets
  split
  · obtain ⟨-, -, -, -, hcsr⟩ : s.Apart (s.postEvent fn ws) := .postEvent .refl
    unfold State.rget
    rw [hcsr]
  · split
    · rfl
    · exact (State.rset_rget ..).trans (if_neg h)

/-- A signal of a group that has spares is remapped to one of them (R453). -/
theorem State.remapLane_spare (hd : (s.lane (s.laneKey col bd dir grp)).disabled = false) (hs : (s.lane (s.laneKey col bd dir grp)).spares ≠ 0) :
    ∃ r f, (s.setLane (s.laneKey col bd dir grp) { s.lane (s.laneKey col bd dir grp) with
        spares := (s.lane (s.laneKey col bd dir grp)).spares - 1, remap := r, failed := f }).SameLanes (s.remapLane col bd dir grp sig)
      ∧ ∀ k, k ≠ kEv 0 0x14 → (s.remapLane col bd dir grp sig).rget k = s.rget k := by
  unfold State.remapLane
  simp only [hd, hs]
  exact ⟨_, _, .pfEvent .refl, fun k hk => State.hwEvent_rget hk⟩

/-- With no threshold that the counter meets, an error is counted and nothing else happens (R418). -/
theorem State.countError_counts {k : Nat} (hz : s.rbits (kEr 0x0C) 15 0 = 0) (hk : kEr 0x0C ≠ kErrCnt k) (hm : s.rget (kErrCnt k) ≠ 0xFFFFFFFF) :
    s.countError k = s.rset (kErrCnt k) (s.rget (kErrCnt k) + 1) := by
  have hv : s.rbits (kErrCnt k) 31 0 = (s.rget (kErrCnt k)).toNat := by
    simp only [State.rbits, bits, pow_zero, Nat.div_one]
    exact Nat.mod_eq_of_lt (s.rget (kErrCnt k)).isLt
  have hne : (s.rget (kErrCnt k)).toNat ≠ 0xFFFFFFFF := fun h => hm (BitVec.eq_of_toNat_eq h)
  have hnext : nw ((s.rget (kErrCnt k)).toNat + 1) = s.rget (kErrCnt k) + 1 := by
    refine BitVec.eq_of_toNat_eq ?_
    simp [nw, BitVec.toNat_add]
  have hthr : (s.rset (kErrCnt k) (s.rget (kErrCnt k) + 1)).rbits (kEr 0x0C) 15 0 = 0 := by
    rw [State.rbits, State.rset_rget, if_neg hk]
    exact hz
  unfold State.countError
  simp only [hv, hne, hnext, hthr]
  rfl

/-! ### Realignment (R80 to R83) -/

/-- A group that falls due and waits: its operation is listed, and its direction's time noted. -/
def State.due (s : State) (o : StakeOp) : State :=
  { s with stakeOps := s.stakeOps ++ [o], dueAt := sins s.dueAt (s.laneKey o.col o.boundary o.direction 0) s.dt }

/-- A lane group that exists, is enabled and has no operation. -/
structure State.FreeGroup (s : State) (col bd dir grp : Nat) : Prop where
  colLt : col < s.ncol
  boundaryLt : bd < 4
  directionLt : dir < 2
  groupLt : grp < 32
  enabled : (s.lane (s.laneKey col bd dir grp)).disabled = false
  free : ∀ x ∈ s.stakeOps, ¬ x.On col bd dir grp

/-- A transfer of a direction is in flight, or another of its groups realigns. -/
def State.directionBusy (s : State) (c b d : Nat) : Bool :=
  s.transferIn c b d || s.stakeOps.any fun x => !x.test && x.running && x.col == c && x.boundary == b && x.direction == d

/-- What a group that falls due does where no test is on it. -/
def State.fallDue (s : State) (c b d g : Nat) : State :=
  let o : StakeOp := { col := c, boundary := b, direction := d, group := g, at_ := s.dt, running := false }
  if (s.due o).directionBusy c b d then s.due o else (s.due o).beginRealign o

theorem realignmentDue_eq (h : s.FreeGroup col bd dir grp) (hmay : s.mayFallDue col bd dir grp = true) :
    exec (.realignmentDue col bd dir grp) s = .next (s.fallDue col bd dir grp) := by
  obtain ⟨hc, hb, hd, hg, hen, hfree⟩ := h
  have hany : s.stakeOps.any (fun o => !o.test && o.col == col && o.boundary == bd && o.direction == dir && o.group == grp) = false := by
    refine List.any_eq_false.2 fun x hx hon => hfree x hx ?_
    simp only [Bool.and_eq_true, beq_iff_eq] at hon
    obtain ⟨⟨⟨⟨-, hcol⟩, hbd⟩, hdir⟩, hgrp⟩ := hon
    exact ⟨hcol, hbd, hdir, hgrp⟩
  have hway : s.makeWay col bd dir grp = s := State.makeWay_of_free hfree
  refine congrArg Host.Outcome.next ((if_neg ?_).trans (congrArg (fun v : State => v.fallDue col bd dir grp) hway))
  rw [hany, hen, hmay]
  simp only [Bool.false_eq_true, Bool.true_eq_false, or_false]
  omega

/-- A group of an idle direction realigns as it falls due. -/
theorem State.fallDue_idle (hx : s.transferIn col bd dir = false) (hops : ∀ x ∈ s.stakeOps, x.col ≠ col ∨ x.boundary ≠ bd ∨ x.direction ≠ dir)
    (hr : (s.lane (s.laneKey col bd dir grp)).remap = []) :
    (s.fallDue col bd dir grp).stakeOps = s.stakeOps ++ [{ col, boundary := bd, direction := dir, group := grp, at_ := s.dt, running := true }]
      ∧ (s.fallDue col bd dir grp).lane ((s.fallDue col bd dir grp).laneKey col bd dir grp)
        = { s.lane (s.laneKey col bd dir grp) with aligned := some s.dt }
      ∧ sfind (s.fallDue col bd dir grp).dueAt (s.laneKey col bd dir 0) = some s.dt := by
  unfold State.fallDue
  extract_lets o
  have hany : (s.due o).stakeOps.any (fun x => !x.test && x.running && x.col == col && x.boundary == bd && x.direction == dir) = false := by
    refine List.any_append.trans (Bool.or_eq_false_iff.2 ⟨List.any_eq_false.2 fun x hx => ?_, ?_⟩)
    · rcases hops x hx with h | h | h <;> simp [h]
    · simp [o]
  have hbusy : ¬ (s.due o).directionBusy col bd dir = true := by
    unfold State.directionBusy
    rw [hany, Bool.or_false]
    exact Bool.eq_false_iff.1 hx
  rw [if_neg hbusy, State.beginRealign_eq (s := s.due o) (o := o) hr]
  refine ⟨?_, State.setLane_lane.trans (if_pos rfl), (sfind_sins ..).trans (if_pos rfl)⟩
  refine List.map_append.trans (congrArg₂ _ ?_ (congrArg (fun x => [x]) (if_pos rfl)))
  refine (List.map_congr_left fun x hx => if_neg ?_).trans (List.map_id _)
  rintro rfl
  rcases hops _ hx with h | h | h <;> exact h rfl

theorem State.fallDue_waits (hx : s.transferIn col bd dir = true) :
    s.fallDue col bd dir grp = s.due { col, boundary := bd, direction := dir, group := grp, at_ := s.dt, running := false } := by
  refine if_pos ?_
  unfold State.directionBusy
  exact Bool.or_eq_true_iff.2 (.inl hx)

theorem realignmentStart_eq (hdue : s.dueOp col bd dir = some o) (ht : s.transferIn col bd dir = false) (hr : s.runningOp col bd dir = none) :
    exec (.realignmentStart col bd dir) s = .next (s.beginRealign o) := by
  refine congrArg Host.Outcome.next ?_
  simp only [hdue, ht, hr]
  rfl

theorem realignmentForced_eq (hdue : s.dueOp col bd dir = some o) (ht : o.at_ + 40000 ≤ s.dt) (hr : s.runningOp col bd dir = none) :
    exec (.realignmentForced col bd dir) s = .next (s.beginRealign o) := by
  refine congrArg Host.Outcome.next ?_
  simp only [hdue, hr]
  exact if_pos ⟨ht, rfl⟩

/-- A group that begins to realign: it is marked, and its operation runs from now on. -/
theorem State.beginRealign_begun (ho : o ∈ s.stakeOps) (hon : o.On col bd dir grp) (h : (s.lane (s.laneKey col bd dir grp)).remap = []) :
    { o with running := true, at_ := s.dt } ∈ (s.beginRealign o).stakeOps
      ∧ (s.beginRealign o).lane ((s.beginRealign o).laneKey col bd dir grp) = { s.lane (s.laneKey col bd dir grp) with aligned := some s.dt } := by
  obtain ⟨rfl, rfl, rfl, rfl⟩ := hon
  rw [State.beginRealign_eq h]
  exact ⟨List.mem_map.2 ⟨o, ho, if_pos rfl⟩, State.setLane_lane.trans (if_pos rfl)⟩

/-- The state without an operation that has ended. -/
def State.dropOp (s : State) (o : StakeOp) : State := { s with stakeOps := s.stakeOps.filter fun y => y != o }

theorem State.not_mem_dropOp : o ∉ (s.dropOp o).stakeOps := fun h => by
  have := (List.mem_filter.1 h).2
  simp at this

theorem realignmentEnd_locked (hr : s.runningOp col bd dir = some o) (ht : o.at_ + 2000 ≤ s.dt) :
    exec (.realignmentEnd col bd dir true) s = .next ((s.setLane (s.laneKey col bd dir o.group)
      { s.lane (s.laneKey col bd dir o.group) with fails := 0 }).dropOp o) := by
  refine congrArg Host.Outcome.next ?_
  simp only [hr, if_neg (Nat.not_lt.2 ht)]
  rfl

theorem realignmentEnd_retries (hr : s.runningOp col bd dir = some o) (ht : o.at_ + 2000 ≤ s.dt) (hf : (s.lane (s.laneKey col bd dir o.group)).fails < 3) :
    exec (.realignmentEnd col bd dir false) s = .next { s.setLane (s.laneKey col bd dir o.group)
        { s.lane (s.laneKey col bd dir o.group) with fails := (s.lane (s.laneKey col bd dir o.group)).fails + 1 } with
      stakeOps := s.stakeOps.map fun y => if y = o then { y with at_ := s.dt } else y } := by
  refine congrArg Host.Outcome.next ?_
  simp only [hr, if_neg (Nat.not_lt.2 ht), if_neg (Nat.not_le.2 hf)]
  rfl

theorem realignmentEnd_disables (hr : s.runningOp col bd dir = some o) (ht : o.at_ + 2000 ≤ s.dt) (hf : 3 ≤ (s.lane (s.laneKey col bd dir o.group)).fails) :
    exec (.realignmentEnd col bd dir false) s = .next (((s.setLane (s.laneKey col bd dir o.group)
      { s.lane (s.laneKey col bd dir o.group) with fails := 0 }).dropOp o).disableLane col bd dir o.group) := by
  refine congrArg Host.Outcome.next ?_
  simp only [hr, if_neg (Nat.not_lt.2 ht), if_pos hf]
  rfl

/-! ### Background tests (R84, R454) -/

theorem backgroundTestStart_eq (h : s.FreeGroup col bd dir grp) (ht : s.testOp = none) (hmay : s.mayTest col bd dir grp = true)
    (hx : s.transferIn col bd dir = false) :
    exec (.backgroundTestStart col bd dir grp) s = .next { s with stakeOps := s.stakeOps ++
      [{ col, boundary := bd, direction := dir, group := grp, at_ := s.dt, running := true, test := true }] } := by
  obtain ⟨hc, hb, hd, hg, hen, hfree⟩ := h
  have hany : s.stakeOps.any (fun o => o.col == col && o.boundary == bd && o.direction == dir && o.group == grp) = false :=
    List.any_eq_false.2 fun x hx hon => hfree x hx (StakeOp.on_iff.1 hon)
  refine congrArg Host.Outcome.next (if_neg ?_)
  rw [hany, hen, hmay, ht, hx]
  simp only [Bool.false_eq_true, Bool.true_eq_false, Option.isSome_none, or_false]
  omega

theorem backgroundTestRelinquish_eq (h : s.testOp = some o) : exec .backgroundTestRelinquish s = .next (s.relinquish o) := by
  refine congrArg Host.Outcome.next ?_
  rw [h]

/-- The state without the background tests. -/
def State.dropTests (s : State) : State := { s with stakeOps := s.stakeOps.filter fun o => !o.test }

theorem State.mem_dropTests : p ∈ s.dropTests.stakeOps ↔ p ∈ s.stakeOps ∧ p.test = false := by
  simp [State.dropTests]

/-- A lane group whose test has ended: it waits again, and no test of it was given back (R84). -/
def LaneGroup.tested (x : LaneGroup) (o : StakeOp) : LaneGroup := { x with quietAt := o.at_ + 10000, tries := 0 }

/-- A lane group with a signal whose remap waits for the next realignment (R454). -/
def LaneGroup.reports (x : LaneGroup) (i : Nat) : LaneGroup := { x with remap := if x.remap.contains i then x.remap else x.remap ++ [i] }

theorem LaneGroup.mem_reports {x : LaneGroup} {i j : Nat} : j ∈ (x.reports i).remap ↔ j ∈ x.remap ∨ j = i := by
  unfold LaneGroup.reports
  split
  · next h =>
    constructor
    · exact Or.inl
    · rintro (hj | rfl)
      · exact hj
      · exact List.contains_iff_mem.1 h
  · simp

/-- A report is added to what a group waits with, and changes nothing else. -/
theorem LaneGroup.reports_adds {x y : LaneGroup} {i : Nat} (h : y = x.reports i) :
    y = { x with remap := y.remap } ∧ i ∈ y.remap ∧ ∀ j ∈ x.remap, j ∈ y.remap := by
  subst h
  exact ⟨rfl, LaneGroup.mem_reports.2 (.inr rfl), fun j hj => LaneGroup.mem_reports.2 (.inl hj)⟩

theorem backgroundTestComplete_closed (h : s.testOp = some o) (ht : 2 * o.at_ + 4096 ≤ s.cyc) :
    exec (.backgroundTestComplete false) s = .next (s.dropTests.setLane (s.laneKey o.col o.boundary o.direction o.group)
      ((s.lane (s.laneKey o.col o.boundary o.direction o.group)).tested o)) := by
  refine congrArg Host.Outcome.next ?_
  simp only [h, if_neg (Nat.not_lt.2 ht)]
  rfl

theorem backgroundTestComplete_open (h : s.testOp = some o) (ht : 2 * o.at_ + 4096 ≤ s.cyc) :
    exec (.backgroundTestComplete true) s = .next (s.dropTests.free.1.setLane (s.laneKey o.col o.boundary o.direction o.group)
      (((s.lane (s.laneKey o.col o.boundary o.direction o.group)).tested o).reports (Config.freeWord s.freeCount).toNat)) := by
  refine congrArg Host.Outcome.next ?_
  simp only [h, if_neg (Nat.not_lt.2 ht)]
  rfl

/-! ### Replays (R453) -/

/-- The flits that a lane group's signals have failed on in the last 1 µs. -/
def State.recentFails (s : State) (c b d g : Nat) : List (Nat × Nat) :=
  (s.lane (s.laneKey c b d g)).failed.filter fun f => decide (s.dt ≤ f.2 + 1000)

/-- A lane group realigns at once, in the place of what ran on it. -/
def State.realignNow (s : State) (k c b d g : Nat) : State :=
  { s.setLane k { s.lane k with aligned := some s.dt } with
    stakeOps := (s.stakeOps.filter fun o => !(o.col == c && o.boundary == b && o.direction == d && o.group == g))
      ++ [{ col := c, boundary := b, direction := d, group := g, at_ := s.dt, running := true }] }

theorem State.realignNow_realigns {k : Nat} (h : t.laneKey col bd dir grp = k) :
    let v := t.realignNow k col bd dir grp
    v.lane (v.laneKey col bd dir grp) = { t.lane k with aligned := some t.dt }
      ∧ ({ col, boundary := bd, direction := dir, group := grp, at_ := t.dt, running := true } : StakeOp) ∈ v.stakeOps := by
  subst h
  exact ⟨State.setLane_lane.trans (if_pos rfl), List.mem_append_right _ (List.mem_singleton_self _)⟩

/-- What a replay does to the lane group of its flit, once it has been counted. -/
def State.replay (s : State) (c b d g sig : Nat) : State :=
  let k := s.laneKey c b d g
  let failed := (sig, s.dt) :: s.recentFails c b d g
  let v := (s.makeWay c b d g).remapLane c b d g sig
  if (s.lane k).disabled then s
  else if (failed.filter fun f => f.1 == sig).length < 4 then s.setLane k { s.lane k with failed }
  else if (v.lane k).disabled then v
  else v.realignNow k c b d g

theorem stakeParityReplay_eq (hc : col < s.ncol) (hb : bd < 4) (hd : dir < 2) (hg : grp < 32) :
    exec (.stakeParityReplay col bd dir grp sig) s = .next ((s.countError 4).replay col bd dir grp sig) :=
  congrArg Host.Outcome.next (if_neg (by omega))

/-- The fails of a signal, with one more. -/
theorem length_filter_cons_same {l : List (Nat × Nat)} {now : Nat} :
    (((sig, now) :: l).filter fun f => f.1 == sig).length = (l.filter fun f => f.1 == sig).length + 1 := by
  rw [List.filter_cons_of_pos (by simp), List.length_cons]

theorem State.replay_disabled (h : (s.lane (s.laneKey col bd dir grp)).disabled = true) : s.replay col bd dir grp sig = s := if_pos h

theorem State.replay_notes (h : (s.lane (s.laneKey col bd dir grp)).disabled = false)
    (hf : ((s.recentFails col bd dir grp).filter fun f => f.1 == sig).length < 3) :
    s.replay col bd dir grp sig = s.setLane (s.laneKey col bd dir grp)
      { s.lane (s.laneKey col bd dir grp) with failed := (sig, s.dt) :: s.recentFails col bd dir grp } := by
  refine (if_neg (by simp [h])).trans (if_pos ?_)
  rw [length_filter_cons_same]
  omega

/-- A signal that is remapped leaves its group one spare fewer, and enabled. -/
theorem State.remapped {n : Nat} (h : (s.lane (s.laneKey col bd dir grp)).disabled = false) (hs : (s.lane (s.laneKey col bd dir grp)).spares = n + 1) :
    let v := (s.makeWay col bd dir grp).remapLane col bd dir grp sig
    v.bootWorn = s.bootWorn ∧ v.cyc = s.cyc ∧ (∀ k, k ≠ kEv 0 0x14 → v.rget k = s.rget k)
      ∧ (v.lane (s.laneKey col bd dir grp)).disabled = false ∧ (v.lane (s.laneKey col bd dir grp)).spares = n := by
  intro v
  obtain ⟨hworn, hcyc, hcsr, hlane⟩ := State.makeWay_keeps (s := s) (col := col) (bd := bd) (dir := dir) (grp := grp)
  have hkey : (s.makeWay col bd dir grp).laneKey col bd dir grp = s.laneKey col bd dir grp := State.laneKey_congr hworn
  obtain ⟨q, t, hl⟩ := hlane (s.laneKey col bd dir grp)
  have hremap := State.remapLane_spare (s := s.makeWay col bd dir grp) (col := col) (bd := bd) (dir := dir) (grp := grp) (sig := sig)
  rw [hkey, hl] at hremap
  obtain ⟨r, f, hsame, hreg⟩ := hremap h (by simp [hs])
  have ⟨_, _, hworn', hcyc'⟩ := hsame
  refine ⟨hworn'.trans hworn, hcyc'.trans hcyc, fun k hk => (hreg k hk).trans (by unfold State.rget; rw [hcsr]), ?_, ?_⟩
  · rw [hsame.lane, State.setLane_lane, if_pos rfl]
    exact h
  · rw [hsame.lane, State.setLane_lane, if_pos rfl]
    exact congrArg (· - 1) hs

theorem State.replay_spares {n : Nat} (h : (s.lane (s.laneKey col bd dir grp)).disabled = false)
    (hf : 3 ≤ ((s.recentFails col bd dir grp).filter fun f => f.1 == sig).length) (hs : (s.lane (s.laneKey col bd dir grp)).spares = n + 1) :
    s.replay col bd dir grp sig
      = ((s.makeWay col bd dir grp).remapLane col bd dir grp sig).realignNow (s.laneKey col bd dir grp) col bd dir grp := by
  obtain ⟨-, -, -, hv, -⟩ := State.remapped (sig := sig) h hs
  refine (if_neg (by simp [h])).trans ((if_neg ?_).trans (if_neg (by simp [hv])))
  rw [length_filter_cons_same]
  omega

/-- Settles O48: each step is one operation on its lane group, and neither the events and errors that are reported, nor a worn site or a fatal error, touches
a lane group. -/
theorem laneGroupsAreKeptAligned : Obligations.LaneGroupsAreKeptAligned := by
  unfold Obligations.LaneGroupsAreKeptAligned
  intro col bd dir grp o hcol hbd hdir hgrp key lane mine fallsDue due begun runs
  have hmem : ∀ (s : State) (c : StakeOp), s.runningOp col bd dir = some c → c ∈ s.stakeOps := fun s c h => List.mem_of_find?_eq_some h
  refine ⟨?_, ?_, ?_, ?_, ?_, ?_, ?_, ?_, ?_, ?_, ?_, ?_⟩
  · rintro s ⟨⟨hc, hen, hmay⟩, hr, hx, hops⟩
    have hfree : ∀ x ∈ s.stakeOps, ¬ x.On col bd dir grp := by
      rintro x hmem ⟨h₁, h₂, h₃, -⟩
      rcases hops x hmem with h | h | h
      exacts [h h₁, h h₂, h h₃]
    refine ⟨_, realignmentDue_eq ⟨hc, hbd, hdir, hgrp, hen, hfree⟩ hmay, State.fallDue_idle hx hops hr⟩
  · rintro s ⟨⟨hc, hen, hmay⟩, hx, hfree⟩
    refine ⟨_, realignmentDue_eq ⟨hc, hbd, hdir, hgrp, hen, hfree⟩ hmay, ?_⟩
    rw [State.fallDue_waits hx]
    exact ⟨rfl, rfl, (sfind_sins ..).trans (if_pos rfl)⟩
  · intro s hmay
    exact ⟨s, congrArg Host.Outcome.next (if_pos (by simp [hmay])), rfl⟩
  · rintro s ⟨⟨ho, hon, -, -, hdue, hrun, hr⟩, hx⟩
    exact ⟨_, realignmentStart_eq hdue hx hrun, State.beginRealign_begun ho hon hr⟩
  · rintro s ⟨⟨ho, hon, -, -, hdue, hrun, hr⟩, ht⟩
    exact ⟨_, realignmentForced_eq hdue ht hrun, State.beginRealign_begun ho hon hr⟩
  · rintro s ⟨⟨-, -, -, rfl⟩, hrun, ht⟩
    have hlane := State.setLane_lane (s := s) (k := s.laneKey col bd dir o.group) (j := s.laneKey col bd dir o.group)
      (x := { s.lane (s.laneKey col bd dir o.group) with fails := 0 })
    rw [if_pos rfl] at hlane
    exact ⟨_, realignmentEnd_locked hrun ht, State.not_mem_dropOp, congrArg LaneGroup.fails hlane, (congrArg LaneGroup.spares hlane).trans rfl⟩
  · rintro s ⟨⟨⟨-, -, -, rfl⟩, hrun, ht⟩, hf⟩
    exact ⟨_, realignmentEnd_retries hrun ht hf, List.mem_map.2 ⟨o, hmem s o hrun, if_pos rfl⟩,
      congrArg LaneGroup.fails (State.setLane_lane.trans (if_pos rfl))⟩
  · rintro s ⟨⟨⟨-, -, -, rfl⟩, hrun, ht⟩, hf⟩
    refine ⟨_, realignmentEnd_disables hrun ht hf, ?_⟩
    obtain ⟨hops, hworn, hdis⟩ := State.disableLane_disables (col := col) (bd := bd) (dir := dir) (grp := o.group)
      (s := (s.setLane (s.laneKey col bd dir o.group) { s.lane (s.laneKey col bd dir o.group) with fails := 0 }).dropOp o)
    rw [← State.laneKey_congr hworn] at hdis
    exact ⟨hops ▸ State.not_mem_dropOp, hdis⟩
  · rintro s ⟨hc, ht, hmay, hx, hen, hfree⟩
    exact ⟨_, backgroundTestStart_eq ⟨hc, hbd, hdir, hgrp, hen, hfree⟩ ht hmay hx, rfl⟩
  · rintro s ⟨ht, rfl, rfl, rfl, rfl⟩
    exact ⟨_, backgroundTestRelinquish_eq ht, fun x => State.mem_dropTests, State.setLane_lane.trans (if_pos rfl)⟩
  · rintro (_ | _) s ⟨ht, ⟨rfl, rfl, rfl, rfl⟩, hcyc⟩
    · exact ⟨_, backgroundTestComplete_closed ht hcyc, fun x => State.mem_dropTests, fun _ => State.setLane_lane.trans (if_pos rfl), nofun⟩
    · refine ⟨_, backgroundTestComplete_open ht hcyc, fun x => State.mem_dropTests, nofun, fun _ => ?_⟩
      exact LaneGroup.reports_adds (State.setLane_lane.trans (if_pos rfl))
  · intro sig recent counts flit
    have hkeys : kEr 0x0C ≠ kErrCnt 4 ∧ kErrCnt 4 ≠ kEv 0 0x14 := by decide
    have hcounts : ∀ {s : State}, flit s → exec (.stakeParityReplay col bd dir grp sig) s
        = .next ((s.rset (kErrCnt 4) (s.rget (kErrCnt 4) + 1)).replay col bd dir grp sig) := by
      rintro s ⟨hc, hz, hm⟩
      rw [stakeParityReplay_eq hc hbd hdir hgrp, State.countError_counts hz hkeys.1 hm]
    have hread : ∀ s : State, (s.rset (kErrCnt 4) (s.rget (kErrCnt 4) + 1)).rget (kErrCnt 4) = s.rget (kErrCnt 4) + 1 :=
      fun s => (State.rset_rget ..).trans (if_pos rfl)
    refine ⟨?_, ?_, ?_⟩
    · rintro s ⟨hflit, hdis⟩
      exact ⟨_, (hcounts hflit).trans (congrArg Host.Outcome.next (State.replay_disabled hdis)), hread s, rfl, rfl⟩
    · rintro s ⟨hflit, hen, hf⟩
      exact ⟨_, (hcounts hflit).trans (congrArg Host.Outcome.next (State.replay_notes hen hf)), hread s, rfl,
        State.setLane_lane.trans (if_pos rfl)⟩
    · rintro s ⟨hflit, hen, hf, hs⟩
      obtain ⟨hworn, hcyc, hreg, -, hspares⟩ := State.remapped (s := s.rset (kErrCnt 4) (s.rget (kErrCnt 4) + 1)) (sig := sig) hen hs
      obtain ⟨hlane, hop⟩ := State.realignNow_realigns (State.laneKey_congr (col := col) (bd := bd) (dir := dir) (grp := grp) hworn)
      have hdt : ((s.rset (kErrCnt 4) (s.rget (kErrCnt 4) + 1)).makeWay col bd dir grp |>.remapLane col bd dir grp sig).dt = s.dt := congrArg (· / 2) hcyc
      rw [hdt] at hlane hop
      exact ⟨_, (hcounts hflit).trans (congrArg Host.Outcome.next (State.replay_spares hen hf hs)), (hreg _ hkeys.2).trans (hread s),
        (congrArg LaneGroup.spares hlane).trans hspares, congrArg LaneGroup.aligned hlane, hop⟩

end Sys2Proof.Machine
end

section
/-! SUPPORT. The lane whose operands a word takes that acts once per bundle (R35, R420): the lowest of those it passes in is the one it is judged for. -/

namespace Sys2Proof.Machine

set_option Elab.async false

variable {s : State} {x : Iss} {ts : List Nat} {t u : Nat}

theorem byLane_eq_nil : byLane ts = [] ↔ ts = [] := by
  rw [← List.length_eq_zero_iff, byLane_perm.length_eq, List.length_eq_zero_iff]

theorem lowLane_cons : lowLane (t :: ts) = if ts = [] ∨ t % 32 ≤ lowLane ts % 32 then t else lowLane ts := by
  have hcons : byLane (t :: ts) = byLane.ins t (byLane ts) := rfl
  have hempty : ts = [] ↔ byLane ts = [] := byLane_eq_nil.symm
  simp only [lowLane, hcons, hempty]
  cases byLane ts with
  | nil => rfl
  | cons u us =>
    simp only [byLane.ins, List.headD_cons, List.cons_ne_nil, false_or]
    split <;> rfl

theorem lowLane_mem (h : ts ≠ []) : lowLane ts ∈ ts := by
  have hb : byLane ts ≠ [] := fun e => h (byLane_eq_nil.1 e)
  refine byLane_perm.mem_iff.1 ?_
  obtain ⟨u, us, e⟩ := List.exists_cons_of_ne_nil hb
  rw [lowLane, e]
  exact List.mem_cons_self

theorem lowLane_le (h : u ∈ ts) : lowLane ts % 32 ≤ u % 32 := by
  induction ts with
  | nil => exact absurd h List.not_mem_nil
  | cons t ts ih =>
    rw [lowLane_cons]
    rcases List.mem_cons.1 h with rfl | h
    · split <;> omega
    · split
      · rename_i hlow
        exact (hlow.resolve_left (List.ne_nil_of_mem h)).trans (ih h)
      · exact ih h

/-- A narrower list that keeps the lowest lane has the same lowest lane. -/
theorem lowLane_filter {p : Nat → Bool} (h : p (lowLane ts) = true) : lowLane (ts.filter p) = lowLane ts := by
  induction ts with
  | nil => rfl
  | cons t ts ih =>
    rw [lowLane_cons] at h ⊢
    split at h
    · rename_i hlow
      rw [if_pos hlow, List.filter_cons_of_pos h, lowLane_cons, if_pos]
      by_cases he : ts.filter p = []
      · exact .inl he
      · have hmem := List.mem_of_mem_filter (lowLane_mem he)
        exact .inr ((hlow.resolve_left (List.ne_nil_of_mem hmem)).trans (lowLane_le hmem))
    · rename_i hlow
      rw [if_neg hlow]
      by_cases hp : p t = true
      · rw [List.filter_cons_of_pos hp, lowLane_cons, ih h, if_neg]
        refine fun hc => hlow (.inr (hc.resolve_left ?_))
        exact List.ne_nil_of_mem (List.mem_filter.2 ⟨lowLane_mem fun e => hlow (.inl e), h⟩)
      · rw [List.filter_cons_of_neg hp, ih h]

/-- A thread in which a word breaks no shared rule can read its guard. -/
theorem Iss.guardBad_of_clearAt {f : Form} (h : x.clearAt f t) : x.guardBad f.m t = false := by
  obtain ⟨hn, -, hp, -⟩ := h
  by_cases hg : f.m.g = 127
  · simp [Iss.guardBad, hg]
  · have hm : rOp f.m.g ∈ f.operands := List.mem_append_right _ (by rw [if_neg hg]; exact List.mem_cons_self)
    have hlt : f.m.g.toNat < x.tm.n t := hn _ hm
    have hpend := hp _ hm f.m.g.toNat (by simp [Opnd.regs, rOp])
    simp only [Iss.guardBad, Bool.and_eq_false_iff, Bool.or_eq_false_iff, decide_eq_false_iff_not, List.any_eq_false, beq_iff_eq]
    exact .inr ⟨by omega, hpend⟩

/-- A word that acts once per bundle is judged for the lane whose operands it takes. -/
theorem State.Issues.lead_judged {i : Instr} {f : Form} (h : s.Issues i x f) (ho : f.once = true) (hne : x.passing f.m ≠ []) :
    lowLane (x.passing f.m) ∈ x.judged f := by
  set js : List Nat := x.b.threads.filter fun t => x.guardBad f.m t || (x.tm.thread t).passes f.m with hjs
  have hpass : x.passing f.m = js.filter fun t => (x.tm.thread t).passes f.m := by
    rw [hjs, List.filter_filter]
    exact List.filter_congr fun t _ => by cases (x.tm.thread t).passes f.m <;> simp
  have hj : x.judged f = (byLane js).take 1 := if_pos ho
  have hne' : js ≠ [] := fun e => hne (by rw [hpass, e]; rfl)
  have hlow : lowLane js ∈ x.judged f := by
    obtain ⟨u, us, e⟩ := List.exists_cons_of_ne_nil fun e => hne' (byLane_eq_nil.1 e)
    rw [hj, lowLane, e]
    exact List.mem_cons_self
  obtain ⟨-, -, -, -, -, hclear⟩ := h
  have hp : (x.tm.thread (lowLane js)).passes f.m = true := by
    have hm := (List.mem_filter.1 (lowLane_mem hne')).2
    rwa [Iss.guardBad_of_clearAt (hclear _ hlow), Bool.false_or] at hm
  rw [hpass, lowLane_filter hp]
  exact hlow

/-- The address a pair holds, where the bits above it are clear (R149, R268). -/
theorem Thread.pair_toNat {th : Thread} {r : RegNo} : (th.pair r).toNat = (th.get r.toNat).toNat + 2 ^ 32 * (th.get (r.toNat + 1)).toNat := by
  have := (th.get r.toNat).isLt
  rw [Thread.pair, BitVec.toNat_append, Nat.shiftLeft_eq, Nat.mul_comm, ← Nat.two_pow_add_eq_or_of_lt this]
  exact Nat.add_comm _ _

theorem Thread.addr_eq_pair {th : Thread} {r : RegNo} (h : (th.pair r).toNat < 2 ^ 52) : th.addr r = (th.pair r).toNat := by
  rw [Thread.pair_toNat] at h ⊢
  have := (th.get r.toNat).isLt
  rw [Thread.addr, addr52, Nat.mod_eq_of_lt (by omega)]

theorem Thread.addrBad_of_pair {th : Thread} {r : RegNo} (h : (th.pair r).toNat < 2 ^ 52) : th.addrBad r = false := by
  rw [Thread.pair_toNat] at h
  have hhi : (th.get (r.toNat + 1)).toNat / 2 ^ 20 = 0 := by omega
  rw [Thread.addrBad, bits, hhi]
  rfl

end Sys2Proof.Machine
end

section
/-! SUPPORT. LAUNCH (R92, R271). Settles O35. -/

namespace Sys2Proof.Machine

set_option Elab.async false

variable {s u : State} {x : Iss} {f : Form} {m : Mods} {d a b : RegNo} {ts : List Nat} {tm : Team} {T : List (Nat × Team)}

/-! ### Reading a card, and its entry in the intake, with other teams in the slots -/

theorem State.colRead_withTeams {c ck kind va n : Nat} {priv : Bool} :
    (s.withTeams T).colRead c ck kind priv va n = Prod.map (State.withTeams · T) id (s.colRead c ck kind priv va n) := by
  unfold State.colRead State.agentRead
  rw [State.agentBytes_withTeams]
  obtain ⟨u, l, e⟩ := s.agentBytes (some c) (some c) none ck kind priv va n
  cases e with
  | some e => rfl
  | none =>
    dsimp only [Prod.map, id]
    split
    · rfl
    · rw [State.sendReads_withTeams]

/-- A legal card enters its intake behind the others. -/
theorem State.intakePush_of_legal {ck q : Nat} {ci : CardIn} (h : s.cardCheck ck ci.words ci.launch false = none) :
    s.intakePush ck q ci = s.setIntake ck q ((s.ctx ck).intake q ++ [ci]) := by
  unfold State.intakePush
  rw [h]

@[simp] theorem State.setIntake_intake {ck q : Nat} {l : List CardIn} : ((s.setIntake ck q l).ctx ck).intake q = l := by
  simp [State.setIntake, State.modCtx, Ctx.intake]

/-! ### The word -/

/-- The operands of LAUNCH in a thread break none of its own rules (R271): the address of a card in a pair, and the number of a queue. -/
def Thread.names (th : Thread) (a b : RegNo) : Prop := (th.pair a).toNat < 2 ^ 52 ∧ (th.pair a).toNat % 128 = 0 ∧ th.uNat b < 2 ^ 6

/-- LAUNCH issues with nothing to release, and names a card and a queue. -/
def State.Launches (s : State) (m : Mods) (d a b : RegNo) (x : Iss) (f : Form) : Prop :=
  s.Issues (.launch m d a b) x f ∧ s.Drained x ∧ x.passing f.m ≠ [] ∧ ∀ t ∈ x.judged f, (x.tm.thread t).names a b

theorem exec_launch : exec (.launch m d a b) s = execLaunch m d a b s := rfl

theorem State.Launches.address (h : s.Launches m d a b x f) : (x.lead (x.passing f.m)).addr a = ((x.lead (x.passing f.m)).pair a).toNat := by
  obtain ⟨hi, -, hne, hj⟩ := h
  have ho : f.once = true := by
    obtain ⟨-, hf, -⟩ := hi
    obtain rfl := Option.some.inj hf
    rfl
  obtain ⟨ha, -⟩ := hj _ (hi.lead_judged ho hne)
  exact Thread.addr_eq_pair ha

theorem Thread.names.noFault {th : Thread} (h : th.names a b) {v : Nat} :
    firstHeld [(th.addrBad a || th.addr a % 128 != 0 || (th.get b.toNat).toNat / 2 ^ 6 != 0, 0x0028, v)] = none := by
  obtain ⟨ha, hm, hb⟩ := h
  have hq : (th.get b.toNat).toNat / 2 ^ 6 = 0 := Nat.div_eq_of_lt hb
  rw [Thread.addrBad_of_pair ha, Thread.addr_eq_pair ha, hm, hq]
  rfl

/-- A value for each passing thread, and the word is done. -/
theorem State.putAll_advance_goesOn {d v : Nat} (h : s.team? x.k = some tm) (hf : tm.freezing = none) :
    ∃ tm', s.GoesOn ((s.putAll x.k ts d 1 v).advance x) x.k tm' ∧ tm.Puts ts d 1 (fun _ => v) 0 tm' := by
  have hp := Team.foldl_putRegs_puts (tm := tm) (ts := ts) (d := d) (cnt := 1) (v := fun _ => v)
  exact ⟨_, State.act_advance_goesOn h (hp.freezing.trans hf), hp⟩

theorem launch_refused (h : s.Launches m d a b x f) (hr : s.launchRefused (s.teamCtx x.tm) ((x.lead (x.passing f.m)).uNat b) = true) :
    ∃ t tm', exec (.launch m d a b) s = .next t ∧ s.GoesOn t x.k tm' ∧ x.tm.Puts (x.passing f.m) d.toNat 1 (fun _ => 0) 0 tm' := by
  obtain ⟨hi, hd, hne, hj⟩ := h
  obtain ⟨tm', hg, hp⟩ := State.putAll_advance_goesOn (s := s.setTeam x.k x.tm) (ts := x.passing f.m) (d := d.toNat) (v := 0)
    State.setTeam_team?_self hi.freezing
  refine ⟨_, tm', ?_, .of_setTeam hg, hp⟩
  rw [exec_launch, execLaunch, runWord_of_issues hi fun t ht => (hj t ht).noFault, if_neg hne, hd.afterRelease hi.team? hne]
  exact congrArg Host.Outcome.next (if_pos hr)

/-- The card a LAUNCH has read stands in its intake. -/
def State.launched (u : State) (ck q addr : Nat) (bs : List Byte) : State :=
  u.setIntake ck q ((u.ctx ck).intake q ++ [{ words := bytesWords bs, addr, launch := true }])

theorem launch_taken {bs : List Byte} {ck q addr : Nat} (h : s.Launches m d a b x f) (hck : s.teamCtx x.tm = ck)
    (hq : (x.lead (x.passing f.m)).uNat b = q) (ha : ((x.lead (x.passing f.m)).pair a).toNat = addr) (hr : s.launchRefused ck q = false)
    (hread : s.colRead (teamCol x.k) ck kLoad (s.teamPriv x.tm) addr 128 = (u, .ok bs)) (hc : u.cardCheck ck (bytesWords bs) true false = none) :
    ∃ t tm', exec (.launch m d a b) s = .next t ∧ ((u.launched ck q addr bs).withTeams (s.setTeam x.k x.tm).teams).GoesOn t x.k tm'
      ∧ x.tm.Puts (x.passing f.m) d.toNat 1 (fun _ => 1) 0 tm' := by
  have haddr := h.address.trans ha
  obtain ⟨hi, hd, hne, hj⟩ := h
  have hread' : (s.setTeam x.k x.tm).colRead (teamCol x.k) ck kLoad (s.teamPriv x.tm) addr 128
      = (u.withTeams (s.setTeam x.k x.tm).teams, .ok bs) :=
    State.colRead_withTeams.trans (congrArg (Prod.map (State.withTeams · _) id) hread)
  have hpush : (u.withTeams (s.setTeam x.k x.tm).teams).intakePush ck q { words := bytesWords bs, addr, launch := true }
      = (u.launched ck q addr bs).withTeams (s.setTeam x.k x.tm).teams :=
    State.intakePush_of_legal (s := u.withTeams _) hc
  obtain ⟨tm', hg, hp⟩ := State.putAll_advance_goesOn (x := x) (ts := x.passing f.m) (d := d.toNat) (v := 1) (tm := x.tm)
    (s := (u.launched ck q addr bs).withTeams (s.setTeam x.k x.tm).teams) (State.setTeam_team?_self (s := s)) hi.freezing
  refine ⟨_, tm', ?_, hg, hp⟩
  have hck' : (s.setTeam x.k x.tm).teamCtx x.tm = ck := hck
  have hpriv : (s.setTeam x.k x.tm).teamPriv x.tm = s.teamPriv x.tm := rfl
  have hr' : (s.setTeam x.k x.tm).launchRefused ck q = false := hr
  have hq' : ((x.lead (x.passing f.m)).get b.toNat).toNat = q := hq
  rw [exec_launch, execLaunch, runWord_of_issues hi fun t ht => (hj t ht).noFault, if_neg hne, hd.afterRelease hi.team? hne]
  dsimp only
  rw [hck', hq', hr', haddr, hpriv, hread', if_neg Bool.false_ne_true]
  dsimp only
  rw [hpush]

/-- Settles O35: the release has nothing to wait for, and then LAUNCH either answers 0, or reads its card and puts it behind the others. -/
theorem launchCopiesACard : Obligations.LaunchCopiesACard := by
  unfold Obligations.LaunchCopiesACard
  refine fun m d a b => ⟨?refused, fun bs u => ?taken⟩
  case refused =>
    rintro s x f hi ⟨⟨hd, hne, hj⟩, hr⟩
    obtain ⟨t, tm', ht, hg, hp⟩ := launch_refused ⟨hi, hd, hne, hj⟩ hr
    refine ⟨t, ht, hg.regFrame hi.team? hp, fun th hth hn => ?_⟩
    rw [hg.reg]
    exact hp.value hth (hi.passing_lt th hth) hn
  case taken =>
    rintro s x f hi ⟨⟨hd, hne, hj⟩, hr, hread, hc, -⟩
    obtain ⟨t, tm', ht, hg, hp⟩ := launch_taken ⟨hi, hd, hne, hj⟩ rfl rfl rfl hr hread hc
    refine ⟨t, ht, fun th hth hn => ?_, ?_, fun c => ?_⟩
    · rw [hg.reg]
      exact hp.value hth (hi.passing_lt th hth) hn
    · obtain ⟨w, rfl, -⟩ := hg
      exact State.setIntake_intake
    · obtain ⟨w, rfl, -⟩ := hg
      rfl

end Sys2Proof.Machine
end

section
/-! SUPPORT. The registers of a queue (R90), and what a record that is parked (R411) and a read of a context that is not counted (R474) leave behind. -/

namespace Sys2Proof.Machine

set_option Elab.async false

variable {s u : State} {fn c ck q o o' k : Nat} {v w : Word} {r : Rec}

/-! ### Keys and fields -/

theorem kQueue_inj : kQueue ck q o = kQueue ck q o' ↔ o = o' := by
  unfold kQueue key0
  omega

theorem kQueue_ne_kErrCnt (hq : q < 64) (ho : o < 64) (hk : k < 16) : kQueue ck q o ≠ kErrCnt k := by
  unfold kQueue kErrCnt kEr key0 key4 ctxLoc
  omega

theorem captureControl_ne_kQueue (hq : q < 64) (ho : o < 64) : key0 0 0x170040 ≠ kQueue ck q o := by
  unfold kQueue key0 ctxLoc
  omega

/-- The writable bits of QB_CTL and its value after reset (R90). -/
theorem attr0_queueControl {off : Nat} (hi : off < 0x100000) (hm : off % 64 = 0x08) : attr0 fn off = { rw := 0xFF, rst := 4 } := by
  simp [attr0, hi, hm]

theorem kQueue_control_attr (hq : q < 64) : regAttr (kQueue ck q 8) = { rw := 0xFF, rst := 4 } := by
  have hlt : ctxLoc ck * 4096 + 64 * q + 8 < 0x100000 := by
    unfold ctxLoc
    omega
  rw [kQueue, regAttr_key0 (by omega), attr0_queueControl hlt (by omega)]

theorem bits_self {i : Nat} : bits w i i = (w.getLsbD i).toNat := by
  rw [bits, Nat.add_sub_cancel_left, BitVec.getLsbD, Nat.toNat_testBit, pow_one]

/-! ### Writes of registers -/

theorem State.rset_sets : s.Sets (s.rset k v) [(k, v)] := by
  refine ⟨⟨_, rfl⟩, fun p hp => ?_, fun j hj => ?_⟩
  · obtain rfl := List.mem_singleton.1 hp
    rw [State.rset_rget, if_pos rfl]
  · rw [State.rset_rget, if_neg (hj _ List.mem_cons_self).symm]

theorem State.rwrite_sets : s.Sets (s.rwrite k v) [(k, (s.rwrite k v).rget k)] := by
  unfold State.rwrite
  rw [State.rset_rget, if_pos rfl]
  exact State.rset_sets

/-- What a write of QB_CTL leaves in it: the writable bits <7:0> are the new word's. -/
theorem State.rwrite_queueControl (hq : q < 64) :
    (s.rwrite (kQueue ck q 8) w).rget (kQueue ck q 8) = (s.rget (kQueue ck q 8) &&& ~~~0xFF) ||| (w &&& 0xFF) := by
  have hclear : ~~~(w &&& (0 : Word)) = BitVec.allOnes 32 := by simp
  simp only [State.rwrite, kQueue_control_attr hq, State.rset_rget, if_true, hclear, BitVec.and_allOnes]

/-! ### A record that is parked -/

theorem State.enterRecords_of_disabled {n : Nat} (h : s.rbits (kFb ck 0) 0 0 = 0) : s.enterRecords ck n = s := by
  have he : s.enterRecord ck = (s, false) := by
    unfold State.enterRecord
    split
    · rfl
    · rw [h, if_neg fun hc => absurd hc.1 (by decide)]
  cases n with
  | zero => rfl
  | succ n => rw [State.enterRecords, he]

theorem State.countError_sets (h : s.rbits (kEr 0x0C) 15 0 = 0) : ∃ n, s.Sets (s.countError k) [(kErrCnt k, n)] := by
  have hk : kEr 0x0C ≠ kErrCnt k := by
    unfold kErrCnt kEr key4
    omega
  by_cases hm : s.rget (kErrCnt k) = 0xFFFFFFFF
  · have hv : s.rbits (kErrCnt k) 31 0 = 0xFFFFFFFF := by rw [State.rbits, hm]; rfl
    have he : s.countError k = s := by
      unfold State.countError
      exact if_pos hv
    rw [he]
    refine ⟨s.rget (kErrCnt k), ⟨_, rfl⟩, fun p hp => ?_, fun _ _ => rfl⟩
    rw [List.mem_singleton.1 hp]
  · rw [State.countError_counts h hk hm]
    exact ⟨_, State.rset_sets⟩

theorem Rec.words_code {gen : Nat} (h : r.code < 2 ^ 16) : bits (wd (r.words gen) 0) 15 0 = r.code := by
  show (BitVec.ofNat 32 (gen % 256 * 2 ^ 24 + r.cls * 2 ^ 22 + r.src * 2 ^ 16 + r.code)).toNat / 2 ^ 0 % 2 ^ 16 = r.code
  rw [BitVec.toNat_ofNat]
  omega

/-- Of context `ck` the words `ws` are parked, and nothing else happens but that error counter 9 changes (R411, R418). -/
def State.Parked (s : State) (ck : Nat) (ws : List Word) (t : State) : Prop :=
  ∃ u n, s.Sets u [(kErrCnt 9, n)] ∧ t = u.modCtx ck fun x => { x with parked := x.parked ++ [ws] }

theorem State.Parked.rget {t : State} {ws : List Word} (h : s.Parked ck ws t) (hk : kErrCnt 9 ≠ k) : t.rget k = s.rget k := by
  obtain ⟨u, n, ⟨-, -, hkeep⟩, rfl⟩ := h
  refine hkeep k fun p hp => ?_
  rwa [List.mem_singleton.1 hp]

theorem State.Parked.ctx {t : State} {ws : List Word} (h : s.Parked ck ws t) :
    t.ctx ck = { s.ctx ck with parked := (s.ctx ck).parked ++ [ws] } := by
  obtain ⟨u, n, ⟨⟨l, rfl⟩, -⟩, rfl⟩ := h
  rw [State.modCtx, State.setCtx_ctx, if_pos rfl]
  rfl

theorem State.Parked.parked {t : State} {ws : List Word} (h : s.Parked ck ws t) : (t.ctx ck).parked = (s.ctx ck).parked ++ [ws] := by
  rw [h.ctx]

theorem State.Parked.intake {t : State} {ws : List Word} (h : s.Parked ck ws t) : (t.ctx ck).intake q = (s.ctx ck).intake q := by
  rw [h.ctx]
  rfl

/-- With its buffer disabled, a context's record of a contained error is parked. -/
theorem State.report_parks (h : s.Parking ck) (hr : r.cls = 2) (hcode : r.code < 2 ^ 16) :
    ∃ ws, s.Parked ck ws (s.report ck r) ∧ bits (wd ws 0) 15 0 = r.code ∧ wd ws 7 = nw r.info := by
  obtain ⟨hfb, -, hz, hp⟩ := h
  obtain ⟨n, hs⟩ := State.countError_sets (k := 9) hz
  refine ⟨_, ⟨_, n, hs, ?_⟩, Rec.words_code (gen := s.gen ck) hcode, rfl⟩
  obtain ⟨⟨l, hl⟩, -, hkeep⟩ := hs
  have hread : ∀ o < 64, (s.countError 9).rget (kFb ck o) = s.rget (kFb ck o) := fun o ho => hkeep _ fun p hp => by
    rw [List.mem_singleton.1 hp]
    unfold kErrCnt kEr kFb key4 ctxLoc
    omega
  have hgen : (s.countError 9).gen ck = s.gen ck := congrArg (bits · 7 0) (hread 0x14 (by decide))
  have hpark : ((s.countError 9).ctx ck).parked.length < 16 := by
    rw [hl]
    exact hp
  have hdis : (s.countError 9).rbits (kFb ck 0) 0 0 = 0 := (congrArg (bits · 0 0) (hread 0 (by decide))).trans hfb
  unfold State.report
  rw [if_pos hr]
  dsimp only
  rw [if_pos hpark, hgen]
  exact State.enterRecords_of_disabled hdis

/-! ### Contexts that are not counted -/

theorem State.countAcquire_uncounted (h : s.counted ck = false) : s.countAcquire ck = some s := by
  simp [State.countAcquire, h]

theorem State.countReads_uncounted (h : s.counted ck = false) : ∀ n, s.countReads ck n = some s
  | 0 => rfl
  | n + 1 => by rw [State.countReads, State.countAcquire_uncounted h, Option.bind_some, State.countReads_uncounted h n]

theorem State.capture_uncounted {kind addr len idx acq : Nat} {bs : List Byte} (h : s.counted ck = false) :
    s.capture kind ck addr len idx acq bs = s := by
  refine if_neg fun ⟨h31, hfn, hloc⟩ => ?_
  have hne : bits (s.rget (key0 0 0x170040)) 31 30 ≠ 0 := by
    simp only [bits] at h31 ⊢
    omega
  simp [State.counted, hfn, hloc, hne] at h

theorem State.counted_congr (h : u.rget (key0 0 0x170040) = s.rget (key0 0 0x170040)) : u.counted ck = s.counted ck := by
  rw [State.counted, State.counted, h]

end Sys2Proof.Machine
end

section
/-! SUPPORT. Queue registers, doorbells, card intake and dependence waits (R88, R90 to R94, R413). Settles O49. -/

namespace Sys2Proof.Machine

set_option Elab.async false

variable {s : State} {fn c ck q : Nat} {v : Word} {bs : List Byte} {x : CardIn} {rest : List CardIn} {val : Nat → Nat}

/-! ### QB_CTL, the doorbell and STOP -/

/-- LOGSZ after a write of QB_CTL (R90). -/
def State.logszAfter (s : State) (ck q : Nat) (v : Word) : Nat :=
  if s.rbits (kQueue ck q 8) 7 7 = 0 ∧ 4 ≤ bits v 4 0 ∧ bits v 4 0 ≤ 16 then bits v 4 0 else s.logsz ck q

theorem bits_lt {w : Word} {hi lo : Nat} : bits w hi lo < 2 ^ (hi + 1 - lo) := Nat.mod_lt _ (Nat.two_pow_pos _)

theorem State.logszAfter_lt : s.logszAfter ck q v < 32 := by
  unfold State.logszAfter
  split <;> exact bits_lt

theorem exec_queueControlWrite : exec (.queueControlWrite fn c q v) s = execQueueControlWrite fn c q v s := rfl

theorem queueControlWrite_eq : exec (.queueControlWrite fn c q v) s
    = .next (s.rwrite (kQueue (ctxKey fn c) q 8) (nw (bits v 7 5 * 32 + s.logszAfter (ctxKey fn c) q v))) := by
  have hen : s.rbits (kQueue (ctxKey fn c) q 8) 7 7 < 2 := bits_lt
  rw [exec_queueControlWrite, execQueueControlWrite]
  unfold State.logszAfter
  by_cases hset : s.rbits (kQueue (ctxKey fn c) q 8) 7 7 = 0 ∧ 4 ≤ bits v 4 0 ∧ bits v 4 0 ≤ 16
  · rw [if_pos hset, if_neg (by omega)]
  · rw [if_neg hset, if_pos (by omega)]
    rfl

/-- A word of QB_CTL by its fields: EN and PRICAP, and LOGSZ. -/
theorem bits_control {n : Nat} (h : n < 32) : bits (nw (bits v 7 5 * 32 + n)) 7 5 = bits v 7 5 ∧ bits (nw (bits v 7 5 * 32 + n)) 4 0 = n := by
  have hv : bits v 7 5 < 2 ^ 3 := bits_lt
  generalize bits v 7 5 = a at hv
  simp only [bits, nw, BitVec.toNat_ofNat]
  omega

theorem State.rwrite_queueControl_fields (hq : q < 64) {n : Nat} (h : n < 32) :
    (s.rwrite (kQueue ck q 8) (nw (bits v 7 5 * 32 + n))).rbits (kQueue ck q 8) 7 5 = bits v 7 5
      ∧ (s.rwrite (kQueue ck q 8) (nw (bits v 7 5 * 32 + n))).rbits (kQueue ck q 8) 4 0 = n := by
  obtain ⟨hhi, hlo⟩ := bits_control (v := v) h
  rw [State.rbits, State.rbits, State.rwrite_queueControl hq, bits_masked (by decide), bits_masked (by decide)]
  exact ⟨hhi, hlo⟩

theorem doorbell_legal (h : (v - s.rget (kQueue (ctxKey fn c) q 0x10)).toNat ≤ 2 ^ s.logsz (ctxKey fn c) q)
    (h' : (v - s.rget (kQueue (ctxKey fn c) q 0x0C)).toNat ≤ 2 ^ s.logsz (ctxKey fn c) q) :
    exec (.doorbell fn c q v) s = .next (s.rset (kQueue (ctxKey fn c) q 0x0C) v) :=
  congrArg Host.Outcome.next (if_neg (by omega))

/-- A TAIL that breaks R91 leaves its record, and the queue stopped (R413). -/
theorem doorbell_stops (hp : s.Parking (ctxKey fn c)) (h : 2 ^ s.logsz (ctxKey fn c) q < (v - s.rget (kQueue (ctxKey fn c) q 0x10)).toNat) :
    ∃ u ws, s.Parked (ctxKey fn c) ws u ∧ bits (wd ws 0) 15 0 = 0x3002 ∧ wd ws 7 = v
      ∧ exec (.doorbell fn c q v) s = .next (u.stopQueue (ctxKey fn c) q) := by
  obtain ⟨ws, hpark, hcode, hinfo⟩ := State.report_parks (r := { code := 0x3002, src := 8, team := q, info := v.toNat }) hp rfl (by simp)
  exact ⟨_, ws, hpark, hcode, hinfo.trans (BitVec.ofNat_toNat ..), congrArg Host.Outcome.next (if_pos (.inl h))⟩

theorem exec_stopClear : exec (.stopClear fn c q) s = execStopClear fn c q s := rfl

theorem State.stopQueue_rget {k : Nat} : (s.stopQueue ck q).rget k = if k = kQueue ck q 0x14 then 1 else s.rget k := State.rset_rget ..

theorem State.stopQueue_msix : (s.stopQueue ck q).msix = (ctxFn ck, 50) :: s.msix := rfl

theorem stopClear_runs (h : q ∉ (s.ctx (ctxKey fn c)).frozenQueues) :
    exec (.stopClear fn c q) s = .next (s.rset (kQueue (ctxKey fn c) q 0x14) 0) := by
  have hc : (s.ctx (ctxKey fn c)).frozenQueues.contains q ≠ true := by simpa using h
  exact exec_stopClear.trans (congrArg Host.Outcome.next (if_neg hc))

theorem stopClear_frozen (h : q ∈ (s.ctx (ctxKey fn c)).frozenQueues) :
    exec (.stopClear fn c q) s = .next ((s.rset (kQueue (ctxKey fn c) q 0x14) 0).modCtx (ctxKey fn c)
      fun x => { x with frozenQueues := x.frozenQueues.filter fun y => y != q }) := by
  have hc : (s.ctx (ctxKey fn c)).frozenQueues.contains q = true := by simpa using h
  exact exec_stopClear.trans (congrArg Host.Outcome.next (if_pos hc))

/-! ### Intake (R91, R413) -/

/-- Where in its ring the card at HEAD stands (R91). -/
def State.ringSlot (s : State) (ck q : Nat) : Nat :=
  s.rbits (kQueue ck q 0) 31 7 * 128 + 2 ^ 32 * s.rbits (kQueue ck q 4) 19 0 + 128 * ((s.rget (kQueue ck q 0x10)).toNat % 2 ^ s.logsz ck q)

/-- A queue takes in the card at HEAD, whose bytes are `bs`. -/
def State.TakesCard (s : State) (ck q : Nat) (bs : List Byte) : Prop :=
  s.intakeHeld ck q = false ∧ (s.rget (kQueue ck q 8)).getLsbD 7 = true ∧ (s.rget (kQueue ck q 0x14)).getLsbD 0 = false
    ∧ s.rget (kQueue ck q 0x0C) ≠ s.rget (kQueue ck q 0x10) ∧ ((s.ctx ck).intake q).length < 16 ∧ s.counted ck = false
    ∧ s.virtRead ck kEngR true (s.ringSlot ck q) 128 = (s, .ok bs)

theorem State.intakePush_of_illegal {ci : CardIn} {i : Nat} (h : s.cardCheck ck ci.words ci.launch false = some i) :
    s.intakePush ck q ci = s.report ck { code := 0x3001, src := 8, team := q, addr := ci.addr, info := i } := by
  unfold State.intakePush
  rw [h]

theorem exec_cardIntake : exec (.cardIntake fn c q) s = execCardIntake fn c q s := rfl

theorem cardIntake_eq (hq : q < 64) (h : s.TakesCard (ctxKey fn c) q bs) :
    exec (.cardIntake fn c q) s = .next (((s.intakePush (ctxKey fn c) q
        { words := bytesWords bs, addr := s.ringSlot (ctxKey fn c) q, launch := false }).rset (kQueue (ctxKey fn c) q 0x10)
          (s.rget (kQueue (ctxKey fn c) q 0x10) + 1)).capture 1 (ctxKey fn c) (s.ringSlot (ctxKey fn c) q) 128 q s.acqn bs) := by
  obtain ⟨hheld, hen, hstop, htail, hlen, hcount, hread⟩ := h
  have hen' : s.rbits (kQueue (ctxKey fn c) q 8) 7 7 = 1 := by rw [State.rbits, bits_self, hen]; rfl
  have hstop' : s.rbits (kQueue (ctxKey fn c) q 0x14) 0 0 = 0 := by rw [State.rbits, bits_self, hstop]; rfl
  have hopen : ¬ (s.rbits (kQueue (ctxKey fn c) q 8) 7 7 = 0 ∨ s.rbits (kQueue (ctxKey fn c) q 0x14) 0 0 = 1
      ∨ s.rget (kQueue (ctxKey fn c) q 0x0C) = s.rget (kQueue (ctxKey fn c) q 0x10) ∨ 16 ≤ ((s.ctx (ctxKey fn c)).intake q).length) := by
    rw [hen', hstop']
    simp [htail, hlen]
  unfold State.ringSlot at hread ⊢
  rw [exec_cardIntake, execCardIntake]
  dsimp only
  rw [hheld, if_neg Bool.false_ne_true, if_neg (by omega), if_neg hopen, State.countAcquire_uncounted hcount]
  dsimp only
  rw [hread]

/-- As HEAD advances over a card, a context that is not captured writes no capture record. -/
theorem State.advanceHead {u : State} {addr acq : Nat} (hq : q < 64) (h : u.rget (key0 0 0x170040) = s.rget (key0 0 0x170040))
    (hc : s.counted ck = false) : (u.rset (kQueue ck q 0x10) v).capture 1 ck addr 128 q acq bs = u.rset (kQueue ck q 0x10) v := by
  refine State.capture_uncounted ((State.counted_congr ?_).trans hc)
  rw [State.rset_rget, if_neg (captureControl_ne_kQueue hq (by decide)), h]

theorem cardIntake_takes (hq : q < 64) (h : s.TakesCard (ctxKey fn c) q bs) (hc : s.cardCheck (ctxKey fn c) (bytesWords bs) false false = none) :
    exec (.cardIntake fn c q) s = .next ((s.setIntake (ctxKey fn c) q ((s.ctx (ctxKey fn c)).intake q
        ++ [{ words := bytesWords bs, addr := s.ringSlot (ctxKey fn c) q, launch := false }])).rset (kQueue (ctxKey fn c) q 0x10)
          (s.rget (kQueue (ctxKey fn c) q 0x10) + 1)) := by
  obtain ⟨-, -, -, -, -, hcount, -⟩ := id h
  have hpush := State.intakePush_of_legal (q := q) (ci := { words := bytesWords bs, addr := s.ringSlot (ctxKey fn c) q, launch := false }) hc
  rw [cardIntake_eq hq h, hpush, State.advanceHead hq ?_ hcount]
  rfl

/-- An illegal card is rejected with the record of its first failed condition (R88, R413). -/
theorem cardIntake_rejects {i : Nat} (hq : q < 64) (h : s.TakesCard (ctxKey fn c) q bs)
    (hc : s.cardCheck (ctxKey fn c) (bytesWords bs) false false = some i) (hp : s.Parking (ctxKey fn c)) :
    ∃ u ws, s.Parked (ctxKey fn c) ws u ∧ bits (wd ws 0) 15 0 = 0x3001 ∧ wd ws 7 = nw i
      ∧ exec (.cardIntake fn c q) s = .next (u.rset (kQueue (ctxKey fn c) q 0x10) (s.rget (kQueue (ctxKey fn c) q 0x10) + 1)) := by
  obtain ⟨-, -, -, -, -, hcount, -⟩ := id h
  obtain ⟨ws, hpark, hcode, hinfo⟩ :=
    State.report_parks (r := { code := 0x3001, src := 8, team := q, addr := s.ringSlot (ctxKey fn c) q, info := i }) hp rfl (by simp)
  refine ⟨_, ws, hpark, hcode, hinfo, ?_⟩
  have hpush := State.intakePush_of_illegal (q := q) (ci := { words := bytesWords bs, addr := s.ringSlot (ctxKey fn c) q, launch := false }) hc
  rw [cardIntake_eq hq h, hpush, State.advanceHead hq (hpark.rget (by decide)) hcount]

/-! ### Dependence waits (R93, R94) -/

/-- The valid waits of a card that have not been met and that no memory fault holds. -/
def CardIn.unmet (x : CardIn) : List Nat := [0, 1, 2, 3].filter fun i => Card.wv x.words i && !x.met.contains i && !x.stuck.contains i

/-- A card whose unmet waits have been read, where the counter of wait i holds `val i`. -/
def CardIn.examined (x : CardIn) (val : Nat → Nat) : CardIn :=
  { x with met := x.met ++ x.unmet.filter fun i => decide (Card.wval x.words i ≤ val i) }

/-- Whether each valid wait of a card has been met. -/
def CardIn.allMet (x : CardIn) : Bool := [0, 1, 2, 3].all fun i => !Card.wv x.words i || x.met.contains i

theorem mem_four {i : Nat} : i ∈ [0, 1, 2, 3] ↔ i < 4 := by
  simp only [List.mem_cons, List.not_mem_nil, or_false]
  omega

theorem CardIn.mem_unmet (h : x.stuck = []) {i : Nat} : i ∈ x.unmet ↔ i < 4 ∧ Card.wv x.words i = true ∧ i ∉ x.met := by
  rw [CardIn.unmet, List.mem_filter, mem_four, h]
  simp

theorem CardIn.mem_examined (h : x.stuck = []) {i : Nat} :
    i ∈ (x.examined val).met ↔ i ∈ x.met ∨ (i < 4 ∧ Card.wv x.words i = true ∧ i ∉ x.met) ∧ Card.wval x.words i ≤ val i := by
  rw [CardIn.examined, List.mem_append, List.mem_filter, CardIn.mem_unmet h, decide_eq_true_eq]

theorem CardIn.allMet_iff : x.allMet = true ↔ ∀ i, i < 4 → Card.wv x.words i = true → i ∈ x.met := by
  simp only [CardIn.allMet, List.all_eq_true, mem_four, Bool.or_eq_true, Bool.not_eq_true', List.contains_iff_mem, Bool.eq_false_iff, ne_eq, ← imp_iff_not_or]

/-- Reads that all succeed name the waits whose counters have reached their values. -/
theorem State.readWaits_eq {priv : Bool} {w : Card} {l : List Nat}
    (h : ∀ i ∈ l, ∃ d, s.virtRead ck kEngR priv (w.waddr i) 8 = (s, .ok d) ∧ leNat d = val i) :
    s.readWaits ck priv w l = (s, l.filter fun i => decide (w.wval i ≤ val i), []) := by
  induction l with
  | nil => rfl
  | cons i l ih =>
    obtain ⟨d, hd, hv⟩ := h i List.mem_cons_self
    rw [State.readWaits, hd]
    dsimp only
    rw [ih fun j hj => h j (List.mem_cons_of_mem _ hj), hv, List.filter_cons]
    simp only [decide_eq_true_eq]

/-- The card `x` stands at the front of its intake, and every wait it has still to meet can be read: the counter of wait i holds `val i`. -/
def State.Front (s : State) (ck q : Nat) (x : CardIn) (rest : List CardIn) (val : Nat → Nat) : Prop :=
  s.intakeHeld ck q = false ∧ (s.ctx ck).intake q = x :: rest ∧ x.words ≠ [] ∧ x.held = false ∧ x.stuck = [] ∧ s.counted ck = false
    ∧ ∀ i, i < 4 → Card.wv x.words i = true → i ∉ x.met →
      ∃ d, s.virtRead ck kEngR x.event.isSome (Card.waddr x.words i) 8 = (s, .ok d) ∧ leNat d = val i

theorem exec_dependenceCounterRead : exec (.dependenceCounterRead fn c q) s = execDependenceCounterRead fn c q s := rfl

theorem dependenceCounterRead_eq (h : s.Front (ctxKey fn c) q x rest val) :
    exec (.dependenceCounterRead fn c q) s = .next
      (if (x.examined val).allMet then s.eligible (ctxKey fn c) q (x.examined val) else s.setCard (ctxKey fn c) q 0 (x.examined val)) := by
  obtain ⟨hheld, hin, hne, -, hstuck, hcount, hread⟩ := h
  have hreads : s.readWaits (ctxKey fn c) x.event.isSome x.words x.unmet = _ := State.readWaits_eq fun i hi => by
    obtain ⟨hlt, hv, hm⟩ := (CardIn.mem_unmet hstuck).1 hi
    exact hread i hlt hv hm
  have hx : { x with met := x.met ++ x.unmet.filter fun i => decide (Card.wval x.words i ≤ val i), stuck := x.stuck ++ [] } = x.examined val := by
    rw [List.append_nil]
    rfl
  rw [exec_dependenceCounterRead, execDependenceCounterRead]
  dsimp only
  rw [hheld, if_neg Bool.false_ne_true, hin]
  dsimp only
  rw [if_neg hne, State.countReads_uncounted hcount]
  dsimp only
  unfold CardIn.unmet at hreads
  rw [hreads, ← hx]
  rfl

/-- Where each counter has reached its value, every wait is met. -/
theorem State.Front.allMet (h : s.Front ck q x rest val)
    (hval : ∀ i, i < 4 → Card.wv x.words i = true → i ∉ x.met → Card.wval x.words i ≤ val i) : (x.examined val).allMet = true := by
  obtain ⟨-, -, -, -, hstuck, -⟩ := h
  refine CardIn.allMet_iff.2 fun i hi hv => (CardIn.mem_examined hstuck).2 ?_
  by_cases hm : i ∈ x.met
  · exact .inl hm
  · exact .inr ⟨⟨hi, hv, hm⟩, hval i hi hv hm⟩

/-- A wait whose counter has not reached its value stays unmet. -/
theorem State.Front.unmet {i : Nat} (h : s.Front ck q x rest val) (hm : i ∉ x.met) (hlt : val i < Card.wval x.words i) :
    i ∉ (x.examined val).met := by
  obtain ⟨-, -, -, -, hstuck, -⟩ := h
  rw [CardIn.mem_examined hstuck]
  exact fun hc => hc.elim hm fun ⟨_, hle⟩ => by omega

theorem State.setCard_front (h : (s.ctx ck).intake q = x :: rest) {y : CardIn} : ((s.setCard ck q 0 y).ctx ck).intake q = y :: rest := by
  rw [State.setCard, h, State.setIntake_intake, List.set_cons_zero]

theorem State.popCard_front (h : (s.ctx ck).intake q = x :: rest) : ((s.popCard ck q).ctx ck).intake q = rest := by
  rw [State.popCard, h, State.setIntake_intake, List.drop_one, List.tail_cons]

/-! ### A card that becomes eligible (R93) -/

theorem State.completeGrids_of_none_done {n : Nat} (h : ∀ p ∈ s.grids, s.gridDone p.2 = false) : s.completeGrids n = s := by
  cases n with
  | zero => rfl
  | succ n =>
    have hf : (s.grids.find? fun p => s.gridDone p.2) = none := List.find?_eq_none.2 fun p hp => by simp [h p hp]
    rw [State.completeGrids, hf]

/-- A new grid that is not complete completes no other. -/
theorem State.gridDone_sins {u : State} {id : Nat} {g p : Grid} (hu : u.grids = sins s.grids id g) (hg : g.complete = false)
    (hp : s.gridDone p = false) : u.gridDone p = false := by
  unfold State.gridDone at hp ⊢
  rw [hu]
  cases hpred : p.pred with
  | none =>
    rw [hpred] at hp
    exact hp
  | some j =>
    rw [hpred] at hp
    dsimp only at hp ⊢
    rw [sfind_sins]
    by_cases hj : j = id
    · rw [if_pos hj]
      simp [hg]
    · rw [if_neg hj]
      exact hp

theorem State.eligible_eq (ht : 0 < Card.total x.words) (hd : ∀ p ∈ s.grids, s.gridDone p.2 = false) :
    ∃ g, s.eligible ck q x = { s.popCard ck q with grids := sins s.grids s.gridNext g, gridNext := s.gridNext + 1 }
      ∧ g.ctx = ck ∧ g.card = x.words ∧ g.age = s.dt ∧ g.placed = 0 ∧ g.complete = false := by
  refine ⟨_, State.completeGrids_of_none_done fun p hp => ?_, rfl, rfl, rfl, rfl, rfl⟩
  rcases mem_sins hp with rfl | hp
  · have : (0 == Card.total x.words) = false := by simpa using ht.ne
    simp [State.gridDone, this]
  · exact State.gridDone_sins rfl rfl (hd p hp)

/-! ### The obligation -/

/-- Settles O49: each event's next state is written out by an equation of its own, and what it leaves behind is read off. -/
theorem queuesTakeCards : Obligations.QueuesTakeCards := by
  unfold Obligations.QueuesTakeCards
  intro fn c q v bs hc hq
  refine ⟨?control, ?legal, ?illegal, ?runs, ?frozen, ?takes, fun i => ?rejects, fun x rest val => ⟨?eligible, fun i hi hv hm hlt => ?waits⟩⟩
  case control =>
    rintro s -
    obtain ⟨hhi, hlo⟩ := State.rwrite_queueControl_fields (s := s) (ck := ctxKey fn c) (v := v) hq
      (State.logszAfter_lt (s := s) (ck := ctxKey fn c) (q := q) (v := v))
    exact ⟨_, queueControlWrite_eq, _, State.rwrite_sets, hhi, hlo⟩
  case legal =>
    rintro s ⟨h, h'⟩
    exact ⟨_, doorbell_legal h h', State.rset_sets⟩
  case illegal =>
    rintro s ⟨hp, h⟩
    obtain ⟨u, ws, hpark, hcode, hinfo, ht⟩ := doorbell_stops hp h
    refine ⟨_, ht, ?_, ?_, ?_, ws, ?_, hcode, hinfo⟩
    · have hne : kQueue (ctxKey fn c) q 0x0C ≠ kQueue (ctxKey fn c) q 0x14 := fun e => absurd (kQueue_inj.1 e) (by decide)
      exact State.stopQueue_rget.trans ((if_neg hne).trans (hpark.rget (kQueue_ne_kErrCnt hq (by decide) (by decide)).symm))
    · exact State.stopQueue_rget.trans (if_pos rfl)
    · rw [State.stopQueue_msix, ctxFn_ctxKey hc]
      exact List.mem_cons_self
    · exact hpark.parked
  case runs => exact fun s h => ⟨_, stopClear_runs h, State.rset_sets⟩
  case frozen =>
    intro s h
    refine ⟨_, stopClear_frozen h, ?_, ?_, rfl⟩
    · exact (State.rset_rget ..).trans (if_pos rfl)
    · rw [State.modCtx, State.setCtx_ctx, if_pos rfl]
      simp
  case takes =>
    rintro s ⟨h, hck⟩
    refine ⟨_, cardIntake_takes hq h hck, State.setIntake_intake, ?_, rfl, rfl, rfl, rfl, rfl⟩
    exact (State.rset_rget ..).trans (if_pos rfl)
  case rejects =>
    rintro s ⟨h, hck, hp⟩
    obtain ⟨u, ws, hpark, hcode, hinfo, ht⟩ := cardIntake_rejects hq h hck hp
    refine ⟨_, ht, ?_, ?_, ws, ?_, hcode, hinfo⟩
    · exact hpark.intake
    · exact (State.rset_rget ..).trans (if_pos rfl)
    · exact hpark.parked
  case eligible =>
    rintro s ⟨h, hval, htot, hd⟩
    have hfront : s.Front (ctxKey fn c) q x rest val := h
    have hall := hfront.allMet hval
    obtain ⟨g, he, hg⟩ := State.eligible_eq (ck := ctxKey fn c) (q := q) (x := x.examined val) htot hd
    obtain ⟨-, hin, -⟩ := h
    refine ⟨_, (dependenceCounterRead_eq hfront).trans (congrArg Host.Outcome.next (if_pos hall)), ?_⟩
    rw [he]
    exact ⟨State.popCard_front hin, rfl, g, (sfind_sins ..).trans (if_pos rfl), hg⟩
  case waits =>
    intro s h
    have hfront : s.Front (ctxKey fn c) q x rest val := h
    have hnot := hfront.unmet hm hlt
    refine ⟨_, (dependenceCounterRead_eq hfront).trans (congrArg Host.Outcome.next (if_neg ?_)), rfl, x.examined val, ?_, rfl, hnot, ?_⟩
    · exact fun hall => hnot (CardIn.allMet_iff.1 hall i hi hv)
    · obtain ⟨-, hin, -⟩ := h
      exact State.setCard_front hin
    · exact fun j hj => List.mem_append_left _ hj

end Sys2Proof.Machine
end

section
/-! SUPPORT. What traffic changes: writes that arrive at homes, write-backs, translations, reads of the base die, and the writes of the S4's own (R155, R182,
R411, R415). `s₀.Traffic s` goes along with a state through the model's functions, in the model's order. While no waiting write is due at its home, none of
them changes memory. -/

namespace Sys2Proof.Machine

set_option Elab.async false

variable {s₀ s t : State} {α : Type}

/-- `s` differs from `s₀` in what traffic changes alone: in memory and the homes, the column caches and the teams, the translations, the page requests, the
writes of the S4's own and what leaves the device. -/
def State.Beside (s₀ s : State) : Prop :=
  { s with mem := s₀.mem, win := s₀.win, poison := s₀.poison, dir := s₀.dir, cols := s₀.cols, teams := s₀.teams, outbox := s₀.outbox, puts := s₀.puts,
           idNext := s₀.idNext, candidates := s₀.candidates, engTlb := s₀.engTlb, atsAsked := s₀.atsAsked, pageReqs := s₀.pageReqs } = s₀

/-- No write that waits at its home has reached its completion time (R182). -/
def State.NoneDue (s : State) : Prop := ∀ line, ∀ w ∈ (s.home line).waiting, s.dt < w.t

/-- `s` is `s₀` after some traffic, which changes no byte at a home while no waiting write is due. -/
def State.Traffic (s₀ s : State) : Prop := s₀.Beside s ∧ (s₀.NoneDue → s.mem = s₀.mem ∧ s.win = s₀.win ∧ s.NoneDue)

theorem State.Traffic.refl : s.Traffic s := ⟨rfl, fun h => ⟨rfl, rfl, h⟩⟩

theorem State.Traffic.of_eq {p : State × α} {a : α} (h : s₀.Traffic p.1) (e : p = (t, a)) : s₀.Traffic t := by
  rw [e] at h
  exact h

theorem traffic_ite {c : Prop} [Decidable c] (hs : s₀.Traffic s) (ht : s₀.Traffic t) : s₀.Traffic (if c then s else t) := by
  split <;> assumption

theorem traffic_ite_fst {c : Prop} [Decidable c] {p q : State × α} (hp : s₀.Traffic p.1) (hq : s₀.Traffic q.1) : s₀.Traffic (if c then p else q).1 := by
  split <;> assumption

theorem State.Traffic.foldl {f : State → α → State} {l : List α} (h : s₀.Traffic s) (hf : ∀ t a, s₀.Traffic t → s₀.Traffic (f t a)) :
    s₀.Traffic (l.foldl f s) :=
  List.foldlRecOn l f h fun _ ht a _ => hf _ a ht

/-! ### Writes at their homes -/

theorem beside_ite {c : Prop} [Decidable c] (hs : s₀.Beside s) (ht : s₀.Beside t) : s₀.Beside (if c then s else t) := by
  split <;> assumption

theorem State.Beside.putLine {line : Nat} {l} (h : s₀.Beside s) : s₀.Beside (s.putLine line l) := by
  induction l generalizing s with
  | nil => exact h
  | cons p l ih =>
    refine ih ?_
    unfold State.putByte
    split <;> exact h

theorem State.Beside.keepLine {line c t} (h : s₀.Beside s) : s₀.Beside (s.keepLine line c t) := by
  have hgrant : s₀.Beside (s.grantNow line).1 := by
    unfold State.grantNow
    extract_lets
    split <;> exact h
  unfold State.keepLine
  split
  · split <;> (rw [‹s.grantNow line = _›] at hgrant; exact hgrant)
  · exact h

theorem State.Beside.applyWrite {line w} (h : s₀.Beside s) : s₀.Beside (s.applyWrite line w) := by
  unfold State.applyWrite
  extract_lets ack
  have hack : ∀ t a a', s₀.Beside t → s₀.Beside (ack t a a') := by
    intro t a a' ht
    unfold ack
    split <;> (split <;> exact ht)
  split
  · extract_lets s₁ s₂ _ s₃
    have hs₂ : s₀.Beside s₂ := beside_ite h.putLine h.putLine
    have hs₃ : s₀.Beside s₃ := beside_ite hs₂ hs₂
    refine hack _ _ _ ?_
    split
    · exact hs₃.keepLine
    · exact hs₃
  · exact beside_ite (hack _ _ _ h) (hack _ _ _ h.putLine)
  · exact hack _ _ _ h.putLine

theorem State.Beside.applyWrites {line l} (h : s₀.Beside s) : s₀.Beside (s.applyWrites line l) := by
  induction l generalizing s with
  | nil => exact h
  | cons a l ih => exact ih h.applyWrite

theorem State.Beside.applyDue {line} (h : s₀.Beside s) : s₀.Beside (s.applyDue line) := by
  unfold State.applyDue
  extract_lets
  split
  · exact h
  split
  · exact beside_ite h (.applyWrites h)
  split
  · exact h
  · exact .applyWrite h

/-- With no write due, a home applies none. -/
theorem State.NoneDue.applyDue {line} (h : s.NoneDue) : s.applyDue line = s := by
  have hline : ∀ w ∈ (s.home line).waiting, ¬ w.t ≤ s.dt := fun w hw => Nat.not_le.2 (h line w hw)
  unfold State.applyDue
  extract_lets d due
  split
  · rfl
  split
  · have hdue : due = [] := by
      unfold due
      cases hd : d.waiting with
      | nil => rfl
      | cons w l => exact List.takeWhile_cons_of_neg (by simpa using hline w (hd ▸ List.mem_cons_self))
    exact if_pos hdue
  split
  · rfl
  next hw => exact absurd (by simpa using List.find?_some hw) fun e => hline _ (List.mem_of_find?_eq_some hw) (And.right e)

/-- A write that arrives is not due yet: its completion time lies ahead (R182). -/
theorem State.NoneDue.arrives {line : Nat} {d : DirLine} {w : HomeWrite} (h : s.NoneDue) (hd : d.waiting = (s.home line).waiting) (hw : s.dt < w.t) :
    (s.setHome line { d with waiting := d.waiting ++ [w] }).NoneDue := by
  intro j x hx
  rw [State.setHome_home] at hx
  split at hx
  · obtain hx | hx := List.mem_append.1 hx
    · exact h line x (hd ▸ hx)
    · rw [List.mem_singleton.1 hx]
      exact hw
  · exact h j x hx

theorem State.NoneDue.homeArrive {line w} (h : s.NoneDue) :
    (s.homeArrive line w).1 = s.setHome (s.lineOf line) { (s.arrive (s.lineOf line)).2 with
      waiting := (s.home (s.lineOf line)).waiting ++ [{ w with t := max s.dt (s.home (s.lineOf line)).e + 1 }] } := by
  simp only [State.homeArrive, h.applyDue]
  rfl

theorem State.Traffic.homeArrive {line w} (h : s₀.Traffic s) : s₀.Traffic (s.homeArrive line w).1 := by
  obtain ⟨hs, hm⟩ := h
  refine ⟨hs.applyDue, fun hd => ?_⟩
  obtain ⟨hmem, hwin, hdue⟩ := hm hd
  rw [hdue.homeArrive]
  exact ⟨hmem, hwin, hdue.arrives (d := (s.arrive (s.lineOf line)).2) rfl (Nat.lt_succ_of_le (Nat.le_max_left ..))⟩

theorem State.Traffic.modPut {id f} (h : s₀.Traffic s) : s₀.Traffic (s.modPut id f) := h

theorem State.Traffic.modCol {c f} (h : s₀.Traffic s) : s₀.Traffic (s.modCol c f) := h

theorem State.Traffic.setCline {c line l} (h : s₀.Traffic s) : s₀.Traffic (s.setCline c line l) := h.modCol

theorem State.Traffic.dropLine {c line} (h : s₀.Traffic s) : s₀.Traffic (s.dropLine c line) := h.setCline.modCol

theorem State.Traffic.writeBack {c line team keep} (h : s₀.Traffic s) : s₀.Traffic (s.writeBack c line team keep).1 := by
  unfold State.writeBack
  extract_lets _ _ _ leave
  have hleave : ∀ t a, s₀.Traffic t → s₀.Traffic (leave t a) := fun _ _ ht => ht.dropLine.modCol
  split
  · exact traffic_ite h (hleave _ _ h)
  split
  exact traffic_ite_fst (h.homeArrive.of_eq ‹_›).setCline (hleave _ _ (h.homeArrive.of_eq ‹_›))

theorem State.Traffic.recallDirty {line} (h : s₀.Traffic s) : s₀.Traffic (s.recallDirty line) := h.foldl fun _ _ ht => ht.writeBack

/-! ### Translations and reads -/

theorem State.Traffic.askAts {col ck va} (h : s₀.Traffic s) : s₀.Traffic (s.askAts col ck va) := traffic_ite h h

theorem State.Traffic.requestPage {ck va write} (h : s₀.Traffic s) : s₀.Traffic (s.requestPage ck va write) := by
  unfold State.requestPage State.sendPage
  extract_lets
  split
  · exact traffic_ite h h
  · split
    · exact traffic_ite h h
    · exact h

theorem State.Traffic.xlatKeep {col x} (h : s₀.Traffic s) : s₀.Traffic (s.xlatKeep col x) := traffic_ite h (traffic_ite h h)

theorem State.Traffic.xlateLeaf {col x va kind write priv} (h : s₀.Traffic s) : s₀.Traffic (s.xlateLeaf col x va kind write priv).1 := by
  unfold State.xlateLeaf
  split
  · exact traffic_ite_fst h.askAts h.requestPage
  · exact h

theorem State.Traffic.xlate {col ck va kind write priv sys} (h : s₀.Traffic s) : s₀.Traffic (s.xlate col ck va kind write priv sys).1 := by
  unfold State.xlate
  split
  · exact h
  split
  · exact h
  split
  · exact traffic_ite_fst h (traffic_ite_fst h (traffic_ite_fst h h))
  split
  · exact h.xlateLeaf
  split
  · exact h
  · exact (traffic_ite h h.xlatKeep).xlateLeaf

theorem State.Traffic.xlateAgent {col ck va kind write priv sys} (h : s₀.Traffic s) : s₀.Traffic (s.xlateAgent col ck va kind write priv sys).1 := by
  unfold State.xlateAgent
  split
  · exact h.xlate.of_eq ‹_›
  · exact h.xlate

theorem State.Traffic.agentByte {cache own me ck kind priv va} (h : s₀.Traffic s) : s₀.Traffic (s.agentByte cache own me ck kind priv va).1 := by
  unfold State.agentByte
  split
  · exact h
  split
  · exact h.xlateAgent.of_eq ‹_›
  · exact traffic_ite_fst (h.xlateAgent.of_eq ‹_›) (h.xlateAgent.of_eq ‹_›)

theorem State.Traffic.agentBytes {cache own me ck kind priv va n} (h : s₀.Traffic s) : s₀.Traffic (s.agentBytes cache own me ck kind priv va n).1 := by
  induction n generalizing s va with
  | zero => exact h
  | succ n ih =>
    unfold State.agentBytes
    split
    · exact h.agentByte.of_eq ‹_›
    · exact ih (h.agentByte.of_eq ‹_›)

theorem State.Traffic.sendReads {ck} {l : List (Target × α)} (h : s₀.Traffic s) : s₀.Traffic (s.sendReads ck l) := by
  refine h.foldl fun t p ht => ?_
  dsimp only
  split <;> exact ht

theorem State.Traffic.virtRead {ck kind priv va n} (h : s₀.Traffic s) : s₀.Traffic (s.virtRead ck kind priv va n).1 := by
  unfold State.virtRead State.agentRead
  split
  · exact h.agentBytes.of_eq ‹_›
  split
  · exact h.agentBytes.of_eq ‹_›
  · exact (h.agentBytes.of_eq ‹_›).sendReads

/-! ### Writes of the S4's own -/

theorem State.Traffic.writeTargets {ck kind priv va n} (h : s₀.Traffic s) : s₀.Traffic (s.writeTargets ck kind priv va n).1 := by
  induction n generalizing s va with
  | zero => exact h
  | succ n ih =>
    unfold State.writeTargets
    split
    · exact h.xlateAgent.of_eq ‹_›
    refine traffic_ite_fst (h.xlateAgent.of_eq ‹_›) ?_
    split <;> exact (ih (h.xlateAgent.of_eq ‹_›)).of_eq ‹_›

theorem State.Traffic.putPiece {ck id p} (h : s₀.Traffic s) : s₀.Traffic (s.putPiece ck id p) := by
  unfold State.putPiece
  split
  · split
    exact (h.recallDirty.homeArrive.of_eq ‹_›).modPut
  · split
    exact (h.homeArrive.of_eq ‹_›).modPut
  · exact h
  · exact h

theorem State.Traffic.localWrite {ck va} (h : s₀.Traffic s) : s₀.Traffic (s.localWrite ck va) := h

theorem State.Traffic.sendPut {id ck todo} (h : s₀.Traffic s) : s₀.Traffic (s.sendPut id ck todo).1 := by
  unfold State.sendPut
  extract_lets sent
  have hsent : ∀ t, s₀.Traffic t → s₀.Traffic (sent t) := fun _ ht => ht.modPut
  split
  · split
    · exact h.writeTargets.of_eq ‹_›
    · exact ((hsent _ (h.writeTargets.of_eq ‹_›)).foldl fun _ _ ht => ht.putPiece).localWrite.localWrite
  split
  · exact h.writeTargets.of_eq ‹_›
  extract_lets s₁ s₂
  have hs₁ : s₀.Traffic s₁ := hsent _ (h.writeTargets.of_eq ‹_›)
  have hs₂ : s₀.Traffic s₂ := by
    unfold s₂
    split
    · exact hs₁.putPiece
    · exact hs₁.putPiece
    · extract_lets
      split
      exact (hs₁.homeArrive.of_eq ‹_›).modPut
    extract_lets
    split
    exact (hs₁.homeArrive.of_eq ‹_›).modPut
  exact hs₂.localWrite

theorem State.Traffic.postEvent {fn ws} (h : s₀.Traffic s) : s₀.Traffic (s.postEvent fn ws) := by
  unfold State.postEvent State.post
  extract_lets
  split
  refine .of_eq ?_ ‹_›
  exact .sendPut h

theorem State.Traffic.virtWrite {ck va bs end_} (h : s₀.Traffic s) : s₀.Traffic (s.virtWrite ck va bs end_).1 := by
  unfold State.virtWrite
  extract_lets
  split
  next u _ hu =>
    have hu' : s₀.Traffic u := by
      refine .of_eq ?_ hu
      exact .sendPut h
    exact hu'
  next u hu =>
    refine .of_eq ?_ hu
    exact .sendPut h

/-! ### What traffic leaves as it is -/

theorem State.Traffic.csr (h : s.Traffic t) : t.csr = s.csr := (congrArg State.csr h.1 :)
theorem State.Traffic.wins (h : s.Traffic t) : t.wins = s.wins := (congrArg State.wins h.1 :)
theorem State.Traffic.rowActs (h : s.Traffic t) : t.rowActs = s.rowActs := (congrArg State.rowActs h.1 :)
theorem State.Traffic.rowSwaps (h : s.Traffic t) : t.rowSwaps = s.rowSwaps := (congrArg State.rowSwaps h.1 :)
theorem State.Traffic.exhausted (h : s.Traffic t) : t.exhausted = s.exhausted := (congrArg State.exhausted h.1 :)

end Sys2Proof.Machine
end

section
/-! SUPPORT. What a retry leaves as it is (R436, R439, R441): while no event or CORRECTED record can leave and no write is due, what a memory fault held goes
on, and memory, the windows and every register but the counts of what is reported stay. `s₀.Rests s` goes along with a state in the model's order. -/

namespace Sys2Proof.Machine

set_option Elab.async false

variable {s₀ s t : State} {α : Type} {ck k : Nat}

/-- A register that counts what is reported: an ERRCNT, EV_LOST, or the records dropped with a full park (R411, R415, R418). -/
def Tally (k : Nat) : Prop := (∃ n < 16, k = kErrCnt n) ∨ (∃ fn, k = kEv fn 0x14) ∨ ∃ ck, k = kFb ck 0x18

theorem not_tally_kEv {fn : Nat} : ¬ Tally (kEv fn 0) := by
  rintro (⟨n, hn, e⟩ | ⟨f, e⟩ | ⟨ck, e⟩) <;> simp only [kErrCnt, kEr, kEv, kFb, key4, ctxLoc] at e <;> omega

theorem not_tally_threshold : ¬ Tally (kEr 0x0C) := by
  rintro (⟨n, hn, e⟩ | ⟨f, e⟩ | ⟨ck, e⟩) <;> simp only [kErrCnt, kEr, kEv, kFb, key4, ctxLoc] at e <;> omega

theorem not_tally_kL2 : ¬ Tally (kL2 ck 0) := by
  rintro (⟨n, hn, e⟩ | ⟨f, e⟩ | ⟨c, e⟩) <;> simp only [kErrCnt, kEr, kEv, kFb, kL2, key0, key4, ctxLoc] at e <;> omega

/-- No event queue is enabled, and no CORRECTED threshold is set (R415, R418). -/
def State.Silent (s : State) : Prop := (∀ fn, s.rbits (kEv fn 0) 0 0 = 0) ∧ s.rbits (kEr 0x0C) 15 0 = 0

/-- Memory, the windows and every register that is no tally are as they were in `s₀`; still no event can leave, and no write is due. -/
def State.Rests (s₀ s : State) : Prop :=
  (s.mem = s₀.mem ∧ s.win = s₀.win ∧ s.wins = s₀.wins) ∧ (∀ k, ¬ Tally k → s.rget k = s₀.rget k) ∧ s.Silent ∧ s.NoneDue

theorem State.Rests.refl (hs : s.Silent) (hd : s.NoneDue) : s.Rests s := ⟨⟨rfl, rfl, rfl⟩, fun _ _ => rfl, hs, hd⟩

theorem State.Rests.of_eq {p : State × α} {a : α} (h : s₀.Rests p.1) (e : p = (t, a)) : s₀.Rests t := by
  rw [e] at h
  exact h

theorem rests_ite {c : Prop} [Decidable c] (hs : s₀.Rests s) (ht : s₀.Rests t) : s₀.Rests (if c then s else t) := by
  split <;> assumption

theorem State.Rests.foldl {f : State → α → State} {l : List α} (h : s₀.Rests s) (hf : ∀ t a, s₀.Rests t → s₀.Rests (f t a)) : s₀.Rests (l.foldl f s) :=
  List.foldlRecOn l f h fun _ ht a _ => hf _ a ht

theorem State.Rests.traffic (h : s₀.Rests s) (ht : s.Traffic t) : s₀.Rests t := by
  obtain ⟨⟨hmem, hwin, hwins⟩, hreg, hsil, hdue⟩ := h
  obtain ⟨hmem', hwin', hdue'⟩ := ht.2 hdue
  have hget : ∀ k, t.rget k = s.rget k := fun k => congrArg (fun c => sget (regAttr k).rst c k) ht.csr
  refine ⟨⟨hmem'.trans hmem, hwin'.trans hwin, ht.wins.trans hwins⟩, fun k hk => (hget k).trans (hreg k hk), ?_, hdue'⟩
  simpa only [State.Silent, State.rbits, hget] using hsil

/-- A tally may change. -/
theorem State.Rests.sets {v : Word} (h : s₀.Rests s) (hk : Tally k) (ht : s.Sets t [(k, v)]) : s₀.Rests t := by
  obtain ⟨hmem, hreg, ⟨hev, hthr⟩, hdue⟩ := h
  obtain ⟨⟨c, rfl⟩, -, hkeep⟩ := ht
  have hget : ∀ j, ¬ Tally j → ({ s with csr := c } : State).rget j = s.rget j := fun j hj => hkeep j fun p hp e => by
    rw [List.mem_singleton.1 hp] at e
    exact hj (e ▸ hk)
  refine ⟨hmem, fun j hj => (hget j hj).trans (hreg j hj), ⟨fun fn => ?_, ?_⟩, hdue⟩
  · exact (congrArg (bits · 0 0) (hget _ not_tally_kEv)).trans (hev fn)
  · exact (congrArg (bits · 15 0) (hget _ not_tally_threshold)).trans hthr

/-! ### Teams and contexts -/

theorem State.Rests.modTeam {f} (h : s₀.Rests s) : s₀.Rests (s.modTeam k f) := by
  unfold State.modTeam
  split <;> exact h

theorem State.Rests.modCol {c f} (h : s₀.Rests s) : s₀.Rests (s.modCol c f) := h

theorem State.Rests.modCtx {f} (h : s₀.Rests s) : s₀.Rests (s.modCtx ck f) := h

/-! ### Events and records -/

/-- With no queue enabled, an event is held or counted as lost (R415). -/
theorem State.Rests.hwEvent {fn ws} (h : s₀.Rests s) : s₀.Rests (s.hwEvent fn ws) := by
  have hroom : s.evRoom fn = false := by
    obtain ⟨-, -, ⟨hev, -⟩, -⟩ := h
    simp [State.evRoom, hev fn]
  unfold State.hwEvent
  extract_lets held
  rw [if_neg (by simp [hroom])]
  exact rests_ite h (h.sets (.inr (.inl ⟨fn, rfl⟩)) State.rset_sets)

theorem State.Rests.countError {n : Nat} (hn : n < 16) (h : s₀.Rests s) : s₀.Rests (s.countError n) := by
  obtain ⟨-, -, ⟨-, hthr⟩, -⟩ := id h
  obtain ⟨v, hv⟩ := State.countError_sets hthr
  exact h.sets (.inl ⟨n, hn, rfl⟩) hv

theorem State.Rests.enterRecord (h : s₀.Rests s) : s₀.Rests (s.enterRecord ck).1 := by
  have hwrite : ∀ {va bs e}, s₀.Rests (s.virtWrite ck va bs e).1 := h.traffic (.virtWrite .refl)
  unfold State.enterRecord
  split
  · exact h
  extract_lets
  split
  · split
    · exact rests_ite (hwrite.of_eq ‹_›) (hwrite.of_eq ‹_›).modCtx
    · exact (hwrite.of_eq ‹_›).modCtx
  · exact h

theorem State.Rests.enterRecords {n} (h : s₀.Rests s) : s₀.Rests (s.enterRecords ck n) := by
  induction n generalizing s with
  | zero => exact h
  | succ n ih =>
    unfold State.enterRecords
    split
    · exact ih (h.enterRecord.of_eq ‹_›)
    · exact h.enterRecord.of_eq ‹_›

theorem State.Rests.report {r} (h : s₀.Rests s) : s₀.Rests (s.report ck r) := by
  unfold State.report
  extract_lets u p
  have hu : s₀.Rests u := rests_ite (h.countError (by decide)) h
  exact rests_ite hu.modCtx.enterRecords (hu.sets (.inr (.inr ⟨ck, rfl⟩)) State.rset_sets)

theorem State.Rests.reportOnce {agent kind r} (h : s₀.Rests s) : s₀.Rests (s.reportOnce ck agent kind r) := by
  unfold State.reportOnce
  extract_lets
  split
  · exact rests_ite (h.countError (by decide)) h.modCol.report
  · exact rests_ite (h.countError (by decide)) (.report h)

/-! ### Hand-overs and retries -/

theorem State.Rests.settle (h : s₀.Rests s) : s₀.Rests (s.settle k) := by
  unfold State.settle
  split
  · exact h
  split
  · exact h
  · exact h
  · exact rests_ite (.hwEvent h) h

theorem State.Rests.handoverFreeze {tm card code} (h : s₀.Rests s) : s₀.Rests (s.handoverFreeze k tm card code) :=
  h.foldl fun _ _ ht => ht.modTeam.modTeam.settle

theorem State.Rests.handoverFault {tm hv code info addr} (h : s₀.Rests s) : s₀.Rests (s.handoverFault k tm hv code info addr) :=
  h.report.handoverFreeze

theorem State.Rests.handoverRead (h : s₀.Rests s) : s₀.Rests (s.handoverRead k) := by
  have hread : ∀ {c kind priv va n}, s₀.Rests (s.virtRead c kind priv va n).1 := h.traffic (.virtRead .refl)
  unfold State.handoverRead
  split
  · exact h
  split
  · exact h
  split
  · exact h
  extract_lets
  split
  · exact rests_ite (hread.of_eq ‹_›) (rests_ite (hread.of_eq ‹_›).report.handoverFreeze (hread.of_eq ‹_›).reportOnce)
  extract_lets _ u
  have hu : s₀.Rests u := (hread.of_eq ‹_›).modTeam
  split
  · exact hu.handoverFault
  split
  · exact hu.handoverFault
  split
  · exact hu.handoverFault
  split
  · exact hu.handoverFault
  · exact hu.modTeam

theorem State.Rests.replaySide {lo size c} (h : s₀.Rests s) : s₀.Rests (s.replaySide ck lo size c) := by
  unfold State.replaySide
  extract_lets _ _ u
  have hu : s₀.Rests u := h
  refine hu.foldl fun t a ht => ?_
  split
  · exact ht.modTeam
  · exact ht

theorem State.Rests.retryTeam {lo size} (h : s₀.Rests s) : s₀.Rests (s.retryTeam k lo size) := by
  unfold State.retryTeam
  split
  · exact h
  · exact rests_ite (.handoverRead h) h

theorem State.Rests.forgetAts {lo size} (h : s₀.Rests s) : s₀.Rests (s.forgetAts ck lo size) := h

theorem State.Rests.retry {lo size} (h : s₀.Rests s) : s₀.Rests (s.retry ck lo size) :=
  .enterRecords (.modCtx ((h.forgetAts.foldl fun _ _ ht => ht.replaySide).foldl fun _ _ ht => ht.retryTeam))

end Sys2Proof.Machine
end

section
/-! SUPPORT. Column templates and base-scratchpad windows (R133, R142 to R144, R444): what their writes leave in the registers, and the window that a change
leaves. -/

namespace Sys2Proof.Machine

set_option Elab.async false

variable {s : State} {fn c ck part k i b n : Nat} {v w m : Word}

/-! ### Fields and plain writes -/

theorem bits_eq_one : bits w i i = 1 ↔ w.getLsbD i = true := by
  rw [bits_self]
  cases w.getLsbD i <;> decide

theorem bits_eq_zero : bits w i i = 0 ↔ w.getLsbD i = false := by
  rw [bits_self]
  cases w.getLsbD i <;> decide

/-- To write 1 to one bit is to set it. -/
theorem setField_one : setField w i i 1 = w ||| BitVec.twoPow 32 i := by
  have hone : i + 1 - i = 1 := Nat.add_sub_cancel_left ..
  cases hb : w.getLsbD i with
  | true =>
    have hle : 2 ^ i ≤ w.toNat := Nat.ge_two_pow_of_testBit hb
    have hset : setField w i i 1 = w := by
      rw [setField, bits_eq_one.2 hb, hone, Nat.one_mul, Nat.mod_eq_of_lt (by decide), Nat.one_mul, Nat.sub_add_cancel hle, BitVec.ofNat_toNat,
        BitVec.setWidth_eq]
    rw [hset]
    refine BitVec.eq_of_getLsbD_eq fun j hj => ?_
    by_cases e : j = i
    · simp [e, hb]
    · simp [BitVec.getLsbD_twoPow, Ne.symm e]
  | false =>
    have hset : setField w i i 1 = w + BitVec.twoPow 32 i := by
      refine BitVec.eq_of_toNat_eq ?_
      rw [setField, bits_eq_zero.2 hb, hone, BitVec.toNat_add, BitVec.toNat_twoPow, BitVec.toNat_ofNat]
      simp
    rw [hset]
    refine BitVec.add_eq_or_of_and_eq_zero _ _ (BitVec.eq_of_getLsbD_eq fun j hj => ?_)
    by_cases e : j = i
    · simp [e, hb]
    · simp [BitVec.getLsbD_twoPow, Ne.symm e]

/-- A plain write to a register without write-1-to-clear bits takes the writable bits of the new word (R10). -/
theorem State.rwrite_rget {r : Word} (h : regAttr k = { rw := m, rst := r }) : (s.rwrite k w).rget k = (s.rget k &&& ~~~m) ||| (w &&& m) := by
  have hclear : ~~~(w &&& (0 : Word)) = BitVec.allOnes 32 := by simp
  simp only [State.rwrite, h, State.rset_rget, if_true, hclear, BitVec.and_allOnes]

/-! ### Column templates (R133) -/

theorem kCsplan_attr : ∀ p, p < 8 → regAttr (kCsplan p) = { rw := 0xFFFFFF, rst := 0x203010 } := by decide +kernel

theorem csplanWrite_legal (hp : part < 8) (hsum : bits v 7 0 + bits v 15 8 + bits v 23 16 ≤ 120) :
    exec (.csplanWrite part v) s = .next (s.rwrite (kCsplan part) v) :=
  congrArg Host.Outcome.next (if_neg (by omega))

theorem csplanWrite_illegal (hsum : 120 < bits v 7 0 + bits v 15 8 + bits v 23 16) : exec (.csplanWrite part v) s = .next s :=
  congrArg Host.Outcome.next (if_pos (.inr hsum))

theorem State.rwrite_kCsplan (hp : part < 8) : bits ((s.rwrite (kCsplan part) v).rget (kCsplan part)) 23 0 = bits v 23 0 := by
  rw [State.rwrite_rget (kCsplan_attr part hp)]
  exact bits_masked (by decide)

/-! ### A change of the window (R142, R143) -/

theorem l2partWinHiStage_eq : exec (.l2partWinHiStage fn c v) s = .next (s.rset (kL2 (ctxKey fn c) 4) (nw (bits v 19 0))) := rfl

/-- The setting that an accepted write through the physical function leaves in w0 (R143). -/
def acceptedWindow (o v : Word) : Word :=
  nw (bits v 31 24 * 2 ^ 24 + 2 ^ 15 + (if bits o 14 14 = 1 ∧ bits v 14 14 = 0 then 2 ^ 14 else 0) + bits v 13 13 * 2 ^ 13 + bits v 10 8 * 2 ^ 8 + bits v 3 0)

/-- The state that an accepted write of a context's w0 leaves: a change of the window runs, and GRP and WPR of the setting before it are kept. -/
def State.windowSet (s : State) (ck : Nat) (v : Word) : State :=
  let o := s.rget (kL2 ck 0)
  (s.rset (kL2 ck 0) (acceptedWindow o v)).modCtx ck fun x =>
    { x with winHi := s.rbits (kL2 ck 4) 19 0, l2Old := (bits o 3 0, if bits o 13 13 = 1 then bits o 10 8 else 0) }

theorem State.windowSet_rget : (s.windowSet ck v).rget (kL2 ck 0) = acceptedWindow (s.rget (kL2 ck 0)) v := (State.rset_rget ..).trans (if_pos rfl)

theorem State.windowSet_ctx : ((s.windowSet ck v).ctx ck).winHi = s.rbits (kL2 ck 4) 19 0
    ∧ ((s.windowSet ck v).ctx ck).l2Old = (bits (s.rget (kL2 ck 0)) 3 0, if bits (s.rget (kL2 ck 0)) 13 13 = 1 then bits (s.rget (kL2 ck 0)) 10 8 else 0) := by
  rw [State.windowSet, State.modCtx, State.setCtx_ctx, if_pos rfl]
  exact ⟨rfl, rfl⟩

theorem l2partChange_accepted (hgv : bits v 13 13 = 1) (hbusy : (s.rget (kL2 (ctxKey fn c) 0)).getLsbD 15 = false) (hgrp : bits v 3 0 < s.nslc / 8)
    (hmap : s.rangeMapped (ctxKey fn c) (bits v 31 24 * 2 ^ 24 + 2 ^ 32 * s.rbits (kL2 (ctxKey fn c) 4) 19 0) = false)
    (hnew : bits (s.rget (kL2 (ctxKey fn c) 0)) 10 8 ≠ bits v 10 8) :
    exec (.l2partChange fn c true v) s = .next (s.windowSet (ctxKey fn c) v) := by
  refine congrArg Host.Outcome.next ?_
  simp only [State.l2Change, State.windowSet, if_true, acceptedWindow, bits_eq_zero.2 hbusy, hgv, hmap, Nat.not_le.2 hgrp, hnew.symm]
  simp

theorem l2partChange_refused (h : (s.rget (kL2 (ctxKey fn c) 0)).getLsbD 15 = true ∨ s.nslc / 8 ≤ bits v 3 0) :
    exec (.l2partChange fn c true v) s = .next (s.rset (kL2 (ctxKey fn c) 0) (s.rget (kL2 (ctxKey fn c) 0) ||| 0x4000)) := by
  have hset := setField_one (w := s.rget (kL2 (ctxKey fn c) 0)) (i := 14)
  refine congrArg Host.Outcome.next (.trans (if_pos ?_) (congrArg (s.rset _) hset))
  exact h.imp bits_eq_one.2 .inl

/-- The fields of an accepted setting. -/
theorem acceptedWindow_fields {o : Word} : bits (acceptedWindow o v) 15 15 = 1 ∧ bits (acceptedWindow o v) 13 13 = bits v 13 13
    ∧ bits (acceptedWindow o v) 10 8 = bits v 10 8 ∧ bits (acceptedWindow o v) 3 0 = bits v 3 0 ∧ bits (acceptedWindow o v) 31 24 = bits v 31 24 := by
  have hgv : bits v 13 13 < 2 ^ 1 := bits_lt
  have hwpr : bits v 10 8 < 2 ^ 3 := bits_lt
  have hgrp : bits v 3 0 < 2 ^ 4 := bits_lt
  have hbase : bits v 31 24 < 2 ^ 8 := bits_lt
  have herr : ∃ e < 2, (if bits o 14 14 = 1 ∧ bits v 14 14 = 0 then 2 ^ 14 else 0) = e * 2 ^ 14 := by
    split
    · exact ⟨1, by decide, rfl⟩
    · exact ⟨0, by decide, rfl⟩
  obtain ⟨e, he, herr⟩ := herr
  unfold acceptedWindow
  rw [herr]
  generalize bits v 13 13 = gv, bits v 10 8 = wpr, bits v 3 0 = grp, bits v 31 24 = base at *
  simp only [bits, nw, BitVec.toNat_ofNat]
  omega

/-! ### The end of a change (R143, R444) -/

theorem setField_15_idle : (setField w 15 15 0).getLsbD 15 = false := by
  rw [← bits_eq_zero]
  simp only [setField, bits, BitVec.toNat_ofNat]
  have := w.isLt
  omega

/-- What of the reporting registers decides that no event leaves stands in region 4 (R409): a register of region 0 may change. -/
theorem State.Silent.rset (hs : s.Silent) (hk : k % 2 ^ 32 < 2 ^ 28) : (s.rset k v).Silent := by
  obtain ⟨hev, hthr⟩ := hs
  refine ⟨fun fn => ?_, ?_⟩
  · have hne : kEv fn 0 ≠ k := by
      simp only [kEv, key4]
      omega
    rw [State.rbits, State.rset_rget, if_neg hne]
    exact hev fn
  · have hne : kEr 0x0C ≠ k := by
      simp only [kEr, key4]
      omega
    rw [State.rbits, State.rset_rget, if_neg hne]
    exact hthr

theorem kL2_region : kL2 ck 0 % 2 ^ 32 < 2 ^ 28 := by
  simp only [kL2, key0, ctxLoc]
  omega

theorem sget_eq_default {α : Type} {d : α} {l : List (Nat × α)} {j : Nat} (h : ∀ p ∈ l, p.1 ≠ j) : sget d l j = d := by
  have hnone : sfind l j = none := Option.eq_none_iff_forall_ne_some.2 fun _ ha => h _ (mem_of_sfind ha) rfl
  rw [sget_eq_getD, hnone]
  rfl

/-- What is left of a range is live where the range was, and is of its context. -/
theorem Win.mem_cut {x y : Win} {lo size : Nat} (h : y ∈ x.cut lo size) : y.ctx = x.ctx ∧ y.live = x.live := by
  unfold Win.cut at h
  split at h
  · rw [List.mem_singleton.1 h]
    exact ⟨rfl, rfl⟩
  · rcases List.mem_append.1 h with h | h <;> (split at h <;> simp only [List.mem_singleton, List.not_mem_nil] at h; subst h; exact ⟨rfl, rfl⟩)

/-- Homes whose lines are released are in all else as they were: the writes that wait there still wait. -/
theorem State.foldl_disown {l : List Nat} (h : s.NoneDue) :
    ∃ d, l.foldl State.disown s = { s with dir := d } ∧ ({ s with dir := d } : State).NoneDue := by
  refine List.foldlRecOn l State.disown (motive := fun t => ∃ d, t = { s with dir := d } ∧ ({ s with dir := d } : State).NoneDue) ⟨_, rfl, h⟩ ?_
  rintro _ ⟨d, rfl, hd⟩ line -
  refine ⟨_, rfl, fun j x hx => ?_⟩
  have hx' : x ∈ ((({ s with dir := d } : State).disown line).home j).waiting := hx
  rw [State.disown, State.setHome_home] at hx'
  split at hx'
  · exact hd line x hx'
  · exact hd j x hx'

theorem State.giveUp_eq {p : Req → Nat × Nat → Bool} (h : s.NoneDue) :
    ∃ r d, s.giveUp p = { s with reqs := r, dir := d } ∧ ({ s with reqs := r, dir := d } : State).NoneDue := by
  unfold State.giveUp
  extract_lets gives given give
  obtain ⟨d, hd, hdue⟩ := State.foldl_disown (l := given) (s := { s with reqs := s.reqs.map give }) h
  exact ⟨_, d, hd, hdue⟩

/-- A home that lists no waiting write has none due. -/
theorem State.noneDue_of_waiting (h : ∀ p ∈ s.dir, p.2.waiting = []) : s.NoneDue := by
  intro line x hx
  have hnil : (s.home line).waiting = [] := by
    rw [State.home, sget_eq_getD]
    cases hf : sfind s.dir line with
    | none => rfl
    | some d => exact h _ (mem_of_sfind hf)
  rw [hnil] at hx
  exact absurd hx List.not_mem_nil

/-- While an access to the old window waits, the change goes on. -/
theorem l2partChangeComplete_waits {p : Nat × DirLine} (hp : p ∈ s.dir) (hlo : winAt (winKey (ctxKey fn c) 0) ≤ 128 * p.1)
    (hhi : 128 * p.1 < winAt (winKey (ctxKey fn c) (2 ^ 24))) (hwait : p.2.waiting ≠ []) : exec (.l2partChangeComplete fn c) s = .next s := by
  refine congrArg Host.Outcome.next (if_pos (.inr (List.any_eq_true.2 ⟨p, hp, ?_⟩)))
  beta_reduce
  rw [decide_eq_true hlo, decide_eq_true hhi]
  simpa using hwait

/-- What is left of the ranges of a context that were not live is not live. -/
theorem dead_of_mem_cut {l : List Win} {lo size : Nat} {x : Win} (hdead : ∀ y ∈ l, y.ctx = ck → y.live = false) (hctx : x.ctx = ck)
    (hx : x ∈ l.flatMap fun y => if y.ctx = ck then y.cut lo size else [y]) : x.live = false := by
  obtain ⟨y, hy, hxy⟩ := List.mem_flatMap.1 hx
  split at hxy
  · obtain ⟨-, hlive⟩ := Win.mem_cut hxy
    exact hlive.trans (hdead y hy ‹_›)
  · rw [List.mem_singleton.1 hxy] at hctx
    exact absurd hctx ‹_›

/-- Once no access to the old window waits, the new window is live and zero, no other range of the context is, and what waited for the change is retried. -/
theorem l2partChangeComplete_retries (hbusy : (s.rget (kL2 (ctxKey fn c) 0)).getLsbD 15 = true) (hwin : s.l2Window (ctxKey fn c) = some (b, n))
    (hsil : s.Silent) (hwait : ∀ p ∈ s.dir, p.2.waiting = []) :
    ∃ u : State, exec (.l2partChangeComplete fn c) s = .next (u.retry (ctxKey fn c) 0 (2 ^ 52)) ∧ u.Silent ∧ u.NoneDue
      ∧ (u.rget (kL2 (ctxKey fn c) 0)).getLsbD 15 = false ∧ u.mem = s.mem ∧ (∀ o, o < 2 ^ 24 → u.win.get (winKey (ctxKey fn c) o) = 0)
      ∧ ∃ rest, u.wins = { ctx := ctxKey fn c, base := b, size := n, live := true } :: rest ∧ ∀ x ∈ rest, x.ctx = ctxKey fn c → x.live = false := by
  have hexec : exec (.l2partChangeComplete fn c) s = execL2partChangeComplete fn c s := rfl
  rw [hexec]
  unfold execL2partChangeComplete
  extract_lets ck mineLine u old rest mine v
  have hno : ¬ (s.rbits (kL2 ck 0) 15 15 = 0 ∨ (s.dir.any fun p => mineLine p.1 && !p.2.waiting.isEmpty) = true) := by
    rintro (h | h)
    · exact absurd (bits_eq_zero.1 h) (by simpa using hbusy)
    · obtain ⟨p, hp, hm⟩ := List.any_eq_true.1 h
      simp [hwait p hp] at hm
  have hu : ∃ r d, u = { s with reqs := r, dir := d } ∧ ({ s with reqs := r, dir := d } : State).NoneDue := by
    unfold u
    split
    · exact State.giveUp_eq (State.noneDue_of_waiting hwait)
    · exact ⟨_, _, rfl, State.noneDue_of_waiting hwait⟩
  obtain ⟨r, d, hu, hdue⟩ := hu
  clear_value u
  subst hu
  have hv : v.l2Window ck = some (b, n) := hwin
  rw [if_neg hno, hv]
  refine ⟨_, rfl, .rset hsil kL2_region, hdue, ?idle, rfl, fun o ho => ?zero, _, rfl, fun x hx hctx => ?dead⟩
  case idle =>
    rw [State.rsetBits_eq, State.rset_rget, if_pos rfl]
    exact setField_15_idle
  case zero =>
    refine sget_eq_default fun p hp e => ?_
    obtain ⟨-, hout⟩ := List.mem_filter.1 hp
    have hin : mine p.1 = true := by
      rw [e]
      refine Bool.and_eq_true_iff.2 ⟨decide_eq_true ?_, decide_eq_true ?_⟩ <;> unfold winKey <;> omega
    simp [hin] at hout
  case dead =>
    have hrest : ∀ y ∈ rest, y.ctx = ck → y.live = false := fun y hy hy' => by simpa [hy'] using (List.mem_filter.1 hy).2
    rcases List.mem_append.1 hx with hx | hx
    · obtain ⟨y, -, rfl⟩ := List.mem_map.1 hx
      rfl
    · exact dead_of_mem_cut hrest hctx hx

end Sys2Proof.Machine
end

section
/-! SUPPORT. HBM4E (R146 to R148, R449): scrubs, row swaps, refresh windows, and the operations of the mode-register block. -/

namespace Sys2Proof.Machine

set_option Elab.async false

variable {s₀ s t : State} {st ch bk row acts op k : Nat} {v w : Word}

/-! ### Scrubs (R146) -/

/-- A corrected error raises the CE of its bank, which saturates, and ERRCNT_3 (R146, R418). -/
theorem State.bankCorrected_eq {b : Nat} (hz : s.rbits (kEr 0x0C) 15 0 = 0) (hm : s.rget (kErrCnt 3) ≠ 0xFFFFFFFF) :
    s.bankCorrected b = ({ s with bankCE := sput 0 s.bankCE b (min 0xFFFF (sget 0 s.bankCE b + 1)) } : State).rset (kErrCnt 3) (s.rget (kErrCnt 3) + 1) :=
  State.countError_counts (s := { s with bankCE := _ }) hz (by decide) hm

theorem hbmScrub_corrected (hst : s.stk.testBit st = true) : exec (.hbmScrub st ch bk true) s = .next (s.bankCorrected (bankKey st ch bk)) :=
  congrArg Host.Outcome.next (if_pos (by simpa using hst))

theorem hbmScrub_clean : exec (.hbmScrub st ch bk false) s = .next s := rfl

/-- A value that is not the default is read back. -/
theorem sget_sput_of_ne {l : List (Nat × Nat)} {j x : Nat} (hx : x ≠ 0) : sget 0 (sput 0 l j x) j = x := by
  rw [sput, if_neg hx, sget_sins, if_pos rfl]

/-! ### Row swaps (R147, R449) -/

/-- The counts of activations, the swapped rows and the banks without a spare are as they were in `s₀`. -/
def State.SameRows (s₀ s : State) : Prop := s.rowActs = s₀.rowActs ∧ s.rowSwaps = s₀.rowSwaps ∧ s.exhausted = s₀.exhausted

theorem State.SameRows.refl : s.SameRows s := ⟨rfl, rfl, rfl⟩

theorem State.SameRows.traffic (h : s₀.SameRows s) (ht : s.Traffic t) : s₀.SameRows t := by
  obtain ⟨hacts, hswaps, hex⟩ := h
  exact ⟨ht.rowActs.trans hacts, ht.rowSwaps.trans hswaps, ht.exhausted.trans hex⟩

theorem State.SameRows.pfEvent {kind payload} (h : s₀.SameRows s) : s₀.SameRows (s.pfEvent kind payload) := by
  unfold State.pfEvent State.hwEvent
  extract_lets
  split
  · exact h.traffic (.postEvent .refl)
  · split <;> exact h

/-- The row of an activation, as its count is kept. -/
def rowKey (st ch bk row : Nat) : Nat := bankKey st ch bk * 49152 + row % 49152

section RowSwap

variable (hst : s.stk.testBit st = true) (hacts : 0 < acts)
include hst hacts

theorem hbmRowSwap_counts (h : sget 0 s.rowActs (rowKey st ch bk row) + acts < bits (s.rget (kMra st 0x10)) 15 0) :
    exec (.hbmRowSwap st ch bk ⟨row, acts⟩) s
      = .next { s with rowActs := sins s.rowActs (rowKey st ch bk row) (sget 0 s.rowActs (rowKey st ch bk row) + acts) } :=
  congrArg Host.Outcome.next ((if_neg (by simp [hst, hacts.ne'])).trans (if_pos h))

theorem hbmRowSwap_swaps (h : bits (s.rget (kMra st 0x10)) 15 0 ≤ sget 0 s.rowActs (rowKey st ch bk row) + acts) (hn : s.bankSwaps (bankKey st ch bk) < 32) :
    exec (.hbmRowSwap st ch bk ⟨row, acts⟩) s
      = .next (({ s with rowActs := sdel s.rowActs (rowKey st ch bk row), rowSwaps := (rowKey st ch bk row, s.bankSwaps (bankKey st ch bk)) :: s.rowSwaps } :
          State).pfEvent 7 [3, nw (bankKey st ch bk)]) :=
  congrArg Host.Outcome.next ((if_neg (by simp [hst, hacts.ne'])).trans ((if_neg (Nat.not_lt.2 h)).trans (if_pos hn)))

/-- With every spare in use the neighbours are refreshed, and the first such refresh of a bank is reported. -/
theorem hbmRowSwap_exhausts (h : bits (s.rget (kMra st 0x10)) 15 0 ≤ sget 0 s.rowActs (rowKey st ch bk row) + acts)
    (hn : 32 ≤ s.bankSwaps (bankKey st ch bk)) (he : bankKey st ch bk ∉ s.exhausted) :
    ∃ t, exec (.hbmRowSwap st ch bk ⟨row, acts⟩) s = .next t
      ∧ ({ s with rowActs := sdel s.rowActs (rowKey st ch bk row), exhausted := bankKey st ch bk :: s.exhausted } : State).SameRows t := by
  have hc : s.exhausted.contains (bankKey st ch bk) ≠ true := by simpa using he
  exact ⟨_, congrArg Host.Outcome.next ((if_neg (by simp [hst, hacts.ne'])).trans ((if_neg (Nat.not_lt.2 h)).trans ((if_neg (Nat.not_lt.2 hn)).trans (if_neg hc)))),
    .pfEvent ⟨rfl, rfl, rfl⟩⟩

end RowSwap

theorem sget_sdel_self {l : List (Nat × Nat)} (h : Rising l) : sget 0 (sdel l k) k = 0 := by
  rw [sget_sdel (sok_none_iff_rising.2 h), if_pos rfl]

/-! ### Refresh windows (R147) -/

theorem hbmRefreshWindow_early (h : s.dt < sget 0 s.refreshAt st + 32000000) : exec (.hbmRefreshWindow st) s = .next s :=
  congrArg Host.Outcome.next (if_pos h)

theorem hbmRefreshWindow_begins (h : sget 0 s.refreshAt st + 32000000 ≤ s.dt) :
    exec (.hbmRefreshWindow st) s
      = .next { s with refreshAt := sins s.refreshAt st s.dt, rowActs := s.rowActs.filter fun a => a.1 / 49152 / 1024 != st } :=
  congrArg Host.Outcome.next (if_neg (Nat.not_lt.2 h))

/-! ### The mode-register block (R148) -/

theorem kMra_inj {o o' : Nat} : kMra st o = kMra st o' ↔ o = o' := by
  unfold kMra key0
  omega

/-- The three writes of the operation word, by what stands in <31:30> of it. -/
theorem mraOperation_starts {p : Instr × Nat} (hp : p ∈ [(Instr.mraReadBankCounts st v, 1), (.mraReadModeRegister st v, 2), (.mraClearBankCounts st v, 3)]) :
    exec p.1 s = .next (s.mraStart st p.2 v) := by
  simp only [List.mem_cons, List.not_mem_nil, or_false] at hp
  rcases hp with rfl | rfl | rfl <;> rfl

theorem State.mraStart_free (hst : s.stk.testBit st = true) (hb : (s.rget (kMra st 4)).getLsbD 31 = false) :
    s.mraStart st op v = { s.rset (kMra st 4) (s.rget (kMra st 4) ||| 0x80000000) with mraOps := (st, nw (op * 2 ^ 30 + bits v 29 0)) :: s.mraOps } := by
  have hno : ¬ (s.rbits (kMra st 4) 31 31 = 1 ∨ s.stk.testBit st = false) := by
    simp [State.rbits, bits_eq_zero.2 hb, hst]
  rw [State.mraStart, if_neg hno, State.rsetBits_eq, setField_31]

theorem getLsbD_or_31 : (w ||| 0x80000000).getLsbD 31 = true := by
  simp

theorem State.mraStart_busy (hb : (s.rget (kMra st 4)).getLsbD 31 = true) :
    s.mraStart st op v = s.rset (kMra st 4) (s.rget (kMra st 4) ||| 0x40000000) :=
  (if_pos (.inl (bits_eq_one.2 hb))).trans (congrArg (s.rset _) setField_one)

theorem setField_31_idle : (setField w 31 31 0).getLsbD 31 = false := by
  rw [← bits_eq_zero]
  simp only [setField, bits, BitVec.toNat_ofNat]
  have := w.isLt
  omega

/-- The block of a stack is idle: its BUSY is 0, and no operation of it is in progress. -/
def State.mraIdle (s : State) (st : Nat) : State :=
  { s with mraOps := s.mraOps.filter fun o => o.1 != st }.rset (kMra st 4) (setField (s.rget (kMra st 4)) 31 31 0)

theorem State.mraIdle_idle : ((s.mraIdle st).rget (kMra st 4)).getLsbD 31 = false ∧ ∀ o ∈ (s.mraIdle st).mraOps, o.1 ≠ st := by
  refine ⟨?_, fun o ho => ?_⟩
  · rw [State.mraIdle, State.rset_rget, if_pos rfl]
    exact setField_31_idle
  · rw [State.mraIdle, State.rset_mraOps] at ho
    obtain ⟨-, hne⟩ := List.mem_filter.1 ho
    simpa using hne

/-- A result leaves the block idle. -/
theorem State.mraIdle_result {o : Nat} (ho : o ≠ 4) : (((s.mraIdle st).rset (kMra st o) w).rget (kMra st 4)).getLsbD 31 = false
    ∧ ((s.mraIdle st).rset (kMra st o) w).rget (kMra st o) = w ∧ ∀ p ∈ ((s.mraIdle st).rset (kMra st o) w).mraOps, p.1 ≠ st := by
  obtain ⟨hbusy, hops⟩ := State.mraIdle_idle (s := s) (st := st)
  rw [State.rset_rget, State.rset_rget, if_neg fun e => ho (kMra_inj.1 e).symm, if_pos rfl, State.rset_mraOps]
  exact ⟨hbusy, rfl, hops⟩

section Completion

variable (hop : s.mraOps.find? (fun o => o.1 == st) = some (st, v))
include hop

theorem mraOperationComplete_counts (h : bits v 31 30 = 1) :
    exec (.mraOperationComplete st) s = .next ((s.mraIdle st).rset (kMra st 8) (nw (sget 0 s.bankCE (bankKey st (bits v 23 19) (bits v 18 14)) * 2 ^ 16
      + sget 0 s.bankUE (bankKey st (bits v 23 19) (bits v 18 14)) * 2 ^ 8 + s.bankSwaps (bankKey st (bits v 23 19) (bits v 18 14))))) := by
  have hexec : exec (.mraOperationComplete st) s = execMraOperationComplete st s := rfl
  simp only [hexec, execMraOperationComplete, hop, h]
  rfl

theorem mraOperationComplete_register (h : bits v 31 30 = 2) :
    exec (.mraOperationComplete st) s
      = .next ((s.free.1.mraIdle st).rset (kMra st 0x0C) (nw ((Config.freeWord s.freeCount).toNat % 256))) := by
  have hexec : exec (.mraOperationComplete st) s = execMraOperationComplete st s := rfl
  simp only [hexec, execMraOperationComplete, hop, h]
  rfl

theorem mraOperationComplete_clears (h1 : bits v 31 30 ≠ 1) (h2 : bits v 31 30 ≠ 2) :
    exec (.mraOperationComplete st) s = .next { s.mraIdle st with
      bankCE := sins s.bankCE (bankKey st (bits v 23 19) (bits v 18 14)) 0, bankUE := sins s.bankUE (bankKey st (bits v 23 19) (bits v 18 14)) 0 } := by
  have hexec : exec (.mraOperationComplete st) s = execMraOperationComplete st s := rfl
  simp only [hexec, execMraOperationComplete, hop]
  rfl

end Completion

end Sys2Proof.Machine
end

section
/-! SUPPORT. Column templates, windows and the HBM4E blocks (R133, R142 to R144, R146 to R148, R444). Settles O53. -/

namespace Sys2Proof.Machine

set_option Elab.async false

/-- Settles O53: each event's next state is written out by an equation of its own. The end of a window change retries what waited for it; with no event queue
enabled and no write due at a home, that retry changes neither memory nor a window nor L2PART. -/
theorem windowsAndMemoryBlocks : Obligations.WindowsAndMemoryBlocks := by
  unfold Obligations.WindowsAndMemoryBlocks
  intro fn c part v _
  refine ⟨fun hp hsum => ?template, fun hsum => ?oversized, ?stage, fun hgv _ => ?accepted, ?refused, fun b n => ?completes, ?waits, fun st ch bk row =>
    ⟨?corrected, ?clean, fun acts hacts => ⟨?counts, ?swaps, ?exhausts⟩, ?early, ?window, fun _ p hp => ⟨?starts, ?busy⟩,
      fun op _ hch hbk _ _ => ?operation⟩⟩
  case template => exact fun s _ => ⟨_, csplanWrite_legal hp hsum, _, State.rwrite_sets, State.rwrite_kCsplan hp⟩
  case oversized => exact fun s _ => ⟨_, csplanWrite_illegal hsum, rfl⟩
  case stage => exact fun s _ => ⟨_, l2partWinHiStage_eq, State.rset_sets⟩
  case accepted =>
    rintro s ⟨hbusy, hgrp, hmap, hnew⟩
    obtain ⟨hhi, hold⟩ := State.windowSet_ctx (s := s) (ck := ctxKey fn c) (v := v)
    obtain ⟨h15, h13, hwpr', hgrp', hbase⟩ := acceptedWindow_fields (o := s.rget (kL2 (ctxKey fn c) 0)) (v := v)
    refine ⟨_, l2partChange_accepted hgv hbusy hgrp hmap hnew, hhi, ?_⟩
    beta_reduce
    rw [State.windowSet_rget]
    exact ⟨h15, h13.trans hgv, hwpr', hgrp', hbase, hold⟩
  case refused => exact fun s h => ⟨_, l2partChange_refused h, State.rset_sets⟩
  case completes =>
    rintro s ⟨hbusy, hwin, ⟨-, hev, hthr, -⟩, hwait⟩
    obtain ⟨u, hu, hsil, hdue, hidle, hmem, hzero, rest, hwins, hdead⟩ := l2partChangeComplete_retries hbusy hwin ⟨hev, hthr⟩ hwait
    obtain ⟨⟨hmem', hwin', hwins'⟩, hreg, -⟩ := (State.Rests.refl hsil hdue).retry (ck := ctxKey fn c) (lo := 0) (size := 2 ^ 52)
    have hw0 := hreg _ (not_tally_kL2 (ck := ctxKey fn c))
    refine ⟨_, hu, (congrArg (BitVec.getLsbD · 15) hw0).trans hidle, ?_, hmem'.trans hmem, fun o ho => ?_, fun w hw hctx hlive => ?_⟩
    · rw [hwins', hwins]
      exact List.mem_cons_self
    · rw [hwin']
      exact hzero o ho
    · rw [hwins', hwins] at hw
      rcases List.mem_cons.1 hw with rfl | hw
      · exact ⟨rfl, rfl⟩
      · exact absurd (hdead w hw hctx) (by simp [hlive])
  case waits =>
    rintro s ⟨-, p, hp, hlo, hhi, hwait⟩
    exact ⟨_, l2partChangeComplete_waits hp hlo hhi hwait, rfl⟩
  case corrected =>
    rintro s ⟨hst, hthr, hmax⟩
    refine ⟨_, hbmScrub_corrected hst, ?_⟩
    rw [State.bankCorrected_eq hthr hmax]
    exact ⟨sget_sput_of_ne (by omega), (State.rset_rget ..).trans (if_pos rfl), rfl, rfl, rfl⟩
  case clean => exact fun s _ => ⟨_, hbmScrub_clean, rfl⟩
  case counts => exact fun s ⟨hst, h⟩ => ⟨_, hbmRowSwap_counts hst hacts h, ⟨_, rfl⟩, (sget_sins ..).trans (if_pos rfl)⟩
  case swaps =>
    rintro s ⟨⟨hst, hfull, hrise⟩, hn⟩
    obtain ⟨hacts', hswaps, -⟩ := State.SameRows.refl.pfEvent (s₀ := { s with rowActs := _, rowSwaps := _ })
    refine ⟨_, hbmRowSwap_swaps hst hacts hfull hn, hswaps, ?_⟩
    rw [hacts']
    exact sget_sdel_self hrise
  case exhausts =>
    rintro s ⟨⟨hst, hfull, hrise⟩, hn, he⟩
    obtain ⟨t, ht, hacts', hswaps, hex⟩ := hbmRowSwap_exhausts hst hacts hfull hn he
    refine ⟨t, ht, hswaps, ?_, ?_⟩
    · rw [hex]
      exact List.mem_cons_self
    · rw [hacts']
      exact sget_sdel_self hrise
  case early => exact fun s h => ⟨_, hbmRefreshWindow_early h, rfl⟩
  case window => exact fun s h => ⟨_, hbmRefreshWindow_begins h, ⟨_, _, rfl⟩, fun a => by simp⟩
  case starts =>
    rintro s ⟨hstk, hb⟩
    refine ⟨_, (mraOperation_starts hp).trans (congrArg Host.Outcome.next (State.mraStart_free hstk hb)), ?_, rfl⟩
    exact (congrArg (BitVec.getLsbD · 31) ((State.rset_rget ..).trans (if_pos rfl))).trans getLsbD_or_31
  case busy => exact fun s hb => ⟨_, (mraOperation_starts hp).trans (congrArg Host.Outcome.next (State.mraStart_busy hb)), State.rset_sets⟩
  case operation =>
    subst hch hbk
    rintro s ⟨hop, rfl⟩
    by_cases h1 : bits v 31 30 = 1
    · obtain ⟨hbusy, hres, hops⟩ := State.mraIdle_result (s := s) (st := st) (o := 8) (by decide)
      exact ⟨_, mraOperationComplete_counts hop h1, hbusy, hops, fun _ => ⟨hres, rfl⟩, fun h => absurd (h1.symm.trans h) (by decide),
        fun h => absurd (h1.symm.trans h) (by decide)⟩
    by_cases h2 : bits v 31 30 = 2
    · obtain ⟨hbusy, hres, hops⟩ := State.mraIdle_result (s := s.free.1) (st := st) (o := 0x0C) (by decide)
      refine ⟨_, mraOperationComplete_register hop h2, hbusy, hops, fun h => absurd h h1, fun _ => ⟨?_, rfl⟩, fun h => absurd (h2.symm.trans h) (by decide)⟩
      refine lt_of_eq_of_lt (congrArg BitVec.toNat hres) ?_
      rw [nw, BitVec.toNat_ofNat]
      omega
    · obtain ⟨hbusy, hops⟩ := State.mraIdle_idle (s := s) (st := st)
      exact ⟨_, mraOperationComplete_clears hop h1 h2, hbusy, hops, fun h => absurd h h1, fun h => absurd h h2,
        fun _ => ⟨(sget_sins ..).trans (if_pos rfl), (sget_sins ..).trans (if_pos rfl)⟩⟩

end Sys2Proof.Machine
end
